-- ==== Sys2Proof/Word.lean ====
section
/-!
DEFINITION. The words of the block and the plainest arithmetic on them: bit fields, sign extension, byte strings
stored little-endian (03 R88), saturating counters. Values that software sees as words are bit vectors where they are
held whole (registers, lanes, tiles); while they are computed they are natural numbers below the width.
-/
namespace Sys2Proof

/-- One byte of a store or of a message. -/
abbrev Byte := BitVec 8

/-- A byte string, first byte first. -/
abbrev Bytes := List Byte

/-- Bits `[hi:lo]` of `x`, as the manual writes bit ranges. -/
def bits (x hi lo : Nat) : Nat := (x / 2 ^ lo) % 2 ^ (hi + 1 - lo)

/-- Bit `i` of `x`. -/
def bit (x i : Nat) : Bool := x.testBit i

/-- `x` with bits `[hi:lo]` replaced by the low bits of `v`. -/
def setBits (x hi lo v : Nat) : Nat :=
  x / 2 ^ (hi + 1) * 2 ^ (hi + 1) + (v % 2 ^ (hi + 1 - lo)) * 2 ^ lo + x % 2 ^ lo

/-- `x` with bit `i` set to `b`. -/
def setBit (x i : Nat) (b : Bool) : Nat := setBits x i i (if b then 1 else 0)

/-- A truth value as the bit a register field holds. -/
def b2n (b : Bool) : Nat := if b then 1 else 0

/-- The two's complement value of the low `w` bits of `x`. -/
def sgn (w x : Nat) : Int :=
  if x % 2 ^ w < 2 ^ (w - 1) then ((x % 2 ^ w : Nat) : Int) else ((x % 2 ^ w : Nat) : Int) - (2 ^ w : Nat)

/-- The `w`-bit two's complement word of an integer. -/
def unsgn (w : Nat) (z : Int) : Nat := (z % ((2 ^ w : Nat) : Int)).toNat

/-- A count that saturates at `2^w - 1`. -/
def satAdd (w a b : Nat) : Nat := min (a + b) (2 ^ w - 1)

/-- The number a byte string spells, little-endian. -/
def leNat : Bytes → Nat
  | [] => 0
  | b :: bs => b.toNat + 256 * leNat bs

/-- The `n` bytes of `x`, little-endian. -/
def natLe : Nat → Nat → Bytes
  | 0, _ => []
  | n + 1, x => BitVec.ofNat 8 x :: natLe n (x / 256)

/-- `n` bytes of `bs` from offset `i`; bytes past the end read 0. -/
def slice (bs : Bytes) (i n : Nat) : Bytes :=
  let t := (bs.drop i).take n
  t ++ List.replicate (n - t.length) 0

/-- The number at offset `i`, `n` bytes, little-endian. -/
def le (bs : Bytes) (i n : Nat) : Nat := leNat (slice bs i n)

/-- `bs` with the bytes from offset `i` replaced by `v`; the length is kept. -/
def patch (bs : Bytes) (i : Nat) (v : Bytes) : Bytes :=
  (bs.take i ++ v ++ bs.drop (i + v.length)).take bs.length

/-- `n` zero bytes. -/
def zeros (n : Nat) : Bytes := List.replicate n 0

/-- The positions of the set bits of `m` below `n`. -/
def setBitsOf (n m : Nat) : List Nat := (List.range n).filter (bit m)

/-- The word whose bit `i` is `f i`, for `i < n`. -/
def ofBits (n : Nat) (f : Nat → Bool) : Nat :=
  (List.range n).foldl (fun a i => if f i then a + 2 ^ i else a) 0

end Sys2Proof
end

