-- ==== Sys2Proof/Syntax.lean ====
section
/-!
DEFINITION. The commands of the block: one constructor per row of the command table, with the operands the row leaves to the sender:
which carrel, slot, queue or port acts, what was written, what data arrived. A carrel row names the device carrel number (02 R14) of the
carrel that issues its next line.
-/
namespace Sys2Proof

/-- Who makes a register access on the register network (01 R30, R32; 16 R543): the desk by its core, 0 to 7. -/
inductive Requester where
  | host
  | desk (core : Nat)
  | archivist
  | i3c
deriving DecidableEq, Repr

/-- A message of the coherence protocol (07 R252, R253). The model numbers the ends: agents 0 to 0x25 as R254, home slice s as 0x40 + s,
the bridge of die d as 0x80 + d. `ca` is CA[52:6]; `count` is the number of NACKs its request has already had (R266). -/
structure Msg where
  opc : Nat
  src : Nat
  dst : Nat
  txn : Nat := 0
  ca : Nat
  dies : Nat := 0
  dataTo : Nat := 0
  st : Nat := 0
  dirty : Bool := false
  ebWb : Bool := false
  err : Bool := false
  wing : Nat := 0
  mask : Nat := 0
  data : Bytes := []
  count : Nat := 0
deriving DecidableEq, Repr

/-- A received Ethernet frame as the port's MAC sees it (10 R363, R364): destination address; what it carries (0 RoCEv2 on UDP port 4791, 1 ARP
request or neighbour solicitation, 2 IEEE 802.3x PAUSE, 3 anything else); the destination IP address; its length; its priority and that
priority's occupancy of the receive buffer in KiB once the frame is in. -/
structure EthFrame where
  dmac : Nat := 0
  carries : Nat := 0
  dip : Nat := 0
  len : Nat := 64
  prio : Nat := 0
  occ : Nat := 0
deriving DecidableEq, Repr

/-- A RoCEv2 packet (10 R365): destination queue pair, PSN, base transport opcode (0x00 SEND First ... 0x11 Acknowledge, as the InfiniBand
reliable-connected transport numbers them), the range of an RDMA request, immediate data, payload, whether it arrived with ECN CE and
with a good ICRC; for an Acknowledge 0 ACK, 1 RNR NAK, 2 NAK PSN Sequence Error, 3 NAK Invalid Request, 4 NAK Remote Access Error; of an RNR NAK the
delay that it asks for, in units of 10.24 µs (10 R366); `se` is the solicited-event bit (10 R369). -/
structure RocePkt where
  qp : Nat
  psn : Nat
  op : Nat
  va : Nat := 0
  rkey : Nat := 0
  len : Nat := 0
  imm : Nat := 0
  data : Bytes := []
  ce : Bool := false
  icrc : Bool := true
  ack : Nat := 0
  rnr : Nat := 0
  se : Bool := false
deriving DecidableEq, Repr

/-- What a link's training shows of the far end (10 R375, R377, R379): whether the lanes train, the protocol version's major part, group
ID, member number, master, count, topology, kind, and the members that the far end reaches. -/
structure PloliPeer where
  up : Bool := true
  major : Nat := 0
  group : Nat := 0
  member : Nat := 0
  master : Nat := 0
  count : Nat := 0
  topo : Nat := 0
  kind : Nat := 0
  reach : Nat := 0
deriving DecidableEq, Repr

/-- A plan entry from the master (10 R380). -/
structure PlanEntry where
  idx : Nat
  commit : Bool
  stamp : Nat := 0
  spec : Nat := 0
  period : Nat := 0
deriving DecidableEq, Repr

/-- An interloan request from another member (10 R383 to R385): the member and its tag, window, offset; the bytes written or the length
read; what host memory holds for the window's table entry and for the range read, where they lie there; class `WIN` (10 R376). -/
structure IlReq where
  member : Nat
  tag : Nat
  window : Nat
  off : Nat
  len : Nat := 0
  data : Bytes := []
  entry : Bytes := []
  host : Bytes := []
  windowed : Bool := false
deriving DecidableEq, Repr

/-- An interloan response: the tag, 0 done, 1 refused or 2 uncorrected, the bytes read. -/
structure IlRsp where
  tag : Nat
  status : Nat := 0
  data : Bytes := []
deriving DecidableEq, Repr

/-- A power sample (11 R398): VIN44 in 10 mV, input current in 10 mA, input power in 0.1 W, whether the input measurement passed its
self-check, the sum of the domain powers in 0.1 W, each wing domain's power in 10 mW. -/
structure PwrSample where
  vin : Nat
  iin : Nat
  pin : Nat
  ok : Bool := true
  domains : Nat := 0
  wings : List Nat := []
deriving DecidableEq, Repr
/-- What the integrator's programmer has written to the NVM while the device was held in reset (14 R482, 15 R507): bytes at offsets; the states
that a new slot directory names for Archivist 0 and 1 and desk 0 and 1 (none: the directory stays). The manual gives the directory's
records no layout. -/
structure NvmContents where
  writes : List (Nat × Bytes) := []
  dir : List Nat := []
deriving DecidableEq, Repr

/-- The commands. -/
inductive Instr where
  /-- REGISTER_WRITE (R9). -/
  | registerWrite (who : Requester) (fn : Nat) (off : Nat) (data : Bytes)
  /-- DESK_FORBIDDEN_ACCESS (R505). -/
  | deskForbiddenAccess (core : Nat) (fn : Nat) (off : Nat) (isWrite : Bool)
  /-- NOP (R47). -/
  | nop (c : Nat)
  /-- HALT (R55). -/
  | halt (c : Nat)
  /-- BR (R55). -/
  | br (c : Nat)
  /-- LOOP (R55). -/
  | loop (c : Nat)
  /-- BAR_ARRIVE_WAIT (R153). -/
  | barArriveWait (c : Nat)
  /-- BAR_ARRIVE (R153). -/
  | barArrive (c : Nat)
  /-- BAR_WAIT (R153). -/
  | barWait (c : Nat)
  /-- WAITS (R55). -/
  | waits (c : Nat)
  /-- ADD (R55). -/
  | add (c : Nat)
  /-- SUB (R55). -/
  | sub (c : Nat)
  /-- MUL (R55). -/
  | mul (c : Nat)
  /-- AND (R55). -/
  | and (c : Nat)
  /-- OR (R55). -/
  | or (c : Nat)
  /-- XOR (R55). -/
  | xor (c : Nat)
  /-- SHL (R55). -/
  | shl (c : Nat)
  /-- SHR (R55). -/
  | shr (c : Nat)
  /-- SRA (R55). -/
  | sra (c : Nat)
  /-- LI (R55). -/
  | li (c : Nat)
  /-- LUI (R55). -/
  | lui (c : Nat)
  /-- CMP (R56). -/
  | cmp (c : Nat)
  /-- SEL (R55). -/
  | sel (c : Nat)
  /-- PLOG (R55). -/
  | plog (c : Nat)
  /-- LD (R55). -/
  | ld (c : Nat)
  /-- ST (R55). -/
  | st (c : Nat)
  /-- RDSR (R57). -/
  | rdsr (c : Nat)
  /-- WRSR (R107). -/
  | wrsr (c : Nat)
  /-- MLD (R58). -/
  | mld (c : Nat)
  /-- MST (R58). -/
  | mst (c : Nat)
  /-- MLD2 (R58). -/
  | mld2 (c : Nat)
  /-- MST2 (R58). -/
  | mst2 (c : Nat)
  /-- LCOPY (R58). -/
  | lcopy (c : Nat)
  /-- PASS (R60). -/
  | pass (c : Nat)
  /-- PWAIT (R61). -/
  | pwait (c : Nat)
  /-- MWAIT (R55). -/
  | mwait (c : Nat)
  /-- MTOUCH (R58). -/
  | mtouch (c : Nat)
  /-- VLD (R58). -/
  | vld (c : Nat)
  /-- VST (R58). -/
  | vst (c : Nat)
  /-- VGATHER (R58). -/
  | vgather (c : Nat)
  /-- TLD (R58). -/
  | tld (c : Nat)
  /-- TST (R58). -/
  | tst (c : Nat)
  /-- VADD (R101). -/
  | vadd (c : Nat)
  /-- VSUB (R101). -/
  | vsub (c : Nat)
  /-- VMUL (R101). -/
  | vmul (c : Nat)
  /-- VFMA (R101). -/
  | vfma (c : Nat)
  /-- VMAX (R63). -/
  | vmax (c : Nat)
  /-- VMIN (R63). -/
  | vmin (c : Nat)
  /-- VAND (R63). -/
  | vand (c : Nat)
  /-- VOR (R63). -/
  | vor (c : Nat)
  /-- VXOR (R63). -/
  | vxor (c : Nat)
  /-- VSH (R63). -/
  | vsh (c : Nat)
  /-- VMOV (R63). -/
  | vmov (c : Nat)
  /-- VBCAST (R63). -/
  | vbcast (c : Nat)
  /-- VEXT (R63). -/
  | vext (c : Nat)
  /-- VPERM (R63). -/
  | vperm (c : Nat)
  /-- VRED (R63). -/
  | vred (c : Nat)
  /-- VCMP (R101). -/
  | vcmp (c : Nat)
  /-- VSEL (R63). -/
  | vsel (c : Nat)
  /-- VCVT (R102). -/
  | vcvt (c : Nat)
  /-- VACT (R65). -/
  | vact (c : Nat)
  /-- VSCALE (R101). -/
  | vscale (c : Nat)
  /-- MMA (R95). -/
  | mma (c : Nat)
  /-- MMAM (R99). -/
  | mmam (c : Nat)
  /-- TZERO (R66). -/
  | tzero (c : Nat)
  /-- TCOPY (R66). -/
  | tcopy (c : Nat)
  /-- TGET (R66). -/
  | tget (c : Nat)
  /-- TPUT (R66). -/
  | tput (c : Nat)
  /-- ILLEGAL_LINE (R47). -/
  | illegalLine (c : Nat)
  /-- FETCH_PAST_END (R52). -/
  | fetchPastEnd (c : Nat)
  /-- BUDGET_OVERRUN (R79). -/
  | budgetOverrun (c : Nat)
  /-- MOVER_TAG_COMPLETE (R59). -/
  | moverTagComplete (c : Nat) (tag : Nat)
  /-- INVOCATION_DISPATCH (R77). -/
  | invocationDispatch (slot : Nat)
  /-- WAVE_START (R160). -/
  | waveStart (rel : Nat) (wave : Nat)
  /-- INVOCATION_NORMAL_END (R78). -/
  | invocationNormalEnd (slot : Nat)
  /-- TRB_CLEAR (R113). -/
  | trbClear (part : Nat) (mask : Nat)
  /-- STAMP_TICK (R116). -/
  | stampTick
  /-- SYNC_FRAME (R117). -/
  | syncFrame (v : Nat) (crc : Nat) (stop : Bool)
  /-- SYNC_FRAME_MISSED (R118). -/
  | syncFrameMissed
  /-- REFERENCE_LOSS (R120). -/
  | referenceLoss
  /-- GROUP_SUSPEND (R120). -/
  | groupSuspend
  /-- STAMP_NOW_LOW_READ (R122). -/
  | stampNowLowRead
  /-- DUE_DATE_FIRE (R130). -/
  | dueDateFire (idx : Nat)
  /-- DD_COMMIT (R140). -/
  | ddCommit
  /-- DD_CANCEL (R140). -/
  | ddCancel
  /-- DD_READ (R140). -/
  | ddRead
  /-- HUB_BARRIER_ARRIVAL (R155). -/
  | hubBarrierArrival (slot : Nat) (bar : Nat) (wing : Nat)
  /-- SLOT_CFG_WRITE (R144). -/
  | slotCfgWrite (part : Nat) (slot : Nat) (v : Nat)
  /-- ALLOTMENT_COMPLETE (R144). -/
  | allotmentComplete (slot : Nat)
  /-- SLOT_END (R148). -/
  | slotEnd (part : Nat) (slot : Nat)
  /-- SLOT_CLR_FLAGS (R151). -/
  | slotClrFlags (part : Nat) (slot : Nat)
  /-- SLOT_ENDING_DRAINED (R148). -/
  | slotEndingDrained (slot : Nat)
  /-- HOST_SNPINV (R270). -/
  | hostSnpinv (ca : Nat)
  /-- HOST_SNPDATA (R270). -/
  | hostSnpdata (ca : Nat)
  /-- HOST_SNPCUR (R270). -/
  | hostSnpcur (ca : Nat)
  /-- CALL_SLIP_REREAD_DATA (R166). -/
  | callSlipRereadData (slot : Nat)
  /-- DELIVERY_LINE_WRITE (R171). -/
  | deliveryLineWrite (slot : Nat)
  /-- CS_MODE_COHERENT (R178). -/
  | csModeCoherent (part : Nat) (slot : Nat)
  /-- CS_MODE_SLIP_REGISTERS (R178). -/
  | csModeSlipRegisters (part : Nat) (slot : Nat)
  /-- CS_MODE_OFF (R178). -/
  | csModeOff (part : Nat) (slot : Nat)
  /-- CS_ARM_COMPLETE (R178). -/
  | csArmComplete (slot : Nat)
  /-- CS_DISARM_COMPLETE (R178). -/
  | csDisarmComplete (slot : Nat)
  /-- DB_SQ (R183). -/
  | dbSq (part : Nat) (q : Nat) (v : Nat)
  /-- DB_CQ (R183). -/
  | dbCq (part : Nat) (q : Nat) (v : Nat)
  /-- DESCRIPTOR_FETCH (R184). -/
  | descriptorFetch (q : Nat) (data : Bytes)
  /-- DESCRIPTOR_REFETCH (R184). -/
  | descriptorRefetch (q : Nat) (data : Bytes)
  /-- DESCRIPTOR_ACCESSION (R331). -/
  | descriptorAccession (q : Nat) (list : Bytes)
  /-- RUN (R187). -/
  | run (q : Nat)
  /-- INSTALL (R73). -/
  | install (q : Nat) (image : Bytes)
  /-- REMOVE (R188). -/
  | remove (q : Nat)
  /-- DUE_DATE (R189). -/
  | dueDate (q : Nat)
  /-- LEND (R346). -/
  | lend (q : Nat)
  /-- RETURN (R346). -/
  | returnLent (q : Nat)
  /-- HOLD (R346). -/
  | hold (q : Nat)
  /-- ADVISE (R350). -/
  | advise (q : Nat)
  /-- QUEUE_ENABLE (R195). -/
  | queueEnable (part : Nat) (q : Nat) (v : Nat)
  /-- QUEUE_DISABLE (R195). -/
  | queueDisable (part : Nat) (q : Nat) (v : Nat)
  /-- QUEUE_DRAIN_COMPLETE (R195). -/
  | queueDrainComplete (q : Nat)
  /-- QUEUE_RESUME (R194). -/
  | queueResume (part : Nat) (q : Nat)
  /-- SLIP_GO (R197). -/
  | slipGo (part : Nat)
  /-- SLIP_RESULT_READ (R196). -/
  | slipResultRead (part : Nat)
  /-- LINK_TRAINING (R201). -/
  | linkTraining (modules : Nat) (repaired : Nat)
  /-- LINK_TRAIN_RETRY (R201). -/
  | linkTrainRetry (modules : Nat) (repaired : Nat)
  /-- LINK_RETRAIN (R203). -/
  | linkRetrain
  /-- LINK_WIDTH_NARROW (R203). -/
  | linkWidthNarrow (module : Nat)
  /-- LINK_DOWN (R204). -/
  | linkDown
  /-- HOT_RESET (R204). -/
  | hotReset
  /-- SIDEBAND_HOST_RESET (R204). -/
  | sidebandHostReset
  /-- CONFIGURATION_REQUEST (R205). -/
  | configurationRequest (fn : Nat) (off : Nat) (isWrite : Bool) (be : Nat) (data : Nat)
  /-- BUS_MASTER_DISABLE (R231). -/
  | busMasterDisable (fn : Nat)
  /-- BUS_MASTER_ENABLE (R231). -/
  | busMasterEnable (fn : Nat)
  /-- CACHE_ENABLE_CLEAR (R211). -/
  | cacheEnableClear
  /-- CACHE_ENABLE_SET (R211). -/
  | cacheEnableSet
  /-- D3HOT_ENTRY (R234). -/
  | d3hotEntry (fn : Nat)
  /-- D0_RETURN (R234). -/
  | d0Return (fn : Nat)
  /-- FUNCTION_LEVEL_RESET (R235). -/
  | functionLevelReset (fn : Nat)
  /-- FLR_COMPLETE (R235). -/
  | flrComplete (fn : Nat)
  /-- INTERRUPT_DISABLE_WRITE (R230). -/
  | interruptDisableWrite (v : Bool)
  /-- MSIX_PENDING_SEND (R228). -/
  | msixPendingSend (fn : Nat) (vec : Nat)
  /-- BAR_ACCESS_UNSUPPORTED (R220). -/
  | barAccessUnsupported (fn : Nat) (bar : Nat) (off : Nat) (len : Nat) (isWrite : Bool)
  /-- PEER_INBOX_WRITE (R388). -/
  | peerInboxWrite (fn : Nat) (rid : Nat) (off : Nat) (data : Bytes) (entry : Bytes)
  /-- CAGE_CTL_WRITE (R216). -/
  | cageCtlWrite (cage : Nat) (v : Nat)
  /-- CAGE_CMD_DONE (R216). -/
  | cageCmdDone (cage : Nat)
  /-- CAGE_POLL (R545). -/
  | cagePoll (inputs : List Nat)
  /-- COMPLETION_TIMEOUT (R237). -/
  | completionTimeout (tag : Nat)
  /-- LATE_COMPLETION (R237). -/
  | lateCompletion (tag : Nat)
  /-- ORPHANED_COMPLETION (R235). -/
  | orphanedCompletion (fn : Nat) (tag : Nat)
  /-- TAG_QUARANTINE_END (R237). -/
  | tagQuarantineEnd (tag : Nat)
  /-- HOST_READ_COMPLETION (R236). -/
  | hostReadCompletion (tag : Nat) (data : Bytes)
  /-- HOST_CACHE_RESPONSE (R268). -/
  | hostCacheResponse (tag : Nat) (ca : Nat) (data : Bytes)
  /-- RD_SHARED (R259). -/
  | rdShared (m : Msg)
  /-- RD_OWN (R259). -/
  | rdOwn (m : Msg)
  /-- RD_ONCE (R259). -/
  | rdOnce (m : Msg)
  /-- WR_NA (R259). -/
  | wrNa (m : Msg)
  /-- WR_NA_PART (R259). -/
  | wrNaPart (m : Msg)
  /-- WR_THRU (R259). -/
  | wrThru (m : Msg)
  /-- WR_STASH (R267). -/
  | wrStash (m : Msg)
  /-- WB_DIRTY (R263). -/
  | wbDirty (m : Msg)
  /-- EV_CLEAN (R259). -/
  | evClean (m : Msg)
  /-- SN_SHARE (R256). -/
  | snShare (m : Msg)
  /-- SN_CLEAN (R256). -/
  | snClean (m : Msg)
  /-- SN_INV (R256). -/
  | snInv (m : Msg)
  /-- SN_ONCE (R256). -/
  | snOnce (m : Msg)
  /-- SN_BACK (R256). -/
  | snBack (m : Msg)
  /-- CMP_S (R257). -/
  | cmpS (m : Msg)
  /-- CMP_E (R257). -/
  | cmpE (m : Msg)
  /-- CMP_M (R257). -/
  | cmpM (m : Msg)
  /-- CMP_I (R259). -/
  | cmpI (m : Msg)
  /-- CMP_W (R258). -/
  | cmpW (m : Msg)
  /-- NACK (R265). -/
  | nack (m : Msg)
  /-- NACK_RES (R266). -/
  | nackRes (m : Msg)
  /-- GO (R266). -/
  | go (m : Msg)
  /-- REQUEST_RESEND (R265). -/
  | requestResend (agent : Nat) (txn : Nat)
  /-- WB_ACK (R277). -/
  | wbAck (m : Msg)
  /-- CMP_ACK (R257). -/
  | cmpAck (m : Msg)
  /-- RS_I (R259). -/
  | rsI (m : Msg)
  /-- RS_S (R259). -/
  | rsS (m : Msg)
  /-- RS_FWD (R259). -/
  | rsFwd (m : Msg)
  /-- RS_ERR (R283). -/
  | rsErr (m : Msg)
  /-- STASH_REFUSE (R267). -/
  | stashRefuse (m : Msg)
  /-- DAT_MEM (R260). -/
  | datMem (m : Msg)
  /-- DAT_FWD (R256). -/
  | datFwd (m : Msg)
  /-- DAT_HOME (R259). -/
  | datHome (m : Msg)
  /-- DAT_STASH (R267). -/
  | datStash (m : Msg)
  /-- RESERVED_OPCODE_MESSAGE (R252). -/
  | reservedOpcodeMessage (agent : Nat) (opcode : Nat) (ca : Nat)
  /-- MEMORY_READ_RETURN (R298). -/
  | memoryReadReturn (dpa : Nat) (reader : Nat) (err : Nat)
  /-- WING_CACHE_DISABLE (R280). -/
  | wingCacheDisable (w : Nat)
  /-- WING_CACHE_ENABLE (R280). -/
  | wingCacheEnable (w : Nat)
  /-- WING_CACHE_WALK_END (R280). -/
  | wingCacheWalkEnd (w : Nat)
  /-- WCB_FLUSH (R301). -/
  | wcbFlush (ctrl : Nat) (line : Nat)
  /-- RESERVE_DISABLE (R308). -/
  | reserveDisable
  /-- RESERVE_WALK_END (R308). -/
  | reserveWalkEnd
  /-- RESERVE_FLUSH (R308). -/
  | reserveFlush
  /-- REGULATOR_REFILL (R310). -/
  | regulatorRefill
  /-- SCRUB_STEP (R300). -/
  | scrubStep (errKind : Nat)
  /-- MAPOUT_GO (R312). -/
  | mapoutGo (v : Nat)
  /-- MAPOUT_START (R313). -/
  | mapoutStart
  /-- MAPOUT_ROOM_READY (R313). -/
  | mapoutRoomReady
  /-- MAPOUT_CLEARING_DONE (R313). -/
  | mapoutClearingDone
  /-- MAPOUT_EVACUATION_DONE (R313). -/
  | mapoutEvacuationDone
  /-- ATS_TRANSLATION_COMPLETION (R330). -/
  | atsTranslationCompletion (fn : Nat) (pasid : Nat) (va : Nat) (size : Nat) (pa : Nat) (r : Bool) (w : Bool)
  /-- PRG_RESPONSE (R335). -/
  | prgResponse (fn : Nat) (prg : Nat) (code : Nat)
  /-- PRI_CONTROL_RESET (R335). -/
  | priControlReset (fn : Nat)
  /-- ATS_INVALIDATE_REQUEST (R341). -/
  | atsInvalidateRequest (fn : Nat) (itag : Nat) (global : Bool) (pasid : Nat) (va : Nat) (size : Nat)
  /-- INVALIDATE_COMPLETION (R341). -/
  | invalidateCompletion (fn : Nat) (id : Nat)
  /-- GRANULE_COPY_DONE (R346). -/
  | granuleCopyDone (q : Nat) (pasid : Nat) (va : Nat) (data : Bytes)
  /-- FLOG_ENABLE (R357). -/
  | flogEnable (part : Nat) (v : Nat)
  /-- FLOG_HEAD_WRITE (R357). -/
  | flogHeadWrite (part : Nat) (v : Nat)
  /-- PROBE_START (R358). -/
  | probeStart (part : Nat) (v : Nat)
  /-- PROBE_DONE (R358). -/
  | probeDone (part : Nat)
  /-- ETH_FRAME_RECEIVE (R363). -/
  | ethFrameReceive (port : Nat) (frame : EthFrame)
  /-- PFC_FRAME_RECEIVE (R364). -/
  | pfcFrameReceive (port : Nat) (prio : Nat) (xoff : Bool)
  /-- ROCE_SEND_RECEIVE (R372). -/
  | roceSendReceive (port : Nat) (pkt : RocePkt) (rq : Bytes)
  /-- ROCE_RDMA_WRITE_RECEIVE (R371). -/
  | roceRdmaWriteReceive (port : Nat) (pkt : RocePkt) (rq : Bytes)
  /-- ROCE_RDMA_READ_REQUEST (R372). -/
  | roceRdmaReadRequest (port : Nat) (pkt : RocePkt) (host : Bytes)
  /-- ROCE_READ_RESPONSE_RECEIVE (R372). -/
  | roceReadResponseReceive (port : Nat) (pkt : RocePkt)
  /-- ROCE_ACK_RECEIVE (R370). -/
  | roceAckReceive (port : Nat) (pkt : RocePkt)
  /-- ROCE_CNP_RECEIVE (R374). -/
  | roceCnpReceive (qp : Nat)
  /-- CC_RECOVER (R374). -/
  | ccRecover (qp : Nat)
  /-- ROCE_RETRANSMIT_TIMEOUT (R366). -/
  | roceRetransmitTimeout (qp : Nat)
  /-- ROCE_RNR_RETRY (R366). -/
  | roceRnrRetry (qp : Nat)
  /-- QP_DOORBELL_REREAD (R368). -/
  | qpDoorbellReread (qp : Nat)
  /-- SEND_WQE_FETCH (R369). -/
  | sendWqeFetch (qp : Nat) (data : Bytes) (payload : Bytes)
  /-- ETH_PORT_DOWN (R373). -/
  | ethPortDown (port : Nat)
  /-- QP_WRITE (R367). -/
  | qpWrite
  /-- QP_RESET (R367). -/
  | qpReset
  /-- QP_READ (R367). -/
  | qpRead
  /-- MR_WRITE (R391). -/
  | mrWrite
  /-- MR_INVALIDATE (R391). -/
  | mrInvalidate
  /-- MR_READ (R391). -/
  | mrRead
  /-- PLOLI_LINK_TRAIN (R375). -/
  | ploliLinkTrain (link : Nat) (peer : PloliPeer)
  /-- PLOLI_RETRAIN (R375). -/
  | ploliRetrain (link : Nat)
  /-- PLOLI_LINK_DOWN (R378). -/
  | ploliLinkDown (link : Nat)
  /-- MEMBER_LOST (R382). -/
  | memberLost (member : Nat)
  /-- PLAN_ENTRY_RECEIVE (R380). -/
  | planEntryReceive (entry : PlanEntry)
  /-- GROUP_ARRIVAL_RECEIVE (R158). -/
  | groupArrivalReceive (member : Nat) (slot : Nat) (bar : Nat)
  /-- GROUP_RELEASE_RECEIVE (R158). -/
  | groupReleaseReceive (slot : Nat) (bar : Nat) (trel : Nat)
  /-- INTERLOAN_WRITE_RECEIVE (R384). -/
  | interloanWriteReceive (req : IlReq)
  /-- INTERLOAN_READ_REQUEST (R385). -/
  | interloanReadRequest (req : IlReq)
  /-- INTERLOAN_RESPONSE_RECEIVE (R385). -/
  | interloanResponseReceive (rsp : IlRsp)
  /-- INTERLOAN_TIMEOUT (R384). -/
  | interloanTimeout (tag : Nat)
  /-- EXCHANGE_WINDOW_CLOSE (R386). -/
  | exchangeWindowClose (link : Nat)
  /-- IL_BIND (R384). -/
  | ilBind
  /-- IL_UNBIND (R384). -/
  | ilUnbind
  /-- IL_READ (R393). -/
  | ilRead
  /-- WIN_SYNC (R383). -/
  | winSync (win : Nat)
  /-- WIN_CFG_WRITE (R394). -/
  | winCfgWrite (win : Nat) (v : Nat)
  /-- POWER_SAMPLE (R401). -/
  | powerSample (sample : PwrSample)
  /-- BUBBLE_DENSITY_APPLY (R400). -/
  | bubbleDensityApply (wing : Nat)
  /-- CAP_IN_FALL (R404). -/
  | capInFall
  /-- CAP_IN_RISE (R404). -/
  | capInRise
  /-- OP_POLICY_PERIOD (R406). -/
  | opPolicyPeriod
  /-- OP_STEP_COMPLETE (R407). -/
  | opStepComplete
  /-- DROOP_DETECT (R409). -/
  | droopDetect (wing : Nat)
  /-- DROOP_DECAY (R409). -/
  | droopDecay (wing : Nat)
  /-- THERMAL_COMPARE (R412). -/
  | thermalCompare (temps : List Nat)
  /-- THERMAL_TRIP (R413). -/
  | thermalTrip (sensor : Nat)
  /-- VIN44_UNDERVOLTAGE (R395). -/
  | vin44Undervoltage
  /-- VIN44_OVERVOLTAGE (R395). -/
  | vin44Overvoltage
  /-- VIN44_LOSS (R526). -/
  | vin44Loss
  /-- VIN44_POWER_UP (R533). -/
  | vin44PowerUp
  /-- HARDWARE_ERROR_EVENT (R428). -/
  | hardwareErrorEvent (src : Nat) (info0 : Nat)
  /-- ARCHIVIST_TRAP (R433). -/
  | archivistTrap
  /-- WING_RESET_END (R76). -/
  | wingResetEnd (wing : Nat)
  /-- CHIP_RESET_TIMER (R433). -/
  | chipResetTimer
  /-- ERROR_PIN_PULSE_END (R437). -/
  | errorPinPulseEnd
  /-- ERROR_PIN_HOLD (R437). -/
  | errorPinHold
  /-- ERR_PIN_CLEAR (R453). -/
  | errPinClear
  /-- COL_FORCE (R432). -/
  | colForce (col : Nat) (v : Nat)
  /-- COL_HIST_CLEAR (R452). -/
  | colHistClear (col : Nat)
  /-- ARCHIVIST_WATCHDOG_EXPIRE (R441). -/
  | archivistWatchdogExpire
  /-- SUBSTITUTION_COMMIT (R17). -/
  | substitutionCommit (wing : Nat)
  /-- REPAIR_COMPLETE (R147). -/
  | repairComplete (slot : Nat)
  /-- MANAGEMENT_RESET (R445). -/
  | managementReset (cause : Nat)
  /-- DESK_RESTART_COMPLETE (R445). -/
  | deskRestartComplete
  /-- COLD_RESET_ASSERT (R540). -/
  | coldResetAssert
  /-- COLD_RESET_RELEASE (R457). -/
  | coldResetRelease (nvm : NvmContents)
  /-- ACCESSION_COMPLETE (R455). -/
  | accessionComplete
  /-- CALIBRATION_COMPLETE (R459). -/
  | calibrationComplete (fails : List Nat)
  /-- WIPE_COMPLETE (R462). -/
  | wipeComplete
  /-- DESK_START_COMPLETE (R455). -/
  | deskStartComplete
  /-- RECOVERY_RESTART (R465). -/
  | recoveryRestart (shadow : Bool)
  /-- DEVICE_RESET (R466). -/
  | deviceReset (v : Nat)
  /-- MANAGEMENT_RESET_REQUEST (R466). -/
  | managementResetRequest (v : Nat)
  /-- TEST_REQ (R455). -/
  | testReq
  /-- SHUTDOWN (R477). -/
  | shutdown
  /-- LC_REQUEST (R470). -/
  | lcRequest (v : Nat)
  /-- LIFECYCLE_WIPE_COMPLETE (R471). -/
  | lifecycleWipeComplete
  /-- UPD_BEGIN (R511). -/
  | updBegin
  /-- UPD_CHUNK (R511). -/
  | updChunk
  /-- UPD_CHUNK_WRITTEN (R511). -/
  | updChunkWritten
  /-- UPD_FINISH (R511). -/
  | updFinish
  /-- UPD_ACTIVATE (R513). -/
  | updActivate
  /-- UPD_ABORT (R511). -/
  | updAbort
  /-- TRIAL_CONFIRM (R514). -/
  | trialConfirm
  /-- TRIAL_TIMEOUT (R514). -/
  | trialTimeout
  /-- LIBRARY_BLOCK_REQUEST (R506). -/
  | libraryBlockRequest (block : Nat) (addr : Nat)
  /-- LEDGER_PERIODIC (R523). -/
  | ledgerPeriodic
  /-- LEDGER_CALENDAR (R525). -/
  | ledgerCalendar
  /-- LEDGER_READ (R530). -/
  | ledgerRead
  /-- LEDGER_READ_DONE (R530). -/
  | ledgerReadDone
  /-- SERDES_REFCLK_LOSS (R535). -/
  | serdesRefclkLoss
  /-- SERDES_REFCLK_RETURN (R535). -/
  | serdesRefclkReturn
  /-- I3C_ADDRESS_ASSIGN (R542). -/
  | i3cAddressAssign (addr : Nat)
  /-- I3C_PRIVATE_WRITE (R543). -/
  | i3cPrivateWrite (data : Bytes)
  /-- I3C_PRIVATE_READ (R543). -/
  | i3cPrivateRead (len : Nat)
  /-- I3C_DISEC (R543). -/
  | i3cDisec (mask : Nat)
  /-- TAP_INSTRUCTION_LOAD (R547). -/
  | tapInstructionLoad (code : Nat)
  /-- TAP_RESET (R547). -/
  | tapReset
  /-- DSTAMP_REFERENCE_RETURN (R121). -/
  | dstampReferenceReturn
  /-- ETH_PORT_UP (R390). -/
  | ethPortUp (port : Nat)
  /-- GROUP_PARTICIPATION_REPORT (R381). -/
  | groupParticipationReport (member : Nat) (slot : Nat) (bar : Nat) (takes : Bool)
  /-- WORK_REQUEST_REFETCH (R368). -/
  | workRequestRefetch (qp : Nat) (data : Bytes) (payload : Bytes)
  /-- LEDGER_CALENDAR_DONE (R530). -/
  | ledgerCalendarDone
  /-- SHUTDOWN_RECORD_COMMITTED (R477). -/
  | shutdownRecordCommitted
deriving DecidableEq, Repr

end Sys2Proof
end

