-- ==== Sys2Proof/Machine/Crc.lean ====
section
/-!
DEFINITION. The two check sums that the manual names: CRC-32C (02 R80, 14 R482, 15 R508) and the sync frames' CRC-16 (04 R117).
-/
namespace Sys2Proof.Machine

/-- One step of CRC-32C in its reflected form. -/
def crc32cBit (c : Nat) : Nat := if c % 2 = 1 then (c / 2) ^^^ 0x82F63B78 else c / 2

/-- One byte of CRC-32C. -/
def crc32cByte (c : Nat) (b : Byte) : Nat :=
  let c := c ^^^ b.toNat
  (List.range 8).foldl (fun c _ => crc32cBit c) c

/-- CRC-32C of a byte string. -/
def crc32c (bs : Bytes) : Nat := (bs.foldl crc32cByte 0xFFFFFFFF) ^^^ 0xFFFFFFFF

/-- One bit of the CRC-16 with polynomial 0x1021, most significant bit first. -/
def crc16Bit (c : Nat) (b : Bool) : Nat :=
  let t := bit c 15 != b
  let c := c * 2 % 65536
  if t then c ^^^ 0x1021 else c

/-- The CRC of a sync frame over its 64-bit value (R117, 16 R536): initial value 0xFFFF, V[63] first. -/
def crc16 (v : Nat) : Nat := (List.range 64).foldl (fun c i => crc16Bit c (bit v (63 - i))) 0xFFFF

end Sys2Proof.Machine
end

