-- ==== Sys2Proof/Config.lean ====
section
/-!
DEFINITION. What the manual leaves open, as constants without a body: no proof can see what they are, so a statement that
mentions them holds for every value of them. Each is named in the assumption log.
-/
namespace Sys2Proof.Config

/-- Which of the results that 02 R65's bound admits the `VACT` function `fn` writes for the input whose encoding is `x`, in the type `ty`
(0 FP64, 1 FP32): 03 R98 says that one device gives the same result for the same input every time. For GELU of −∞ the encoding itself. -/
opaque vact (fn ty x : Nat) : Nat

/-- SHA-384 of a byte string, as a number (15 R507 to R509 name the function; its definition is outside the manual). -/
opaque sha384 (x : Bytes) : Nat

/-- The digest in the mask ROM of Selken's public key (15 R510), as a number. -/
opaque romDigest : Nat

/-- The firmware key in the fuses (15 R510). -/
opaque fwKey : Bytes

/-- ML-DSA-65 verification of a signature over a message under a public key (15 R507): the manual names the scheme only. -/
opaque mldsaVerify (key sig msg : Bytes) : Bool

/-- AES-256-GCM decryption with a key, a nonce and associated data: the plaintext, when the tag is right. -/
opaque aesGcmOpen (key nonce aad cipher tag : Bytes) : Option Bytes

/-- The physical channel on which granule `g` of a column that is mapped out lies: internal to the device (08 R313). -/
opaque refuge (g : Nat) : Nat

/-- The set of a second-level translation buffer in which an entry is held, by PASID, address and page size (09 R327 gives the ways only). -/
opaque l2Set (pasid va size : Nat) : Nat

/-- AES-256 in counter mode from a byte offset of an image's payload (15 R506). -/
opaque ctrOpen (key iv : Bytes) (off : Nat) (cipher : Bytes) : Bytes

/-- A value the manual leaves open, the `n`-th one used in a run. -/
opaque freeValue (n : Nat) : Nat

end Sys2Proof.Config
end

