-- ==== Sys2Proof/Machine/RegMap.lean ====
section
/-!
DEFINITION. The register map: one name per register of the manual's register tables, one `Fld` per field, with the
field's bits, access code (R9), value after reset and the reset kinds that restore it (R11). The fields whose reset column says
"Live" are not stored: `Machine/RegRead.lean` computes them from the state. Fields whose reset is an accession value hold
here the default the table prints; `Machine/Record.lean` loads the record's value.
-/
namespace Sys2Proof

/-- The registers of the block. An instance number (wing, slot, part, port ...) tells copies of one register apart. -/
inductive RegKind where
  | IDENT_VID
  | IDENT_BLOCK
  | BLOCK_VERSION
  | DEV_STATUS
  | DEV_CONTROL
  | MGMT_INT_STATUS
  | MGMT_INT_ENABLE
  | RESET_CTL
  | RESET_CAUSE
  | LIFECYCLE
  | LC_REQUEST
  | WCOL_PINS
  | COL_STATUS
  | COL_COUNTS
  | COL_REACT
  | COL_REACT_W1
  | COL_REACT_W2
  | COL_SEV
  | COL_FORCE
  | COL_HIST
  | SAFE_CAUSE
  | ERR_PIN
  | STAMP_NOW
  | STAMP_STATUS
  | STAMP_CTL
  | STAMP_LAST_STEP
  | STAMP_COUNTS
  | STAMP_EVENTS
  | DD_INDEX
  | DD_STAMP
  | DD_SPEC
  | DD_PERIOD
  | DD_CMD
  | DD_RESULT
  | DD_FIRED_AT
  | DD_ARMED_COUNT
  | PWR_STATUS
  | PWR_EVENTS
  | PWR_CAP
  | PWR_OP
  | PWR_POLICY
  | THERM_CTL
  | PWR_ENERGY
  | PWR_COUNTS
  | THERM_SENSOR
  | TELEM_STAMP
  | TELEM_INFO
  | TELEM_INPUT
  | TELEM_WING
  | TELEM_TEMP
  | UPD_CTL
  | UPD_LEN
  | UPD_STATUS
  | UPD_CFG
  | LEDGER_CTL
  | LEDGER_CMD
  | LEDGER_CAL_UTC
  | LEDGER_CAL_STAMP
  | LEDGER_READ
  | LEDGER_FLAGS
  | WING_ID
  | WING_STATUS
  | WING_CMAP
  | WING_PWR_STATUS
  | WING_DROOP
  | WING_BUB_FORCE
  | WBAR_STATUS
  | WBAR_LAST
  | HOME_COUNTS
  | HOME_EVICTS
  | WING_CACHE_CTL
  | WING_CACHE_STATUS
  | WING_CACHE_HITS
  | WING_CACHE_MISSES
  | WING_CACHE_SNOOPS
  | WING_CACHE_PF
  | WING_CACHE_EB_HITS
  | RAT_BASE
  | RAT_LIMIT
  | RAT_ATTR
  | MEM_MAPOUT
  | MEM_POLICY
  | MEM_PART
  | CMAP
  | MC_CHAN
  | RES_CTL
  | RES_STATUS
  | RES_CLASS
  | REG_STACK
  | REG_LINK
  | PORT_STATUS
  | PORT_MAC
  | PORT_IP_LO
  | PORT_IP_HI
  | PORT_PFC
  | PORT_COUNTS
  | QP_INDEX
  | QP_CMD
  | QP_RESULT
  | MR_INDEX
  | MR_CMD
  | MR_RESULT
  | NET_CC
  | CAS_STATUS
  | PLOLI_LINK
  | IL_SEL
  | IL_TARGET
  | IL_CMD
  | PEER
  | WIN_BASE
  | WIN_CFG
  | WIN_CTL
  | WIN_STATUS
  | PART_STATUS
  | PART_CONTROL
  | PART_CPL
  | PART_ACCESS
  | SLOT_CFG
  | SLOT_CTL
  | SLOT_STATUS
  | DB_SQ
  | DB_CQ
  | SQ_BASE
  | CQ_BASE
  | Q_CFG
  | Q_STATUS
  | Q_CTL
  | CS_SLIP_ADDR
  | CS_DLV_ADDR
  | CS_CTL
  | CS_STATUS
  | SLIP_SEL
  | SLIP_GO
  | XL_STATUS
  | XL_COUNTS
  | FLOG_BASE
  | FLOG_CFG
  | FLOG_HEAD
  | FLOG_STATUS
  | XL_PROBE_VA
  | XL_PROBE_PASID
  | XL_PROBE_RESULT
  | TRB_TOTAL_SAT
  | TRB_TOTAL_FIN
  | TRB_TOTAL_FOUT
  | TRB_TOTAL_NAN
  | TRB_CLEAR
  | LT_PART
  | CAGE_CTL
  | CAGE_STATUS
  | IDV_LINK
deriving DecidableEq, Repr

/-- What the instance number of a register counts. -/
inductive Dom where
  | global | wing | wingk | slot | queue | part | slice | rat | cmap | chan | rclass | regst | sensor | col | wcolp | port | link
  | peer | win | cage
deriving DecidableEq, Repr

/-- Access codes of R9. -/
inductive Acc where
  | RO | RW | RW1C | RW1S | WO | RC | RWL
deriving DecidableEq, Repr

/-- One register field: its register, bits, access code, value after reset, the mask of reset kinds that restore it
(bit 0 COLD, 1 LINK-LOSS, 2 DEVICE, 3 MANAGEMENT, 4 PARTITION, 5 WING, 6 CARREL, 7 entry to SERVICE) and the range of values
that a write may set (a value outside it leaves the field as it was, R10). -/
structure Fld where
  reg : RegKind
  hi : Nat
  lo : Nat
  acc : Acc := .RW
  rst : Nat := 0
  kinds : Nat := 0
  vmin : Nat := 0
  vmax : Nat := 2 ^ 64
deriving DecidableEq, Repr

def IDENT_VID.VID : Fld := ⟨.IDENT_VID, 15, 0, .RO, 7516, 0, 0, 2 ^ 64⟩
def IDENT_BLOCK.FAULT_ARR : Fld := ⟨.IDENT_BLOCK, 31, 28, .RO, 2, 0, 0, 2 ^ 64⟩
def IDENT_BLOCK.STACKS : Fld := ⟨.IDENT_BLOCK, 27, 24, .RO, 12, 0, 0, 2 ^ 64⟩
def IDENT_BLOCK.SPARES : Fld := ⟨.IDENT_BLOCK, 23, 16, .RO, 16, 0, 0, 2 ^ 64⟩
def IDENT_BLOCK.ACTIVE : Fld := ⟨.IDENT_BLOCK, 15, 8, .RO, 128, 0, 0, 2 ^ 64⟩
def IDENT_BLOCK.WINGS : Fld := ⟨.IDENT_BLOCK, 7, 0, .RO, 32, 0, 0, 2 ^ 64⟩
def BLOCK_VERSION.MAJOR : Fld := ⟨.BLOCK_VERSION, 31, 16, .RO, 3, 0, 0, 2 ^ 64⟩
def BLOCK_VERSION.MINOR : Fld := ⟨.BLOCK_VERSION, 15, 0, .RO, 0, 0, 0, 2 ^ 64⟩
def DEV_STATUS.RECORD_COPY : Fld := ⟨.DEV_STATUS, 15, 14, .RO, 0, 1, 0, 2 ^ 64⟩
def DEV_STATUS.FW_FAIL : Fld := ⟨.DEV_STATUS, 13, 13, .RO, 0, 1, 0, 2 ^ 64⟩
def DEV_STATUS.ACCESSION_FAIL : Fld := ⟨.DEV_STATUS, 12, 12, .RO, 0, 1, 0, 2 ^ 64⟩
def DEV_STATUS.STATE : Fld := ⟨.DEV_STATUS, 11, 8, .RO, 1, 1, 0, 2 ^ 64⟩
def DEV_STATUS.SAFE : Fld := ⟨.DEV_STATUS, 1, 1, .RO, 0, 7, 0, 2 ^ 64⟩
def DEV_STATUS.READY : Fld := ⟨.DEV_STATUS, 0, 0, .RO, 0, 7, 0, 2 ^ 64⟩
def DEV_CONTROL.SHUT_DONE : Fld := ⟨.DEV_CONTROL, 2, 2, .RO, 0, 7, 0, 2 ^ 64⟩
def DEV_CONTROL.TEST_REQ : Fld := ⟨.DEV_CONTROL, 1, 1, .WO, 0, 0, 0, 2 ^ 64⟩
def DEV_CONTROL.SHUTDOWN : Fld := ⟨.DEV_CONTROL, 0, 0, .WO, 0, 0, 0, 2 ^ 64⟩
def MGMT_INT_STATUS.UPDATE : Fld := ⟨.MGMT_INT_STATUS, 4, 4, .RO, 0, 7, 0, 2 ^ 64⟩
def MGMT_INT_STATUS.CAP_UNMET : Fld := ⟨.MGMT_INT_STATUS, 3, 3, .RO, 0, 7, 0, 2 ^ 64⟩
def MGMT_INT_STATUS.CAGE : Fld := ⟨.MGMT_INT_STATUS, 2, 2, .RO, 0, 7, 0, 2 ^ 64⟩
def MGMT_INT_STATUS.ERROR : Fld := ⟨.MGMT_INT_STATUS, 1, 1, .RO, 0, 7, 0, 2 ^ 64⟩
def MGMT_INT_STATUS.STAMP : Fld := ⟨.MGMT_INT_STATUS, 0, 0, .RO, 0, 7, 0, 2 ^ 64⟩
def MGMT_INT_ENABLE.UPDATE : Fld := ⟨.MGMT_INT_ENABLE, 4, 4, .RW, 0, 7, 0, 2 ^ 64⟩
def MGMT_INT_ENABLE.CAP_UNMET : Fld := ⟨.MGMT_INT_ENABLE, 3, 3, .RW, 0, 7, 0, 2 ^ 64⟩
def MGMT_INT_ENABLE.CAGE : Fld := ⟨.MGMT_INT_ENABLE, 2, 2, .RW, 0, 7, 0, 2 ^ 64⟩
def MGMT_INT_ENABLE.ERROR : Fld := ⟨.MGMT_INT_ENABLE, 1, 1, .RW, 0, 7, 0, 2 ^ 64⟩
def MGMT_INT_ENABLE.STAMP : Fld := ⟨.MGMT_INT_ENABLE, 0, 0, .RW, 0, 7, 0, 2 ^ 64⟩
def RESET_CTL.BUSY : Fld := ⟨.RESET_CTL, 16, 16, .RO, 0, 7, 0, 2 ^ 64⟩
def RESET_CTL.KEY : Fld := ⟨.RESET_CTL, 15, 8, .WO, 0, 0, 0, 2 ^ 64⟩
def RESET_CTL.KIND : Fld := ⟨.RESET_CTL, 2, 0, .WO, 0, 0, 0, 2 ^ 64⟩
def RESET_CAUSE.SOURCE : Fld := ⟨.RESET_CAUSE, 31, 16, .RO, 0, 0, 0, 2 ^ 64⟩
def RESET_CAUSE.WAS_SAFE : Fld := ⟨.RESET_CAUSE, 8, 8, .RO, 0, 0, 0, 2 ^ 64⟩
def RESET_CAUSE.CAUSE : Fld := ⟨.RESET_CAUSE, 3, 0, .RO, 1, 0, 0, 2 ^ 64⟩
def LIFECYCLE.RESULT : Fld := ⟨.LIFECYCLE, 31, 28, .RO, 0, 7, 0, 2 ^ 64⟩
def LC_REQUEST.GO : Fld := ⟨.LC_REQUEST, 31, 31, .WO, 0, 0, 0, 2 ^ 64⟩
def LC_REQUEST.TARGET : Fld := ⟨.LC_REQUEST, 3, 0, .WO, 0, 0, 0, 2 ^ 64⟩
def WCOL_PINS.PIN : Fld := ⟨.WCOL_PINS, 31, 0, .RW1C, 0, 1, 0, 2 ^ 64⟩
def COL_STATUS.OVERFLOW : Fld := ⟨.COL_STATUS, 63, 48, .RO, 0, 1, 0, 2 ^ 64⟩
def COL_STATUS.DEPTH : Fld := ⟨.COL_STATUS, 35, 32, .RO, 0, 1, 0, 2 ^ 64⟩
def COL_STATUS.FORCED : Fld := ⟨.COL_STATUS, 3, 3, .RO, 0, 1, 0, 2 ^ 64⟩
def COL_STATUS.FATAL_PEND : Fld := ⟨.COL_STATUS, 2, 2, .RW1C, 0, 1, 0, 2 ^ 64⟩
def COL_STATUS.UC_PEND : Fld := ⟨.COL_STATUS, 1, 1, .RW1C, 0, 1, 0, 2 ^ 64⟩
def COL_STATUS.CE_PEND : Fld := ⟨.COL_STATUS, 0, 0, .RW1C, 0, 1, 0, 2 ^ 64⟩
def COL_COUNTS.CE : Fld := ⟨.COL_COUNTS, 63, 40, .RO, 0, 1, 0, 2 ^ 64⟩
def COL_COUNTS.UC : Fld := ⟨.COL_COUNTS, 39, 16, .RO, 0, 1, 0, 2 ^ 64⟩
def COL_COUNTS.FATAL : Fld := ⟨.COL_COUNTS, 15, 0, .RO, 0, 1, 0, 2 ^ 64⟩
def COL_REACT.FATAL_MASK : Fld := ⟨.COL_REACT, 20, 16, .RWL, 0, 1, 0, 2 ^ 64⟩
def COL_REACT.UC_MASK : Fld := ⟨.COL_REACT, 12, 8, .RWL, 0, 1, 0, 2 ^ 64⟩
def COL_REACT.CE_MASK : Fld := ⟨.COL_REACT, 4, 0, .RWL, 0, 1, 0, 2 ^ 64⟩
def COL_REACT_W1.FATAL_MASK : Fld := ⟨.COL_REACT_W1, 20, 16, .RWL, 0, 1, 0, 2 ^ 64⟩
def COL_REACT_W1.UC_MASK : Fld := ⟨.COL_REACT_W1, 12, 8, .RWL, 0, 1, 0, 2 ^ 64⟩
def COL_REACT_W1.CE_MASK : Fld := ⟨.COL_REACT_W1, 4, 0, .RWL, 0, 1, 0, 2 ^ 64⟩
def COL_REACT_W2.FATAL_MASK : Fld := ⟨.COL_REACT_W2, 20, 16, .RWL, 0, 1, 0, 2 ^ 64⟩
def COL_REACT_W2.UC_MASK : Fld := ⟨.COL_REACT_W2, 12, 8, .RWL, 0, 1, 0, 2 ^ 64⟩
def COL_REACT_W2.CE_MASK : Fld := ⟨.COL_REACT_W2, 4, 0, .RWL, 0, 1, 0, 2 ^ 64⟩
def COL_SEV.ENABLE : Fld := ⟨.COL_SEV, 8, 8, .RO, 0, 135, 0, 2 ^ 64⟩
def COL_SEV.FATAL_AS : Fld := ⟨.COL_SEV, 5, 4, .RO, 2, 135, 0, 2 ^ 64⟩
def COL_SEV.UC_AS : Fld := ⟨.COL_SEV, 3, 2, .RO, 1, 135, 0, 2 ^ 64⟩
def COL_SEV.CE_AS : Fld := ⟨.COL_SEV, 1, 0, .RO, 0, 135, 0, 2 ^ 64⟩
def COL_FORCE.GO : Fld := ⟨.COL_FORCE, 31, 31, .WO, 0, 0, 0, 2 ^ 64⟩
def COL_FORCE.CLASS : Fld := ⟨.COL_FORCE, 27, 24, .WO, 0, 0, 0, 2 ^ 64⟩
def COL_FORCE.SEV : Fld := ⟨.COL_FORCE, 21, 20, .WO, 0, 0, 0, 2 ^ 64⟩
def COL_FORCE.INSTANCE : Fld := ⟨.COL_FORCE, 16, 12, .WO, 0, 0, 0, 2 ^ 64⟩
def COL_FORCE.SUB : Fld := ⟨.COL_FORCE, 6, 0, .WO, 0, 0, 0, 2 ^ 64⟩
def COL_HIST.CLEAR : Fld := ⟨.COL_HIST, 31, 31, .WO, 0, 0, 0, 2 ^ 64⟩
def COL_HIST.INDEX : Fld := ⟨.COL_HIST, 2, 0, .RW, 0, 1, 0, 2 ^ 64⟩
def SAFE_CAUSE.SOURCE : Fld := ⟨.SAFE_CAUSE, 63, 48, .RO, 0, 1, 0, 2 ^ 64⟩
def SAFE_CAUSE.CAUSE : Fld := ⟨.SAFE_CAUSE, 3, 0, .RO, 0, 1, 0, 2 ^ 64⟩
def ERR_PIN.HELD : Fld := ⟨.ERR_PIN, 1, 1, .RO, 0, 7, 0, 2 ^ 64⟩
def ERR_PIN.CLEAR : Fld := ⟨.ERR_PIN, 0, 0, .WO, 0, 0, 0, 2 ^ 64⟩
def STAMP_NOW.VALUE : Fld := ⟨.STAMP_NOW, 63, 0, .RO, 0, 1, 0, 2 ^ 64⟩
def STAMP_STATUS.GROUP_SUSPENDED : Fld := ⟨.STAMP_STATUS, 7, 7, .RO, 0, 1, 0, 2 ^ 64⟩
def STAMP_STATUS.SYNC_LOST : Fld := ⟨.STAMP_STATUS, 6, 6, .RO, 0, 1, 0, 2 ^ 64⟩
def STAMP_STATUS.SYNC_OK : Fld := ⟨.STAMP_STATUS, 5, 5, .RO, 0, 1, 0, 2 ^ 64⟩
def STAMP_CTL.GROUP_LEAD : Fld := ⟨.STAMP_CTL, 25, 16, .RW, 96, 7, 32, 1023⟩
def STAMP_CTL.SYNC_MISS_LIMIT : Fld := ⟨.STAMP_CTL, 11, 8, .RW, 4, 7, 1, 15⟩
def STAMP_CTL.WAVE_STRIDE : Fld := ⟨.STAMP_CTL, 5, 0, .RW, 4, 7, 4, 63⟩
def STAMP_LAST_STEP.DELTA : Fld := ⟨.STAMP_LAST_STEP, 63, 0, .RO, 0, 1, 0, 2 ^ 64⟩
def STAMP_COUNTS.STEPS : Fld := ⟨.STAMP_COUNTS, 63, 48, .RO, 0, 1, 0, 2 ^ 64⟩
def STAMP_COUNTS.CRC_ERRS : Fld := ⟨.STAMP_COUNTS, 47, 32, .RO, 0, 1, 0, 2 ^ 64⟩
def STAMP_COUNTS.MISSED : Fld := ⟨.STAMP_COUNTS, 31, 16, .RO, 0, 1, 0, 2 ^ 64⟩
def STAMP_COUNTS.GROUP_LATE : Fld := ⟨.STAMP_COUNTS, 15, 0, .RO, 0, 1, 0, 2 ^ 64⟩
def STAMP_EVENTS.DD_INT : Fld := ⟨.STAMP_EVENTS, 5, 5, .RW1C, 0, 7, 0, 2 ^ 64⟩
def STAMP_EVENTS.GROUP_SUSPENDED : Fld := ⟨.STAMP_EVENTS, 4, 4, .RW1C, 0, 7, 0, 2 ^ 64⟩
def STAMP_EVENTS.SYNC_LOST : Fld := ⟨.STAMP_EVENTS, 3, 3, .RW1C, 0, 7, 0, 2 ^ 64⟩
def STAMP_EVENTS.STEP : Fld := ⟨.STAMP_EVENTS, 2, 2, .RW1C, 0, 7, 0, 2 ^ 64⟩
def STAMP_EVENTS.HOLDOVER_LEFT : Fld := ⟨.STAMP_EVENTS, 1, 1, .RW1C, 0, 7, 0, 2 ^ 64⟩
def STAMP_EVENTS.HOLDOVER_ENTERED : Fld := ⟨.STAMP_EVENTS, 0, 0, .RW1C, 0, 7, 0, 2 ^ 64⟩
def DD_INDEX.INDEX : Fld := ⟨.DD_INDEX, 7, 0, .RW, 0, 7, 0, 2 ^ 64⟩
def DD_STAMP.STAMP : Fld := ⟨.DD_STAMP, 63, 0, .RW, 0, 7, 0, 2 ^ 64⟩
def DD_SPEC.ARG : Fld := ⟨.DD_SPEC, 63, 32, .RW, 0, 7, 0, 2 ^ 64⟩
def DD_SPEC.ACTION : Fld := ⟨.DD_SPEC, 31, 28, .RW, 0, 7, 0, 2 ^ 64⟩
def DD_SPEC.GROUP : Fld := ⟨.DD_SPEC, 27, 27, .RW, 0, 7, 0, 2 ^ 64⟩
def DD_SPEC.SUB : Fld := ⟨.DD_SPEC, 26, 24, .RW, 0, 7, 0, 2 ^ 64⟩
def DD_SPEC.SLOT : Fld := ⟨.DD_SPEC, 21, 16, .RW, 0, 7, 0, 2 ^ 64⟩
def DD_PERIOD.PERIOD : Fld := ⟨.DD_PERIOD, 31, 0, .RW, 0, 7, 0, 2 ^ 64⟩
def DD_CMD.CMD : Fld := ⟨.DD_CMD, 1, 0, .WO, 0, 0, 0, 2 ^ 64⟩
def DD_RESULT.MISSED : Fld := ⟨.DD_RESULT, 31, 16, .RO, 0, 7, 0, 2 ^ 64⟩
def DD_RESULT.NO_TARGET : Fld := ⟨.DD_RESULT, 12, 12, .RO, 0, 7, 0, 2 ^ 64⟩
def DD_RESULT.BUSY : Fld := ⟨.DD_RESULT, 11, 11, .RO, 0, 7, 0, 2 ^ 64⟩
def DD_RESULT.SUSPENDED : Fld := ⟨.DD_RESULT, 10, 10, .RO, 0, 7, 0, 2 ^ 64⟩
def DD_RESULT.SKIPPED : Fld := ⟨.DD_RESULT, 9, 9, .RO, 0, 7, 0, 2 ^ 64⟩
def DD_RESULT.LATE : Fld := ⟨.DD_RESULT, 8, 8, .RO, 0, 7, 0, 2 ^ 64⟩
def DD_RESULT.STATE : Fld := ⟨.DD_RESULT, 7, 4, .RO, 0, 7, 0, 2 ^ 64⟩
def DD_RESULT.RESULT : Fld := ⟨.DD_RESULT, 3, 0, .RO, 0, 7, 0, 2 ^ 64⟩
def DD_FIRED_AT.STAMP : Fld := ⟨.DD_FIRED_AT, 63, 0, .RO, 0, 7, 0, 2 ^ 64⟩
def DD_ARMED_COUNT.COUNT : Fld := ⟨.DD_ARMED_COUNT, 8, 0, .RO, 0, 7, 0, 2 ^ 64⟩
def PWR_STATUS.PROFILE : Fld := ⟨.PWR_STATUS, 7, 6, .RO, 0, 0, 0, 2 ^ 64⟩
def PWR_STATUS.CAP_UNMET : Fld := ⟨.PWR_STATUS, 3, 3, .RO, 0, 1, 0, 2 ^ 64⟩
def PWR_EVENTS.SENSOR_FAIL : Fld := ⟨.PWR_EVENTS, 5, 5, .RW1C, 0, 7, 0, 2 ^ 64⟩
def PWR_EVENTS.THROTTLE_ENTERED : Fld := ⟨.PWR_EVENTS, 4, 4, .RW1C, 0, 7, 0, 2 ^ 64⟩
def PWR_EVENTS.CAP_UNMET : Fld := ⟨.PWR_EVENTS, 3, 3, .RW1C, 0, 7, 0, 2 ^ 64⟩
def PWR_EVENTS.CEILING : Fld := ⟨.PWR_EVENTS, 2, 2, .RW1C, 0, 7, 0, 2 ^ 64⟩
def PWR_EVENTS.CAP_IN_ASSERTED : Fld := ⟨.PWR_EVENTS, 1, 1, .RW1C, 0, 7, 0, 2 ^ 64⟩
def PWR_EVENTS.OP_CHANGED : Fld := ⟨.PWR_EVENTS, 0, 0, .RW1C, 0, 7, 0, 2 ^ 64⟩
def PWR_CAP.HYST : Fld := ⟨.PWR_CAP, 27, 24, .RW, 4, 7, 1, 15⟩
def PWR_CAP.EMERG_W : Fld := ⟨.PWR_CAP, 23, 12, .RO, 1200, 0, 0, 2 ^ 64⟩
def PWR_CAP.CAP_W : Fld := ⟨.PWR_CAP, 11, 0, .RW, 2400, 7, 600, 2400⟩
def PWR_OP.TARGET : Fld := ⟨.PWR_OP, 2, 0, .RW, 0, 7, 0, 2 ^ 64⟩
def PWR_POLICY.OP_PERIOD_MS : Fld := ⟨.PWR_POLICY, 23, 16, .RW, 1, 7, 1, 255⟩
def PWR_POLICY.DOWN_D : Fld := ⟨.PWR_POLICY, 11, 8, .RW, 4, 7, 1, 15⟩
def THERM_CTL.THROTTLE_C : Fld := ⟨.THERM_CTL, 7, 0, .RW, 100, 7, 85, 105⟩
def PWR_ENERGY.MJ : Fld := ⟨.PWR_ENERGY, 63, 0, .RO, 0, 1, 0, 2 ^ 64⟩
def PWR_COUNTS.OP_CHANGES : Fld := ⟨.PWR_COUNTS, 63, 48, .RO, 0, 1, 0, 2 ^ 64⟩
def PWR_COUNTS.UNMET : Fld := ⟨.PWR_COUNTS, 47, 32, .RO, 0, 1, 0, 2 ^ 64⟩
def PWR_COUNTS.THROTTLE_MS : Fld := ⟨.PWR_COUNTS, 31, 0, .RO, 0, 1, 0, 2 ^ 64⟩
def THERM_SENSOR.FAILED : Fld := ⟨.THERM_SENSOR, 31, 31, .RO, 0, 0, 0, 2 ^ 64⟩
def THERM_SENSOR.PEAK_C : Fld := ⟨.THERM_SENSOR, 23, 16, .RO, 0, 1, 0, 2 ^ 64⟩
def THERM_SENSOR.TEMP : Fld := ⟨.THERM_SENSOR, 15, 0, .RO, 0, 0, 0, 2 ^ 64⟩
def TELEM_STAMP.STAMP : Fld := ⟨.TELEM_STAMP, 63, 0, .RO, 0, 7, 0, 2 ^ 64⟩
def TELEM_INFO.SEQ : Fld := ⟨.TELEM_INFO, 31, 16, .RO, 0, 7, 0, 2 ^ 64⟩
def TELEM_INFO.SETS : Fld := ⟨.TELEM_INFO, 7, 0, .RO, 0, 7, 0, 2 ^ 64⟩
def TELEM_INPUT.V : Fld := ⟨.TELEM_INPUT, 63, 0, .RO, 0, 7, 0, 2 ^ 64⟩
def TELEM_WING.V : Fld := ⟨.TELEM_WING, 31, 0, .RO, 0, 7, 0, 2 ^ 64⟩
def TELEM_TEMP.V : Fld := ⟨.TELEM_TEMP, 31, 0, .RO, 0, 7, 0, 2 ^ 64⟩
def UPD_CTL.CMD : Fld := ⟨.UPD_CTL, 3, 0, .WO, 0, 0, 0, 2 ^ 64⟩
def UPD_LEN.BYTES : Fld := ⟨.UPD_LEN, 19, 0, .RW, 0, 7, 0, 2 ^ 64⟩
def UPD_STATUS.STAGED : Fld := ⟨.UPD_STATUS, 63, 32, .RO, 0, 7, 0, 2 ^ 64⟩
def UPD_STATUS.POSTED : Fld := ⟨.UPD_STATUS, 31, 31, .RW1C, 0, 7, 0, 2 ^ 64⟩
def UPD_STATUS.RESULT : Fld := ⟨.UPD_STATUS, 23, 16, .RO, 0, 7, 0, 2 ^ 64⟩
def UPD_STATUS.DETAIL : Fld := ⟨.UPD_STATUS, 15, 8, .RO, 0, 7, 0, 2 ^ 64⟩
def UPD_STATUS.STATE : Fld := ⟨.UPD_STATUS, 3, 0, .RO, 0, 7, 0, 2 ^ 64⟩
def UPD_CFG.CONFIRM_S : Fld := ⟨.UPD_CFG, 11, 0, .RW, 600, 1, 60, 3600⟩
def LEDGER_CTL.PERIOD_S : Fld := ⟨.LEDGER_CTL, 11, 0, .RW, 600, 1, 60, 3600⟩
def LEDGER_CMD.CMD : Fld := ⟨.LEDGER_CMD, 1, 0, .WO, 0, 0, 0, 2 ^ 64⟩
def LEDGER_CAL_UTC.VALUE : Fld := ⟨.LEDGER_CAL_UTC, 63, 0, .RW, 0, 7, 0, 2 ^ 64⟩
def LEDGER_CAL_STAMP.VALUE : Fld := ⟨.LEDGER_CAL_STAMP, 63, 0, .RW, 0, 7, 0, 2 ^ 64⟩
def LEDGER_READ.SEQ : Fld := ⟨.LEDGER_READ, 31, 0, .RW, 0, 7, 0, 2 ^ 64⟩
def LEDGER_FLAGS.SNAP_DROPPED : Fld := ⟨.LEDGER_FLAGS, 31, 16, .RO, 0, 1, 0, 2 ^ 64⟩
def LEDGER_FLAGS.DATA_VALID : Fld := ⟨.LEDGER_FLAGS, 1, 1, .RO, 0, 7, 0, 2 ^ 64⟩
def LEDGER_FLAGS.BUSY : Fld := ⟨.LEDGER_FLAGS, 0, 0, .RO, 0, 7, 0, 2 ^ 64⟩
def WING_ID.DIE : Fld := ⟨.WING_ID, 10, 8, .RO, 0, 0, 0, 2 ^ 64⟩
def WING_ID.WING : Fld := ⟨.WING_ID, 4, 0, .RO, 0, 0, 0, 2 ^ 64⟩
def WING_STATUS.MAP_GEN : Fld := ⟨.WING_STATUS, 31, 16, .RO, 0, 1, 0, 2 ^ 64⟩
def WING_STATUS.SPARES_FREE : Fld := ⟨.WING_STATUS, 15, 8, .RO, 16, 1, 0, 2 ^ 64⟩
def WING_STATUS.SHELVES : Fld := ⟨.WING_STATUS, 7, 4, .RO, 8, 1, 0, 2 ^ 64⟩
def WING_STATUS.STATE : Fld := ⟨.WING_STATUS, 3, 0, .RO, 1, 1, 0, 2 ^ 64⟩
def WING_CMAP.SUBST_HI : Fld := ⟨.WING_CMAP, 31, 31, .RO, 0, 1, 0, 2 ^ 64⟩
def WING_CMAP.PHYS_HI : Fld := ⟨.WING_CMAP, 23, 16, .RO, 0, 1, 0, 2 ^ 64⟩
def WING_CMAP.SUBST_LO : Fld := ⟨.WING_CMAP, 15, 15, .RO, 0, 1, 0, 2 ^ 64⟩
def WING_CMAP.PHYS_LO : Fld := ⟨.WING_CMAP, 7, 0, .RO, 0, 1, 0, 2 ^ 64⟩
def WING_PWR_STATUS.POWER : Fld := ⟨.WING_PWR_STATUS, 31, 16, .RO, 0, 0, 0, 2 ^ 64⟩
def WING_DROOP.EVENTS : Fld := ⟨.WING_DROOP, 31, 16, .RO, 0, 39, 0, 2 ^ 64⟩
def WING_DROOP.DENSITY : Fld := ⟨.WING_DROOP, 11, 8, .RW, 8, 39, 1, 15⟩
def WING_DROOP.THRESH_MV : Fld := ⟨.WING_DROOP, 7, 0, .RW, 40, 39, 10, 100⟩
def WING_BUB_FORCE.MIN : Fld := ⟨.WING_BUB_FORCE, 3, 0, .RW, 0, 39, 0, 2 ^ 64⟩
def WBAR_STATUS.RELEASES : Fld := ⟨.WBAR_STATUS, 15, 8, .RO, 0, 39, 0, 2 ^ 64⟩
def WBAR_LAST.STAMP : Fld := ⟨.WBAR_LAST, 63, 0, .RO, 0, 39, 0, 2 ^ 64⟩
def HOME_COUNTS.NACKS : Fld := ⟨.HOME_COUNTS, 63, 32, .RO, 0, 7, 0, 2 ^ 64⟩
def HOME_COUNTS.RESERVES : Fld := ⟨.HOME_COUNTS, 31, 16, .RO, 0, 7, 0, 2 ^ 64⟩
def HOME_COUNTS.REBUILDS : Fld := ⟨.HOME_COUNTS, 15, 0, .RO, 0, 7, 0, 2 ^ 64⟩
def HOME_EVICTS.COUNT : Fld := ⟨.HOME_EVICTS, 63, 0, .RO, 0, 7, 0, 2 ^ 64⟩
def WING_CACHE_CTL.PF_EN : Fld := ⟨.WING_CACHE_CTL, 1, 1, .RW, 1, 39, 0, 2 ^ 64⟩
def WING_CACHE_CTL.ENABLE : Fld := ⟨.WING_CACHE_CTL, 0, 0, .RW, 1, 39, 0, 2 ^ 64⟩
def WING_CACHE_STATUS.STATE : Fld := ⟨.WING_CACHE_STATUS, 3, 0, .RO, 0, 39, 0, 2 ^ 64⟩
def WING_CACHE_HITS.COUNT : Fld := ⟨.WING_CACHE_HITS, 63, 0, .RO, 0, 39, 0, 2 ^ 64⟩
def WING_CACHE_MISSES.COUNT : Fld := ⟨.WING_CACHE_MISSES, 63, 0, .RO, 0, 39, 0, 2 ^ 64⟩
def WING_CACHE_SNOOPS.COUNT : Fld := ⟨.WING_CACHE_SNOOPS, 63, 0, .RO, 0, 39, 0, 2 ^ 64⟩
def WING_CACHE_PF.COUNT : Fld := ⟨.WING_CACHE_PF, 63, 0, .RO, 0, 39, 0, 2 ^ 64⟩
def WING_CACHE_EB_HITS.COUNT : Fld := ⟨.WING_CACHE_EB_HITS, 63, 0, .RO, 0, 39, 0, 2 ^ 64⟩
def RAT_BASE.ADDR : Fld := ⟨.RAT_BASE, 52, 12, .RWL, 0, 1, 0, 2 ^ 64⟩
def RAT_LIMIT.ADDR : Fld := ⟨.RAT_LIMIT, 52, 12, .RWL, 0, 1, 0, 2 ^ 64⟩
def RAT_ATTR.VALID : Fld := ⟨.RAT_ATTR, 31, 31, .RWL, 0, 1, 0, 2 ^ 64⟩
def RAT_ATTR.NOPF : Fld := ⟨.RAT_ATTR, 4, 4, .RWL, 0, 1, 0, 2 ^ 64⟩
def RAT_ATTR.POLICY : Fld := ⟨.RAT_ATTR, 1, 0, .RWL, 0, 1, 0, 2 ^ 64⟩
def MEM_MAPOUT.GO : Fld := ⟨.MEM_MAPOUT, 63, 63, .WO, 0, 0, 0, 2 ^ 64⟩
def MEM_MAPOUT.PROGRESS : Fld := ⟨.MEM_MAPOUT, 50, 32, .RO, 0, 7, 0, 2 ^ 64⟩
def MEM_MAPOUT.RESULT : Fld := ⟨.MEM_MAPOUT, 27, 24, .RO, 0, 7, 0, 2 ^ 64⟩
def MEM_MAPOUT.STATE : Fld := ⟨.MEM_MAPOUT, 19, 16, .RO, 0, 7, 0, 2 ^ 64⟩
def MEM_MAPOUT.CHANNEL : Fld := ⟨.MEM_MAPOUT, 8, 0, .RW, 0, 7, 0, 2 ^ 64⟩
def MEM_POLICY.AUTO : Fld := ⟨.MEM_POLICY, 31, 31, .RW, 1, 7, 0, 2 ^ 64⟩
def MEM_POLICY.SCRUB_HOURS : Fld := ⟨.MEM_POLICY, 23, 16, .RW, 24, 7, 0, 2 ^ 64⟩
def MEM_POLICY.CE_LIMIT : Fld := ⟨.MEM_POLICY, 15, 0, .RW, 1024, 7, 1, 65535⟩
def MEM_PART.TOTAL : Fld := ⟨.MEM_PART, 63, 44, .RO, 0, 1, 0, 2 ^ 64⟩
def MEM_PART.CUT : Fld := ⟨.MEM_PART, 23, 12, .RO, 0, 1, 0, 2 ^ 64⟩
def CMAP.VALID : Fld := ⟨.CMAP, 63, 63, .RO, 0, 1, 0, 2 ^ 64⟩
def CMAP.BASE_FRAME : Fld := ⟨.CMAP, 50, 32, .RO, 0, 1, 0, 2 ^ 64⟩
def CMAP.STATE : Fld := ⟨.CMAP, 31, 28, .RO, 0, 1, 0, 2 ^ 64⟩
def CMAP.CHANNEL : Fld := ⟨.CMAP, 8, 0, .RO, 0, 1, 0, 2 ^ 64⟩
def MC_CHAN.CE : Fld := ⟨.MC_CHAN, 63, 32, .RO, 0, 1, 0, 2 ^ 64⟩
def MC_CHAN.UC : Fld := ⟨.MC_CHAN, 31, 16, .RO, 0, 1, 0, 2 ^ 64⟩
def MC_CHAN.STATE : Fld := ⟨.MC_CHAN, 3, 0, .RO, 0, 1, 0, 2 ^ 64⟩
def RES_CTL.FLUSH : Fld := ⟨.RES_CTL, 1, 1, .WO, 0, 0, 0, 2 ^ 64⟩
def RES_CTL.ENABLE : Fld := ⟨.RES_CTL, 0, 0, .RW, 1, 7, 0, 2 ^ 64⟩
def RES_STATUS.STATE : Fld := ⟨.RES_STATUS, 3, 0, .RO, 1, 7, 0, 2 ^ 64⟩
def RES_CLASS.SLOT_VALID : Fld := ⟨.RES_CLASS, 63, 63, .RWL, 0, 1, 0, 2 ^ 64⟩
def RES_CLASS.SLOT : Fld := ⟨.RES_CLASS, 61, 56, .RWL, 0, 1, 0, 2 ^ 64⟩
def RES_CLASS.MASK : Fld := ⟨.RES_CLASS, 47, 32, .RW, 0, 7, 0, 2 ^ 64⟩
def RES_CLASS.HINT : Fld := ⟨.RES_CLASS, 17, 16, .RW, 1, 7, 0, 2⟩
def RES_CLASS.COUNT : Fld := ⟨.RES_CLASS, 7, 0, .RW, 1, 7, 0, 2 ^ 64⟩
def REG_STACK.CEIL : Fld := ⟨.REG_STACK, 24, 16, .RW, 256, 7, 0, 2 ^ 64⟩
def REG_STACK.GUAR : Fld := ⟨.REG_STACK, 8, 0, .RW, 0, 7, 0, 2 ^ 64⟩
def REG_LINK.CEIL : Fld := ⟨.REG_LINK, 24, 16, .RW, 256, 7, 0, 2 ^ 64⟩
def REG_LINK.GUAR : Fld := ⟨.REG_LINK, 8, 0, .RW, 0, 7, 0, 2 ^ 64⟩
def PORT_STATUS.LANES : Fld := ⟨.PORT_STATUS, 7, 4, .RO, 0, 0, 0, 2 ^ 64⟩
def PORT_STATUS.LINK_UP : Fld := ⟨.PORT_STATUS, 0, 0, .RO, 0, 7, 0, 2 ^ 64⟩
def PORT_MAC.MAC : Fld := ⟨.PORT_MAC, 47, 0, .RW, 0, 7, 0, 2 ^ 64⟩
def PORT_IP_LO.IP : Fld := ⟨.PORT_IP_LO, 63, 0, .RW, 0, 7, 0, 2 ^ 64⟩
def PORT_IP_HI.IP : Fld := ⟨.PORT_IP_HI, 63, 0, .RW, 0, 7, 0, 2 ^ 64⟩
def PORT_PFC.XOFF_KIB : Fld := ⟨.PORT_PFC, 23, 16, .RW, 128, 7, 0, 2 ^ 64⟩
def PORT_PFC.ENABLE : Fld := ⟨.PORT_PFC, 7, 0, .RW, 0, 7, 0, 2 ^ 64⟩
def PORT_COUNTS.RX_DROP : Fld := ⟨.PORT_COUNTS, 63, 32, .RO, 0, 7, 0, 2 ^ 64⟩
def PORT_COUNTS.ICRC_ERR : Fld := ⟨.PORT_COUNTS, 31, 16, .RO, 0, 7, 0, 2 ^ 64⟩
def PORT_COUNTS.CNP_SENT : Fld := ⟨.PORT_COUNTS, 15, 0, .RO, 0, 7, 0, 2 ^ 64⟩
def QP_INDEX.INDEX : Fld := ⟨.QP_INDEX, 13, 0, .RW, 0, 7, 0, 2 ^ 64⟩
def QP_CMD.CMD : Fld := ⟨.QP_CMD, 1, 0, .WO, 0, 0, 0, 2 ^ 64⟩
def QP_RESULT.RESULT : Fld := ⟨.QP_RESULT, 3, 0, .RO, 0, 7, 0, 2 ^ 64⟩
def MR_INDEX.INDEX : Fld := ⟨.MR_INDEX, 13, 0, .RW, 0, 7, 0, 2 ^ 64⟩
def MR_CMD.CMD : Fld := ⟨.MR_CMD, 1, 0, .WO, 0, 0, 0, 2 ^ 64⟩
def MR_RESULT.RESULT : Fld := ⟨.MR_RESULT, 3, 0, .RO, 0, 7, 0, 2 ^ 64⟩
def NET_CC.CNP_INTERVAL : Fld := ⟨.NET_CC, 63, 48, .RW, 50, 7, 0, 2 ^ 64⟩
def NET_CC.RECOVER_US : Fld := ⟨.NET_CC, 47, 32, .RW, 55, 7, 0, 2 ^ 64⟩
def NET_CC.RAI_MBPS : Fld := ⟨.NET_CC, 31, 0, .RW, 40, 7, 0, 2 ^ 64⟩
def CAS_STATUS.PRESENT : Fld := ⟨.CAS_STATUS, 39, 32, .RO, 0, 7, 0, 2 ^ 64⟩
def CAS_STATUS.STATE : Fld := ⟨.CAS_STATUS, 3, 0, .RO, 0, 7, 0, 2 ^ 64⟩
def PLOLI_LINK.RETRAINS : Fld := ⟨.PLOLI_LINK, 63, 48, .RO, 0, 7, 0, 2 ^ 64⟩
def PLOLI_LINK.PEER_MAJOR : Fld := ⟨.PLOLI_LINK, 15, 8, .RO, 0, 7, 0, 2 ^ 64⟩
def PLOLI_LINK.STATE : Fld := ⟨.PLOLI_LINK, 3, 0, .RO, 0, 7, 0, 2 ^ 64⟩
def IL_SEL.HANDLE : Fld := ⟨.IL_SEL, 13, 8, .RW, 0, 7, 0, 2 ^ 64⟩
def IL_SEL.SLOT : Fld := ⟨.IL_SEL, 5, 0, .RW, 0, 7, 0, 2 ^ 64⟩
def IL_TARGET.OFFSET : Fld := ⟨.IL_TARGET, 63, 24, .RW, 0, 7, 0, 2 ^ 64⟩
def IL_TARGET.LEN : Fld := ⟨.IL_TARGET, 23, 0, .RW, 0, 7, 0, 2 ^ 64⟩
def IL_CMD.RESULT : Fld := ⟨.IL_CMD, 27, 24, .RO, 0, 7, 0, 2 ^ 64⟩
def IL_CMD.WINDOWED : Fld := ⟨.IL_CMD, 19, 19, .RW, 0, 7, 0, 2 ^ 64⟩
def IL_CMD.WR : Fld := ⟨.IL_CMD, 18, 18, .RW, 0, 7, 0, 2 ^ 64⟩
def IL_CMD.RD : Fld := ⟨.IL_CMD, 17, 17, .RW, 0, 7, 0, 2 ^ 64⟩
def IL_CMD.WINDOW : Fld := ⟨.IL_CMD, 16, 8, .RW, 0, 7, 0, 2 ^ 64⟩
def IL_CMD.MEMBER : Fld := ⟨.IL_CMD, 6, 4, .RW, 0, 7, 0, 2 ^ 64⟩
def IL_CMD.CMD : Fld := ⟨.IL_CMD, 1, 0, .WO, 0, 0, 0, 2 ^ 64⟩
def PEER.VALID : Fld := ⟨.PEER, 31, 31, .RW, 0, 7, 0, 2 ^ 64⟩
def PEER.WINDOW : Fld := ⟨.PEER, 21, 16, .RW, 0, 7, 0, 2 ^ 64⟩
def PEER.RID : Fld := ⟨.PEER, 15, 0, .RW, 0, 7, 0, 2 ^ 64⟩
def WIN_BASE.ADDR : Fld := ⟨.WIN_BASE, 56, 12, .RW, 0, 7, 0, 2 ^ 64⟩
def WIN_CFG.ENABLE : Fld := ⟨.WIN_CFG, 63, 63, .RW, 0, 7, 0, 2 ^ 64⟩
def WIN_CFG.PASID : Fld := ⟨.WIN_CFG, 51, 32, .RW, 0, 7, 0, 2 ^ 64⟩
def WIN_CFG.GRANULES : Fld := ⟨.WIN_CFG, 16, 0, .RW, 0, 7, 0, 2 ^ 64⟩
def WIN_CTL.SYNC : Fld := ⟨.WIN_CTL, 0, 0, .WO, 0, 0, 0, 2 ^ 64⟩
def WIN_STATUS.REFUSED : Fld := ⟨.WIN_STATUS, 31, 0, .RO, 0, 7, 0, 2 ^ 64⟩
def PART_STATUS.HELD_WRITES : Fld := ⟨.PART_STATUS, 3, 3, .RO, 0, 23, 0, 2 ^ 64⟩
def PART_STATUS.PAUSED : Fld := ⟨.PART_STATUS, 2, 2, .RO, 0, 23, 0, 2 ^ 64⟩
def PART_STATUS.READY : Fld := ⟨.PART_STATUS, 0, 0, .RO, 0, 23, 0, 2 ^ 64⟩
def PART_CONTROL.ERR_VEC : Fld := ⟨.PART_CONTROL, 23, 16, .RW, 0, 23, 0, 2 ^ 64⟩
def PART_CONTROL.ERR_IRQ : Fld := ⟨.PART_CONTROL, 0, 0, .RW, 0, 23, 0, 2 ^ 64⟩
def PART_CPL.ORPHANED : Fld := ⟨.PART_CPL, 63, 48, .RO, 0, 7, 0, 2 ^ 64⟩
def PART_CPL.LATE_CPL : Fld := ⟨.PART_CPL, 47, 32, .RO, 0, 7, 0, 2 ^ 64⟩
def PART_CPL.TIMEOUTS : Fld := ⟨.PART_CPL, 31, 0, .RO, 0, 7, 0, 2 ^ 64⟩
def PART_ACCESS.INBOX_REJ : Fld := ⟨.PART_ACCESS, 31, 16, .RO, 0, 7, 0, 2 ^ 64⟩
def PART_ACCESS.BAD_MMIO : Fld := ⟨.PART_ACCESS, 15, 0, .RO, 0, 7, 0, 2 ^ 64⟩
def SLOT_CFG.PASID : Fld := ⟨.SLOT_CFG, 43, 24, .RW, 0, 23, 0, 2 ^ 64⟩
def SLOT_CFG.GROUP_BAR : Fld := ⟨.SLOT_CFG, 23, 20, .RW, 0, 23, 0, 2 ^ 64⟩
def SLOT_CFG.GATED : Fld := ⟨.SLOT_CFG, 19, 16, .RW, 0, 23, 0, 2 ^ 64⟩
def SLOT_CFG.PRIORITY : Fld := ⟨.SLOT_CFG, 13, 12, .RW, 0, 23, 0, 2 ^ 64⟩
def SLOT_CFG.SHELVES : Fld := ⟨.SLOT_CFG, 8, 0, .RW, 0, 23, 0, 2 ^ 64⟩
def SLOT_CTL.CLR_FLAGS : Fld := ⟨.SLOT_CTL, 1, 1, .WO, 0, 0, 0, 2 ^ 64⟩
def SLOT_CTL.END : Fld := ⟨.SLOT_CTL, 0, 0, .WO, 0, 0, 0, 2 ^ 64⟩
def SLOT_STATUS.ENTRIES : Fld := ⟨.SLOT_STATUS, 31, 24, .RO, 0, 23, 0, 2 ^ 64⟩
def SLOT_STATUS.START_PENDING : Fld := ⟨.SLOT_STATUS, 16, 16, .RO, 0, 23, 0, 2 ^ 64⟩
def SLOT_STATUS.CFG_REFUSED : Fld := ⟨.SLOT_STATUS, 11, 11, .RO, 0, 23, 0, 2 ^ 64⟩
def SLOT_STATUS.SHELF_LOST : Fld := ⟨.SLOT_STATUS, 10, 10, .RO, 0, 23, 0, 2 ^ 64⟩
def SLOT_STATUS.START_BUSY : Fld := ⟨.SLOT_STATUS, 9, 9, .RO, 0, 23, 0, 2 ^ 64⟩
def SLOT_STATUS.STATE : Fld := ⟨.SLOT_STATUS, 3, 0, .RO, 0, 23, 0, 2 ^ 64⟩
def DB_SQ.GEN : Fld := ⟨.DB_SQ, 16, 16, .WO, 0, 0, 0, 2 ^ 64⟩
def DB_SQ.TAIL : Fld := ⟨.DB_SQ, 15, 0, .WO, 0, 0, 0, 2 ^ 64⟩
def DB_CQ.GEN : Fld := ⟨.DB_CQ, 16, 16, .WO, 0, 0, 0, 2 ^ 64⟩
def DB_CQ.HEAD : Fld := ⟨.DB_CQ, 15, 0, .WO, 0, 0, 0, 2 ^ 64⟩
def SQ_BASE.ADDR : Fld := ⟨.SQ_BASE, 56, 12, .RW, 0, 23, 0, 2 ^ 64⟩
def CQ_BASE.ADDR : Fld := ⟨.CQ_BASE, 56, 12, .RW, 0, 23, 0, 2 ^ 64⟩
def Q_CFG.ENABLE : Fld := ⟨.Q_CFG, 63, 63, .RW, 0, 23, 0, 2 ^ 64⟩
def Q_CFG.ERR_IRQ : Fld := ⟨.Q_CFG, 62, 62, .RW, 0, 23, 0, 2 ^ 64⟩
def Q_CFG.ERR_VEC : Fld := ⟨.Q_CFG, 31, 24, .RW, 0, 23, 0, 2 ^ 64⟩
def Q_CFG.CQ_LOG2 : Fld := ⟨.Q_CFG, 11, 8, .RW, 0, 23, 0, 2 ^ 64⟩
def Q_CFG.SQ_LOG2 : Fld := ⟨.Q_CFG, 3, 0, .RW, 0, 23, 0, 2 ^ 64⟩
def Q_STATUS.CQ_TAIL : Fld := ⟨.Q_STATUS, 63, 48, .RO, 0, 23, 0, 2 ^ 64⟩
def Q_STATUS.SQ_HEAD : Fld := ⟨.Q_STATUS, 47, 32, .RO, 0, 23, 0, 2 ^ 64⟩
def Q_STATUS.DB_IGNORED : Fld := ⟨.Q_STATUS, 31, 28, .RO, 0, 23, 0, 2 ^ 64⟩
def Q_STATUS.CQ_GEN : Fld := ⟨.Q_STATUS, 27, 27, .RO, 1, 23, 0, 2 ^ 64⟩
def Q_STATUS.SQ_GEN : Fld := ⟨.Q_STATUS, 26, 26, .RO, 1, 23, 0, 2 ^ 64⟩
def Q_STATUS.ERROR : Fld := ⟨.Q_STATUS, 23, 16, .RO, 0, 23, 0, 2 ^ 64⟩
def Q_STATUS.STATE : Fld := ⟨.Q_STATUS, 3, 0, .RO, 0, 23, 0, 2 ^ 64⟩
def Q_CTL.RESUME : Fld := ⟨.Q_CTL, 0, 0, .WO, 0, 0, 0, 2 ^ 64⟩
def CS_SLIP_ADDR.ADDR : Fld := ⟨.CS_SLIP_ADDR, 56, 6, .RW, 0, 23, 0, 2 ^ 64⟩
def CS_DLV_ADDR.ADDR : Fld := ⟨.CS_DLV_ADDR, 56, 6, .RW, 0, 23, 0, 2 ^ 64⟩
def CS_CTL.EXC_VEC : Fld := ⟨.CS_CTL, 23, 16, .RW, 0, 23, 0, 2 ^ 64⟩
def CS_CTL.EXC_IRQ : Fld := ⟨.CS_CTL, 8, 8, .RW, 0, 23, 0, 2 ^ 64⟩
def CS_CTL.MODE : Fld := ⟨.CS_CTL, 1, 0, .RW, 0, 23, 0, 2 ^ 64⟩
def CS_STATUS.LAST_SEQ : Fld := ⟨.CS_STATUS, 63, 32, .RO, 0, 23, 0, 2 ^ 64⟩
def CS_STATUS.SPURIOUS : Fld := ⟨.CS_STATUS, 31, 16, .RO, 0, 23, 0, 2 ^ 64⟩
def CS_STATUS.PENDING : Fld := ⟨.CS_STATUS, 8, 8, .RO, 0, 23, 0, 2 ^ 64⟩
def CS_STATUS.STATE : Fld := ⟨.CS_STATUS, 3, 0, .RO, 0, 23, 0, 2 ^ 64⟩
def SLIP_SEL.SLOT : Fld := ⟨.SLIP_SEL, 5, 0, .RW, 0, 23, 0, 2 ^ 64⟩
def SLIP_GO.GO : Fld := ⟨.SLIP_GO, 0, 0, .WO, 0, 0, 0, 2 ^ 64⟩
def XL_STATUS.EPOCH : Fld := ⟨.XL_STATUS, 63, 48, .RO, 0, 23, 0, 2 ^ 64⟩
def XL_STATUS.PRI_STOPPED : Fld := ⟨.XL_STATUS, 47, 47, .RO, 0, 23, 0, 2 ^ 64⟩
def XL_COUNTS.INVALS : Fld := ⟨.XL_COUNTS, 63, 48, .RO, 0, 23, 0, 2 ^ 64⟩
def XL_COUNTS.PAGE_REQS : Fld := ⟨.XL_COUNTS, 47, 32, .RO, 0, 23, 0, 2 ^ 64⟩
def XL_COUNTS.ATS_REQS : Fld := ⟨.XL_COUNTS, 31, 0, .RO, 0, 23, 0, 2 ^ 64⟩
def FLOG_BASE.ADDR : Fld := ⟨.FLOG_BASE, 56, 12, .RW, 0, 23, 0, 2 ^ 64⟩
def FLOG_CFG.ENABLE : Fld := ⟨.FLOG_CFG, 31, 31, .RW, 0, 23, 0, 2 ^ 64⟩
def FLOG_CFG.IRQ : Fld := ⟨.FLOG_CFG, 8, 8, .RW, 0, 23, 0, 2 ^ 64⟩
def FLOG_CFG.VEC : Fld := ⟨.FLOG_CFG, 7, 0, .RW, 0, 23, 0, 2 ^ 64⟩
def FLOG_HEAD.HEAD : Fld := ⟨.FLOG_HEAD, 10, 0, .RW, 0, 23, 0, 2 ^ 64⟩
def FLOG_STATUS.DROPPED : Fld := ⟨.FLOG_STATUS, 63, 32, .RO, 0, 23, 0, 2 ^ 64⟩
def FLOG_STATUS.OVERFLOW : Fld := ⟨.FLOG_STATUS, 31, 31, .RW1C, 0, 23, 0, 2 ^ 64⟩
def FLOG_STATUS.TAIL : Fld := ⟨.FLOG_STATUS, 10, 0, .RO, 0, 23, 0, 2 ^ 64⟩
def XL_PROBE_VA.VPN : Fld := ⟨.XL_PROBE_VA, 56, 21, .RW, 0, 7, 0, 2 ^ 64⟩
def XL_PROBE_PASID.PASID : Fld := ⟨.XL_PROBE_PASID, 19, 0, .RW, 0, 7, 0, 2 ^ 64⟩
def XL_PROBE_RESULT.DONE : Fld := ⟨.XL_PROBE_RESULT, 63, 63, .RO, 1, 23, 0, 2 ^ 64⟩
def XL_PROBE_RESULT.ADVICE : Fld := ⟨.XL_PROBE_RESULT, 62, 60, .RO, 0, 23, 0, 2 ^ 64⟩
def XL_PROBE_RESULT.RD : Fld := ⟨.XL_PROBE_RESULT, 59, 59, .RO, 0, 23, 0, 2 ^ 64⟩
def XL_PROBE_RESULT.WR : Fld := ⟨.XL_PROBE_RESULT, 58, 58, .RO, 0, 23, 0, 2 ^ 64⟩
def XL_PROBE_RESULT.FRAME : Fld := ⟨.XL_PROBE_RESULT, 50, 32, .RO, 0, 23, 0, 2 ^ 64⟩
def XL_PROBE_RESULT.STATE : Fld := ⟨.XL_PROBE_RESULT, 3, 0, .RO, 0, 23, 0, 2 ^ 64⟩
def TRB_TOTAL_SAT.COUNT : Fld := ⟨.TRB_TOTAL_SAT, 63, 0, .RO, 0, 23, 0, 2 ^ 64⟩
def TRB_TOTAL_FIN.COUNT : Fld := ⟨.TRB_TOTAL_FIN, 63, 0, .RO, 0, 23, 0, 2 ^ 64⟩
def TRB_TOTAL_FOUT.COUNT : Fld := ⟨.TRB_TOTAL_FOUT, 63, 0, .RO, 0, 23, 0, 2 ^ 64⟩
def TRB_TOTAL_NAN.COUNT : Fld := ⟨.TRB_TOTAL_NAN, 63, 0, .RO, 0, 23, 0, 2 ^ 64⟩
def TRB_CLEAR.SLOTS : Fld := ⟨.TRB_CLEAR, 63, 0, .WO, 0, 0, 0, 2 ^ 64⟩
def LT_PART.BASE_FRAME : Fld := ⟨.LT_PART, 63, 45, .RO, 0, 1, 0, 2 ^ 64⟩
def LT_PART.LOG2_B : Fld := ⟨.LT_PART, 44, 40, .RO, 0, 1, 0, 2 ^ 64⟩
def CAGE_CTL.POWER_ON : Fld := ⟨.CAGE_CTL, 10, 10, .RW, 0, 7, 0, 2 ^ 64⟩
def CAGE_CTL.ATTN_IND : Fld := ⟨.CAGE_CTL, 9, 8, .RW, 3, 7, 1, 3⟩
def CAGE_CTL.PWR_IND : Fld := ⟨.CAGE_CTL, 7, 6, .RW, 3, 7, 1, 3⟩
def CAGE_CTL.PRES_IE : Fld := ⟨.CAGE_CTL, 3, 3, .RW, 0, 7, 0, 2 ^ 64⟩
def CAGE_CTL.BTN_IE : Fld := ⟨.CAGE_CTL, 2, 2, .RW, 0, 7, 0, 2 ^ 64⟩
def CAGE_CTL.FAULT_IE : Fld := ⟨.CAGE_CTL, 1, 1, .RW, 0, 7, 0, 2 ^ 64⟩
def CAGE_CTL.DONE_IE : Fld := ⟨.CAGE_CTL, 0, 0, .RW, 0, 7, 0, 2 ^ 64⟩
def CAGE_STATUS.PRES_CHANGED : Fld := ⟨.CAGE_STATUS, 3, 3, .RW1C, 0, 7, 0, 2 ^ 64⟩
def CAGE_STATUS.BTN_PRESSED : Fld := ⟨.CAGE_STATUS, 2, 2, .RW1C, 0, 7, 0, 2 ^ 64⟩
def CAGE_STATUS.PWR_FAULT : Fld := ⟨.CAGE_STATUS, 1, 1, .RW1C, 0, 7, 0, 2 ^ 64⟩
def CAGE_STATUS.CMD_DONE : Fld := ⟨.CAGE_STATUS, 0, 0, .RW1C, 0, 7, 0, 2 ^ 64⟩
def IDV_LINK.RETRAINS : Fld := ⟨.IDV_LINK, 27, 16, .RO, 0, 1, 0, 2 ^ 64⟩
def IDV_LINK.REPAIRED : Fld := ⟨.IDV_LINK, 15, 8, .RO, 0, 0, 0, 2 ^ 64⟩
def IDV_LINK.ACTIVE : Fld := ⟨.IDV_LINK, 7, 4, .RO, 0, 0, 0, 2 ^ 64⟩
def IDV_LINK.WIDTH : Fld := ⟨.IDV_LINK, 3, 0, .RO, 0, 0, 0, 2 ^ 64⟩

/-- The stored fields of each register. -/
def RegKind.fields : RegKind → List Fld
  | .IDENT_VID => [IDENT_VID.VID]
  | .IDENT_BLOCK => [IDENT_BLOCK.FAULT_ARR, IDENT_BLOCK.STACKS, IDENT_BLOCK.SPARES, IDENT_BLOCK.ACTIVE, IDENT_BLOCK.WINGS]
  | .BLOCK_VERSION => [BLOCK_VERSION.MAJOR, BLOCK_VERSION.MINOR]
  | .DEV_STATUS => [DEV_STATUS.RECORD_COPY, DEV_STATUS.FW_FAIL, DEV_STATUS.ACCESSION_FAIL, DEV_STATUS.STATE, DEV_STATUS.SAFE, DEV_STATUS.READY]
  | .DEV_CONTROL => [DEV_CONTROL.SHUT_DONE, DEV_CONTROL.TEST_REQ, DEV_CONTROL.SHUTDOWN]
  | .MGMT_INT_STATUS => [MGMT_INT_STATUS.UPDATE, MGMT_INT_STATUS.CAP_UNMET, MGMT_INT_STATUS.CAGE, MGMT_INT_STATUS.ERROR, MGMT_INT_STATUS.STAMP]
  | .MGMT_INT_ENABLE => [MGMT_INT_ENABLE.UPDATE, MGMT_INT_ENABLE.CAP_UNMET, MGMT_INT_ENABLE.CAGE, MGMT_INT_ENABLE.ERROR, MGMT_INT_ENABLE.STAMP]
  | .RESET_CTL => [RESET_CTL.BUSY, RESET_CTL.KEY, RESET_CTL.KIND]
  | .RESET_CAUSE => [RESET_CAUSE.SOURCE, RESET_CAUSE.WAS_SAFE, RESET_CAUSE.CAUSE]
  | .LIFECYCLE => [LIFECYCLE.RESULT]
  | .LC_REQUEST => [LC_REQUEST.GO, LC_REQUEST.TARGET]
  | .WCOL_PINS => [WCOL_PINS.PIN]
  | .COL_STATUS => [COL_STATUS.OVERFLOW, COL_STATUS.DEPTH, COL_STATUS.FORCED, COL_STATUS.FATAL_PEND, COL_STATUS.UC_PEND, COL_STATUS.CE_PEND]
  | .COL_COUNTS => [COL_COUNTS.CE, COL_COUNTS.UC, COL_COUNTS.FATAL]
  | .COL_REACT => [COL_REACT.FATAL_MASK, COL_REACT.UC_MASK, COL_REACT.CE_MASK]
  | .COL_REACT_W1 => [COL_REACT_W1.FATAL_MASK, COL_REACT_W1.UC_MASK, COL_REACT_W1.CE_MASK]
  | .COL_REACT_W2 => [COL_REACT_W2.FATAL_MASK, COL_REACT_W2.UC_MASK, COL_REACT_W2.CE_MASK]
  | .COL_SEV => [COL_SEV.ENABLE, COL_SEV.FATAL_AS, COL_SEV.UC_AS, COL_SEV.CE_AS]
  | .COL_FORCE => [COL_FORCE.GO, COL_FORCE.CLASS, COL_FORCE.SEV, COL_FORCE.INSTANCE, COL_FORCE.SUB]
  | .COL_HIST => [COL_HIST.CLEAR, COL_HIST.INDEX]
  | .SAFE_CAUSE => [SAFE_CAUSE.SOURCE, SAFE_CAUSE.CAUSE]
  | .ERR_PIN => [ERR_PIN.HELD, ERR_PIN.CLEAR]
  | .STAMP_NOW => [STAMP_NOW.VALUE]
  | .STAMP_STATUS => [STAMP_STATUS.GROUP_SUSPENDED, STAMP_STATUS.SYNC_LOST, STAMP_STATUS.SYNC_OK]
  | .STAMP_CTL => [STAMP_CTL.GROUP_LEAD, STAMP_CTL.SYNC_MISS_LIMIT, STAMP_CTL.WAVE_STRIDE]
  | .STAMP_LAST_STEP => [STAMP_LAST_STEP.DELTA]
  | .STAMP_COUNTS => [STAMP_COUNTS.STEPS, STAMP_COUNTS.CRC_ERRS, STAMP_COUNTS.MISSED, STAMP_COUNTS.GROUP_LATE]
  | .STAMP_EVENTS => [STAMP_EVENTS.DD_INT, STAMP_EVENTS.GROUP_SUSPENDED, STAMP_EVENTS.SYNC_LOST, STAMP_EVENTS.STEP, STAMP_EVENTS.HOLDOVER_LEFT, STAMP_EVENTS.HOLDOVER_ENTERED]
  | .DD_INDEX => [DD_INDEX.INDEX]
  | .DD_STAMP => [DD_STAMP.STAMP]
  | .DD_SPEC => [DD_SPEC.ARG, DD_SPEC.ACTION, DD_SPEC.GROUP, DD_SPEC.SUB, DD_SPEC.SLOT]
  | .DD_PERIOD => [DD_PERIOD.PERIOD]
  | .DD_CMD => [DD_CMD.CMD]
  | .DD_RESULT => [DD_RESULT.MISSED, DD_RESULT.NO_TARGET, DD_RESULT.BUSY, DD_RESULT.SUSPENDED, DD_RESULT.SKIPPED, DD_RESULT.LATE, DD_RESULT.STATE, DD_RESULT.RESULT]
  | .DD_FIRED_AT => [DD_FIRED_AT.STAMP]
  | .DD_ARMED_COUNT => [DD_ARMED_COUNT.COUNT]
  | .PWR_STATUS => [PWR_STATUS.PROFILE, PWR_STATUS.CAP_UNMET]
  | .PWR_EVENTS => [PWR_EVENTS.SENSOR_FAIL, PWR_EVENTS.THROTTLE_ENTERED, PWR_EVENTS.CAP_UNMET, PWR_EVENTS.CEILING, PWR_EVENTS.CAP_IN_ASSERTED, PWR_EVENTS.OP_CHANGED]
  | .PWR_CAP => [PWR_CAP.HYST, PWR_CAP.EMERG_W, PWR_CAP.CAP_W]
  | .PWR_OP => [PWR_OP.TARGET]
  | .PWR_POLICY => [PWR_POLICY.OP_PERIOD_MS, PWR_POLICY.DOWN_D]
  | .THERM_CTL => [THERM_CTL.THROTTLE_C]
  | .PWR_ENERGY => [PWR_ENERGY.MJ]
  | .PWR_COUNTS => [PWR_COUNTS.OP_CHANGES, PWR_COUNTS.UNMET, PWR_COUNTS.THROTTLE_MS]
  | .THERM_SENSOR => [THERM_SENSOR.FAILED, THERM_SENSOR.PEAK_C, THERM_SENSOR.TEMP]
  | .TELEM_STAMP => [TELEM_STAMP.STAMP]
  | .TELEM_INFO => [TELEM_INFO.SEQ, TELEM_INFO.SETS]
  | .TELEM_INPUT => [TELEM_INPUT.V]
  | .TELEM_WING => [TELEM_WING.V]
  | .TELEM_TEMP => [TELEM_TEMP.V]
  | .UPD_CTL => [UPD_CTL.CMD]
  | .UPD_LEN => [UPD_LEN.BYTES]
  | .UPD_STATUS => [UPD_STATUS.STAGED, UPD_STATUS.POSTED, UPD_STATUS.RESULT, UPD_STATUS.DETAIL, UPD_STATUS.STATE]
  | .UPD_CFG => [UPD_CFG.CONFIRM_S]
  | .LEDGER_CTL => [LEDGER_CTL.PERIOD_S]
  | .LEDGER_CMD => [LEDGER_CMD.CMD]
  | .LEDGER_CAL_UTC => [LEDGER_CAL_UTC.VALUE]
  | .LEDGER_CAL_STAMP => [LEDGER_CAL_STAMP.VALUE]
  | .LEDGER_READ => [LEDGER_READ.SEQ]
  | .LEDGER_FLAGS => [LEDGER_FLAGS.SNAP_DROPPED, LEDGER_FLAGS.DATA_VALID, LEDGER_FLAGS.BUSY]
  | .WING_ID => [WING_ID.DIE, WING_ID.WING]
  | .WING_STATUS => [WING_STATUS.MAP_GEN, WING_STATUS.SPARES_FREE, WING_STATUS.SHELVES, WING_STATUS.STATE]
  | .WING_CMAP => [WING_CMAP.SUBST_HI, WING_CMAP.PHYS_HI, WING_CMAP.SUBST_LO, WING_CMAP.PHYS_LO]
  | .WING_PWR_STATUS => [WING_PWR_STATUS.POWER]
  | .WING_DROOP => [WING_DROOP.EVENTS, WING_DROOP.DENSITY, WING_DROOP.THRESH_MV]
  | .WING_BUB_FORCE => [WING_BUB_FORCE.MIN]
  | .WBAR_STATUS => [WBAR_STATUS.RELEASES]
  | .WBAR_LAST => [WBAR_LAST.STAMP]
  | .HOME_COUNTS => [HOME_COUNTS.NACKS, HOME_COUNTS.RESERVES, HOME_COUNTS.REBUILDS]
  | .HOME_EVICTS => [HOME_EVICTS.COUNT]
  | .WING_CACHE_CTL => [WING_CACHE_CTL.PF_EN, WING_CACHE_CTL.ENABLE]
  | .WING_CACHE_STATUS => [WING_CACHE_STATUS.STATE]
  | .WING_CACHE_HITS => [WING_CACHE_HITS.COUNT]
  | .WING_CACHE_MISSES => [WING_CACHE_MISSES.COUNT]
  | .WING_CACHE_SNOOPS => [WING_CACHE_SNOOPS.COUNT]
  | .WING_CACHE_PF => [WING_CACHE_PF.COUNT]
  | .WING_CACHE_EB_HITS => [WING_CACHE_EB_HITS.COUNT]
  | .RAT_BASE => [RAT_BASE.ADDR]
  | .RAT_LIMIT => [RAT_LIMIT.ADDR]
  | .RAT_ATTR => [RAT_ATTR.VALID, RAT_ATTR.NOPF, RAT_ATTR.POLICY]
  | .MEM_MAPOUT => [MEM_MAPOUT.GO, MEM_MAPOUT.PROGRESS, MEM_MAPOUT.RESULT, MEM_MAPOUT.STATE, MEM_MAPOUT.CHANNEL]
  | .MEM_POLICY => [MEM_POLICY.AUTO, MEM_POLICY.SCRUB_HOURS, MEM_POLICY.CE_LIMIT]
  | .MEM_PART => [MEM_PART.TOTAL, MEM_PART.CUT]
  | .CMAP => [CMAP.VALID, CMAP.BASE_FRAME, CMAP.STATE, CMAP.CHANNEL]
  | .MC_CHAN => [MC_CHAN.CE, MC_CHAN.UC, MC_CHAN.STATE]
  | .RES_CTL => [RES_CTL.FLUSH, RES_CTL.ENABLE]
  | .RES_STATUS => [RES_STATUS.STATE]
  | .RES_CLASS => [RES_CLASS.SLOT_VALID, RES_CLASS.SLOT, RES_CLASS.MASK, RES_CLASS.HINT, RES_CLASS.COUNT]
  | .REG_STACK => [REG_STACK.CEIL, REG_STACK.GUAR]
  | .REG_LINK => [REG_LINK.CEIL, REG_LINK.GUAR]
  | .PORT_STATUS => [PORT_STATUS.LANES, PORT_STATUS.LINK_UP]
  | .PORT_MAC => [PORT_MAC.MAC]
  | .PORT_IP_LO => [PORT_IP_LO.IP]
  | .PORT_IP_HI => [PORT_IP_HI.IP]
  | .PORT_PFC => [PORT_PFC.XOFF_KIB, PORT_PFC.ENABLE]
  | .PORT_COUNTS => [PORT_COUNTS.RX_DROP, PORT_COUNTS.ICRC_ERR, PORT_COUNTS.CNP_SENT]
  | .QP_INDEX => [QP_INDEX.INDEX]
  | .QP_CMD => [QP_CMD.CMD]
  | .QP_RESULT => [QP_RESULT.RESULT]
  | .MR_INDEX => [MR_INDEX.INDEX]
  | .MR_CMD => [MR_CMD.CMD]
  | .MR_RESULT => [MR_RESULT.RESULT]
  | .NET_CC => [NET_CC.CNP_INTERVAL, NET_CC.RECOVER_US, NET_CC.RAI_MBPS]
  | .CAS_STATUS => [CAS_STATUS.PRESENT, CAS_STATUS.STATE]
  | .PLOLI_LINK => [PLOLI_LINK.RETRAINS, PLOLI_LINK.PEER_MAJOR, PLOLI_LINK.STATE]
  | .IL_SEL => [IL_SEL.HANDLE, IL_SEL.SLOT]
  | .IL_TARGET => [IL_TARGET.OFFSET, IL_TARGET.LEN]
  | .IL_CMD => [IL_CMD.RESULT, IL_CMD.WINDOWED, IL_CMD.WR, IL_CMD.RD, IL_CMD.WINDOW, IL_CMD.MEMBER, IL_CMD.CMD]
  | .PEER => [PEER.VALID, PEER.WINDOW, PEER.RID]
  | .WIN_BASE => [WIN_BASE.ADDR]
  | .WIN_CFG => [WIN_CFG.ENABLE, WIN_CFG.PASID, WIN_CFG.GRANULES]
  | .WIN_CTL => [WIN_CTL.SYNC]
  | .WIN_STATUS => [WIN_STATUS.REFUSED]
  | .PART_STATUS => [PART_STATUS.HELD_WRITES, PART_STATUS.PAUSED, PART_STATUS.READY]
  | .PART_CONTROL => [PART_CONTROL.ERR_VEC, PART_CONTROL.ERR_IRQ]
  | .PART_CPL => [PART_CPL.ORPHANED, PART_CPL.LATE_CPL, PART_CPL.TIMEOUTS]
  | .PART_ACCESS => [PART_ACCESS.INBOX_REJ, PART_ACCESS.BAD_MMIO]
  | .SLOT_CFG => [SLOT_CFG.PASID, SLOT_CFG.GROUP_BAR, SLOT_CFG.GATED, SLOT_CFG.PRIORITY, SLOT_CFG.SHELVES]
  | .SLOT_CTL => [SLOT_CTL.CLR_FLAGS, SLOT_CTL.END]
  | .SLOT_STATUS => [SLOT_STATUS.ENTRIES, SLOT_STATUS.START_PENDING, SLOT_STATUS.CFG_REFUSED, SLOT_STATUS.SHELF_LOST, SLOT_STATUS.START_BUSY, SLOT_STATUS.STATE]
  | .DB_SQ => [DB_SQ.GEN, DB_SQ.TAIL]
  | .DB_CQ => [DB_CQ.GEN, DB_CQ.HEAD]
  | .SQ_BASE => [SQ_BASE.ADDR]
  | .CQ_BASE => [CQ_BASE.ADDR]
  | .Q_CFG => [Q_CFG.ENABLE, Q_CFG.ERR_IRQ, Q_CFG.ERR_VEC, Q_CFG.CQ_LOG2, Q_CFG.SQ_LOG2]
  | .Q_STATUS => [Q_STATUS.CQ_TAIL, Q_STATUS.SQ_HEAD, Q_STATUS.DB_IGNORED, Q_STATUS.CQ_GEN, Q_STATUS.SQ_GEN, Q_STATUS.ERROR, Q_STATUS.STATE]
  | .Q_CTL => [Q_CTL.RESUME]
  | .CS_SLIP_ADDR => [CS_SLIP_ADDR.ADDR]
  | .CS_DLV_ADDR => [CS_DLV_ADDR.ADDR]
  | .CS_CTL => [CS_CTL.EXC_VEC, CS_CTL.EXC_IRQ, CS_CTL.MODE]
  | .CS_STATUS => [CS_STATUS.LAST_SEQ, CS_STATUS.SPURIOUS, CS_STATUS.PENDING, CS_STATUS.STATE]
  | .SLIP_SEL => [SLIP_SEL.SLOT]
  | .SLIP_GO => [SLIP_GO.GO]
  | .XL_STATUS => [XL_STATUS.EPOCH, XL_STATUS.PRI_STOPPED]
  | .XL_COUNTS => [XL_COUNTS.INVALS, XL_COUNTS.PAGE_REQS, XL_COUNTS.ATS_REQS]
  | .FLOG_BASE => [FLOG_BASE.ADDR]
  | .FLOG_CFG => [FLOG_CFG.ENABLE, FLOG_CFG.IRQ, FLOG_CFG.VEC]
  | .FLOG_HEAD => [FLOG_HEAD.HEAD]
  | .FLOG_STATUS => [FLOG_STATUS.DROPPED, FLOG_STATUS.OVERFLOW, FLOG_STATUS.TAIL]
  | .XL_PROBE_VA => [XL_PROBE_VA.VPN]
  | .XL_PROBE_PASID => [XL_PROBE_PASID.PASID]
  | .XL_PROBE_RESULT => [XL_PROBE_RESULT.DONE, XL_PROBE_RESULT.ADVICE, XL_PROBE_RESULT.RD, XL_PROBE_RESULT.WR, XL_PROBE_RESULT.FRAME, XL_PROBE_RESULT.STATE]
  | .TRB_TOTAL_SAT => [TRB_TOTAL_SAT.COUNT]
  | .TRB_TOTAL_FIN => [TRB_TOTAL_FIN.COUNT]
  | .TRB_TOTAL_FOUT => [TRB_TOTAL_FOUT.COUNT]
  | .TRB_TOTAL_NAN => [TRB_TOTAL_NAN.COUNT]
  | .TRB_CLEAR => [TRB_CLEAR.SLOTS]
  | .LT_PART => [LT_PART.BASE_FRAME, LT_PART.LOG2_B]
  | .CAGE_CTL => [CAGE_CTL.POWER_ON, CAGE_CTL.ATTN_IND, CAGE_CTL.PWR_IND, CAGE_CTL.PRES_IE, CAGE_CTL.BTN_IE, CAGE_CTL.FAULT_IE, CAGE_CTL.DONE_IE]
  | .CAGE_STATUS => [CAGE_STATUS.PRES_CHANGED, CAGE_STATUS.BTN_PRESSED, CAGE_STATUS.PWR_FAULT, CAGE_STATUS.CMD_DONE]
  | .IDV_LINK => [IDV_LINK.RETRAINS, IDV_LINK.REPAIRED, IDV_LINK.ACTIVE, IDV_LINK.WIDTH]

/-- What a register's instance number counts. -/
def RegKind.dom : RegKind → Dom
  | .IDENT_VID => .global
  | .IDENT_BLOCK => .global
  | .BLOCK_VERSION => .global
  | .DEV_STATUS => .global
  | .DEV_CONTROL => .global
  | .MGMT_INT_STATUS => .global
  | .MGMT_INT_ENABLE => .global
  | .RESET_CTL => .global
  | .RESET_CAUSE => .global
  | .LIFECYCLE => .global
  | .LC_REQUEST => .global
  | .WCOL_PINS => .wcolp
  | .COL_STATUS => .col
  | .COL_COUNTS => .col
  | .COL_REACT => .col
  | .COL_REACT_W1 => .wing
  | .COL_REACT_W2 => .wing
  | .COL_SEV => .col
  | .COL_FORCE => .col
  | .COL_HIST => .col
  | .SAFE_CAUSE => .global
  | .ERR_PIN => .global
  | .STAMP_NOW => .global
  | .STAMP_STATUS => .global
  | .STAMP_CTL => .global
  | .STAMP_LAST_STEP => .global
  | .STAMP_COUNTS => .global
  | .STAMP_EVENTS => .global
  | .DD_INDEX => .global
  | .DD_STAMP => .global
  | .DD_SPEC => .global
  | .DD_PERIOD => .global
  | .DD_CMD => .global
  | .DD_RESULT => .global
  | .DD_FIRED_AT => .global
  | .DD_ARMED_COUNT => .global
  | .PWR_STATUS => .global
  | .PWR_EVENTS => .global
  | .PWR_CAP => .global
  | .PWR_OP => .global
  | .PWR_POLICY => .global
  | .THERM_CTL => .global
  | .PWR_ENERGY => .global
  | .PWR_COUNTS => .global
  | .THERM_SENSOR => .sensor
  | .TELEM_STAMP => .global
  | .TELEM_INFO => .global
  | .TELEM_INPUT => .global
  | .TELEM_WING => .wing
  | .TELEM_TEMP => .sensor
  | .UPD_CTL => .global
  | .UPD_LEN => .global
  | .UPD_STATUS => .global
  | .UPD_CFG => .global
  | .LEDGER_CTL => .global
  | .LEDGER_CMD => .global
  | .LEDGER_CAL_UTC => .global
  | .LEDGER_CAL_STAMP => .global
  | .LEDGER_READ => .global
  | .LEDGER_FLAGS => .global
  | .WING_ID => .wing
  | .WING_STATUS => .wing
  | .WING_CMAP => .wingk
  | .WING_PWR_STATUS => .wing
  | .WING_DROOP => .wing
  | .WING_BUB_FORCE => .wing
  | .WBAR_STATUS => .wing
  | .WBAR_LAST => .wing
  | .HOME_COUNTS => .slice
  | .HOME_EVICTS => .slice
  | .WING_CACHE_CTL => .wing
  | .WING_CACHE_STATUS => .wing
  | .WING_CACHE_HITS => .wing
  | .WING_CACHE_MISSES => .wing
  | .WING_CACHE_SNOOPS => .wing
  | .WING_CACHE_PF => .wing
  | .WING_CACHE_EB_HITS => .wing
  | .RAT_BASE => .rat
  | .RAT_LIMIT => .rat
  | .RAT_ATTR => .rat
  | .MEM_MAPOUT => .global
  | .MEM_POLICY => .global
  | .MEM_PART => .part
  | .CMAP => .cmap
  | .MC_CHAN => .chan
  | .RES_CTL => .global
  | .RES_STATUS => .global
  | .RES_CLASS => .rclass
  | .REG_STACK => .regst
  | .REG_LINK => .part
  | .PORT_STATUS => .port
  | .PORT_MAC => .port
  | .PORT_IP_LO => .port
  | .PORT_IP_HI => .port
  | .PORT_PFC => .port
  | .PORT_COUNTS => .port
  | .QP_INDEX => .global
  | .QP_CMD => .global
  | .QP_RESULT => .global
  | .MR_INDEX => .global
  | .MR_CMD => .global
  | .MR_RESULT => .global
  | .NET_CC => .global
  | .CAS_STATUS => .global
  | .PLOLI_LINK => .link
  | .IL_SEL => .global
  | .IL_TARGET => .global
  | .IL_CMD => .global
  | .PEER => .peer
  | .WIN_BASE => .win
  | .WIN_CFG => .win
  | .WIN_CTL => .win
  | .WIN_STATUS => .win
  | .PART_STATUS => .part
  | .PART_CONTROL => .part
  | .PART_CPL => .part
  | .PART_ACCESS => .part
  | .SLOT_CFG => .slot
  | .SLOT_CTL => .slot
  | .SLOT_STATUS => .slot
  | .DB_SQ => .slot
  | .DB_CQ => .slot
  | .SQ_BASE => .queue
  | .CQ_BASE => .queue
  | .Q_CFG => .queue
  | .Q_STATUS => .queue
  | .Q_CTL => .queue
  | .CS_SLIP_ADDR => .slot
  | .CS_DLV_ADDR => .slot
  | .CS_CTL => .slot
  | .CS_STATUS => .slot
  | .SLIP_SEL => .part
  | .SLIP_GO => .part
  | .XL_STATUS => .part
  | .XL_COUNTS => .part
  | .FLOG_BASE => .part
  | .FLOG_CFG => .part
  | .FLOG_HEAD => .part
  | .FLOG_STATUS => .part
  | .XL_PROBE_VA => .part
  | .XL_PROBE_PASID => .part
  | .XL_PROBE_RESULT => .part
  | .TRB_TOTAL_SAT => .slot
  | .TRB_TOTAL_FIN => .slot
  | .TRB_TOTAL_FOUT => .slot
  | .TRB_TOTAL_NAN => .slot
  | .TRB_CLEAR => .part
  | .LT_PART => .part
  | .CAGE_CTL => .cage
  | .CAGE_STATUS => .cage
  | .IDV_LINK => .global

/-- The register's width in bits. -/
def RegKind.width : RegKind → Nat
  | .COL_STATUS => 64
  | .COL_COUNTS => 64
  | .SAFE_CAUSE => 64
  | .STAMP_NOW => 64
  | .STAMP_LAST_STEP => 64
  | .STAMP_COUNTS => 64
  | .DD_STAMP => 64
  | .DD_SPEC => 64
  | .DD_FIRED_AT => 64
  | .PWR_ENERGY => 64
  | .PWR_COUNTS => 64
  | .TELEM_STAMP => 64
  | .TELEM_INPUT => 64
  | .UPD_STATUS => 64
  | .LEDGER_CAL_UTC => 64
  | .LEDGER_CAL_STAMP => 64
  | .WBAR_LAST => 64
  | .HOME_COUNTS => 64
  | .HOME_EVICTS => 64
  | .WING_CACHE_HITS => 64
  | .WING_CACHE_MISSES => 64
  | .WING_CACHE_SNOOPS => 64
  | .WING_CACHE_PF => 64
  | .WING_CACHE_EB_HITS => 64
  | .RAT_BASE => 64
  | .RAT_LIMIT => 64
  | .MEM_MAPOUT => 64
  | .MEM_PART => 64
  | .CMAP => 64
  | .MC_CHAN => 64
  | .RES_STATUS => 64
  | .RES_CLASS => 64
  | .PORT_MAC => 64
  | .PORT_IP_LO => 64
  | .PORT_IP_HI => 64
  | .PORT_COUNTS => 64
  | .NET_CC => 64
  | .CAS_STATUS => 64
  | .PLOLI_LINK => 64
  | .IL_TARGET => 64
  | .PEER => 64
  | .WIN_BASE => 64
  | .WIN_CFG => 64
  | .PART_CPL => 64
  | .SLOT_CFG => 64
  | .SQ_BASE => 64
  | .CQ_BASE => 64
  | .Q_CFG => 64
  | .Q_STATUS => 64
  | .CS_SLIP_ADDR => 64
  | .CS_DLV_ADDR => 64
  | .CS_STATUS => 64
  | .XL_STATUS => 64
  | .XL_COUNTS => 64
  | .FLOG_BASE => 64
  | .FLOG_STATUS => 64
  | .XL_PROBE_VA => 64
  | .XL_PROBE_RESULT => 64
  | .TRB_TOTAL_SAT => 64
  | .TRB_TOTAL_FIN => 64
  | .TRB_TOTAL_FOUT => 64
  | .TRB_TOTAL_NAN => 64
  | .TRB_CLEAR => 64
  | .LT_PART => 64
  | _ => 32

/-- Every register, in the order of its number. -/
def RegKind.all : List RegKind :=
  [.IDENT_VID, .IDENT_BLOCK, .BLOCK_VERSION, .DEV_STATUS, .DEV_CONTROL, .MGMT_INT_STATUS, .MGMT_INT_ENABLE, .RESET_CTL, .RESET_CAUSE, .LIFECYCLE, .LC_REQUEST, .WCOL_PINS, .COL_STATUS, .COL_COUNTS, .COL_REACT, .COL_REACT_W1, .COL_REACT_W2, .COL_SEV, .COL_FORCE, .COL_HIST, .SAFE_CAUSE, .ERR_PIN, .STAMP_NOW, .STAMP_STATUS, .STAMP_CTL, .STAMP_LAST_STEP, .STAMP_COUNTS, .STAMP_EVENTS, .DD_INDEX, .DD_STAMP]
  ++ [.DD_SPEC, .DD_PERIOD, .DD_CMD, .DD_RESULT, .DD_FIRED_AT, .DD_ARMED_COUNT, .PWR_STATUS, .PWR_EVENTS, .PWR_CAP, .PWR_OP, .PWR_POLICY, .THERM_CTL, .PWR_ENERGY, .PWR_COUNTS, .THERM_SENSOR, .TELEM_STAMP, .TELEM_INFO, .TELEM_INPUT, .TELEM_WING, .TELEM_TEMP, .UPD_CTL, .UPD_LEN, .UPD_STATUS, .UPD_CFG, .LEDGER_CTL, .LEDGER_CMD, .LEDGER_CAL_UTC, .LEDGER_CAL_STAMP, .LEDGER_READ, .LEDGER_FLAGS]
  ++ [.WING_ID, .WING_STATUS, .WING_CMAP, .WING_PWR_STATUS, .WING_DROOP, .WING_BUB_FORCE, .WBAR_STATUS, .WBAR_LAST, .HOME_COUNTS, .HOME_EVICTS, .WING_CACHE_CTL, .WING_CACHE_STATUS, .WING_CACHE_HITS, .WING_CACHE_MISSES, .WING_CACHE_SNOOPS, .WING_CACHE_PF, .WING_CACHE_EB_HITS, .RAT_BASE, .RAT_LIMIT, .RAT_ATTR, .MEM_MAPOUT, .MEM_POLICY, .MEM_PART, .CMAP, .MC_CHAN, .RES_CTL, .RES_STATUS, .RES_CLASS, .REG_STACK, .REG_LINK]
  ++ [.PORT_STATUS, .PORT_MAC, .PORT_IP_LO, .PORT_IP_HI, .PORT_PFC, .PORT_COUNTS, .QP_INDEX, .QP_CMD, .QP_RESULT, .MR_INDEX, .MR_CMD, .MR_RESULT, .NET_CC, .CAS_STATUS, .PLOLI_LINK, .IL_SEL, .IL_TARGET, .IL_CMD, .PEER, .WIN_BASE, .WIN_CFG, .WIN_CTL, .WIN_STATUS, .PART_STATUS, .PART_CONTROL, .PART_CPL, .PART_ACCESS, .SLOT_CFG, .SLOT_CTL, .SLOT_STATUS]
  ++ [.DB_SQ, .DB_CQ, .SQ_BASE, .CQ_BASE, .Q_CFG, .Q_STATUS, .Q_CTL, .CS_SLIP_ADDR, .CS_DLV_ADDR, .CS_CTL, .CS_STATUS, .SLIP_SEL, .SLIP_GO, .XL_STATUS, .XL_COUNTS, .FLOG_BASE, .FLOG_CFG, .FLOG_HEAD, .FLOG_STATUS, .XL_PROBE_VA, .XL_PROBE_PASID, .XL_PROBE_RESULT, .TRB_TOTAL_SAT, .TRB_TOTAL_FIN, .TRB_TOTAL_FOUT, .TRB_TOTAL_NAN, .TRB_CLEAR, .LT_PART, .CAGE_CTL, .CAGE_STATUS]
  ++ [.IDV_LINK]

/-- A register's number in the register file. -/
def RegKind.code (k : RegKind) : Nat := k.ctorIdx

/-- The source class of a collector (12 R424): hub frames 0 to 37; 38 and above are the wing collectors, whose own register holds the
masks of class 0. -/
def colClass (i : Nat) : Nat :=
  if i < 8 then 3 else if i < 21 then 4 else if i = 21 then 5 else if i < 30 then 6 else if i = 30 then 7 else if i = 31 then 8
  else if i = 32 then 9 else if i = 33 then 10 else if i = 34 then 11 else if i = 35 then 12 else if i = 36 then 5
  else if i = 37 then 13 else 0

/-- The default reaction masks of 12 R435, by class and severity (0 CE, 1 UC, 2 FATAL): bit 0 INT, 1 NMT, 2 BLK_RST, 3 CHIP_RST,
4 PIN. -/
def defaultMask (cls sev : Nat) : Nat :=
  match cls, sev with
  | 0, 1 => 7 | 1, 1 => 3 | 2, 1 => 7 | 6, 1 => 7 | 7, 1 => 7 | 9, 1 => 0x13 | 11, 1 => 0x13
  | 10, 0 => 1 | 10, 1 => 7 | 10, _ => 0x11
  | 13, 0 => 1 | 13, 1 => 1 | 13, _ => 0x11
  | _, 0 => 0 | _, 1 => 3 | _, _ => 0x13

/-- A field's value after reset, where it depends on the instance: the wing numbers (R24), the identity carrel map (R27), the
channel map in its first state (R297), the class masks and hints (08 R321), the guaranteed shares (08 R322, default for one
partition: 248). -/
def Fld.resetAt (f : Fld) (i : Nat) : Nat :=
  match f.reg with
  | .COL_REACT => defaultMask (colClass i) (if f.lo = 0 then 0 else if f.lo = 8 then 1 else 2)
  | .COL_REACT_W1 => defaultMask 1 (if f.lo = 0 then 0 else if f.lo = 8 then 1 else 2)
  | .COL_REACT_W2 => defaultMask 2 (if f.lo = 0 then 0 else if f.lo = 8 then 1 else 2)
  | .WING_ID => if f.lo = 8 then i / 4 else i
  | .WING_CMAP => if f.lo = 16 then 2 * (i % 64) + 1 else if f.lo = 0 then 2 * (i % 64) else f.rst
  | .CMAP => if f.lo = 0 ∧ f.hi = 8 then (if i < 384 then 32 * (i % 12) + i / 12 else 0) else f.rst
  | .RES_CLASS =>
      if f.lo = 32 then [0x0003, 0x000C, 0x0010, 0x0020, 0x00C0, 0x0300, 0x0C00, 0x3000].getD i 0
      else if f.lo = 16 ∧ i = 3 then 2 else f.rst
  | .REG_STACK => if f.lo = 0 then 248 else f.rst
  | .REG_LINK => if f.lo = 0 then 248 else f.rst
  | _ => f.rst

/-- A register's whole value after reset. -/
def RegKind.reset (k : RegKind) (i : Nat) : Nat :=
  k.fields.foldl (fun a f => a + f.resetAt i % 2 ^ (f.hi + 1 - f.lo) * 2 ^ f.lo) 0

/-- The key of instance `i` of register `k` in the register file. -/
def regKey (k : RegKind) (i : Nat) : Nat := k.code * 65536 + i % 65536

/-- The value the register file's entry with key `n` has while nothing is listed for it. -/
def regDefault (n : Nat) : BitVec 64 :=
  match RegKind.all[n / 65536]? with
  | some k => BitVec.ofNat 64 (k.reset (n % 65536))
  | none => 0

/-- A row of the address map: the first address, then up to two strides with their counts. -/
structure AddrRow where
  reg : RegKind
  base : Nat
  s1 : Nat := 0
  n1 : Nat := 1
  s2 : Nat := 0
  n2 : Nat := 1
deriving DecidableEq, Repr

/-- The instance whose register covers byte offset `off`, with the byte's place in it. -/
def AddrRow.find (r : AddrRow) (off : Nat) : Option (Nat × Nat) :=
  if off < r.base then none
  else
    let d := off - r.base
    let i := if r.s1 = 0 then 0 else d / r.s1
    let d1 := if r.s1 = 0 then d else d % r.s1
    let j := if r.s2 = 0 then 0 else d1 / r.s2
    let b := if r.s2 = 0 then d1 else d1 % r.s2
    if i < r.n1 ∧ j < r.n2 ∧ b < r.reg.width / 8 then some (i * r.n2 + j, b) else none

/-- The management BAR0 (R475, R122, R415, R527, R22, R285, R316, R389, R359). -/
def mgmtMap : List AddrRow :=
  [⟨.IDENT_VID, 0x0, 0, 1, 0, 1⟩,
   ⟨.IDENT_BLOCK, 0x4, 0, 1, 0, 1⟩,
   ⟨.BLOCK_VERSION, 0x8, 0, 1, 0, 1⟩,
   ⟨.DEV_STATUS, 0x10, 0, 1, 0, 1⟩,
   ⟨.DEV_CONTROL, 0x14, 0, 1, 0, 1⟩,
   ⟨.MGMT_INT_STATUS, 0x40, 0, 1, 0, 1⟩,
   ⟨.MGMT_INT_ENABLE, 0x44, 0, 1, 0, 1⟩,
   ⟨.RESET_CTL, 0x1000, 0, 1, 0, 1⟩,
   ⟨.RESET_CAUSE, 0x1004, 0, 1, 0, 1⟩,
   ⟨.LIFECYCLE, 0x1008, 0, 1, 0, 1⟩,
   ⟨.LC_REQUEST, 0x100c, 0, 1, 0, 1⟩,
   ⟨.WCOL_PINS, 0x8200, 0x400, 32, 4, 5⟩]
  ++ [⟨.COL_STATUS, 0x2000, 0x100, 38, 0, 1⟩,
   ⟨.COL_COUNTS, 0x2008, 0x100, 38, 0, 1⟩,
   ⟨.COL_REACT, 0x2010, 0x100, 38, 0, 1⟩,
   ⟨.COL_REACT_W1, 0x8270, 0x400, 32, 0, 1⟩,
   ⟨.COL_REACT_W2, 0x8274, 0x400, 32, 0, 1⟩,
   ⟨.COL_SEV, 0x2018, 0x100, 38, 0, 1⟩,
   ⟨.COL_FORCE, 0x2020, 0x100, 38, 0, 1⟩,
   ⟨.COL_HIST, 0x2028, 0x100, 38, 0, 1⟩,
   ⟨.SAFE_CAUSE, 0x4f10, 0, 1, 0, 1⟩,
   ⟨.ERR_PIN, 0x4f18, 0, 1, 0, 1⟩,
   ⟨.STAMP_NOW, 0x5000, 0, 1, 0, 1⟩,
   ⟨.STAMP_STATUS, 0x5008, 0, 1, 0, 1⟩]
  ++ [⟨.STAMP_CTL, 0x500c, 0, 1, 0, 1⟩,
   ⟨.STAMP_LAST_STEP, 0x5010, 0, 1, 0, 1⟩,
   ⟨.STAMP_COUNTS, 0x5018, 0, 1, 0, 1⟩,
   ⟨.STAMP_EVENTS, 0x5020, 0, 1, 0, 1⟩,
   ⟨.DD_INDEX, 0x5100, 0, 1, 0, 1⟩,
   ⟨.DD_STAMP, 0x5108, 0, 1, 0, 1⟩,
   ⟨.DD_SPEC, 0x5110, 0, 1, 0, 1⟩,
   ⟨.DD_PERIOD, 0x5118, 0, 1, 0, 1⟩,
   ⟨.DD_CMD, 0x5120, 0, 1, 0, 1⟩,
   ⟨.DD_RESULT, 0x5124, 0, 1, 0, 1⟩,
   ⟨.DD_FIRED_AT, 0x5128, 0, 1, 0, 1⟩,
   ⟨.DD_ARMED_COUNT, 0x5130, 0, 1, 0, 1⟩]
  ++ [⟨.PWR_STATUS, 0x6000, 0, 1, 0, 1⟩,
   ⟨.PWR_EVENTS, 0x6004, 0, 1, 0, 1⟩,
   ⟨.PWR_CAP, 0x6008, 0, 1, 0, 1⟩,
   ⟨.PWR_OP, 0x600c, 0, 1, 0, 1⟩,
   ⟨.PWR_POLICY, 0x6010, 0, 1, 0, 1⟩,
   ⟨.THERM_CTL, 0x6014, 0, 1, 0, 1⟩,
   ⟨.PWR_ENERGY, 0x6020, 0, 1, 0, 1⟩,
   ⟨.PWR_COUNTS, 0x6028, 0, 1, 0, 1⟩,
   ⟨.THERM_SENSOR, 0x6100, 0x4, 56, 0, 1⟩,
   ⟨.TELEM_STAMP, 0x6400, 0, 1, 0, 1⟩,
   ⟨.TELEM_INFO, 0x6408, 0, 1, 0, 1⟩,
   ⟨.TELEM_INPUT, 0x6410, 0, 1, 0, 1⟩]
  ++ [⟨.TELEM_WING, 0x6440, 0x4, 32, 0, 1⟩,
   ⟨.TELEM_TEMP, 0x6500, 0x4, 56, 0, 1⟩,
   ⟨.UPD_CTL, 0x7000, 0, 1, 0, 1⟩,
   ⟨.UPD_LEN, 0x7004, 0, 1, 0, 1⟩,
   ⟨.UPD_STATUS, 0x7008, 0, 1, 0, 1⟩,
   ⟨.UPD_CFG, 0x7010, 0, 1, 0, 1⟩,
   ⟨.LEDGER_CTL, 0x7100, 0, 1, 0, 1⟩,
   ⟨.LEDGER_CMD, 0x7104, 0, 1, 0, 1⟩,
   ⟨.LEDGER_CAL_UTC, 0x7110, 0, 1, 0, 1⟩,
   ⟨.LEDGER_CAL_STAMP, 0x7118, 0, 1, 0, 1⟩,
   ⟨.LEDGER_READ, 0x7120, 0, 1, 0, 1⟩,
   ⟨.LEDGER_FLAGS, 0x7124, 0, 1, 0, 1⟩]
  ++ [⟨.WING_ID, 0x8000, 0x400, 32, 0, 1⟩,
   ⟨.WING_STATUS, 0x8004, 0x400, 32, 0, 1⟩,
   ⟨.WING_CMAP, 0x8100, 0x400, 32, 0x4, 64⟩,
   ⟨.WING_PWR_STATUS, 0x8380, 0x400, 32, 0, 1⟩,
   ⟨.WING_DROOP, 0x8384, 0x400, 32, 0, 1⟩,
   ⟨.WING_BUB_FORCE, 0x8388, 0x400, 32, 0, 1⟩,
   ⟨.WBAR_STATUS, 0x83c0, 0x400, 32, 0, 1⟩,
   ⟨.WBAR_LAST, 0x83c8, 0x400, 32, 0, 1⟩,
   ⟨.HOME_COUNTS, 0x10008, 0x100, 64, 0, 1⟩,
   ⟨.HOME_EVICTS, 0x10010, 0x100, 64, 0, 1⟩,
   ⟨.WING_CACHE_CTL, 0x14000, 0x200, 32, 0, 1⟩,
   ⟨.WING_CACHE_STATUS, 0x14004, 0x200, 32, 0, 1⟩]
  ++ [⟨.WING_CACHE_HITS, 0x14008, 0x200, 32, 0, 1⟩,
   ⟨.WING_CACHE_MISSES, 0x14010, 0x200, 32, 0, 1⟩,
   ⟨.WING_CACHE_SNOOPS, 0x14018, 0x200, 32, 0, 1⟩,
   ⟨.WING_CACHE_PF, 0x14020, 0x200, 32, 0, 1⟩,
   ⟨.WING_CACHE_EB_HITS, 0x14028, 0x200, 32, 0, 1⟩,
   ⟨.RAT_BASE, 0x18000, 0x20, 16, 0, 1⟩,
   ⟨.RAT_LIMIT, 0x18008, 0x20, 16, 0, 1⟩,
   ⟨.RAT_ATTR, 0x18010, 0x20, 16, 0, 1⟩,
   ⟨.MEM_MAPOUT, 0x20008, 0, 1, 0, 1⟩,
   ⟨.MEM_POLICY, 0x20010, 0, 1, 0, 1⟩,
   ⟨.MEM_PART, 0x20100, 0x8, 8, 0, 1⟩,
   ⟨.CMAP, 0x21000, 0x8, 512, 0, 1⟩]
  ++ [⟨.MC_CHAN, 0x22100, 0x200, 12, 0x8, 32⟩,
   ⟨.RES_CTL, 0x24000, 0, 1, 0, 1⟩,
   ⟨.RES_STATUS, 0x24008, 0, 1, 0, 1⟩,
   ⟨.RES_CLASS, 0x24010, 0x8, 8, 0, 1⟩,
   ⟨.REG_STACK, 0x25000, 0x80, 8, 0x8, 12⟩,
   ⟨.REG_LINK, 0x25060, 0x80, 8, 0, 1⟩,
   ⟨.PORT_STATUS, 0x30100, 0x40, 32, 0, 1⟩,
   ⟨.PORT_MAC, 0x30108, 0x40, 32, 0, 1⟩,
   ⟨.PORT_IP_LO, 0x30110, 0x40, 32, 0, 1⟩,
   ⟨.PORT_IP_HI, 0x30118, 0x40, 32, 0, 1⟩,
   ⟨.PORT_PFC, 0x30120, 0x40, 32, 0, 1⟩,
   ⟨.PORT_COUNTS, 0x30128, 0x40, 32, 0, 1⟩]
  ++ [⟨.QP_INDEX, 0x31000, 0, 1, 0, 1⟩,
   ⟨.QP_CMD, 0x31008, 0, 1, 0, 1⟩,
   ⟨.QP_RESULT, 0x3100c, 0, 1, 0, 1⟩,
   ⟨.MR_INDEX, 0x32000, 0, 1, 0, 1⟩,
   ⟨.MR_CMD, 0x32008, 0, 1, 0, 1⟩,
   ⟨.MR_RESULT, 0x3200c, 0, 1, 0, 1⟩,
   ⟨.NET_CC, 0x33000, 0, 1, 0, 1⟩,
   ⟨.CAS_STATUS, 0x40000, 0, 1, 0, 1⟩,
   ⟨.PLOLI_LINK, 0x40100, 0x40, 4, 0, 1⟩,
   ⟨.IL_SEL, 0x41000, 0, 1, 0, 1⟩,
   ⟨.IL_TARGET, 0x41008, 0, 1, 0, 1⟩,
   ⟨.IL_CMD, 0x41010, 0, 1, 0, 1⟩]
  ++ [⟨.PEER, 0x43000, 0x80, 8, 0x8, 16⟩,
   ⟨.WIN_BASE, 0x44000, 0x800, 8, 0x20, 64⟩,
   ⟨.WIN_CFG, 0x44008, 0x800, 8, 0x20, 64⟩,
   ⟨.WIN_CTL, 0x44010, 0x800, 8, 0x20, 64⟩,
   ⟨.WIN_STATUS, 0x44018, 0x800, 8, 0x20, 64⟩,
   ⟨.LT_PART, 0x50100, 0x8, 8, 0, 1⟩]

/-- The registers of a collector's frame in a wing frame (12 R448): wing collectors are collectors 38 to 69. -/
def wingColMap : List AddrRow :=
  [⟨.COL_STATUS, 0x8240, 0x400, 32, 0, 1⟩, ⟨.COL_COUNTS, 0x8248, 0x400, 32, 0, 1⟩, ⟨.COL_REACT, 0x8250, 0x400, 32, 0, 1⟩,
   ⟨.COL_SEV, 0x8258, 0x400, 32, 0, 1⟩, ⟨.COL_FORCE, 0x8260, 0x400, 32, 0, 1⟩, ⟨.COL_HIST, 0x8268, 0x400, 32, 0, 1⟩]

/-- The registers of the management lending queue, which is queue 64 (09 R359). -/
def mxqMap : List AddrRow :=
  [⟨.SQ_BASE, 0x50000, 0, 1, 0, 1⟩, ⟨.CQ_BASE, 0x50008, 0, 1, 0, 1⟩, ⟨.Q_CFG, 0x50010, 0, 1, 0, 1⟩, ⟨.Q_STATUS, 0x50018, 0, 1, 0, 1⟩,
   ⟨.Q_CTL, 0x50020, 0, 1, 0, 1⟩, ⟨.DB_SQ, 0x50040, 0, 1, 0, 1⟩, ⟨.DB_CQ, 0x50048, 0, 1, 0, 1⟩]

/-- A partition BAR0 (R222, R182, R194, R177, R196, R355, R111). -/
def partMap : List AddrRow :=
  [⟨.PART_STATUS, 0x0, 0, 1, 0, 1⟩,
   ⟨.PART_CONTROL, 0x4, 0, 1, 0, 1⟩,
   ⟨.PART_CPL, 0x8, 0, 1, 0, 1⟩,
   ⟨.PART_ACCESS, 0x10, 0, 1, 0, 1⟩,
   ⟨.SLOT_CFG, 0x400, 0x10, 64, 0, 1⟩,
   ⟨.SLOT_CTL, 0x408, 0x10, 64, 0, 1⟩,
   ⟨.SLOT_STATUS, 0x40c, 0x10, 64, 0, 1⟩,
   ⟨.DB_SQ, 0x1000, 0x40, 64, 0, 1⟩,
   ⟨.DB_CQ, 0x1008, 0x40, 64, 0, 1⟩,
   ⟨.SQ_BASE, 0x2000, 0x40, 64, 0, 1⟩,
   ⟨.CQ_BASE, 0x2008, 0x40, 64, 0, 1⟩,
   ⟨.Q_CFG, 0x2010, 0x40, 64, 0, 1⟩]
  ++ [⟨.Q_STATUS, 0x2018, 0x40, 64, 0, 1⟩,
   ⟨.Q_CTL, 0x2020, 0x40, 64, 0, 1⟩,
   ⟨.CS_SLIP_ADDR, 0x4000, 0x20, 64, 0, 1⟩,
   ⟨.CS_DLV_ADDR, 0x4008, 0x20, 64, 0, 1⟩,
   ⟨.CS_CTL, 0x4010, 0x20, 64, 0, 1⟩,
   ⟨.CS_STATUS, 0x4018, 0x20, 64, 0, 1⟩,
   ⟨.SLIP_SEL, 0x5000, 0, 1, 0, 1⟩,
   ⟨.SLIP_GO, 0x5008, 0, 1, 0, 1⟩,
   ⟨.XL_STATUS, 0x6000, 0, 1, 0, 1⟩,
   ⟨.XL_COUNTS, 0x6008, 0, 1, 0, 1⟩,
   ⟨.FLOG_BASE, 0x6010, 0, 1, 0, 1⟩,
   ⟨.FLOG_CFG, 0x6018, 0, 1, 0, 1⟩]
  ++ [⟨.FLOG_HEAD, 0x601c, 0, 1, 0, 1⟩,
   ⟨.FLOG_STATUS, 0x6020, 0, 1, 0, 1⟩,
   ⟨.XL_PROBE_VA, 0x6040, 0, 1, 0, 1⟩,
   ⟨.XL_PROBE_PASID, 0x6048, 0, 1, 0, 1⟩,
   ⟨.XL_PROBE_RESULT, 0x6050, 0, 1, 0, 1⟩,
   ⟨.TRB_TOTAL_SAT, 0x7000, 0x20, 64, 0, 1⟩,
   ⟨.TRB_TOTAL_FIN, 0x7008, 0x20, 64, 0, 1⟩,
   ⟨.TRB_TOTAL_FOUT, 0x7010, 0x20, 64, 0, 1⟩,
   ⟨.TRB_TOTAL_NAN, 0x7018, 0x20, 64, 0, 1⟩,
   ⟨.TRB_CLEAR, 0x7800, 0, 1, 0, 1⟩]

/-- The first row of `m` that covers `off`. -/
def findRow : List AddrRow → Nat → Option (RegKind × Nat × Nat)
  | [], _ => none
  | r :: rs, off =>
    match r.find off with
    | some (i, b) => some (r.reg, i, b)
    | none => findRow rs off

/-- The register at byte offset `off` of function `fn`'s BAR0 (function 0: management; 1 to 8: partitions 0 to 7), its
instance number and the byte's place in it. -/
def regAt (fn off : Nat) : Option (RegKind × Nat × Nat) :=
  if fn = 0 then
    match findRow mgmtMap off with
    | some r => some r
    | none =>
      match findRow wingColMap off with
      | some (k, i, b) => some (k, i + 38, b)
      | none =>
        match findRow mxqMap off with
        | some (k, _, b) => some (k, 64, b)
        | none => none
  else
    match findRow partMap off with
    | some (k, i, b) => if k.dom = .part then some (k, fn - 1, b) else some (k, i, b)
    | none => none

end Sys2Proof
end

