-- ==== Sys2Proof/Machine/Tab.lean ====
section
/-!
DEFINITION. Sparse tables and byte memories in one canonical form: entries with strictly rising keys, and none equal to what
an unlisted key reads as. Equal tables are then equal data.
-/
namespace Sys2Proof

/-- A table from numbers to values. -/
abbrev Tab (α : Type) := List (Nat × α)

/-- The value at key `k`; `d` gives what an unlisted key reads as. -/
def tget {α : Type} (d : Nat → α) : Tab α → Nat → α
  | [], k => d k
  | (i, a) :: t, k => if i = k then a else tget d t k

/-- The table with key `k` holding `v`. -/
def tset {α : Type} [DecidableEq α] (d : Nat → α) (t : Tab α) (k : Nat) (v : α) : Tab α :=
  t.filter (fun e => decide (e.1 < k)) ++ (if v = d k then [] else [(k, v)]) ++ t.filter (fun e => decide (k < e.1))

/-- The canonical form. -/
def Tab.wf {α : Type} [DecidableEq α] (d : Nat → α) (t : Tab α) : Bool :=
  decide (t.Pairwise (fun a b => a.1 < b.1)) && t.all (fun e => decide (e.2 ≠ d e.1))

/-- Every listed value changed by `f`, the canonical form kept. -/
def tmap {α : Type} [DecidableEq α] (d : Nat → α) (f : Nat → α → α) (t : Tab α) : Tab α :=
  (t.map (fun e => (e.1, f e.1 e.2))).filter (fun e => decide (e.2 ≠ d e.1))

/-- The table without the keys that satisfy `p`. -/
def tdrop {α : Type} (p : Nat → Bool) (t : Tab α) : Tab α := t.filter (fun e => !p e.1)

/-- A byte memory: addresses strictly rising, no listed byte equal to 0, which is what an unlisted address reads as. -/
abbrev Memory := List Host.Cell

/-- The byte at address `a`. -/
def Memory.byte (m : Memory) (a : Nat) : Byte := tget (fun _ => 0) m a

/-- The listed form of the bytes `bs` from address `a` on. -/
def cellsOf : Nat → Bytes → Memory
  | _, [] => []
  | a, b :: bs => if b = 0 then cellsOf (a + 1) bs else (a, b) :: cellsOf (a + 1) bs

/-- The memory with the bytes `bs` written from address `a` on. -/
def Memory.write (m : Memory) (a : Nat) (bs : Bytes) : Memory :=
  m.filter (fun c => decide (c.1 < a)) ++ cellsOf a bs ++ m.filter (fun c => decide (a + bs.length ≤ c.1))

/-- The `n` bytes from address `a` on. -/
def Memory.read (m : Memory) (a n : Nat) : Bytes :=
  let w := m.filter (fun c => decide (a ≤ c.1) && decide (c.1 < a + n))
  (List.range n).map (fun i => tget (fun _ => 0) w (a + i))

/-- The number spelt by the `n` bytes from address `a` on, little-endian. -/
def Memory.le (m : Memory) (a n : Nat) : Nat := leNat (m.read a n)

/-- The memory with `n` zero bytes from address `a` on. -/
def Memory.zero (m : Memory) (a n : Nat) : Memory :=
  m.filter (fun c => decide (c.1 < a)) ++ m.filter (fun c => decide (a + n ≤ c.1))

/-- The canonical form of a memory: addresses strictly rising, no listed byte 0. -/
def Memory.wf (m : Memory) : Bool :=
  decide (m.Pairwise (fun a b => a.1 < b.1)) && m.all (fun c => decide (c.2 ≠ 0))

end Sys2Proof
end

