-- ==== Sys2Proof/Machine/Float.lean ====
section
/-!
DEFINITION. Numbers and number formats (03 R84 to R94): the value an encoding stands for, exact sums and products, the rounding to
a precision with unlimited exponent range, and the writing of a result under R90.
-/
namespace Sys2Proof

/-- What an encoding stands for: not a number, an infinity, or exactly `(-1)^neg * m * 2^e`. -/
inductive Num where
  | nan
  | inf (neg : Bool)
  | fin (neg : Bool) (m : Nat) (e : Int)
deriving DecidableEq, Repr

/-- Which special encodings a format has (R85). -/
inductive Special where
  | ieee      -- exponent all ones: infinity, or NaN when the mantissa is not 0
  | nanOnly   -- FP8 E4M3: only S.1111.111 is special, a NaN
  | noSpecial -- FP6 and FP4: every encoding is a number
deriving DecidableEq, Repr

/-- A floating-point format (R85): exponent width, mantissa width, bias, special encodings, canonical NaN (R93). -/
structure FFmt where
  eb : Nat
  mb : Nat
  bias : Int
  sp : Special
  qnan : Nat
deriving DecidableEq, Repr

def fp64 : FFmt := ⟨11, 52, 1023, .ieee, 0x7FF8000000000000⟩
def fp32 : FFmt := ⟨8, 23, 127, .ieee, 0x7FC00000⟩
def bf16 : FFmt := ⟨8, 7, 127, .ieee, 0x7FC0⟩
def fp16 : FFmt := ⟨5, 10, 15, .ieee, 0x7E00⟩
def e4m3 : FFmt := ⟨4, 3, 7, .nanOnly, 0x7F⟩
def e5m2 : FFmt := ⟨5, 2, 15, .ieee, 0x7E⟩
/-- FP6 and FP4 have no NaN; a NaN converts to +0 (R102), which is what the last field holds. -/
def e2m3 : FFmt := ⟨2, 3, 1, .noSpecial, 0⟩
def e3m2 : FFmt := ⟨3, 2, 3, .noSpecial, 0⟩
def e2m1 : FFmt := ⟨2, 1, 1, .noSpecial, 0⟩

/-- The width of an encoding. -/
def FFmt.width (f : FFmt) : Nat := 1 + f.eb + f.mb

/-- The precision: mantissa bits and the hidden bit. -/
def FFmt.prec (f : FFmt) : Nat := f.mb + 1

/-- The exponent of the smallest normal number, a power of two. -/
def FFmt.minExp (f : FFmt) : Int := 1 - f.bias

/-- The largest finite number, as mantissa and exponent (R85). -/
def FFmt.maxFin (f : FFmt) : Nat × Int :=
  match f.sp with
  | .ieee => (2 ^ (f.mb + 1) - 1, (2 ^ f.eb : Nat) - 2 - f.bias - f.mb)
  | .nanOnly => (2 ^ (f.mb + 1) - 2, (2 ^ f.eb : Nat) - 1 - f.bias - f.mb)
  | .noSpecial => (2 ^ (f.mb + 1) - 1, (2 ^ f.eb : Nat) - 1 - f.bias - f.mb)

/-- The encoding made of a sign, an exponent field and a mantissa field. -/
def FFmt.pack (f : FFmt) (neg : Bool) (ex ma : Nat) : Nat :=
  b2n neg * 2 ^ (f.eb + f.mb) + ex * 2 ^ f.mb + ma

/-- What an encoding is read as: a subnormal reads as a zero of its sign (R89); the second part says that it was one. -/
def FFmt.read (f : FFmt) (x : Nat) : Num × Bool :=
  let neg := bit x (f.eb + f.mb)
  let ex := bits x (f.eb + f.mb - 1) f.mb
  let ma := x % 2 ^ f.mb
  if ex = 0 then (.fin neg 0 0, decide (ma ≠ 0))
  else if f.sp = .ieee ∧ ex = 2 ^ f.eb - 1 then (if ma = 0 then .inf neg else .nan, false)
  else if f.sp = .nanOnly ∧ ex = 2 ^ f.eb - 1 ∧ ma = 2 ^ f.mb - 1 then (.nan, false)
  else (.fin neg (2 ^ f.mb + ma) (ex - f.bias - f.mb), false)

/-- The value an encoding is read as. -/
def FFmt.num (f : FFmt) (x : Nat) : Num := (f.read x).1

/-- The number of bits of a mantissa. -/
def bitLen (m : Nat) : Nat := if m = 0 then 0 else Nat.log2 m + 1

/-- Rounding `m * 2^e` to `p` bits, to nearest, ties to even, with no limit of the exponent (R92, R91). -/
def roundNE (p m : Nat) (e : Int) : Nat × Int :=
  if bitLen m ≤ p then (m, e)
  else
    let sh := bitLen m - p
    let q := m / 2 ^ sh
    let r := m % 2 ^ sh
    let up := decide (2 ^ (sh - 1) < r) || (decide (r = 2 ^ (sh - 1)) && decide (q % 2 = 1))
    (if up then q + 1 else q, e + sh)

/-- Stochastic rounding to `p` bits with the 32-bit draw `r` (R106): up when `r < F`. -/
def roundSR (p m : Nat) (e : Int) (r : Nat) : Nat × Int :=
  if bitLen m ≤ p then (m, e)
  else
    let sh := bitLen m - p
    let q := m / 2 ^ sh
    let f := 2 ^ 32 * (m % 2 ^ sh) / 2 ^ sh
    (if r < f then q + 1 else q, e + sh)

/-- `m * 2^e < 2^k`. -/
def belowPow (m : Nat) (e k : Int) : Bool := decide (m = 0) || decide ((Nat.log2 m : Int) + e < k)

/-- `a * 2^ea < b * 2^eb`. -/
def magLt (a : Nat) (ea : Int) (b : Nat) (eb : Int) : Bool :=
  if b = 0 then false
  else if a = 0 then true
  else
    let la := (Nat.log2 a : Int) + ea
    let lb := (Nat.log2 b : Int) + eb
    if la < lb then true
    else if lb < la then false
    else
      let d := ea - eb
      if 0 ≤ d then decide (a * 2 ^ d.toNat < b) else decide (a < b * 2 ^ (-d).toNat)

/-- What writing a result does: the bits, whether it saturated, whether it was flushed to zero. -/
structure Written where
  val : Nat
  sat : Bool := false
  flush : Bool := false
deriving DecidableEq, Repr

/-- The encoding of an infinity; formats without one take their largest finite value (R102). -/
def FFmt.infBits (f : FFmt) (neg : Bool) : Nat :=
  match f.sp with
  | .ieee => f.pack neg (2 ^ f.eb - 1) 0
  | .nanOnly => f.pack neg (2 ^ f.eb - 1) (2 ^ f.mb - 2)
  | .noSpecial => f.pack neg (2 ^ f.eb - 1) (2 ^ f.mb - 1)

/-- Steps 2 and 3 of R90 on a value already rounded to the precision. -/
def FFmt.writeRounded (f : FFmt) (neg : Bool) (m : Nat) (e : Int) : Written :=
  if m = 0 then ⟨f.pack neg 0 0, false, false⟩
  else if belowPow m e f.minExp then ⟨f.pack neg 0 0, false, true⟩
  else if magLt f.maxFin.1 f.maxFin.2 m e then ⟨f.infBits neg, decide (f.sp ≠ .ieee), false⟩
  else
    let l := Nat.log2 m
    let ma := if l ≤ f.mb then m * 2 ^ (f.mb - l) else m / 2 ^ (l - f.mb)
    ⟨f.pack neg ((l : Int) + e + f.bias).toNat (ma % 2 ^ f.mb), false, false⟩

/-- A result written to nearest under R90; an infinity in a format without one saturates (R102). -/
def FFmt.write (f : FFmt) : Num → Written
  | .nan => ⟨f.qnan, false, false⟩
  | .inf neg => ⟨f.infBits neg, decide (f.sp ≠ .ieee), false⟩
  | .fin neg m e => let r := roundNE f.prec m e; f.writeRounded neg r.1 r.2

/-- A number as a signed mantissa at exponent `e0`, which is not above its own. -/
def scaledTo (neg : Bool) (m : Nat) (e e0 : Int) : Int :=
  let k : Int := (m * 2 ^ (e - e0).toNat : Nat)
  if neg then -k else k

/-- The exact sum (R94): infinities of both signs give NaN; an exact zero sum is +0 unless both addends are -0. -/
def Num.add : Num → Num → Num
  | .nan, _ => .nan
  | _, .nan => .nan
  | .inf a, .inf b => if a = b then .inf a else .nan
  | .inf a, _ => .inf a
  | _, .inf b => .inf b
  | .fin a m e, .fin b n f =>
    if m = 0 ∧ n = 0 then .fin (a && b) 0 0
    else if m = 0 then .fin b n f
    else if n = 0 then .fin a m e
    else
      let e0 := min e f
      let z := scaledTo a m e e0 + scaledTo b n f e0
      .fin (decide (z < 0)) z.natAbs e0

/-- The number with its sign turned. -/
def Num.neg : Num → Num
  | .nan => .nan
  | .inf a => .inf (!a)
  | .fin a m e => .fin (!a) m e

/-- The exact product (R94). -/
def Num.mul : Num → Num → Num
  | .nan, _ => .nan
  | _, .nan => .nan
  | .inf a, .inf b => .inf (a != b)
  | .inf a, .fin b n _ => if n = 0 then .nan else .inf (a != b)
  | .fin a m _, .inf b => if m = 0 then .nan else .inf (a != b)
  | .fin a m e, .fin b n f => .fin (a != b) (m * n) (if m * n = 0 then 0 else e + f)

/-- The number times `2^k`. -/
def Num.scale (x : Num) (k : Int) : Num :=
  match x with
  | .fin a m e => .fin a m (if m = 0 then 0 else e + k)
  | y => y

/-- A number rounded to `p` bits with unlimited range (R91). -/
def Num.round (p : Nat) : Num → Num
  | .fin a m e => let r := roundNE p m e; .fin a r.1 r.2
  | y => y

/-- An integer as a number. -/
def Num.ofInt (z : Int) : Num := .fin (decide (z < 0)) z.natAbs 0

/-- Whether a number is not finite. -/
def Num.special : Num → Bool
  | .fin _ _ _ => false
  | _ => true

def Num.isNan : Num → Bool
  | .nan => true
  | _ => false

/-- The order of numbers as VMAX and VMIN use it: -0 below +0 (R94). NaN is not compared. -/
def Num.lt : Num → Num → Bool
  | .nan, _ => false
  | _, .nan => false
  | .inf a, .inf b => a && !b
  | .inf a, .fin _ _ _ => a
  | .fin _ _ _, .inf b => !b
  | .fin a m e, .fin b n f =>
    match a, b with
    | true, false => true
    | false, true => false
    | false, false => magLt m e n f
    | true, true => magLt n f m e

/-- Whether a number is a zero of either sign. -/
def Num.isZero : Num → Bool
  | .fin _ m _ => decide (m = 0)
  | _ => false

/-- The bits of the largest power of two `2^k` with `k < n`, taken down: the integer square root of `x` by trial. -/
def isqrtFrom (x : Nat) : Nat → Nat → Nat
  | 0, r => r
  | k + 1, r => let t := r + 2 ^ k; isqrtFrom x k (if t * t ≤ x then t else r)

/-- The integer square root. -/
def isqrt (x : Nat) : Nat := isqrtFrom x (bitLen x / 2 + 1) 0

/-- `1 / x` with enough bits to round correctly, the last bit being sticky; `x` finite and not zero. -/
def recipMant (m : Nat) (e : Int) : Nat × Int :=
  let k := 2 * bitLen m + 64
  let q := 2 ^ k / m
  (2 * q + b2n (decide (2 ^ k % m ≠ 0)), -e - k - 1)

/-- The square root of `m * 2^e` with a sticky last bit. -/
def sqrtMant (m : Nat) (e : Int) : Nat × Int :=
  let sh : Nat := 128 + (if (e % 2 = 0) then 0 else 1)
  let x := m * 2 ^ sh
  let r := isqrt x
  (2 * r + b2n (decide (r * r ≠ x)), (e - sh) / 2 - 1)

end Sys2Proof
end

