-- ==== Sys2Proof/Machine/Elem.lean ====
section
/-!
DEFINITION. The elementary functions of `VACT` (02 R65) as exact arithmetic: their values in fixed point with 320 fraction bits, and the
results that a bound in units in the last place admits.
-/
namespace Sys2Proof

/-- 1 in fixed point. -/
def fxOne : Nat := 2 ^ 320

/-- The terms of `p / d + p t² / (d + 2) + …`: the series of the inverse hyperbolic tangent. -/
def atanhSum : Nat → Nat → Nat → Nat → Nat
  | 0, _, _, _ => 0
  | n + 1, p, t2, d => p / d + atanhSum n (p * t2 / fxOne) t2 (d + 2)

/-- 2 atanh(t) for a fixed-point `t` up to 1/3. -/
def twoAtanh (t : Nat) : Nat := 2 * atanhSum 110 t (t * t / fxOne) 1

/-- ln 2. -/
def fxLn2 : Nat := twoAtanh (fxOne / 3)

/-- The terms of `t + t r / i + t r² / (i (i + 1)) + …`. -/
def expSum : Nat → Nat → Nat → Nat → Nat
  | 0, _, _, _ => 0
  | n + 1, t, r, i => t + expSum n (t * r / fxOne / i) r (i + 1)

/-- The magnitude of `m * 2^e` in fixed point. -/
def toFx (m : Nat) (e : Int) : Nat := if 0 ≤ e then m * 2 ^ e.toNat * fxOne else m * fxOne / 2 ^ (-e).toNat

/-- exp of a signed fixed-point `x`: a fixed-point number times a power of two. -/
def expFx (neg : Bool) (x : Nat) : Nat × Int :=
  let v := expSum 80 fxOne (x % fxLn2) 1
  let k := x / fxLn2
  if neg then (fxOne * fxOne / v, -(k : Int)) else (v, k)

/-- A magnitude of 256 or more: far beyond the range in which these functions differ from their limits in FP32. -/
def fxBig (x : Nat) : Bool := decide (256 * fxOne ≤ x)

/-- A magnitude above 0 and below every normal number. -/
def tiny : Nat × Int := (1, -1000)

/-- sigmoid of a signed fixed-point `x`, as mantissa and exponent. -/
def sigmoidFx (neg : Bool) (x : Nat) : Nat × Int :=
  if fxBig x then (if neg then tiny else (fxOne - 1, -320))
  else
    let r := expFx true x
    let k := (-r.2).toNat
    let one := fxOne * 2 ^ k
    if neg then (r.1 * one / (one + r.1), -320 - k) else (one * fxOne / (one + r.1), -320)

/-- The square root of 2/π. -/
def fxSqrt2Pi : Nat := 0xcc42299ea1b284687e59e2805d5c717fa7053e60a24e0db1808e369004c73a5d3bf158aa88fa7b6e

/-- exp, tanh, sigmoid, GELU in the tanh form (PRESUMED: x sigmoid(2 √(2/π) (x + 0.044715 x³)), log entry 15) and the natural logarithm of
a number that is not 0, as sign, mantissa and exponent. The magnitudes are rounded down far below the bits of FP32. -/
def elemFx (fn : Nat) (neg : Bool) (m : Nat) (e : Int) : Bool × Nat × Int :=
  let big := decide (9 < (bitLen m : Int) + e)
  let x := if big then 256 * fxOne else toFx m e
  match fn with
  | 0 =>
    if fxBig x then (false, 1, if neg then -1000 else 1000)
    else let r := expFx neg x; (false, r.1, r.2 - 320)
  | 1 =>
    if fxBig x then (neg, fxOne - 1, -320)
    else
      let r := expFx false (2 * x)
      let y := r.1 * 2 ^ r.2.toNat
      (neg, (y - fxOne) * 2 ^ 400 / (y + fxOne), -400)
  | 2 => let r := sigmoidFx neg x; (false, r.1, r.2)
  | 3 =>
    let u := if fxBig x then x else 2 * fxSqrt2Pi * (x + 44715 * (x * x / fxOne * x / fxOne) / 1000000) / fxOne
    let r := sigmoidFx neg u
    (neg, m * r.1, e + r.2)
  | _ =>
    let l := bitLen m
    let h := if 3 * 2 ^ (l - 1) ≤ 2 * m then l else l - 1
    let one := 2 ^ h
    let s := twoAtanh ((if m < one then one - m else m - one) * fxOne / (m + one))
    let z : Int := (e + h) * fxLn2 + (if m < one then -(s : Int) else s)
    (decide (z < 0), z.natAbs, -320)

/-- The number of precision `prec` that the choice `c` takes among those within `b` units in the last place of `m * 2^e`, which is not 0.
Half units count too, for the numbers below a power of two. -/
def nearUlps (prec b m : Nat) (e : Int) (c : Nat) : Nat × Int :=
  let a := m * 2 ^ 64
  let sh := bitLen a - prec - 1
  let q := a / 2 ^ (sh + 1) * 2
  let near := (List.range (4 * b + 4)).filterMap fun i =>
    let v := q + i - 2 * b
    let d := if v * 2 ^ sh < a then a - v * 2 ^ sh else v * 2 ^ sh - a
    if (v % 2 = 0 ∨ v < 2 ^ prec) ∧ d ≤ b * 2 ^ (sh + 1) then some v else none
  (near[c % near.length]?.getD q, e - 64 + sh)

end Sys2Proof
end

