-- ==== Sys2Proof/Machine/Vec.lean ====
section
/-!
DEFINITION. What the vector unit computes (02 R62 to R65, 03 R101 to R107): one function per operation on whole 512-bit vectors,
before predication.
-/
namespace Sys2Proof

/-- The lane width of a `TYPE` (R62). -/
def laneW : Nat → Nat
  | 0 => 64 | 1 => 32 | 2 => 16 | 3 => 16 | 4 => 64 | 5 => 32 | 6 => 16 | _ => 8

/-- The lane count of a `TYPE`. -/
def laneN (ty : Nat) : Nat := 512 / laneW ty

/-- F types (R63): FP64 and FP32. -/
def isF (ty : Nat) : Bool := decide (ty < 2)

/-- I types (R63). -/
def isI (ty : Nat) : Bool := decide (4 ≤ ty ∧ ty < 8)

/-- The floating-point format of a `TYPE` (R84). -/
def fmtOf : Nat → FFmt
  | 0 => fp64 | 1 => fp32 | 2 => bf16 | _ => fp16

/-- Lane `i` of width `w`. -/
def lane (w x i : Nat) : Nat := (x / 2 ^ (w * i)) % 2 ^ w

/-- The vector whose lane `i` is `f i`. -/
def ofLanes (w n : Nat) (f : Nat → Nat) : Nat :=
  (List.range n).foldl (fun a i => a + (f i % 2 ^ w) * 2 ^ (w * i)) 0

/-- A lane-wise function of one vector. -/
def lanes1 (ty : Nat) (f : Nat → Nat) (a : Nat) : Nat :=
  ofLanes (laneW ty) (laneN ty) (fun i => f (lane (laneW ty) a i))

/-- A lane-wise function of two vectors. -/
def lanes2 (ty : Nat) (f : Nat → Nat → Nat) (a b : Nat) : Nat :=
  ofLanes (laneW ty) (laneN ty) (fun i => f (lane (laneW ty) a i) (lane (laneW ty) b i))

/-- A floating-point lane operation: operands read under R89, the exact result written under R90. -/
def fop2 (ty : Nat) (g : Num → Num → Num) (x y : Nat) : Nat :=
  ((fmtOf ty).write (g ((fmtOf ty).num x) ((fmtOf ty).num y))).val

def vAdd (ty a b : Nat) : Nat := lanes2 ty (if isF ty then fop2 ty Num.add else fun x y => x + y) a b

def vSub (ty a b : Nat) : Nat :=
  lanes2 ty (if isF ty then fop2 ty (fun x y => x.add y.neg) else fun x y => x + (2 ^ laneW ty - y)) a b

def vMul (ty a b : Nat) : Nat := lanes2 ty (if isF ty then fop2 ty Num.mul else fun x y => x * y) a b

def vFma (ty a b c : Nat) : Nat :=
  ofLanes (laneW ty) (laneN ty) (fun i =>
    let f := fmtOf ty
    let w := laneW ty
    (f.write (((f.num (lane w a i)).mul (f.num (lane w b i))).add (f.num (lane w c i)))).val)

/-- The larger (or smaller) of two numbers; NaN when either is (R94). -/
def Num.pick (max : Bool) (x y : Num) : Num :=
  if x.isNan || y.isNan then .nan
  else if max then (if x.lt y then y else x) else (if y.lt x then y else x)

/-- The larger (or smaller) of two integer lanes. -/
def ipick (w : Nat) (max uns : Bool) (x y : Nat) : Nat :=
  let lt := if uns then decide (x < y) else decide (sgn w x < sgn w y)
  if max then (if lt then y else x) else (if lt then x else y)

/-- `VMAX` and `VMIN`; FUNC[0] compares I types unsigned (R63). -/
def vPick (max : Bool) (ty fn a b : Nat) : Nat :=
  lanes2 ty (if isF ty then fop2 ty (Num.pick max) else ipick (laneW ty) max (bit fn 0)) a b

/-- `VSH` (R63): FUNC[7:6] 0 left, 1 logical right, 2 arithmetic right; the amount modulo the lane width. -/
def vSh (ty fn a : Nat) : Nat :=
  let w := laneW ty
  let k := fn % 64 % w
  lanes1 ty (fun x =>
    match fn / 64 with
    | 0 => x * 2 ^ k
    | 1 => x / 2 ^ k
    | _ => unsgn w (sgn w x / (2 ^ k : Nat))) a

/-- `VBCAST`: every lane holds the low bits of the scalar. -/
def vBcast (ty s : Nat) : Nat := ofLanes (laneW ty) (laneN ty) (fun _ => s)

/-- `VPERM`: lane i is VA's lane (VB lane i modulo the lane count). -/
def vPerm (ty a b : Nat) : Nat :=
  ofLanes (laneW ty) (laneN ty) (fun i => lane (laneW ty) a (lane (laneW ty) b i % laneN ty))

/-- One level of the pairwise sum (R63): neighbours added in lane order, each rounded to the precision (R91). -/
def pairSum (p : Nat) : List Num → List Num
  | x :: y :: r => ((x.add y).round p) :: pairSum p r
  | r => r

/-- The pairwise sum of at most `2^k` numbers. -/
def pairSums (p : Nat) : Nat → List Num → Num
  | 0, xs => xs.headD (.fin false 0 0)
  | k + 1, xs => pairSums p k (pairSum p xs)

/-- `VRED` (R63, R101): lane 0 holds the reduction, the other lanes 0. -/
def vRed (ty fn a : Nat) : Nat :=
  let w := laneW ty
  let xs := (List.range (laneN ty)).map (lane w a)
  if isF ty then
    let f := fmtOf ty
    let ns := xs.map f.num
    let r := match fn with
      | 0 => pairSums f.prec 6 ns
      | 1 => ns.tail.foldl (Num.pick true) (ns.headD .nan)
      | _ => ns.tail.foldl (Num.pick false) (ns.headD .nan)
    (f.write r).val
  else
    match fn with
    | 0 => xs.foldl (· + ·) 0 % 2 ^ w
    | 1 => xs.tail.foldl (ipick w true false) (xs.headD 0)
    | _ => xs.tail.foldl (ipick w false false) (xs.headD 0)

/-- A condition of `CMP` on two words of width `w` (R56). -/
def condI (w fn x y : Nat) : Bool :=
  match fn with
  | 0 => decide (x = y)
  | 1 => decide (x ≠ y)
  | 2 => decide (sgn w x < sgn w y)
  | 3 => decide (sgn w y ≤ sgn w x)
  | 4 => decide (x < y)
  | _ => decide (y ≤ x)

/-- A condition of `VCMP` on numbers (R101). -/
def condF (fn : Nat) (x y : Num) : Bool :=
  let un := x.isNan || y.isNan
  let eq := (x.isZero && y.isZero) || (!x.lt y && !y.lt x)
  match fn with
  | 0 => !un && eq
  | 1 => un || !eq
  | 2 => !un && !eq && x.lt y
  | 3 => !un && (eq || y.lt x)
  | _ => un

/-- The bit of `VCMP` for lane `i`. -/
def vCmpLane (ty fn a b i : Nat) : Bool :=
  let x := lane (laneW ty) a i
  let y := lane (laneW ty) b i
  if isF ty then condF fn ((fmtOf ty).num x) ((fmtOf ty).num y) else condI (laneW ty) fn x y

/-- `VSEL`: lane i of VA where the bit is 1, of VB elsewhere. -/
def vSel (ty sel a b : Nat) : Nat :=
  ofLanes (laneW ty) (laneN ty) (fun i => if bit sel i then lane (laneW ty) a i else lane (laneW ty) b i)

/-- `VSCALE`: VA × 2^SX with SX a signed 64-bit integer, rounded once. -/
def vScale (ty s a : Nat) : Nat :=
  lanes1 ty (fun x => ((fmtOf ty).write (((fmtOf ty).num x).scale (sgn 64 s))).val) a

/-- An open result made a legal one (R90, R93): a subnormal encoding becomes a zero of its sign, a NaN the canonical NaN. -/
def legalize (f : FFmt) (x : Nat) : Nat := (f.write (f.num (x % 2 ^ f.width))).val

/-- A result of `VACT` within `b` units in the last place of `m * 2^e` (R65), the one that `Config.vact` takes, written under R90. -/
def vactNear (ty fn x b : Nat) (neg : Bool) (m : Nat) (e : Int) : Nat :=
  let r := nearUlps (fmtOf ty).prec b m e (Config.vact fn ty x)
  ((fmtOf ty).writeRounded neg r.1 r.2).val

/-- `VACT` on one lane (R65): reciprocal and square root correctly rounded, the reciprocal square root within 1 ulp, the others within 2;
special inputs and zeros under R94. -/
def vactLane (ty fn x : Nat) : Nat :=
  let f := fmtOf ty
  match f.num x with
  | .nan => f.qnan
  | .inf neg =>
    match fn with
    | 0 => if neg then 0 else f.infBits false
    | 1 => (f.write (.fin neg 1 0)).val
    | 2 => if neg then 0 else (f.write (.fin false 1 0)).val
    | 3 => if neg then legalize f (Config.vact fn ty x) else f.infBits false
    | 4 => f.pack neg 0 0
    | 5 => if neg then f.qnan else 0
    | 6 => if neg then f.qnan else f.infBits false
    | _ => if neg then f.qnan else f.infBits false
  | .fin neg m e =>
    match fn with
    | 0 => if m = 0 then vactNear ty fn x 2 false 1 0 else let r := elemFx 0 neg m e; vactNear ty fn x 2 r.1 r.2.1 r.2.2
    | 1 => if m = 0 then f.pack neg 0 0 else let r := elemFx 1 neg m e; vactNear ty fn x 2 r.1 r.2.1 r.2.2
    | 2 => if m = 0 then vactNear ty fn x 2 false 1 (-1) else let r := elemFx 2 neg m e; vactNear ty fn x 2 r.1 r.2.1 r.2.2
    | 3 => if m = 0 then f.pack neg 0 0 else let r := elemFx 3 neg m e; vactNear ty fn x 2 r.1 r.2.1 r.2.2
    | 4 => if m = 0 then f.infBits neg else let r := recipMant m e; (f.write (.fin neg r.1 r.2)).val
    | 5 =>
      if m = 0 then f.infBits neg
      else if neg then f.qnan
      else
        let s := sqrtMant (m * 2 ^ 256) (e - 256)
        let r := recipMant s.1 s.2
        vactNear ty fn x 1 false r.1 r.2
    | 6 =>
      if m = 0 then f.pack neg 0 0
      else if neg then f.qnan
      else let r := sqrtMant m e; (f.write (.fin false r.1 r.2)).val
    | _ =>
      if m = 0 then f.infBits true
      else if neg then f.qnan
      else
        let r := elemFx 7 neg m e
        if r.2.1 = 0 then 0 else vactNear ty fn x 2 r.1 r.2.1 r.2.2

def vAct (ty fn a : Nat) : Nat := lanes1 ty (vactLane ty fn) a

/-- The lanes of `new` where the predicate bit is 1, of `old` elsewhere (R53). -/
def vMerge (ty pred old new : Nat) : Nat := vSel ty pred new old

/-! ### Conversion -/

/-- What a conversion or a matrix product adds to the trouble counters (R109). -/
structure Troubles where
  sat : Nat := 0
  fin : Nat := 0
  fout : Nat := 0
  nan : Nat := 0
deriving DecidableEq, Repr

def Troubles.add (a b : Troubles) : Troubles :=
  ⟨a.sat + b.sat, a.fin + b.fin, a.fout + b.fout, a.nan + b.nan⟩

/-- The width of a `VCVT` destination (R64, R84). -/
def cvtW : Nat → Nat
  | 0x0 => 64 | 0x1 => 32 | 0x2 => 16 | 0x3 => 16 | 0x4 => 8 | 0x5 => 8 | 0x6 => 8 | 0x7 => 8
  | 0x8 => 6 | 0x9 => 6 | 0xA => 4 | 0xB => 4 | 0xC => 8 | 0xD => 32 | _ => 32

/-- The floating-point format of a `VCVT` destination or a matrix `FMT` (R84). -/
def narrowFmt : Nat → FFmt
  | 0x0 => fp64 | 0x1 => fp32 | 0x2 => bf16 | 0x3 => fp16 | 0x4 => e4m3 | 0x5 => e5m2 | 0x6 => e4m3
  | 0x7 => e5m2 | 0x8 => e2m3 | 0x9 => e3m2 | 0xA => e2m1 | 0xB => e2m1 | _ => fp32

/-- Integer destinations (R64). -/
def cvtInt (d : Nat) : Bool := decide (d = 0xC ∨ d = 0xE)

/-- MX destinations and inputs (R104). -/
def isMx (d : Nat) : Bool := decide (d = 6 ∨ d = 7 ∨ d = 8 ∨ d = 9 ∨ d = 0xB)

/-- Destinations that may round stochastically (R105). -/
def srDest (d : Nat) : Bool := decide (d = 4 ∨ d = 6 ∨ d = 8 ∨ d = 9 ∨ d = 0xA ∨ d = 0xB)

/-- One step of `SEED` (R106). -/
def seedStep (x : Nat) : Nat :=
  let a := (x ^^^ (x * 2 ^ 13)) % 2 ^ 32
  let b := a ^^^ (a / 2 ^ 17)
  (b ^^^ (b * 2 ^ 5)) % 2 ^ 32

/-- A number rounded to an integer, to nearest even. -/
def Num.toInt (m : Nat) (e : Int) : Nat :=
  if 0 ≤ e then m * 2 ^ e.toNat
  else
    let sh := (-e).toNat
    let q := m / 2 ^ sh
    let r := m % 2 ^ sh
    if 2 ^ (sh - 1) < r ∨ (r = 2 ^ (sh - 1) ∧ q % 2 = 1) then q + 1 else q

/-- What one lane of a `VCVT` gives: the element and its counts. -/
def cvtNum (d : Nat) (draw : Option Nat) (n : Num) : Nat × Troubles :=
  let w := cvtW d
  if cvtInt d then
    match n with
    | .nan => (0, { nan := 1 })
    | .inf neg => (if neg then 2 ^ (w - 1) else 2 ^ (w - 1) - 1, { sat := 1 })
    | .fin neg m e =>
      let q := Num.toInt m e
      if neg then (if 2 ^ (w - 1) < q then (2 ^ (w - 1), { sat := 1 }) else (unsgn w (-(q : Int)), {}))
      else if 2 ^ (w - 1) - 1 < q then (2 ^ (w - 1) - 1, { sat := 1 })
      else (q, {})
  else
    let f := narrowFmt d
    let wr := match n, draw with
      | .fin neg m e, some r => let x := roundSR f.prec m e r; f.writeRounded neg x.1 x.2
      | x, _ => f.write x
    (wr.val, { sat := b2n wr.sat, fout := b2n wr.flush, nan := b2n n.isNan })

/-- The value of a source lane and whether it was flushed (R102, R89). -/
def cvtSrc (ty x : Nat) : Num × Bool :=
  if ty < 4 then (fmtOf ty).read x else (Num.ofInt (sgn (laneW ty) x), false)

/-- What `VCVT` leaves: the destination vector, the seed and the counts. -/
structure Cvt where
  v : Nat
  seed : Nat
  t : Troubles
deriving DecidableEq, Repr

/-- The conversion of the lanes listed, in ascending order (R102, R106): the elements of the acting lanes, the seed after them, the
counts (log entry 74). -/
def cvtLanes (ty d : Nat) (sr : Bool) (scale pred a : Nat) : List Nat → Nat → List (Nat × Option Nat) × Nat × Troubles
  | [], seed => ([], seed, {})
  | i :: is, seed =>
    if bit pred i then
      let src := cvtSrc ty (lane (laneW ty) a i)
      let n := if isMx d then (if scale = 0xFF then Num.nan else src.1.scale (127 - (scale : Int))) else src.1
      let seed' := if sr then seedStep seed else seed
      let r := cvtNum d (if sr then some seed' else none) n
      let rest := cvtLanes ty d sr scale pred a is seed'
      ((i, some r.1) :: rest.1, rest.2.1, (r.2.add { fin := b2n src.2 }).add rest.2.2)
    else
      let rest := cvtLanes ty d sr scale pred a is seed
      ((i, none) :: rest.1, rest.2.1, rest.2.2)

/-- `VCVT` (R102 to R106): `fn` is FUNC, `s` the scalar source, `old` the destination before. -/
def vCvt (ty fn s pred old a seed : Nat) : Cvt :=
  let d := fn / 16
  let sr := bit fn 3
  let q := fn % 4
  let sw := laneW ty
  let dw := cvtW d
  let n := if dw < sw then laneN ty else 512 / dw
  let r := cvtLanes ty d sr (s % 256) pred a (List.range n) seed
  if dw < sw then
    let str := r.1.foldl (fun acc e => acc + (e.2.getD 0) * 2 ^ (dw * e.1)) 0
    let len := n * dw / 8
    let top := (16 * q + len + 15) / 16 * 16
    ⟨setBits old (8 * top - 1) (128 * q) str, r.2.1, r.2.2⟩
  else
    ⟨r.1.foldl (fun acc e =>
        match e.2 with
        | some x => setBits acc (dw * e.1 + dw - 1) (dw * e.1) x
        | none => acc) old, r.2.1, r.2.2⟩

end Sys2Proof
end

