-- ==== Sys2Proof/Machine/Types.lean ====
section
/-!
DEFINITION. The records that State is made of: carrels and their transfers (02), work slots, releases and due dates (04), call slips and
queues (05), translations and lending (09). Plain data throughout.
-/
namespace Sys2Proof

/-- No work slot. Slots are 0 to 63; 64 + q stands for queue pair q where an access serves one. -/
def noSlot : Nat := 2 ^ 20

/-! ### Carrels (02) -/

/-- What a carrel is doing in the invocation of its slot. -/
inductive Run where
  | idle            -- no invocation
  | waiting         -- dispatched, its release wave has not started it yet
  | active          -- may issue its next line
  | gated (b : Nat) -- clock-gated at barrier b until its release wave (R153)
  | released (b : Nat) -- the release of barrier b has started; its own wave has not yet
  | halting         -- HALT has issued; its tags are not all complete (R55)
  | halted          -- HALT completed
  | stopped         -- issue stopped by an end of the invocation (R71, R148)
deriving DecidableEq, Repr

/-- The mover operations that use a tag (R58, R60). -/
inductive XKind where
  | mld | mst | lcopy | pass | mtouch
deriving DecidableEq, Repr

/-- A part of a transfer that lies in one 64-byte line: local address, offset in the handle, bytes; whether it has missed in the wing's cache
and been counted so, and whether it has been counted as found in the eviction buffer (07 R291). -/
structure Piece where
  loc : Nat
  off : Nat
  len : Nat
  miss : Bool := false
  eb : Bool := false
deriving DecidableEq, Repr

/-- A transfer that has been issued and is not complete: its tag, its handle, the pieces that still need a translation or an access
(`todo`), those whose request is out (`wait`, with the line's coherence address), the local ranges it still reads and writes
(R45; empty when lo = hi), and for LCOPY and PASS the source, destination and length. -/
structure Xfer where
  tag : Nat
  kind : XKind
  h : Nat := 0
  todo : List Piece := []
  wait : List (Nat × Piece) := []
  rdLo : Nat := 0
  rdHi : Nat := 0
  wrLo : Nat := 0
  wrHi : Nat := 0
  src : Nat := 0
  dst : Nat := 0
  len : Nat := 0
  dir : Nat := 0
  slot : Nat := noSlot
deriving DecidableEq, Repr

/-- A held translation (R329): PASID, first virtual address, page size as a power of two, merge count, first coherence address,
rights, source, epoch. `fn` is the function that asked for it: a global invalidation goes by it (log entry 86). -/
structure XlEnt where
  pasid : Nat
  va : Nat
  size : Nat
  merge : Nat := 0
  ca : Nat
  r : Bool
  w : Bool
  lent : Bool
  epoch : Nat
  fn : Nat := 0
deriving DecidableEq, Repr

/-- A physical carrel's own state (R36, R57, R61, R153). Special registers that name the carrel's place are computed. -/
structure Carrel where
  sreg : Tab (BitVec 64) := []
  preg : Tab (BitVec 64) := []
  vreg : Tab (BitVec 512) := []
  tile : Tab (BitVec 32768) := []
  lp : Nat := 0
  seed : Nat := 0
  cycles : Nat := 0
  trb : Troubles := {}
  pass : Tab Nat := []
  arrived : Nat := 0
  run : Run := .idle
  xfers : List Xfer := []
  xlat : List XlEnt := []
  inReset : Bool := false
  failed : Bool := false
deriving DecidableEq, Repr

/-- A carrel of which the table lists nothing: an idle spare (physical indices 128 to 143) is held in CARREL reset (01 R16). -/
def carDef (p : Nat) : Carrel := { inReset := decide (128 ≤ p % 144) }

/-! ### Work slots (04) -/

/-- A bound handle (R324, R58): base, length, rights, the epoch of its pre-translation; for an interloan handle the member and window
it reaches (10 R384). -/
structure Handle where
  base : Nat := 0
  len : Nat := 0
  r : Bool := false
  w : Bool := false
  epoch : Nat := 0
  remote : Bool := false
  member : Nat := 0
  window : Nat := 0
  windowed : Bool := false
deriving DecidableEq, Repr

/-- A standing entry (R82). -/
structure Entry where
  num : Nat
  bySlip : Bool
  byDesc : Bool
  start : Nat
  budget : Nat
deriving DecidableEq, Repr

/-- An installed folio (R74): where its lines and data lie, what is pinned, its entries, the slot handles its install bound, and the kept
copy of the lines and data as installed. -/
structure Folio where
  load : Nat
  lines : Nat
  dataAddr : Nat
  dataSize : Nat
  dataPinned : Bool
  entries : List Entry
  handles : List Nat
  lineBytes : Bytes
  dataBytes : Bytes
  frame : Nat := 0
deriving DecidableEq, Repr

/-- Where an invocation comes from, with what its report needs (R77, R169). -/
inductive Source where
  | slip (seq : Nat) (coherent : Bool)
  | desc (bytes : Bytes)
  | due (idx stamp : Nat) (late skipped suspended : Bool) (record : Bool)
deriving DecidableEq, Repr

/-- How an invocation or a descriptor ends (R174): status, exception code, reporting carrel, line index, detail. -/
structure Ending where
  status : Nat
  exc : Nat := 0
  carrel : Nat := 0
  line : Nat := 0
  detail : Nat := 0
deriving DecidableEq, Repr

/-- A running invocation. -/
structure Inv where
  src : Source
  entry : Nat
  folio : Nat
  budget : Nat
deriving DecidableEq, Repr

/-- A latched START_ENTRY (R149) or one being dispatched: table index, stamp T, argument, entry, flags. -/
structure Start where
  idx : Nat
  stamp : Nat
  arg : Nat
  entry : Nat
  late : Bool
  skipped : Bool
  suspended : Bool
deriving DecidableEq, Repr

/-- A work slot beyond its registers (R57, R74, R145 to R163): its allotment, folios and bound handles; the running invocation; a latched
start; which barriers' gates are open; the hub's arrivals from wings, by barrier (a set of wings); `CTL_BAR.GATED`, group and priority as
latched at dispatch; barriers whose group messages are awaited and the group releases that came, with their T; members that have left the
group's invocation; an end marked while paused and the end being drained; an install or remove that works in it; shelves lost and a
shelf repair owed; the wings whose WING reset ended the invocation: the slot's stores there are wiped and restored before it leaves `ENDING` (02 R76). -/
structure SlotSt where
  allot : List Nat := []
  folios : List Folio := []
  handles : Tab (Option Handle) := []
  inv : Option Inv := none
  latch : Option Start := none
  gates : Nat := 0
  hubArr : Tab Nat := []
  gated : Nat := 0
  group : Nat := 0
  prio : Nat := 0
  grpWait : Nat := 0
  grpRel : List (Nat × Nat) := []
  left : Option Nat := none
  endMark : Bool := false
  ending : Option Ending := none
  imgJob : Bool := false
  shelfLost : Bool := false
  repair : Bool := false
  clear : List Nat := []
deriving DecidableEq, Repr

/-- A release being acted on (R159 to R161): its slot, the barrier (none for a dispatch), T_rel, spread or compact, the waves that
have started, its place in the order of formation and the slot's priority. -/
structure Release where
  slot : Nat
  bar : Option Nat
  trel : Nat
  spread : Bool
  stride : Nat
  started : Nat := 0
  shift : Nat := 0
  prio : Nat := 0
  formed : Nat := 0
deriving DecidableEq, Repr

/-- A due-date entry (R130 to R141). The state is 0 FREE, 1 ARMED, 2 FIRED, 3 SUSPENDED; the flags are those of its last firing. `pend`:
it is to fire at once, with these flags (bit 0 LATE, 1 SKIPPED, 2 SUSPENDED), this number of collapsed instances, and the stamp to
which a periodic entry re-arms (R119, R133, R135). -/
structure DdEnt where
  stamp : Nat := 0
  spec : Nat := 0
  period : Nat := 0
  state : Nat := 0
  late : Bool := false
  skipped : Bool := false
  susp : Bool := false
  busy : Bool := false
  noTarget : Bool := false
  missed : Nat := 0
  firedAt : Nat := 0
  pend : Option (Nat × Nat × Nat) := none
deriving DecidableEq, Repr

/-- The date-stamp unit (R116 to R122) beyond its registers: reference present, holdover, ticks without the reference, ticks since the
last good frame, consecutive bad or missing frames, ticks since the reference came back, the latched
high half of STAMP_NOW, how many entries were issued in the present tick, the times at which issued entries take effect (R131), the effects that wait for
their tick as (time, table index, `DD_SPEC`) (R130), and a bad frame since the last one counted as missing (R118). -/
structure StampSt where
  refPresent : Bool := false
  holdover : Bool := false
  holdTicks : Nat := 0
  sinceGood : Nat := 0
  missRun : Nat := 0
  refTicks : Nat := 0
  latchHi : Option Nat := none
  actAt : List Nat := []
  acts : List (Nat × Nat × Nat) := []
  badSeen : Bool := false
deriving DecidableEq, Repr

/-! ### Call slips and queues (05) -/

/-- The call-slip engine's place for one slot (R164 to R179, R197, R212): the lines of the slip and of the delivery once translated (none
where the translation is owed) with the epochs of their translations (09 R332); whether the slip is held in S, its re-read is out, its data has arrived and is not compared yet; the
delivery line's state (0 I, 1 S, 2 E, 3 M), its bytes and whether ownership has been asked for; the accepted call that waits for
dispatch (R168); whether a call is running or its delivery is owed; the delivery to be written; whether the pair is being disarmed;
whether the delivery goes out with posted writes (R212); an unconsumed delivery of the slip registers and the latest delivery line. -/
structure CsSt where
  slipLine : Option Nat := none
  dlvLine : Option Nat := none
  slipEp : Nat := 0
  dlvEp : Nat := 0
  slipS : Bool := false
  reading : Bool := false
  got : Option Bytes := none
  dlv : Nat := 0
  dlvData : Bytes := []
  owning : Bool := false
  call : Option Bytes := none
  running : Bool := false
  report : Option Bytes := none
  disarm : Bool := false
  posted : Bool := false
  valid : Bool := false
  line : Bytes := []
deriving DecidableEq, Repr

/-- The slip frame of a partition (R196) beyond its registers. -/
structure SlipFr where
  refused : Bool := false
  callBytes : Bytes := []
deriving DecidableEq, Repr

/-- A buffer entry of a descriptor (R187). -/
structure Buf where
  addr : Nat
  len : Nat
  handle : Nat
  rights : Nat
deriving DecidableEq, Repr

/-- An accessioned descriptor: its bytes, its buffers, the epoch of its translation, whether it must be translated again before
dispatch (R341), the status it already failed with. -/
structure Desc where
  bytes : Bytes
  bufs : List Buf := []
  epoch : Nat := 0
  marked : Bool := false
  fail : Option Ending := none
deriving DecidableEq, Repr

/-- The translation of a list of ranges under way (R331): the ranges still to do (address, bytes, write access) and the entries found, at most 512. -/
structure PreSt where
  todo : List (Nat × Nat × Bool) := []
  got : List XlEnt := []
deriving DecidableEq, Repr

/-- A lending operation's progress (09 R346): the place of the granule at hand in its range and the granules changed; the phase (0 not begun, 1 drains,
2 translates host pages, 3 copies, 4 at a granule, 5 drops it); whether the granule was held; the bytes translated, their pages (offset, coherence
address, bytes), the epoch of the first one's translation (R332) and whether every one grants write; lines of them that wing caches hold, with their place; the
status with which a translation failed. -/
structure LendJob where
  pos : Nat := 0
  changed : Nat := 0
  phase : Nat := 0
  held : Bool := false
  off : Nat := 0
  pages : List (Nat × Nat × Nat) := []
  epoch : Nat := 0
  wr : Bool := true
  patch : List (Nat × Bytes) := []
  fault : Option Nat := none
deriving DecidableEq, Repr

/-- A completion record that waits for a free entry (R191), with the interrupts it carries. -/
structure HeldRec where
  bytes : Bytes
  irqs : List Nat
deriving DecidableEq, Repr

/-- A queue (R180 to R195): entries announced and not yet fetched, the fetched descriptor, stale fetches in a row, the accessioned
descriptors, records written and not consumed, the hold and the records owed after it, the running lending operation, the translation of the fetched
descriptor's buffers and that of a marked one (09 R331, R341). -/
structure QSt where
  avail : Nat := 0
  cur : Option Bytes := none
  stale : Nat := 0
  accs : List Desc := []
  used : Nat := 0
  hold : Option HeldRec := none
  owed : List HeldRec := []
  lend : LendJob := {}
  pre : Option PreSt := none
  re : Option PreSt := none
deriving DecidableEq, Repr

/-! ### Translation and lending (09) -/

/-- Who waits for a translation (R336, R338): SOURCE 0 mover, 1 intake, 2 call-slip engine, 3 Ethernet, 4 Ploli, 5 lending; the slot or
queue, the device carrel number for a mover, and what the intake wanted (0 a buffer or list, 1 the submission ring, 3 what concerns the first accessioned
descriptor, 4 the completion ring). -/
structure Waiter where
  source : Nat
  slot : Nat := 0xFF
  carrel : Nat := 0
  aux : Nat := 0
deriving DecidableEq, Repr

/-- A Translation Request in flight: PASID, the address needed, write access, the ranges withdrawn since it was sent (R343), the page requests that led to
it, who waits; whether it has left (06 R231). -/
structure AtsReq where
  pasid : Nat
  va : Nat
  w : Bool
  stale : List (Nat × Nat) := []
  retry : Nat := 0
  who : List Waiter := []
  sent : Bool := true
deriving DecidableEq, Repr

/-- A page request in flight or queued (R333, R334): PRG index, PASID, page, right, tries so far, who waits. -/
structure PageReq where
  prg : Nat
  pasid : Nat
  va : Nat
  w : Bool
  retry : Nat := 0
  who : List Waiter := []
deriving DecidableEq, Repr

/-- An invalidation in progress (R341): its request's tag, what it covers, the epoch it began: it waits for requests of earlier ones. -/
structure InvOp where
  itag : Nat
  glob : Bool
  pasid : Nat
  va : Nat
  size : Nat
  epoch : Nat := 0
deriving DecidableEq, Repr

/-- A partition function's part of the translation unit; `invQ` are the invalidations that wait to be accepted (R332, R343),
`probe` the PASID and the granule that a probe looks up (R358). -/
structure XlFn where
  ats : List AtsReq := []
  prs : List PageReq := []
  queued : List PageReq := []
  invs : List InvOp := []
  invQ : List InvOp := []
  nextPrg : Nat := 0
  unlogged : Nat := 0
  order : Nat := 0
  probe : Option (Nat × Nat) := none
deriving DecidableEq, Repr

/-- A lending-table entry (R345) with its bucket and its place there. The state is as R344 encodes it; `since` is the epoch of the withdrawal that the
granule's operation waits for (R346). -/
structure LendEnt where
  vpn : Nat
  pasid : Nat
  state : Nat
  frame : Nat
  r : Bool
  w : Bool
  advice : Nat := 0
  order : Nat := 0
  bucket : Nat
  pos : Nat := 0
  since : Option Nat := none
deriving DecidableEq, Repr

end Sys2Proof
end

