-- ==== Sys2Proof/Machine/TypesHost.lean ====
section
/-!
DEFINITION. The records of the host link and its functions (06), the collectors (12) and the device states (13).
-/
namespace Sys2Proof

/-- Whose outstanding read of host memory it is (06 R237 decides by it). -/
inductive Owner where
  | ring (q : Nat)
  | list (q : Nat)
  | image (q : Nat)
  | home (line : Nat)
  | wqe (qp : Nat)
  | rqe (qp : Nat)
  | nobody (pasid : Option Nat)
deriving DecidableEq, Repr

/-- An outstanding read: its tag, requester function, owner, address (CA[52] = 1: served by device memory), CXL.io or CXL.cache, the time it
was issued, the epoch of its translation (09 R332), orphaned by an FLR (R235), in quarantine until a time (R237); for a read by RdCurr the lines not
yet answered and the bytes that have come, by address; the ranges read, in order (07 R268). -/
structure HReq where
  tag : Nat
  fn : Nat
  owner : Owner
  ca : Nat
  io : Bool
  issued : Nat
  epoch : Nat := 0
  orphan : Bool := false
  quar : Option Nat := none
  want : List Nat := []
  got : Memory := []
  parts : List (Nat × Nat) := []
deriving DecidableEq, Repr

/-- A write of an agent without a cache that has not been issued (R231; 07 R267): address, bytes, the translation it used, marked for re-translation
(R233), a translated request (09 R330), a CXL.io posted write whatever Cache_Enable holds, the reserve's class, the work that a failed
translation ends, and the epoch of the translation. -/
structure HeldW where
  ca : Nat
  bytes : Bytes
  pasid : Option Nat := none
  va : Nat := 0
  marked : Bool := false
  xl : Bool := true
  posted : Bool := false
  cls : Option Nat := none
  who : Waiter := { source := 1 }
  epoch : Nat := 0
deriving DecidableEq, Repr

/-- One function's configuration space, as far as it acts (06 R205 to R209, R228, R236, R239); its writes not yet issued, and the vectors whose
messages wait for them (R228). -/
structure FnSt where
  mse : Bool := false
  bme : Bool := false
  serr : Bool := false
  intDis : Bool := false
  d3 : Bool := false
  flr : Bool := false
  timeout : Nat := 0
  devCtl : Nat := 0x2810
  msixEn : Bool := false
  fmask : Bool := false
  vecs : Memory := []
  unmasked : Nat := 0
  pba : Nat := 0
  pasidEn : Bool := false
  atsEn : Bool := false
  priEn : Bool := false
  prFail : Bool := false
  prAlloc : Nat := 0
  cacheEn : Bool := false
  bars : Memory := []
  misc : Memory := []
  aerUnc : Nat := 0
  aerCor : Nat := 0
  aerUncMask : Nat := 0
  aerCorMask : Nat := 0
  aerUncSev : Nat := 0x462030
  held : List HeldW := []
  irqs : List Nat := []
deriving DecidableEq, Repr

/-- The RAS capability's registers after power-on, as CXL 3.1 has them: every defined error masked and of fatal severity (log entry 21). -/
def rasReset : Memory := ((Memory.write [] 0x1104 (natLe 4 0x1CFFF)).write 0x1108 (natLe 4 0x1CFFF)).write 0x1110 (natLe 4 0x7F)

/-- The host link (06 R199 to R204, R230, R236): up, the INTx level last sent, the outstanding reads, whether a training has failed
since the link was last up, the modules in use, the RAS capability's stored registers (R213), a clear of Cache_Enable under way (R211). -/
structure LinkSt where
  up : Bool := false
  intx : Bool := false
  reqs : List HReq := []
  failed : Bool := false
  modules : List Nat := []
  ras : Memory := rasReset
  clearing : Bool := false
deriving DecidableEq, Repr

/-- A cage as the expander sees it (06 R215 to R217, 16 R544, R545): a write on its way, one held, the expander's output register, module
present and button pressed as confirmed by two polls, power good as last polled, the inputs of the last poll ([0] `PRESENT_N`,
[1] `BUTTON_N`, [2] `PWR_GOOD`, [3] `PWR_FAULT_N`). -/
structure CageSt where
  sent : Option Nat := none
  held : Option Nat := none
  out : Nat := 0x1E
  present : Bool := false
  button : Bool := false
  powered : Bool := false
  inputs : Nat := 0xB
deriving DecidableEq, Repr

/-- An error record (12 R427). -/
structure ErrRec where
  source : Nat
  sev : Nat
  forced : Bool := false
  overridden : Bool := false
  react : Nat := 0
  count : Nat := 1
  stamp : Nat := 0
  info0 : Nat := 0
  info1 : Nat := 0
deriving DecidableEq, Repr

/-- A collector beyond its registers: its history, newest first (R428), and the pending bits that reach ERROR (R433). -/
structure ColSt where
  hist : List ErrRec := []
  intPend : Nat := 0
deriving DecidableEq, Repr

/-- An event raised and not yet collected: source ID, detail, slot, partition (0xF none), forced with the severity it names. -/
structure Event where
  source : Nat
  info0 : Nat := 0
  slot : Nat := noSlot
  part : Nat := 0xF
  forced : Option Nat := none
  sev : Option Nat := none
deriving DecidableEq, Repr

/-- Faults and repairs (12): a trap pending, physical carrels (wing * 144 + index) whose substitution is owed, corrected-error times per
carrel (R552), the error pin's hardware pulse, the CHIP_RST timer with its source, times of management resets for desk faults, wings
whose last WING reset was for class 2 and when it ended (R444); carrels whose substitution is in progress (01 R17). -/
structure FaultSt where
  trap : Bool := false
  subst : List Nat := []
  withdrawn : List Nat := []
  ceTimes : List (Nat × Nat) := []
  pulse : Bool := false
  pulseHeld : Bool := false
  pulseAt : Nat := 0
  chip : Option (Nat × Nat) := none
  deskTimes : List Nat := []
  deskHeld : Bool := false
  cls2End : Tab Nat := []
  repairs : List Nat := []
deriving DecidableEq, Repr

/-- The device's start and reset sequences (13) and the management cores (15 R502 to R506): COLD_RST_N asserted; held (R460); the mask ROM has
begun; the Archivist and the desk run; the intake pauses for a MANAGEMENT reset (R445); the wipe of this start is complete; a life-cycle
change in progress, by its step (1 work ended, 2 the wipe, 3 wiped, 4 recorded, 5 the key digest programmed, 6 the life cycle programmed), and its target
(R471); life cycle and FIELD_DEBUG entries as read at the start; the pins SAFE_N and READY; an entry into
the safe state that waits for the end of a reset (R447); a LINK-LOSS or DEVICE reset in progress; a record of the safe state owed; the device has left
ACCESSION since the last COLD reset (00 R9); the safe state was left by the assertion of COLD_RST_N (R479); stacks and carrels have been calibrated since
the last COLD reset (R465). -/
structure DevSt where
  cold : Bool := false
  held : Bool := false
  started : Bool := true
  archRun : Bool := false
  deskRun : Bool := false
  intakePause : Bool := false
  wiped : Bool := false
  lcStep : Nat := 0
  lcTarget : Nat := 0
  lifecycle : Nat := 1
  debugLeft : Nat := 15
  safeN : Bool := true
  ready : Bool := false
  pendSafe : Option (Nat × Nat) := none
  resetRun : Bool := false
  safeRec : Bool := false
  rwlOff : Bool := false
  wasSafe : Bool := false
  calDone : Bool := false
deriving DecidableEq, Repr

end Sys2Proof
end

