-- ==== Sys2Proof/Machine/TypesCoh.lean ====
section
/-!
DEFINITION. The records of the wing caches, the homes and device memory (07, 08). Lines are numbered by CA[52:6] (07 R243).
-/
namespace Sys2Proof

/-- A line of a wing cache (07 R251, R273): state 1 S, 2 E, 3 O, 4 M; its way; its 64 bytes; the function it was filled for, to which its
write-back is attributed (06 R231). -/
structure WLine where
  st : Nat
  way : Nat
  data : Bytes
  fn : Nat := 0
deriving DecidableEq, Repr

/-- An eviction-buffer entry (07 R277, R278): state 2 E, 3 O, 4 M; `sent` once its write-back has been taken in by the home; the line's function. -/
structure EbEnt where
  line : Nat
  st : Nat
  data : Bytes
  sent : Bool := false
  fn : Nat := 0
deriving DecidableEq, Repr

/-- A wing beyond its registers and carrels: its second-level translation buffer (09 R327), its cache's lines by line number and
replacement bits by set (07 R273), its eviction buffer, an enable that waits for the end of a walk
(R280), and the class + 1 of the WING reset that holds the wing (R279; 0 none). -/
structure WingSt where
  l2 : List XlEnt := []
  lines : Tab WLine := []
  plru : Tab Nat := []
  eb : List EbEnt := []
  reEnable : Bool := false
  rst : Nat := 0
deriving DecidableEq, Repr

/-- An agent's transaction (07 R253, R257, R265, R266): request opcode, agent, transaction number, line, its reserved way, NACKs
counted, 0 sent, 1 backing off, 2 waiting for GO, 3 GO received; the grant and the data received; the bytes it writes and their
mask; for a mover that bypasses the cache the physical carrel, tag and piece; a prefetch; given up by its agent (05 R179); the epoch of its
translation (09 R332). -/
structure Txn where
  opc : Nat
  agent : Nat
  txn : Nat
  line : Nat
  way : Nat := 0
  nacks : Nat := 0
  phase : Nat := 0
  grant : Option Nat := none
  data : Option Bytes := none
  err : Bool := false
  dirty : Bool := false
  bytes : Bytes := []
  mask : Nat := 0
  wing : Nat := 0
  slot : Nat := noSlot
  who : Option (Nat × Nat × Piece) := none
  off : Nat := 0
  prefetch : Bool := false
  orphan : Bool := false
  epoch : Nat := 0
deriving DecidableEq, Repr

/-- A catalogue entry (07 R246) with its way in the set. `hgrant` is 0, 1 S or 2 E. -/
structure CatEnt where
  way : Nat := 0
  pres : Nat := 0
  owned : Bool := false
  owner : Nat := 0
  hub : Bool := false
  hgrant : Nat := 0
  lost : Bool := false
deriving DecidableEq, Repr

/-- A home's transaction (07 R245, R259): the request (opcode, agent, number, mask, bytes, wing) and the slot it serves; held in a
reserved tracker for a transient line (`parked`, R266); the victim it waits for (R248); the dies whose snoop responses are owed (bit
8: the engine), the answers that promised data to the home and the data that came; whether a snooped cache forwarded data and keeps
the line in O; the dirty data collected; a write-back in flight awaited; a memory read, a host request (its CXL.cache opcode, and
whether it has left), a stash answer or the CMP_ACK awaited; finished. `opc` 0x44 is a back-invalidation. `fn` is the function of a write by an
agent without a cache or of an eviction; such a write keeps the HeldW it came from. `snooped`: a holder has been asked. -/
structure HTxn where
  opc : Nat
  src : Nat
  txn : Nat
  line : Nat
  mask : Nat := 0
  bytes : Bytes := []
  wing : Nat := 0
  slot : Nat := noSlot
  parked : Bool := false
  victim : Option Nat := none
  dies : Nat := 0
  promised : Nat := 0
  came : Nat := 0
  fwd : Bool := false
  keepO : Bool := false
  dirty : Option Bytes := none
  wbWait : Bool := false
  memWait : Bool := false
  host : Option Nat := none
  hostSent : Bool := false
  stash : Bool := false
  ack : Bool := false
  done : Bool := false
  fn : Option Nat := none
  hub : Option HeldW := none
  snooped : Bool := false
deriving DecidableEq, Repr

/-- A write-combining entry (08 R301): line, bytes, mask, the partition charged, the time of its last write. -/
structure WcbEnt where
  line : Nat
  data : Bytes
  mask : Nat
  part : Nat
  last : Nat
deriving DecidableEq, Repr

/-- A line of the reserve (08 R304 to R306): way, bytes, dirty, protected for a class, read count. -/
structure ResLine where
  way : Nat
  data : Bytes
  dirty : Bool := false
  prot : Option Nat := none
  count : Option Nat := none
  part : Nat := 0xF
  used : Nat := 0
deriving DecidableEq, Repr

/-- Device memory (08): the stacks' bytes by DPA, the words that read uncorrected, the write-combining buffers, the reserve with its
replacement bits, the regulators' buckets and the bytes passed in the current µs, frame owners (partition + 1; 0 free), the
scrubber's next granule, map-out candidates (a channel, plus 512 where software asked for it) and the map-out in progress (its column),
CAP in frames and the channels mapped out (R317), the corrected errors of the last second (channel, time), channels that do not respond,
columns whose words were unreadable when they were evacuated (R315), with the words and frames written since. -/
structure MemSt where
  dram : Memory := []
  bad : List Nat := []
  wcb : List WcbEnt := []
  res : Tab ResLine := []
  resPlru : Tab Nat := []
  resUse : Nat := 0
  bucket : Tab Int := []
  passed : Tab Nat := []
  owner : Tab Nat := []
  scrub : Nat := 0
  cand : List Nat := []
  mapout : Option Nat := none
  cap : Nat := 393216
  mapped : Nat := 0
  ceWin : List (Nat × Nat) := []
  down : List Nat := []
  lost : List Nat := []
  healed : List Nat := []
  healedF : List Nat := []
deriving DecidableEq, Repr

/-- The coherent fabric beyond the caches (07): agents' transactions, home transactions in order of acceptance, the catalogue by line,
reservations by slice in order (agent, number), requests for which a tracker is held until
they use their `GO`, write-backs that wait at their home (wing,
line), host snoops (0 SnpInv, 1 SnpData, 2 SnpCur; line) that wait for a transient line or for a tracker, clean evictions (function, CXL.cache opcode,
line) whose function may not request. -/
structure CohSt where
  txns : List Txn := []
  homes : List HTxn := []
  cat : Tab CatEnt := []
  resq : Tab (List (Nat × Nat)) := []
  goHeld : Tab (List (Nat × Nat)) := []
  wbs : List (Nat × Nat) := []
  hsnp : List (Nat × Nat) := []
  owed : List (Nat × Nat × Nat) := []
deriving DecidableEq, Repr

end Sys2Proof
end

