-- ==== Sys2Proof/Machine/TypesMgmt.lean ====
section
/-!
DEFINITION. The records of power and temperature (11), firmware and the ledger (15), and the management ports (16).
-/
namespace Sys2Proof

/-- The power controller (11 R398 to R413) beyond its registers: the last sample (10 mV, 10 mA, 0.1 W), the cap density, what each wing
applies (cap density, effective density, droop density), thermal densities by die and of the device, `CAP_IN_N` low, the operating point,
a step in progress (`true` faster), the samples above and at or below the cap in a row, the last sample above the ceiling, the energy
not yet a whole mJ (in 0.1 W µs), the sums of the policy period, 100 µs units of throttled time not yet a whole ms; the sensor and
peak of a trip whose record is owed; a trip that the next COLD reset is to report as its cause (13 R479); the domains unsupplied, VIN44 absent; the hottest sensor has been below 45 °C since it last rose above 85 °C. -/
structure PwrSt where
  vin : Nat := 0
  iin : Nat := 0
  pin : Nat := 0
  capD : Nat := 0
  wingCap : Tab Nat := []
  wingEff : Tab Nat := []
  droop : Tab Nat := []
  dieT : Tab Nat := []
  devT : Nat := 0
  capIn : Bool := false
  cur : Nat := 0
  step : Option Bool := none
  above : Nat := 0
  below : Nat := 0
  ceiling : Bool := false
  rest : Nat := 0
  densSum : Nat := 0
  densN : Nat := 0
  densAny : Bool := false
  high : Nat := 0
  thrRest : Nat := 0
  tripped : Option (Nat × Nat) := none
  tripCause : Bool := false
  off : Bool := false
  noVin : Bool := false
  armed : Bool := false
deriving DecidableEq, Repr

/-- The lifetime totals of a counter record (15 R521) apart from those that registers hold: power-on ticks, resets by kind, thermal cycles,
corrected and uncorrected counts by stack, 100 µs units by temperature bin, energy in mJ, retrains, cap events, substitutions,
map-outs, life-cycle changes, updates confirmed. -/
structure Totals where
  on : Nat := 0
  resets : Tab Nat := []
  cycles : Nat := 0
  ce : Tab Nat := []
  uc : Tab Nat := []
  bins : Tab Nat := []
  energy : Nat := 0
  retrains : Nat := 0
  caps : Nat := 0
  substs : Nat := 0
  mapouts : Nat := 0
  changes : Nat := 0
  updates : Nat := 0
deriving DecidableEq, Repr

/-- A committed ledger record (15 R520). -/
structure LRec where
  seq : Nat
  typ : Nat
  fmt : Nat := 1
  carried : Bool := false
  stamp : Nat := 0
  cal : Int := 0
  body : Bytes := []
deriving DecidableEq, Repr

/-- The ledger and the settings in the NVM (15 R507, R519 to R526): valid records, oldest first; the next sequence number; the time of the last
power-on; the totals now
and as the newest counter record has them; the time of the last `SNAPSHOT`; the settings' calendar pair; a `READ` or `CALENDAR` in
progress; `LEDGER_DATA`; since when the device is in SERVICE in FIELD_DEBUG, the seconds of such a period whose record is owed; the pair that a
`CALENDAR` in progress stores; an orderly-shutdown record is owed. -/
structure LedgerSt where
  recs : List LRec := []
  next : Nat := 0
  t0 : Nat := 0
  cur : Totals := {}
  saved : Totals := {}
  snapAt : Option Nat := none
  pair : Option (Nat × Nat) := none
  confirmS : Nat := 600
  periodS : Nat := 600
  busyRead : Bool := false
  busyCal : Bool := false
  data : Bytes := []
  debugFrom : Option Nat := none
  debugOwed : Option Nat := none
  calNext : Option (Nat × Nat) := none
  shutOwed : Bool := false
deriving DecidableEq, Repr

/-- A firmware slot as the directory has it (15 R529, R514): its state; in `TRIAL`, already booted once. -/
structure FwSlot where
  state : Nat := 0
  booted : Bool := false
deriving DecidableEq, Repr

/-- Firmware and update (15 R504 to R518): the four slots (Archivist 0 and 1, desk 0 and 1), those that run, the staged header and payload,
the window's bytes, the staged authorisation, the slot on trial and the end of its window, desk memory, the digests of the desk's library blocks, the
library blocks refused, the window written during `WRITING`. -/
structure FwSt where
  slots : Tab FwSlot := []
  arch : Option Nat := none
  desk : Option Nat := none
  hdr : Bytes := []
  payload : Bytes := []
  win : Memory := []
  auth : Option Bytes := none
  trial : Option Nat := none
  trialEnd : Nat := 0
  deskMem : Memory := []
  libDig : List Nat := []
  refused : List Nat := []
  spoiled : Bool := false
deriving DecidableEq, Repr

/-- The fuses (13 R467, R469, R472; 15 R515, R528): life-cycle value, FIELD_DEBUG entries left, security version, unique identifier, the
integrator's key digest (0 none), the substitutions made at manufacture test (wing, logical, spare; 01 R21). -/
structure Fuses where
  lc : Nat := 1
  debugLeft : Nat := 15
  svn : Nat := 0
  uid : Nat := 0
  digest : Nat := 0
  subst : List (Nat × Nat × Nat) := []
deriving DecidableEq, Repr

/-- The management ports (16): the I3C target's dynamic address, offset and in-band interrupts; the TAP's instruction, held in
reset; the serial reference lost. -/
structure PortSt where
  dyn : Option Nat := none
  off : Nat := 0
  ibi : Bool := true
  lastIbi : Option Nat := none
  raised : Bool := false
  fetchTo : Nat := 0
  ir : Nat := 2
  tapReset : Bool := true
  serdesLost : Bool := false
deriving DecidableEq, Repr

end Sys2Proof
end

