-- ==== Sys2Proof/Machine/TypesNet.lean ====
section
/-!
DEFINITION. The records of the Ethernet ports, queue pairs and cascade links (10).
-/
namespace Sys2Proof

/-- An interloan transfer of this device that is not answered (R384, R385): its tag; the carrel, mover tag and piece it serves; the slot;
member, window, offset; write or read; class `WIN`; the time it was made; whether it has left (it waits for a route, a windowed one for a window
too). -/
structure IlTx where
  itag : Nat
  p : Nat
  tag : Nat
  piece : Piece
  slot : Nat
  member : Nat
  window : Nat
  off : Nat
  write : Bool
  windowed : Bool
  sent : Nat
  left : Bool
deriving DecidableEq, Repr

/-- The headers of a RoCEv2 packet below its transport (10 R365, R366), from its queue pair's context: traffic class, 802.1Q priority and tag (bit 15: tagged),
next-hop MAC address, destination IP address, UDP source port. -/
structure RoceHdr where
  tclass : Nat
  prio : Nat
  vlan : Nat
  dmac : Nat
  dip : Nat
  sport : Nat
deriving DecidableEq, Repr

/-- A send work request that has started (10 R369): its opcode, identifier, length, whether it signals, its PSNs, its packets; for an RDMA
READ the local address and the bytes that have come. -/
structure SendWr where
  op : Nat
  wrId : Nat
  len : Nat
  signal : Bool
  first : Nat
  last : Nat
  pkts : List RocePkt := []
  va : Nat := 0
  got : Nat := 0
deriving DecidableEq, Repr

/-- A receive request in use: identifier, address, length, bytes that have come. -/
structure RecvWr where
  wrId : Nat
  va : Nat
  len : Nat
  got : Nat := 0
deriving DecidableEq, Repr

/-- A queue pair beyond its context (10 R366 to R374): the rings' heads and tails with their generations; entries announced and not taken,
completions not consumed and those owed; the doorbell record's line with the epoch of its translation, whether it is held in S, being read, and its bytes once they have
come; stale fetches in a row of both rings; the work requests under way; the receive request and the RDMA WRITE message in use;
whether a gap has been answered; retries; a wait for the RNR delay; α = `a` / 2^`ae` and the rate `r` / 2^`re` in Mb/s; the time of the last CNP
sent; acknowledgements that wait; since when the retransmission timer runs, until when the RNR delay lasts, since when no CNP has come and the rate
has not risen; the status with which flushed requests complete (6 FLUSHED, 8 PORT_DOWN); the packets that wait while the far end has stopped their priority
(R364), a CNP as opcode 0x81. -/
structure QpSt where
  sq : Nat := 0
  sqGen : Nat := 1
  rq : Nat := 0
  rqGen : Nat := 1
  cq : Nat := 0
  cqGen : Nat := 1
  avail : Nat := 0
  ravail : Nat := 0
  used : Nat := 0
  owed : List Bytes := []
  dbr : Option Nat := none
  dbrEp : Nat := 0
  held : Bool := false
  reading : Bool := false
  got : Option Bytes := none
  stale : Nat := 0
  rstale : Nat := 0
  sends : List SendWr := []
  recv : Option RecvWr := none
  wr : Option (Nat × Nat × Nat × Nat) := none
  gap : Bool := false
  retry : Nat := 0
  rnr : Nat := 0
  rnrWait : Bool := false
  a : Nat := 1
  ae : Nat := 0
  r : Nat := 0
  re : Nat := 0
  lastCnp : Option Nat := none
  acks : List RocePkt := []
  sentAt : Nat := 0
  rnrAt : Nat := 0
  ccAt : Nat := 0
  flushAs : Nat := 6
  tx : List RocePkt := []
deriving DecidableEq, Repr

/-- The network ports (10 R361 to R374): queue pairs, priorities that the far end has stopped and those this end has, by port; the staging
areas of the indirect registers; the ports that failed calibration. -/
structure NicSt where
  qps : Tab QpSt := []
  xoff : Tab Nat := []
  xoffSent : Tab Nat := []
  qpStage : Memory := []
  mrStage : Memory := []
  bad : List Nat := []
deriving DecidableEq, Repr

/-- An access from outside that a window takes in: an interloan write or read (R384, R385), a listed peer's write into a function's inbox (R388): window,
requester, offset, bytes, what host memory holds for the window's entry. -/
inductive WinIn where
  | write (r : IlReq)
  | read (r : IlReq)
  | peer (w rid off : Nat) (data entry : Bytes)
deriving DecidableEq, Repr

/-- An access that waits for a translation of its window's entry or of its target (R385, R387): its number, by which the translation unit knows it;
once the window has checked it, the partition, PASID and address (R387); whether a translation has failed. -/
structure WinWait where
  id : Nat
  acc : WinIn
  target : Option (Nat × Nat × Nat) := none
  failed : Bool := false
deriving DecidableEq, Repr

/-- An answer to an interloan access of class `WIN` that waits for an exchange window (R376, R385). -/
structure IlAns where
  member : Nat
  tag : Nat
  status : Nat
  data : Bytes
deriving DecidableEq, Repr

/-- The Ploli links and the group (R375 to R387): interloan transfers under way, their next tag, until when each link's exchange window is
open; on the master the (member, slot, barrier) triples that take part and those whose arrival has come (R381, R158); the links whose far end
conflicts; the members each link reaches; window entries held, as (window, index, entry) (R383); interloan writes to be acknowledged once they have
landed, as (function, member, tag, class `WIN`) (R384); the links that failed calibration; when the last way to each member went (R378); accesses that wait
for a translation, and the number of the next; answers that wait for an exchange window. -/
structure CasSt where
  il : List IlTx := []
  nextIl : Nat := 0
  openTo : Tab Nat := []
  takes : List (Nat × Nat × Nat) := []
  came : List (Nat × Nat × Nat) := []
  confl : Nat := 0
  reach : Tab Nat := []
  wins : List (Nat × Nat × Nat) := []
  acks : List (Nat × Nat × Nat × Bool) := []
  bad : List Nat := []
  gone : Tab Nat := []
  held : List WinWait := []
  nextIn : Nat := 1
  rsps : List IlAns := []
deriving DecidableEq, Repr

end Sys2Proof
end

