-- ==== Sys2Proof/Machine/TypesRecord.lean ====
section
/-!
DEFINITION. The accession record's sections as the device uses them (14), decoded.
-/
namespace Sys2Proof

/-- One partition's share (14, partition section): first slot and count, shelves (device shelf numbers, in order), due-date range. -/
structure PartRec where
  slotFirst : Nat := 0
  slotCount : Nat := 64
  shelves : List Nat := List.range 256
  ddBase : Nat := 32
  ddCount : Nat := 224
deriving DecidableEq, Repr

/-- The accession record in use. Before it is read, and where it is not read (R500), there is no partition and the other fields have the
values of R500. -/
structure Record where
  parts : List PartRec := []
  mgmtDd : Nat := 16
  groupDd : Nat := 16
  cages : List Nat := [0, 0, 0, 0, 0, 0, 0, 0]
  profile : Nat := 0
  i3c : Nat := 0x3A
  ids : List Nat := [0x1D5C, 0x0F00, 0x0F00, 0, 0]
  bytes : Bytes := []
  maxModules : Nat := 4
  role : Nat := 0
  kind : Nat := 0
  topo : Nat := 0
  count : Nat := 1
  member : Nat := 0
  master : Nat := 0
  groupId : Nat := 0
deriving DecidableEq, Repr

end Sys2Proof
end

