-- ==== Sys2Proof/Machine/State.lean ====
section
/-!
DEFINITION. The machine's state, its faults and refusals, and the state right after reset.
-/
namespace Sys2Proof

/-- What leaves the block at a port, oldest first in the outbox. -/
inductive Out where
  | hostRead (fn tag ca len : Nat) (xl : Bool)          -- CXL.io memory read; `xl`: a translated request (09 R330)
  | hostWrite (fn ca : Nat) (bytes : Bytes) (xl : Bool) -- CXL.io posted write
  | d2hReq (tag fn opc ca : Nat) (data : Bytes) (xl : Bool := true)
                                                        -- CXL.cache request: 1 RdShared, 2 RdOwn, 3 RdOwnNoData, 4 RdCurr,
                                                        -- 5 ItoMWr, 6 DirtyEvict, 7 CleanEvict, 8 CleanEvictNoData
  | d2hRsp (rsp ca : Nat) (data : Bytes)                -- snoop response: 0 RspIHitI, 1 RspIHitSE, 2 RspIFwdM, 3 RspSHitSE,
                                                        -- 4 RspSFwdM, 5 RspVHitV, 6 RspVFwdV
  | msix (fn addr data : Nat)
  | intx (assert : Bool)
  | errMsg (fn sev : Nat)                               -- 0 ERR_COR, 1 ERR_NONFATAL, 2 ERR_FATAL
  | cpl (fn status data : Nat)                          -- completion of a configuration or BAR read
  | atsReq (fn pasid va : Nat) (w : Bool)
  | pageReq (fn pasid va : Nat) (w : Bool) (prg : Nat)
  | invCpl (fn itag : Nat)
  | granuleIn (fn : Nat) (pages : List (Nat × Nat × Nat)) -- a granule's host lines are read: offset, address and bytes of each run of pages (09 R346)
  | granuleOut (fn : Nat) (pages : List (Nat × Nat × Nat)) (cells : Memory) -- a granule's lines are written to the host, unlisted bytes 0
  | ilWrite (member window off itag : Nat) (data : Bytes) (win : Bool)   -- `win`: class WIN, else BULK (10 R376)
  | ilRead (member window off len itag : Nat) (win : Bool)
  | grpTakes (slot bar : Nat) (takes : Bool)            -- to the master: this member's part in a group barrier (10 R381)
  | grpArrive (slot bar : Nat)                          -- to the master
  | grpRelease (member slot bar trel : Nat)             -- from the master
  | plan (member idx : Nat) (commit : Bool) (stamp spec period : Nat)   -- a group-plan entry, from the master
  | ilRsp (member itag status : Nat) (data : Bytes) (win : Bool)
  | roce (port : Nat) (hdr : RoceHdr) (pkt : RocePkt)
  | cnp (port : Nat) (hdr : RoceHdr) (qp : Nat)
  | pfc (port prio : Nat) (xoff : Bool)
  | deskRead (v : Nat)                                  -- the answer to a desk read
  | i3cRead (data : Bytes)                              -- the bytes of a private read
  | i3cNack                                             -- the target's address is not acknowledged
  | ibi (payload : Nat)                                 -- an in-band interrupt
  | ethAnswer (port : Nat)                              -- the answer to an ARP request or a neighbour solicitation
deriving DecidableEq, Repr

namespace Machine

/-- The whole state. Registers are in `rf` (R9 to R11); what is no register is in the other fields. -/
structure State where
  rf : Tab (BitVec 64) := []
  car : Tab Carrel := []
  store : Tab Memory := []
  slots : Tab SlotSt := []
  rels : List Release := []
  starts : List (Nat × Nat) := []
  dd : Tab DdEnt := []
  stamp : StampSt := {}
  cs : Tab CsSt := []
  slipFr : Tab SlipFr := []
  q : Tab QSt := []
  xl : Tab XlFn := []
  hubBuf : List XlEnt := []
  lend : Tab (List LendEnt) := []
  wings : Tab WingSt := []
  coh : CohSt := {}
  net : List Msg := []
  dmem : MemSt := {}
  cas : CasSt := {}
  nic : NicSt := {}
  fns : Tab FnSt := []
  link : LinkSt := {}
  cages : Tab CageSt := []
  cols : Tab ColSt := []
  flt : FaultSt := {}
  evq : List Event := []
  dev : DevSt := {}
  arec : Record := {}
  pwr : PwrSt := {}
  fw : FwSt := {}
  led : LedgerSt := {}
  fuses : Fuses := {}
  port : PortSt := {}
  nvm : Memory := []
  archSram : Memory := []
  time : Nat := 0
  free : Nat := 0
  out : List Out := []
  pending : List Instr := []
deriving DecidableEq, Repr

/-- Why a command would stop the machine: no command of this block does, so there is no reason (log entry 1). -/
inductive Fault where
deriving DecidableEq, Repr

/-- Why a command is refused. -/
inductive Refusal where
  /-- The command has no meaning yet; raised by an arm of `exec` alone. Safe: the run stops. -/
  | notModelled (mnemonic : String)
deriving DecidableEq, Repr

/-- The machine right after reset: COLD_RST_N asserted, every register and table at its COLD value (13 R460 step 1), the supply present. -/
def State.reset : State := { dev := { cold := true } }

end Machine
end Sys2Proof
end

