-- ==== Sys2Proof/Machine/Ops.lean ====
section
/-!
DEFINITION. The named operations over the state: register fields, tables, the outbox, interrupts, events.
-/
namespace Sys2Proof.Machine

/-! ### Registers (00 R9 to R11) -/

/-- The stored value of a register. -/
def State.reg (s : State) (k : RegKind) (i : Nat) : BitVec 64 := tget regDefault s.rf (regKey k i)

/-- The state with a register's stored value set. -/
def State.setReg (s : State) (k : RegKind) (i : Nat) (v : BitVec 64) : State :=
  { s with rf := tset regDefault s.rf (regKey k i) v }

/-- The value of field `f` of instance `i`. -/
def State.g (s : State) (f : Fld) (i : Nat := 0) : Nat := bits (s.reg f.reg i).toNat f.hi f.lo

/-- The state with field `f` of instance `i` set to `v`. -/
def State.p (s : State) (f : Fld) (i : Nat) (v : Nat) : State :=
  s.setReg f.reg i (BitVec.ofNat 64 (setBits (s.reg f.reg i).toNat f.hi f.lo v))

/-- A one-bit field as a truth value. -/
def State.gb (s : State) (f : Fld) (i : Nat := 0) : Bool := decide (s.g f i = 1)

/-- A counter field raised by `n`, saturating. -/
def State.bump (s : State) (f : Fld) (i : Nat) (n : Nat := 1) : State :=
  s.p f i (satAdd (f.hi + 1 - f.lo) (s.g f i) n)

/-- A counter field raised by one, wrapping. -/
def State.wrap (s : State) (f : Fld) (i : Nat) : State := s.p f i (s.g f i + 1)

/-! ### Tables -/

def State.slot (s : State) (n : Nat) : SlotSt := tget (fun _ => {}) s.slots n
def State.setSlot (s : State) (n : Nat) (x : SlotSt) : State := { s with slots := tset (fun _ => {}) s.slots n x }
def State.carrel (s : State) (p : Nat) : Carrel := tget carDef s.car p
def State.setCarrel (s : State) (p : Nat) (x : Carrel) : State := { s with car := tset carDef s.car p x }
def State.mem (s : State) (p : Nat) : Memory := tget (fun _ => []) s.store p
def State.setMem (s : State) (p : Nat) (m : Memory) : State := { s with store := tset (fun _ => []) s.store p m }
/-- `n` bytes that the manual leaves undefined (log entry 11), each a free value of its own. -/
def State.freeBytes (s : State) (n : Nat) : Bytes × State :=
  ((List.range n).map fun i => BitVec.ofNat 8 (Config.freeValue (s.free + i)), { s with free := s.free + n })
def State.ddEnt (s : State) (i : Nat) : DdEnt := tget (fun _ => {}) s.dd i
def State.setDd (s : State) (i : Nat) (x : DdEnt) : State := { s with dd := tset (fun _ => {}) s.dd i x }
def State.csOf (s : State) (n : Nat) : CsSt := tget (fun _ => {}) s.cs n
def State.setCs (s : State) (n : Nat) (x : CsSt) : State := { s with cs := tset (fun _ => {}) s.cs n x }
def State.slipOf (s : State) (p : Nat) : SlipFr := tget (fun _ => {}) s.slipFr p
def State.setSlip (s : State) (p : Nat) (x : SlipFr) : State := { s with slipFr := tset (fun _ => {}) s.slipFr p x }
def State.queue (s : State) (q : Nat) : QSt := tget (fun _ => {}) s.q q
def State.setQueue (s : State) (q : Nat) (x : QSt) : State := { s with q := tset (fun _ => {}) s.q q x }
def State.xlOf (s : State) (f : Nat) : XlFn := tget (fun _ => {}) s.xl f
def State.setXl (s : State) (f : Nat) (x : XlFn) : State := { s with xl := tset (fun _ => {}) s.xl f x }
def State.lendOf (s : State) (p : Nat) : List LendEnt := tget (fun _ => []) s.lend p
def State.setLend (s : State) (p : Nat) (x : List LendEnt) : State := { s with lend := tset (fun _ => []) s.lend p x }
def State.fn (s : State) (f : Nat) : FnSt := tget (fun _ => {}) s.fns f
def State.setFn (s : State) (f : Nat) (x : FnSt) : State := { s with fns := tset (fun _ => {}) s.fns f x }
def State.cage (s : State) (c : Nat) : CageSt := tget (fun _ => {}) s.cages c
def State.setCage (s : State) (c : Nat) (x : CageSt) : State := { s with cages := tset (fun _ => {}) s.cages c x }
def State.col (s : State) (c : Nat) : ColSt := tget (fun _ => {}) s.cols c
def State.setCol (s : State) (c : Nat) (x : ColSt) : State := { s with cols := tset (fun _ => {}) s.cols c x }

def State.qpOf (s : State) (q : Nat) : QpSt := tget (fun _ => {}) s.nic.qps q
def State.setQp (s : State) (q : Nat) (x : QpSt) : State :=
  { s with nic := { s.nic with qps := tset (fun _ => {}) s.nic.qps q x } }

def State.wing (s : State) (w : Nat) : WingSt := tget (fun _ => {}) s.wings w
def State.setWing (s : State) (w : Nat) (x : WingSt) : State := { s with wings := tset (fun _ => {}) s.wings w x }

/-- The state after `f` on each number of a list. -/
def State.each (s : State) (xs : List Nat) (f : State → Nat → State) : State := xs.foldl f s

/-- A message leaves the block. -/
def State.emit (s : State) (o : Out) : State := { s with out := s.out ++ [o] }

/-- An event is raised; it is collected when the command ends (12 R423). -/
def State.raise (s : State) (e : Event) : State := { s with evq := s.evq ++ [e] }

/-- A source ID (12 R426). -/
def srcId (cls inst sub : Nat) : Nat := cls * 4096 + inst % 32 * 128 + sub % 128

/-- STAMP_NOW (04 R116). -/
def State.now (s : State) : Nat := s.g STAMP_NOW.VALUE

/-! ### Partitions (04 R143, 06 R205) -/

/-- The number of partitions, P. -/
def State.partCount (s : State) : Nat := s.arec.parts.length

def State.part (s : State) (p : Nat) : PartRec := s.arec.parts.getD p {}

/-- The slots of a partition. -/
def State.slotsOf (s : State) (p : Nat) : List Nat :=
  if p < s.partCount then (List.range (s.part p).slotCount).map (· + (s.part p).slotFirst) else []

/-- The partition that holds a slot. -/
def State.partOf (s : State) (n : Nat) : Option Nat :=
  (List.range s.partCount).find? fun p => decide (n ∈ s.slotsOf p)

/-- Whether slot `n` belongs to partition `p`: registers of other slots read 0 and ignore writes (R150, R177, R182, R194). -/
def State.owns (s : State) (p n : Nat) : Bool := decide (n ∈ s.slotsOf p)

/-- The function of a slot's partition; 0 where it has none. -/
def State.fnOf (s : State) (n : Nat) : Nat := match s.partOf n with | some p => p + 1 | none => 0

/-- Requests of a function may leave: Bus Master Enable of the function and of function 0 are set and neither is in D3hot (06 R231, R232,
R234), no FLR of it runs (R235), and the device is not in the safe state (R241). -/
def State.mayRequest (s : State) (f : Nat) : Bool :=
  let x := s.fn f
  let m := s.fn 0
  x.bme && !x.d3 && !x.flr && m.bme && !m.d3 && !s.gb DEV_STATUS.SAFE

/-- The device is in SERVICE (13 R456). -/
def State.inService (s : State) : Bool := decide (s.g DEV_STATUS.STATE = 4)

/-! ### The carrel map (01 R14 to R16) -/

/-- Physical carrel (wing * 144 + physical index) of device carrel number `c`. -/
def State.phys (s : State) (c : Nat) : Nat :=
  let w := c / 128
  let l := c % 128
  w * 144 + (if l % 2 = 0 then s.g WING_CMAP.PHYS_LO (w * 64 + l / 2) else s.g WING_CMAP.PHYS_HI (w * 64 + l / 2))

/-- The device shelf number (8 * wing + shelf) of a device carrel number. -/
def shelfOf (c : Nat) : Nat := c / 16

/-- The device carrel numbers of an allotment, by ALLOT_INDEX (02 R57): shelves by wing, then by shelf. -/
def carrelsOf (allot : List Nat) : List Nat := allot.flatMap fun h => (List.range 16).map (· + 16 * h)

/-- The slot whose allotment holds a shelf. -/
def State.slotOfShelf (s : State) (h : Nat) : Option Nat :=
  (List.range 64).find? fun n => decide (h ∈ (s.slot n).allot)

/-- The wings in which a slot has shelves. -/
def wingsOf (allot : List Nat) : List Nat := (allot.map (· / 8)).eraseDups

/-! ### Interrupts (06 R226 to R230) -/

/-- Vector `v` of function `f` is masked: its control bit 0 is 1 unless software cleared it. -/
def vecMasked (x : FnSt) (v : Nat) : Bool := !bit x.unmasked v

/-- Whether a vector can send now (R228). -/
def State.canSend (s : State) (f v : Nat) : Bool :=
  let x := s.fn f
  x.msixEn && !vecMasked x v && !x.fmask && s.mayRequest f && !x.flr

/-- One MSI-X message with the table's present address and data. -/
def State.sendVec (s : State) (f v : Nat) : State :=
  let t := (s.fn f).vecs
  s.emit (.msix f (t.le (16 * v) 8) (t.le (16 * v + 8) 4))

/-- A write of function `f` by an agent without a cache is under way at a home. -/
def State.hubBusy (s : State) (f : Nat) : Bool := s.coh.homes.any fun h => decide (h.fn = some f) && !h.done

/-- No write of function `f` waits or is under way: what follows may leave (R193, R228). -/
def State.ordered (s : State) (f : Nat) : Bool := decide ((s.fn f).held = []) && !s.hubBusy f

/-- An event on vector `v` of partition function `f` (R228): one message, once the function's earlier writes have landed, or the pending bit; nothing
with MSI-X Enable 0. -/
def State.vec (s : State) (f v : Nat) : State :=
  let x := s.fn f
  if f = 0 ∨ !x.msixEn ∨ x.flr ∨ s.gb DEV_STATUS.SAFE then s
  else if s.canSend f v then (if s.ordered f then s.sendVec f v else s.setFn f { x with irqs := x.irqs ++ [v] })
  else s.setFn f { x with pba := setBit x.pba v true }

/-- The messages that waited for writes of function `f` leave once those have landed. -/
def State.irqsGo (s : State) (f : Nat) : State :=
  if (s.fn f).irqs = [] ∨ !s.ordered f then s
  else (s.fn f).irqs.foldl (fun s v => s.vec f v) (s.setFn f { s.fn f with irqs := [] })

/-- A function's own error (06 R224). -/
def State.fnError (s : State) (p : Nat) : State :=
  if s.gb PART_CONTROL.ERR_IRQ p then s.vec (p + 1) (s.g PART_CONTROL.ERR_VEC p) else s

/-- The cages with an enabled event bit set (06 R215). -/
def State.cagePending (s : State) : Nat :=
  ofBits 12 fun c =>
    (s.gb CAGE_CTL.PRES_IE c && s.gb CAGE_STATUS.PRES_CHANGED c) || (s.gb CAGE_CTL.BTN_IE c && s.gb CAGE_STATUS.BTN_PRESSED c)
      || (s.gb CAGE_CTL.FAULT_IE c && s.gb CAGE_STATUS.PWR_FAULT c) || (s.gb CAGE_CTL.DONE_IE c && s.gb CAGE_STATUS.CMD_DONE c)

/-- MGMT_INT_STATUS: each bit is the live OR of its sources (06 R229). -/
def State.mgmtStatus (s : State) : Nat :=
  b2n (decide (s.reg .STAMP_EVENTS 0 ≠ 0)) + 2 * b2n (s.cols.any fun e => decide (e.2.intPend ≠ 0))
    + 4 * b2n (decide (s.cagePending ≠ 0)) + 8 * s.g PWR_EVENTS.CAP_UNMET + 16 * s.g UPD_STATUS.POSTED

/-- The management interrupt's level before Interrupt Disable (R230). -/
def State.intLevel (s : State) : Bool := decide (s.mgmtStatus &&& (s.reg .MGMT_INT_ENABLE 0).toNat ≠ 0)

/-- Assert_INTA or Deassert_INTA when the level has changed (R230); nothing while the link is down. -/
def State.intxSync (s : State) : State :=
  let lvl := s.intLevel && !(s.fn 0).intDis
  if lvl = s.link.intx ∨ !s.link.up then s
  else ({ s with link := { s.link with intx := lvl } }).emit (.intx lvl)

/-! ### Errors that AER reports (R220, R237 to R239) -/

/-- An uncorrectable status bit of AER is set; it is signalled as an advisory non-fatal error, or as ERR_FATAL where its severity says so. -/
def State.aer (s : State) (f b : Nat) : State :=
  let x := s.fn f
  let x := { x with aerUnc := setBit x.aerUnc b true }
  let go := s.link.up && !s.gb DEV_STATUS.SAFE && !bit x.aerUncMask b
  if bit x.aerUncSev b then
    let s := s.setFn f x
    if go then s.emit (.errMsg f 2) else s
  else
    let s := s.setFn f { x with aerCor := setBit x.aerCor 13 true }
    if go && !bit x.aerCorMask 13 then s.emit (.errMsg f 0) else s

/-! ### Charges of the regulators (08 R310, R311) -/

/-- `n` transfers of 64 bytes charged. -/
def State.charge (s : State) (p st n : Nat) : State :=
  let k := p * 16 + st
  let b := tget (fun _ => (0 : Int)) s.dmem.bucket k
  let u := tget (fun _ => 0) s.dmem.passed k
  let d := s.dmem
  { s with dmem := { d with bucket := tset (fun _ => (0 : Int)) d.bucket k (if 0 < b then b - 64 * n else b),
                            passed := tset (fun _ => 0) d.passed k (u + 64 * n) } }

/-- What a message puts on the host link: its function, the direction (0 towards the device), transfers of 64 bytes. -/
def Out.linkUse : Out → Option (Nat × Nat × Nat)
  | .hostRead f _ _ n _ => some (f, 0, (n + 63) / 64)
  | .hostWrite f _ b _ => some (f, 1, (b.length + 63) / 64)
  | .d2hReq _ f opc _ _ _ => if opc ≤ 4 ∧ opc ≠ 3 then some (f, 0, 1) else if opc ≤ 6 ∧ opc ≠ 3 then some (f, 1, 1) else none
  | .granuleIn f _ => some (f, 0, 32768)
  | .granuleOut f _ _ => some (f, 1, 32768)
  | _ => none

/-- A memory request goes to the host, charged to its function's partition, or to management for function 0. -/
def State.toHost (s : State) (o : Out) : State :=
  (match Out.linkUse o with
    | some (f, d, n) => s.charge (if f = 0 then 0xF else f - 1) (12 + d) n
    | none => s).emit o

/-! ### Requests to the host -/

/-- `HELD_WRITES` is set for a function that may not request (R223, R231). -/
def State.heldMark (s : State) (f : Nat) : State := if f = 0 ∨ s.mayRequest f then s else s.p PART_STATUS.HELD_WRITES (f - 1) 1

/-- A write of function `f` waits, behind those that wait already. -/
def State.holdWrite (s : State) (f : Nat) (h : HeldW) : State :=
  (s.setFn f { s.fn f with held := (s.fn f).held ++ [h] }).heldMark f

/-- A CXL.io posted write of function `f`: issued, or held while the function may not request or earlier writes of it wait (R231). -/
def State.hostWrite (s : State) (f : Nat) (h : HeldW) : State :=
  if s.mayRequest f && s.ordered f then s.toHost (.hostWrite f h.ca h.bytes h.xl) else s.holdWrite f { h with posted := true }

/-- The lowest tag that is in no outstanding read. -/
def State.newTag (s : State) : Nat :=
  ((List.range (s.link.reqs.length + 1)).find? fun t => s.link.reqs.all fun r => decide (r.tag ≠ t)).getD 0

/-- A wing cache holds a line in M, E or O (07 R247). -/
def State.ownedLine (s : State) (l : Nat) : Bool := s.coh.cat.any fun e => decide (e.1 = l) && e.2.owned

/-- The lines of a range of bytes. -/
def linesIn (ca n : Nat) : List Nat := (List.range ((ca + n - 1) / 64 + 1 - ca / 64)).map (· + ca / 64)

/-- The host's lines among ranges that a read by RdCurr asks for: those that no wing cache owns. -/
def State.curLines (s : State) (parts : List (Nat × Nat)) : List Nat :=
  (((parts.filter fun p => !bit p.1 52).flatMap fun p => linesIn p.1 p.2).filter fun l => !s.ownedLine l).eraseDups

/-- The requests of a read of ranges leave under a tag: one RdCurr for each line, or CXL.io reads while Cache_Enable is 0 (R211, 07 R268). -/
def State.askParts (s : State) (f t : Nat) (parts : List (Nat × Nat)) : State :=
  if (s.fn 0).cacheEn then (s.curLines parts).foldl (fun s l => s.toHost (.d2hReq t f 4 (l * 64) [] (decide (f ≠ 0)))) s
  else (parts.filter fun p => !bit p.1 52).foldl (fun s p => s.toHost (.hostRead f t p.1 p.2 (decide (f ≠ 0)))) s

/-- A read of ranges of bytes by an agent without a cache for `o` (07 R267, R268), its translation of epoch `ep`: with Cache_Enable one RdCurr for each
line that no wing cache owns, else CXL.io reads. Device memory (CA[52] = 1) needs no request. -/
def State.hostRead (s : State) (f : Nat) (parts : List (Nat × Nat)) (ep : Nat) (o : Owner) : State :=
  let t := s.newTag
  let io := !(s.fn 0).cacheEn
  let r : HReq := { tag := t, fn := f, owner := o, ca := (parts.head?.map (·.1)).getD 0, io := io, issued := s.time, epoch := ep,
                    want := if io then [] else s.curLines parts, parts := parts }
  ({ s with link := { s.link with reqs := s.link.reqs ++ [r] } } : State).askParts f t parts

/-- The outstanding read of an owner, when one is out. -/
def State.readOf (s : State) (o : Owner) : Option HReq :=
  s.link.reqs.find? fun r => decide (r.owner = o) && !r.orphan && decide (r.quar = none)

/-- Reads of the owners that satisfy `p` are given up: their data will go to nobody, but they stay out, under their PASID, until they complete or time
out (R237, 09 R341). -/
def State.giveUpReads (s : State) (p : Owner → Bool) (pasid : Option Nat) : State :=
  { s with link := { s.link with reqs := s.link.reqs.map fun r => if p r.owner then { r with owner := .nobody pasid } else r } }

/-- The reads of a queue's intake are given up. -/
def State.giveUpRing (s : State) (q : Nat) : State :=
  s.giveUpReads (fun o => decide (o = .ring q ∨ o = .list q)) (if q = 64 then none else some (s.g SLOT_CFG.PASID q))

/-- The read with tag `t` is done. -/
def State.dropReq (s : State) (t : Nat) : State :=
  { s with link := { s.link with reqs := s.link.reqs.filter fun r => decide (r.tag ≠ t) } }

/-! ### Ending an invocation (02 R71, 04 R147, R148) -/

/-- Issue stops in every carrel of an allotment: no further line issues (R71, R148). -/
def State.stopCarrels (s : State) (n : Nat) : State :=
  s.each (carrelsOf (s.slot n).allot) fun s c =>
    let p := s.phys c
    let x := s.carrel p
    match x.run with
    | .halted => s
    | .idle => s
    | _ => s.setCarrel p { x with run := .stopped }

/-- A cause that ends slot `n`'s invocation: RUNNING and FAULT_WAIT go to ENDING; in PAUSED_BME the slot is marked and ends once Bus Master
Enable is set (R147, R148); in any other state, and in the safe state (12 R440), nothing is to be ended. The first cause stays. -/
def State.endSlot (s : State) (n : Nat) (e : Ending) : State :=
  let st := s.g SLOT_STATUS.STATE n
  let x := s.slot n
  if x.inv = none ∨ x.ending ≠ none ∨ s.gb DEV_STATUS.SAFE then s
  else if st = 3 ∨ st = 4 then
    let s := s.setSlot n { x with ending := some e }
    let s := s.stopCarrels n
    let s := { s with rels := s.rels.filter fun r => decide (r.slot ≠ n) }
    s.p SLOT_STATUS.STATE n 6
  else if st = 5 then s.setSlot n { x with ending := some e, endMark := true }
  else s

end Sys2Proof.Machine
end

