-- ==== Sys2Proof/Machine/Safe.lean ====
section
/-!
DEFINITION. Severities, collectors and their records (12 R423 to R432, R449 to R452) and the entry into the safe state (R439).
-/
namespace Sys2Proof.Machine

/-- The severity that 12 R430 fixes for a source: 0 CE, 1 UC, 2 FATAL. A check that failed in class 11 is one copy's; where both have, the event says so
itself. -/
def fixedSev (src : Nat) : Nat :=
  let cls := src / 4096
  let inst := src / 128 % 32
  let sub := src % 128
  match cls with
  | 0 => if sub = 0 then 0 else 1
  | 1 => if sub ≤ 1 then 0 else if sub = 3 then 2 else 1
  | 2 => if sub = 0 then 0 else if sub = 0x41 then 2 else 1
  | 3 => if sub % 64 ≤ 1 then 0 else 2
  | 4 => if inst = 12 then min sub 2 else (match sub / 32 with | 0 => 0 | 1 => 1 | 2 => 1 | _ => 2)
  | 5 => if sub = 2 then 1 else if sub = 4 then 2 else 0
  | 6 => if sub ≤ 1 then 0 else 1
  | 7 => if sub ≤ 1 then 0 else 1
  | 8 => min sub 2
  | 9 => if inst = 1 then 2 else 1
  | 10 => if sub = 0 then 0 else if inst = 0 ∧ sub ≤ 2 then 2 else 1
  | 11 => if sub = 0 ∨ (sub = 1 ∧ inst ≠ 0) then 0 else 1
  | 12 => if sub ≤ 1 then 0 else if sub = 4 then 2 else 1
  | _ => if sub / 64 = 0 then 0 else 2

/-- The collector that records a source (R423, R424): hub frames 0 to 37, wing collectors 38 to 69. -/
def colOf (src : Nat) : Nat :=
  let inst := src / 128 % 32
  let sub := src % 128
  match src / 4096 with
  | 0 | 1 | 2 => 38 + inst
  | 3 => (inst + 32 * (sub / 64)) / 8
  | 4 => if inst = 12 then 20 else 8 + min inst 11
  | 5 => if inst ≤ 4 then 21 else 36
  | 6 => 22 + inst / 4
  | 7 => 30 | 8 => 31 | 9 => 32 | 10 => 33 | 11 => 34 | 12 => 35 | _ => 37

/-- The bit of the wing's status word that an event sets (R425). For the ring (0x40) in the collector of wing 4d, a report with `INFO0` other
than 0 stands for the ring's other parts: the manual does not say how the record tells them (DESIGN CHOICE, log entry 13). -/
def pinBit (src info0 : Nat) : Option Nat :=
  let sub := src % 128
  match src / 4096 with
  | 0 => some (info0 % 256)
  | 1 => some 144
  | 2 => match sub with
    | 0 | 1 => some 146 | 2 => some 145 | 3 => some 148 | 4 => some 149
    | 0x40 => if src / 128 % 4 = 0 ∧ info0 ≠ 0 then some 150 else some 147
    | _ => some 150
  | _ => none

/-- The severity an event takes, and whether a remap gave it (R430, R431). -/
def State.effSev (s : State) (e : Event) : Nat × Bool :=
  let f := match e.forced, e.sev with
    | some v, _ => v
    | none, some v => v
    | none, none => fixedSev e.source
  let c := colOf e.source
  let st := s.g DEV_STATUS.STATE
  let cls := e.source / 4096
  let own := (cls = 13 ∧ f = 2) ∨ (cls = 10 ∧ e.source / 128 % 32 = 0)
  if s.gb COL_SEV.ENABLE c ∧ st ≠ 4 ∧ st ≠ 7 ∧ ¬ own then
    ((match f with | 0 => s.g COL_SEV.CE_AS c | 1 => s.g COL_SEV.UC_AS c | _ => s.g COL_SEV.FATAL_AS c), true)
  else (f, false)

/-- The reaction mask of a class and severity in a collector (R433, R435, R451). -/
def State.maskOf (s : State) (src sev : Nat) : Nat :=
  let c := colOf src
  let w := c - 38
  match src / 4096, sev with
  | 1, 0 => s.g COL_REACT_W1.CE_MASK w | 1, 1 => s.g COL_REACT_W1.UC_MASK w | 1, 2 => s.g COL_REACT_W1.FATAL_MASK w
  | 2, 0 => s.g COL_REACT_W2.CE_MASK w | 2, 1 => s.g COL_REACT_W2.UC_MASK w | 2, 2 => s.g COL_REACT_W2.FATAL_MASK w
  | _, 0 => s.g COL_REACT.CE_MASK c | _, 1 => s.g COL_REACT.UC_MASK c | _, 2 => s.g COL_REACT.FATAL_MASK c
  | _, _ => 0

/-- The reactions taken (R434, R440): a FATAL takes neither BLK_RST nor CHIP_RST; in a UC, CHIP_RST displaces BLK_RST; in the safe state only
INT and PIN act. -/
def reactTaken (mask sev : Nat) (safe : Bool) : Nat :=
  let m := if sev = 2 then mask &&& 0x13 else if sev = 1 ∧ bit mask 3 then mask &&& 0x1B else mask
  if safe then m &&& 0x11 else m

/-- A record entered into a history (R428): merged into entry 0, or a new entry 0; the second part says that one was overwritten. -/
def histAdd (h : List ErrRec) (r : ErrRec) : List ErrRec × Bool :=
  match h with
  | x :: t =>
    if x.source = r.source ∧ x.sev = r.sev ∧ x.forced = r.forced ∧ x.overridden = r.overridden ∧ x.info0 = r.info0 then
      ({ x with count := satAdd 32 x.count 1 } :: t, false)
    else ((r :: h).take 8, decide (8 ≤ h.length))
  | [] => ([r], false)

/-- The recording of an event (R425, R427, R428, R435): pin, history, counts, pending bit, ERROR under INT. -/
def State.record (s : State) (e : Event) (sev : Nat) (ovr : Bool) (react : Nat) : State :=
  let c := colOf e.source
  let r : ErrRec := { source := e.source, sev := sev, forced := e.forced.isSome, overridden := ovr, react := react,
                      stamp := s.now, info0 := e.info0, info1 := (if e.slot < 64 then e.slot else 0x3F) + e.part % 16 * 256 }
  let x := s.col c
  let h := histAdd x.hist r
  let ip := if bit react 0 ∧ sev < 3 then x.intPend ||| 2 ^ sev else x.intPend
  let s := s.setCol c { x with hist := h.1, intPend := ip }
  let s := s.p COL_STATUS.DEPTH c h.1.length
  let s := if h.2 then s.bump COL_STATUS.OVERFLOW c else s
  let s := s.p COL_STATUS.FORCED c (b2n e.forced.isSome)
  let s := match sev with
    | 0 => (s.bump COL_COUNTS.CE c).p COL_STATUS.CE_PEND c 1
    | 1 => (s.bump COL_COUNTS.UC c).p COL_STATUS.UC_PEND c 1
    | 2 => (s.bump COL_COUNTS.FATAL c).p COL_STATUS.FATAL_PEND c 1
    | _ => s
  match e.forced, pinBit e.source e.info0 with
  | none, some b =>
    let w := e.source / 128 % 32
    let i := w * 5 + b / 32
    s.p WCOL_PINS.PIN i (setBit (s.g WCOL_PINS.PIN i) (b % 32) true)
  | _, _ => s

/-- A pulse of ERROR_OUT_N starts (R437 step 2). -/
def State.pinPulse (s : State) : State :=
  { s with flt := { s.flt with pulse := true, pulseHeld := false, pulseAt := s.time } }

/-- ERROR_OUT_N is driven low (R436). -/
def State.errorOut (s : State) : Bool :=
  s.flt.pulse || s.gb ERR_PIN.HELD || s.gb DEV_STATUS.SAFE || s.gb DEV_STATUS.ACCESSION_FAIL || s.gb DEV_STATUS.FW_FAIL

/-- A period of SERVICE in FIELD_DEBUG ends: its record is owed (13 R467). -/
def State.debugEnd (s : State) : State :=
  match s.led.debugFrom with
  | some t => { s with led := { s.led with debugFrom := none, debugOwed := some ((s.time - t) / 156250000) } }
  | none => s

/-- Everything that runs stops and every mover transfer is abandoned, interloan transfers with them (R439 steps 1, 3 and 4; 13 R465 step 2). -/
def State.stopAll (s : State) : State :=
  { s with rels := [], cas := { s.cas with il := [] },
           car := tmap carDef (fun _ x => { x with xfers := [], run := if x.run = .idle then .idle else .stopped }) s.car }

/-- The entry into the safe state (R439, 13 R456), carried out by the fail-safe sequencer. A cause that arrives in the safe state changes nothing
but the records (R440). During a LINK-LOSS or DEVICE reset the entry waits for its end (R447). -/
def State.enterSafe (s : State) (cause src : Nat) : State :=
  if s.gb DEV_STATUS.SAFE then s
  else if s.dev.resetRun then
    if s.dev.pendSafe = none then { s with dev := { s.dev with pendSafe := some (cause, src) } } else s
  else
    let s := (s.p SAFE_CAUSE.CAUSE 0 cause).p SAFE_CAUSE.SOURCE 0 src
    let s := ((s.p DEV_STATUS.SAFE 0 1).p DEV_STATUS.READY 0 0).p DEV_STATUS.STATE 0 7
    let s := (List.range 8).foldl (fun s p => s.p PART_STATUS.READY p 0) s
    let s : State := { s with dev := { s.dev with safeN := false, ready := false, rwlOff := true } }
    let s := s.stopAll.debugEnd
    let x := s.fn 0
    let s := s.setFn 0 { x with aerUnc := setBit x.aerUnc 22 true }
    let s := if s.link.up then s.emit (.errMsg 0 2) else s
    { s with dev := { s.dev with safeRec := s.dev.archRun } }

/-- `SAFE_CAUSE.CAUSE` of a FATAL event (R453, R441, R442). -/
def safeCause (src : Nat) : Nat :=
  if src / 4096 = 13 then 2
  else if src / 4096 = 10 ∧ src / 128 % 32 = 0 then (match src % 128 with | 1 => 4 | 2 => 3 | _ => 1)
  else 1

end Sys2Proof.Machine
end

