-- ==== Sys2Proof/Machine/Ledger.lean ====
section
/-!
DEFINITION. The ledger (15 R519 to R526): records, counter totals, the calendar.
-/
namespace Sys2Proof.Machine

/-- Where an image slot lies in the NVM (R507): Archivist 0 and 1, desk 0 and 1. -/
def slotBase (k : Nat) : Nat := match k with | 0 => 0x100000 | 1 => 0x200000 | 2 => 0x400000 | _ => 0x2400000

/-- The header of the image in a slot. -/
def State.slotHdr (s : State) (k : Nat) : Bytes := s.nvm.read (slotBase k) 0x2000

/-- The value of the calendar at a stamp (R525): 0 without a pair and until the first good frame. -/
def State.calendar (s : State) (stamp : Nat) : Int :=
  match s.led.pair with
  | some (utc, c) => if s.gb STAMP_STATUS.SYNC_OK then (utc : Int) + ((stamp : Int) - (c : Int)) / 156250 else 0
  | none => 0

/-- Corrected or uncorrected errors of a stack since the last COLD reset. -/
def State.stackErrs (s : State) (f : Fld) (st : Nat) : Nat := (List.range 32).foldl (fun a c => a + s.g f (st * 32 + c)) 0

/-- The lifetime totals as they stand (R521). -/
def State.totals (s : State) : Totals :=
  let t := s.led.cur
  { t with
    on := t.on + (s.time - s.led.t0),
    ce := (List.range 12).foldl (fun a st => tset (fun _ => 0) a st (tget (fun _ => 0) t.ce st + s.stackErrs MC_CHAN.CE st)) t.ce,
    uc := (List.range 12).foldl (fun a st => tset (fun _ => 0) a st (tget (fun _ => 0) t.uc st + s.stackErrs MC_CHAN.UC st)) t.uc,
    energy := t.energy + s.g PWR_ENERGY.MJ }

/-- A count in a field of `n` bytes, saturating. -/
def satLe (n x : Nat) : Bytes := natLe n (min x (2 ^ (8 * n) - 1))

/-- The body of a counter record (R521). A tick is 6.4 ns, so 156,250,000 are a second. -/
def totalsBody (t : Totals) : Bytes :=
  satLe 8 (t.on / 156250000) ++ (List.range 7).flatMap (fun k => satLe 4 (tget (fun _ => 0) t.resets k)) ++ satLe 4 t.cycles
    ++ (List.range 12).flatMap (fun st => satLe 4 (tget (fun _ => 0) t.ce st) ++ satLe 4 (tget (fun _ => 0) t.uc st))
    ++ (List.range 8).flatMap (fun b => satLe 4 (tget (fun _ => 0) t.bins b / 10000))
    ++ satLe 8 (t.energy / 1000) ++ satLe 4 t.retrains ++ satLe 4 t.caps ++ satLe 2 t.substs ++ satLe 1 t.mapouts ++ satLe 1 t.changes
    ++ satLe 2 t.updates ++ zeros 34

/-- A record's bytes (R520). -/
def recImage (r : LRec) : Bytes :=
  let b := natLe 4 r.seq ++ natLe 1 r.typ ++ natLe 1 r.fmt ++ natLe 1 (b2n r.carried) ++ zeros 1 ++ natLe 8 r.stamp
    ++ natLe 8 (unsgn 64 r.cal) ++ slice r.body 0 224 ++ natLe 4 r.seq
  b ++ natLe 4 (crc32c b)

/-- The formats in which a record is written now (R516): a trial of an Archivist with a higher format writes both. -/
def State.ledgerFmts (s : State) : List Nat :=
  let fmt (k : Nat) : Nat := le (s.slotHdr k) 0xF 1
  match s.fw.arch with
  | none => [1]
  | some k =>
    if (tget (fun _ => {}) s.fw.slots k).state = 4 ∧ fmt (1 - k) < fmt k then [fmt (1 - k), fmt k] else [max 1 (fmt k)]

/-- One record appended. Before a sector is entered again its 256 records go, those that stay in force carried forward (R519, R524). -/
def State.putLRec (s : State) (r : LRec) : State :=
  let l := s.led
  let n := l.next
  let old := if n % 256 = 0 then l.recs.filter fun e => decide (e.seq + 16384 ≤ n + 255) else []
  let keep := if n % 256 = 0 then l.recs.filter fun e => decide (n + 255 < e.seq + 16384) else l.recs
  let carry := old.filter fun e => decide (e.typ = 5 ∨ e.typ = 6)
  let copies := (List.range carry.length).map fun i =>
    let e := carry.getD i r
    { e with seq := (n + i) % 2 ^ 32, carried := true, stamp := r.stamp, cal := r.cal }
  let m := n + carry.length
  { s with led := { l with recs := keep ++ copies ++ [{ r with seq := m % 2 ^ 32 }], next := m + 1 } }

/-- A record is committed (R508, R519), when the Archivist runs. -/
def State.ledger (s : State) (typ : Nat) (body : Bytes) : State :=
  if !s.dev.archRun then s
  else s.ledgerFmts.foldl (fun s f =>
    s.putLRec { seq := 0, typ := typ, fmt := f, stamp := s.now, cal := s.calendar s.now, body := slice body 0 224 }) s

/-- A counter record (R521): 1 `PERIODIC`, 2 `SNAPSHOT`, 3 `SHUTDOWN`. -/
def State.ledgerCounter (s : State) (typ : Nat) : State :=
  if !s.dev.archRun then s
  else
    let t := s.totals
    let s := s.ledger typ (totalsBody t)
    { s with led := { s.led with saved := t } }

/-- A change of the lifetime totals. -/
def State.tally (s : State) (f : Totals → Totals) : State := { s with led := { s.led with cur := f s.led.cur } }

/-- A reset is counted: kinds 0 COLD to 6 CARREL (R521). -/
def State.tallyReset (s : State) (k : Nat) : State :=
  s.tally fun t => { t with resets := tset (fun _ => 0) t.resets k (tget (fun _ => 0) t.resets k + 1) }

/-- A `LEDGER_SNAPSHOT` due date (R523): dropped within 60 s of the previous one. -/
def State.ledgerSnapshot (s : State) : State :=
  if !s.dev.archRun then s
  else match s.led.snapAt with
  | some t =>
    if s.time < t + 60 * 156250000 then s.bump LEDGER_FLAGS.SNAP_DROPPED 0
    else ({ s with led := { s.led with snapAt := some s.time } }).ledgerCounter 2
  | none => ({ s with led := { s.led with snapAt := some s.time } }).ledgerCounter 2

end Sys2Proof.Machine
end

