-- ==== Sys2Proof/Machine/Power.lean ====
section
/-!
DEFINITION. Power, droop and temperature (11): the cap loop, bubble densities, operating points, throttling, the trips, telemetry.
-/
namespace Sys2Proof.Machine

/-- The value at a key of a table of counts. -/
def tn (t : Tab Nat) (k : Nat) : Nat := tget (fun _ => 0) t k

/-- The table of counts with a key set. -/
def tp (t : Tab Nat) (k v : Nat) : Tab Nat := tset (fun _ => 0) t k v

/-- The effective cap in W (R403). -/
def State.capEff (s : State) : Nat :=
  if s.arec.profile = 2 ∨ s.pwr.capIn then min (s.g PWR_CAP.CAP_W) (s.g PWR_CAP.EMERG_W) else s.g PWR_CAP.CAP_W

/-- The next cap density for a sample of `p` tenths of a watt (R401). -/
def capStep (d p cap hyst : Nat) : Nat :=
  if 26000 < p then 15
  else if 10 * cap < p then min 15 (d + (16 * (p - 10 * cap) + p - 1) / p)
  else if p + 100 * hyst < 10 * cap then d - 1
  else d

/-- A wing is in service. -/
def State.wingUp (s : State) (w : Nat) : Bool := decide (s.g WING_STATUS.STATE w ≠ 3)

/-- A wing's thermal density: the larger of its die's and the device's (R422). -/
def State.thermD (s : State) (w : Nat) : Nat := max (tn s.pwr.dieT (w / 4)) s.pwr.devT

/-- A wing's effective density before it is applied (R400); 15 in the safe state (12 R440). -/
def State.effDensity (s : State) (w : Nat) : Nat :=
  if s.gb DEV_STATUS.SAFE then 15
  else max (max s.pwr.capD (s.thermD w)) (max (tn s.pwr.droop w) (s.g WING_BUB_FORCE.MIN w))

/-- `PWR_STATUS.DENSITY_MAX`. -/
def State.densityMax (s : State) : Nat :=
  (List.range 32).foldl (fun a w => if s.wingUp w then max a (tn s.pwr.wingEff w) else a) 0

/-- Every wing in service applies cap density 15. -/
def State.allAt15 (s : State) : Bool := (List.range 32).all fun w => !s.wingUp w || decide (tn s.pwr.wingCap w = 15)

/-- The cap loop run on a sample (R401, R408). -/
def State.capLoop (s : State) (p : Nat) : State :=
  let d := if s.gb PWR_STATUS.CAP_UNMET then 15 else capStep s.pwr.capD p s.capEff (s.g PWR_CAP.HYST)
  { s with pwr := { s.pwr with capD := d } }

/-- Samples above the cap at OP7 and density 15, and at or below it, in a row (R408). -/
def State.capWatch (s : State) (p : Nat) : State :=
  let ovr := decide (10 * s.capEff < p)
  let above := if ovr ∧ s.pwr.cur = 7 ∧ s.allAt15 then s.pwr.above + 1 else 0
  let below := if ovr then 0 else s.pwr.below + 1
  let s : State := { s with pwr := { s.pwr with above := above, below := below } }
  if s.gb PWR_STATUS.CAP_UNMET then
    if 1000 ≤ below then s.p PWR_STATUS.CAP_UNMET 0 0 else s
  else if 8 ≤ above then
    let s := ((s.p PWR_STATUS.CAP_UNMET 0 1).p PWR_EVENTS.CAP_UNMET 0 1).bump PWR_COUNTS.UNMET 0
    let s := (s.tally fun t => { t with caps := t.caps + 1 }).ledger 7 (natLe 2 s.capEff ++ natLe 1 s.densityMax)
    { s with pwr := { s.pwr with below := 0, capD := 15 } }
  else s

/-- The sum of the domain powers divided by 0.85, in 0.1 W (R398). -/
def fromDomains (d : Nat) : Nat := d * 100 / 85

/-- `POWER_SAMPLE` (R398, R401, R402). -/
def State.powerSample (s : State) (x : PwrSample) : State :=
  let p := if x.ok then x.pin else fromDomains x.domains
  let s := if x.ok then s else (s.p PWR_EVENTS.SENSOR_FAIL 0 1).raise { source := srcId 9 0 0 }
  let s := (List.range 32).foldl (fun s w => s.p WING_PWR_STATUS.POWER w (x.wings.getD w 0)) s
  let e := s.pwr.rest + p
  let s := s.p PWR_ENERGY.MJ 0 (s.g PWR_ENERGY.MJ + e / 10000)
  let ceiling := decide (26000 < p)
  let s := if ceiling then s.p PWR_EVENTS.CEILING 0 1 else s
  let dm := s.densityMax
  let s : State := { s with pwr := { s.pwr with
    vin := x.vin, iin := x.iin, pin := p, rest := e % 10000, ceiling := ceiling, densSum := s.pwr.densSum + dm,
    densN := s.pwr.densN + 1, densAny := s.pwr.densAny || decide (dm ≠ 0), high := max s.pwr.high p } }
  (s.capWatch p).capLoop p

/-- `DENSITY_MAX` is above 0 at a moment of the policy period (R406). -/
def State.densSeen (s : State) : State := { s with pwr := { s.pwr with densAny := s.pwr.densAny || decide (s.densityMax ≠ 0) } }

/-- `BUBBLE_DENSITY_APPLY`: the wing's densities at a 64-cycle boundary (R400). -/
def State.applyDensity (s : State) (w : Nat) : State :=
  ({ s with pwr := { s.pwr with wingCap := tp s.pwr.wingCap w s.pwr.capD, wingEff := tp s.pwr.wingEff w (s.effDensity w) } } : State).densSeen

/-- The filtered level of CAP_IN_N: `low` says that it is low. -/
def State.capPin (s : State) (low : Bool) : State := { s with pwr := { s.pwr with capIn := low } }

/-- `CAP_IN_FALL` (R404): the loop runs at once on the last sample. -/
def State.capInFall (s : State) : State := ((s.capPin true).p PWR_EVENTS.CAP_IN_ASSERTED 0 1).capLoop s.pwr.pin

/-- `CAP_IN_RISE` (R404): the cap returns; the loop follows at the next samples. -/
def State.capInRise (s : State) : State := s.capPin false

/-- The carrel clock at an operating point, in MHz (R405). -/
def opClock (k : Nat) : Nat := [2700, 2500, 2300, 2100, 1900, 1700, 1450, 1200].getD k 1200

/-- What the policy does at the end of a period (R406): a step faster or slower, or none. -/
def State.opPolicy (s : State) : Option Bool :=
  let x := s.pwr
  let t := s.g PWR_OP.TARGET
  if x.cur < t then some false
  else if x.densN ≠ 0 ∧ s.g PWR_POLICY.DOWN_D * x.densN ≤ x.densSum ∧ x.cur < 7 then some false
  else if x.densN ≠ 0 ∧ !x.densAny ∧ t < x.cur ∧
      x.high * opClock (x.cur - 1) + 100 * s.g PWR_CAP.HYST * opClock x.cur ≤ 10 * s.capEff * opClock x.cur then some true
  else none

/-- `OP_POLICY_PERIOD`. -/
def State.opPeriod (s : State) : State :=
  let st := if s.pwr.step = none ∧ s.dev.archRun then s.opPolicy else s.pwr.step
  { s with pwr := { s.pwr with step := st, densSum := 0, densN := 0, densAny := decide (s.densityMax ≠ 0), high := 0 } }

/-- `OP_STEP_COMPLETE` (R407). -/
def State.opStepDone (s : State) : State :=
  match s.pwr.step with
  | none => s
  | some up =>
    let c := s.pwr.cur
    let s : State := { s with pwr := { s.pwr with step := none, cur := if up then c - 1 else min 7 (c + 1) } }
    (s.bump PWR_COUNTS.OP_CHANGES 0).p PWR_EVENTS.OP_CHANGED 0 1

/-- `DROOP_DETECT` (R409): the droop density rises at once. -/
def State.droopDetect (s : State) (w : Nat) : State :=
  let d := s.g WING_DROOP.DENSITY w
  let s := s.bump WING_DROOP.EVENTS w
  ({ s with pwr := { s.pwr with droop := tp s.pwr.droop w d, wingEff := tp s.pwr.wingEff w (max (tn s.pwr.wingEff w) d) } } : State).densSeen

/-- `DROOP_DECAY` (R409), at a 64-cycle boundary. -/
def State.droopDecay (s : State) (w : Nat) : State :=
  ({ s with pwr := { s.pwr with droop := tp s.pwr.droop w (tn s.pwr.droop w - 1) } }).applyDensity w

/-- A sensor's self-check failed: the reading given for it is no 16-bit value. -/
def sensorFailed (t : Nat) : Bool := decide (65536 ≤ t)

/-- A reading in whole °C, rounded down. -/
def wholeC (t : Nat) : Int := sgn 16 t / 16

/-- A sensor's reading is taken (R411, R419). -/
def State.sensor (s : State) (k t : Nat) : State :=
  if sensorFailed t then
    let was := s.gb THERM_SENSOR.FAILED k
    let s := (s.p THERM_SENSOR.FAILED k 1).p THERM_SENSOR.TEMP k 0
    if was then s else (s.p PWR_EVENTS.SENSOR_FAIL 0 1).raise { source := srcId 9 2 k }
  else
    let s := (s.p THERM_SENSOR.FAILED k 0).p THERM_SENSOR.TEMP k t
    s.p THERM_SENSOR.PEAK_C k (max (s.g THERM_SENSOR.PEAK_C k) (min 255 (wholeC t).toNat))

/-- A measurement or a sensor fails its self-check, as the hardware reports it (R398, R411). -/
def State.sensorErr (s : State) (inst sub : Nat) : State :=
  match inst with
  | 0 => s.p PWR_EVENTS.SENSOR_FAIL 0 1
  | 2 => ((s.p THERM_SENSOR.FAILED sub 1).p THERM_SENSOR.TEMP sub 0).p PWR_EVENTS.SENSOR_FAIL 0 1
  | _ => s

/-- A sensor reads above the threshold; a failed one counts as above (R411, R412). -/
def State.tooHot (s : State) (t : Nat) : Bool := sensorFailed t || decide (16 * (s.g THERM_CTL.THROTTLE_C : Int) < sgn 16 t)

/-- A sensor reads at or below the threshold less 2 °C. -/
def State.cool (s : State) (t : Nat) : Bool := !sensorFailed t && decide (sgn 16 t ≤ 16 * ((s.g THERM_CTL.THROTTLE_C : Int) - 2))

/-- The next thermal density of a region with these readings (R412). -/
def State.thermStep (s : State) (d : Nat) (ts : List Nat) : Nat :=
  if ts.any s.tooHot then min 15 (d + 1) else if ts.all s.cool then d - 1 else d

/-- Any thermal density is above 0: `PWR_STATUS.THROTTLE`. -/
def State.throttling (s : State) : Bool := decide (s.pwr.devT ≠ 0) || (List.range 8).any fun k => decide (tn s.pwr.dieT k ≠ 0)

/-- The temperature bin of 15 R521. -/
def tempBin (c : Int) : Nat := if c < 45 then 0 else min 7 (((c - 45) / 10).toNat + 1)

/-- The hottest reading's share of the lifetime totals. -/
def State.tallyTemp (s : State) (ts : List Nat) : State :=
  match ts.filter fun t => !sensorFailed t with
  | [] => s
  | t :: r =>
    let h := r.foldl (fun a x => max a (sgn 16 x)) (sgn 16 t)
    let s := s.tally fun x => { x with bins := tp x.bins (tempBin (h / 16)) (tn x.bins (tempBin (h / 16)) + 1) }
    if 85 * 16 < h ∧ s.pwr.armed then
      (({ s with pwr := { s.pwr with armed := false } }).tally fun x => { x with cycles := x.cycles + 1 })
    else if h < 45 * 16 then { s with pwr := { s.pwr with armed := true } }
    else s

/-- `THERMAL_COMPARE` (R411, R412): one round of the 56 sensors, every 100 µs. -/
def State.thermalCompare (s : State) (ts : List Nat) : State :=
  let was := s.throttling
  let s := (List.range 56).foldl (fun s k => s.sensor k (ts.getD k 0)) s
  let dies := (List.range 8).foldl (fun a k => tp a k (s.thermStep (tn a k) (slice4 ts (4 * k)))) s.pwr.dieT
  let dev := s.thermStep s.pwr.devT ((List.range 24).map fun k => ts.getD (32 + k) 0)
  let s : State := { s with pwr := { s.pwr with dieT := dies, devT := dev } }
  let s := if s.throttling ∧ !was then s.p PWR_EVENTS.THROTTLE_ENTERED 0 1 else s
  let s := if s.throttling then
      let r := s.pwr.thrRest + 1
      let s := if r = 10 then s.bump PWR_COUNTS.THROTTLE_MS 0 else s
      { s with pwr := { s.pwr with thrRest := r % 10 } }
    else s
  s.tallyTemp ((List.range 56).map fun k => ts.getD k 0)
where
  /-- The four readings of a die. -/
  slice4 (ts : List Nat) (i : Nat) : List Nat := (List.range 4).map fun k => ts.getD (i + k) 0

/-- Every domain loses its supply (R395, R413). -/
def State.supplyOff (s : State) : State := { s with pwr := { s.pwr with off := true } }

/-- `THERMAL_TRIP` (R413): the latch is set and the domains are off. -/
def State.thermalTrip (s : State) (k : Nat) : State :=
  ({ s with pwr := { s.pwr with tripped := some (k, max 115 (s.g THERM_SENSOR.PEAK_C k)), tripCause := true } }).supplyOff

/-- The layout of `PWR_SAMPLE` (R418). -/
def State.pwrSampleReg (s : State) : Nat := s.pwr.vin % 65536 * 2 ^ 48 + s.pwr.iin % 65536 * 2 ^ 32 + s.pwr.pin % 65536

/-- The layout of `WING_PWR_STATUS` (R422). -/
def State.wingPwrReg (s : State) (w : Nat) : Nat :=
  s.g WING_PWR_STATUS.POWER w * 65536 + tn s.pwr.wingEff w * 4096 + s.thermD w * 256 + tn s.pwr.droop w * 16 + tn s.pwr.wingCap w

/-- `SAMPLE_TELEMETRY` (R420): the named groups, and `SEQ` last. -/
def State.telemetry (s : State) (arg : Nat) : State :=
  let s := s.p TELEM_STAMP.STAMP 0 s.now
  let s := if bit arg 0 then s.p TELEM_INPUT.V 0 s.pwrSampleReg else s
  let s := if bit arg 1 then
      (List.range 32).foldl (fun s w => s.p TELEM_WING.V w
        (if s.g WING_STATUS.STATE w = 1 ∨ s.g WING_STATUS.STATE w = 3 then 0 else s.wingPwrReg w)) s
    else s
  let s := if bit arg 2 then (List.range 56).foldl (fun s k => s.p TELEM_TEMP.V k (s.reg .THERM_SENSOR k).toNat) s else s
  (s.p TELEM_INFO.SETS 0 (bits arg 2 0)).wrap TELEM_INFO.SEQ 0

end Sys2Proof.Machine
end

