-- ==== Sys2Proof/Machine/Mat.lean ====
section
/-!
DEFINITION. What the matrix unit computes (02 R66 to R69, 03 R95 to R100): the tile products in every input format and the marginalia
form. Operands are byte strings read as numbers: element n of a row of width-w elements lies at bit w·n of the row (R88).
-/
namespace Sys2Proof

/-- The rows of A and of the tile: 16 for FP64, 32 otherwise (R67). -/
def matRows (fmt : Nat) : Nat := if fmt = 0 then 16 else 32

/-- K of R67. -/
def matK : Nat → Nat
  | 0x0 => 16 | 0x1 => 8 | 0x2 => 32 | 0x3 => 32 | 0xA => 128 | 0xB => 128 | _ => 64

/-- The width of an input element. -/
def matW (fmt : Nat) : Nat := cvtW fmt

/-- The accumulator's format of the floating-point inputs. -/
def accFmt (fmt : Nat) : FFmt := if fmt = 0 then fp64 else fp32

/-- Bytes of A, of B, of the scales (R88). -/
def matABytes (fmt : Nat) : Nat := matRows fmt * matK fmt * matW fmt / 8
def matBBytes (fmt : Nat) : Nat := 32 * matK fmt * matW fmt / 8
def matSBytes (fmt : Nat) : Nat := if isMx fmt then 2 * matK fmt else 0

/-- Element (i, k) of A and element (k, j) of B. -/
def matA (fmt a i k : Nat) : Nat := lane (matW fmt) a (matK fmt * i + k)
def matB (fmt b k j : Nat) : Nat := lane (matW fmt) b (32 * k + j)

/-- Blocks of 32 along K (R97). -/
def matNb (fmt : Nat) : Nat := matK fmt / 32

/-- The exact sum of A[i][k] · B[k][j] over `n` values of k from `k0` (R95). -/
def dotFrom (fmt a b i j : Nat) : Nat → Nat → Num
  | _, 0 => .fin false 0 0
  | k0, n + 1 =>
    let p := ((narrowFmt fmt).num (matA fmt a i k0)).mul ((narrowFmt fmt).num (matB fmt b k0 j))
    if n = 0 then p else p.add (dotFrom fmt a b i j (k0 + 1) n)

/-- The blocks' scaled sums from block `bk` on (R97). -/
def dotMx (fmt a b sc i j : Nat) : Nat → Nat → Num
  | _, 0 => .fin false 0 0
  | bk, n + 1 =>
    let nb := matNb fmt
    let sa := lane 8 sc (nb * i + bk)
    let sb := lane 8 sc (32 * nb + nb * j + bk)
    let d := dotFrom fmt a b i j (32 * bk) 32
    let t := if sa = 0xFF ∨ sb = 0xFF then Num.nan else d.scale ((sa : Int) + sb - 254)
    if n = 0 then t else t.add (dotMx fmt a b sc i j (bk + 1) n)

/-- D of R95 for element (i, j). -/
def dot (fmt a b sc i j : Nat) : Num :=
  if isMx fmt then dotMx fmt a b sc i j 0 (matNb fmt) else dotFrom fmt a b i j 0 (matK fmt)

/-- D of R96 for INT8 inputs. -/
def dotInt (a b i j : Nat) : Int :=
  (List.range 64).foldl (fun s k => s + sgn 8 (matA 0xC a i k) * sgn 8 (matB 0xC b k j)) 0

/-- The elements of A and B that are read as flushed zeros (R109), each once. -/
def flushedIn (fmt a b : Nat) : Nat :=
  if fmt = 0xC then 0
  else
    ((List.range (matRows fmt * matK fmt)).countP fun n => ((narrowFmt fmt).read (lane (matW fmt) a n)).2)
      + ((List.range (32 * matK fmt)).countP fun n => ((narrowFmt fmt).read (lane (matW fmt) b n)).2)

/-- Element (i, j) of a tile lies at element 32 i + j in both element widths (R37). -/
def tileElem (w t i j : Nat) : Nat := lane w t (32 * i + j)

/-- What a matrix operation leaves: the tile (and the second of a pair) and its counts. -/
structure MatOut where
  t : Nat
  t2 : Nat := 0
  cnt : Troubles
deriving DecidableEq, Repr

/-- One new element of `MMA` with floating-point inputs (R95), with its counts. -/
def mmaElem (fmt a b sc t i j : Nat) : Written × Troubles :=
  let f := accFmt fmt
  let c := f.read (tileElem f.width t i j)
  let p := (dot fmt a b sc i j).round f.prec
  let x := c.1.add p
  let wr := f.write x
  (wr, { fin := b2n c.2, fout := b2n wr.flush, nan := b2n x.isNan })

/-- One new element of `MMA` with INT8 inputs (R96). -/
def mmaIntElem (a b t i j : Nat) : Nat × Nat :=
  let z := sgn 32 (tileElem 32 t i j) + dotInt a b i j
  if z < -(2 ^ 31 : Nat) then (2 ^ 31, 1)
  else if ((2 ^ 31 : Nat) : Int) ≤ z then (2 ^ 31 - 1, 1)
  else (unsgn 32 z, 0)

/-- `MMA` (R95 to R98): the tile after the operation. -/
def mma (fmt a b sc t : Nat) : MatOut :=
  if fmt = 0xC then
    let es := (List.range 1024).map fun n => mmaIntElem a b t (n / 32) (n % 32)
    { t := ofLanes 32 1024 (fun n => (es.getD n (0, 0)).1), cnt := { sat := es.foldl (fun s e => s + e.2) 0 } }
  else
    let w := (accFmt fmt).width
    let n := matRows fmt * 32
    let es := (List.range n).map fun k => mmaElem fmt a b sc t (k / 32) (k % 32)
    { t := ofLanes w n (fun k => (es.getD k (⟨0, false, false⟩, {})).1.val),
      cnt := (es.foldl (fun (s : Troubles) e => s.add e.2) {}).add { fin := flushedIn fmt a b } }

/-- One pair of `MMAM` (R99): hi' and lo' as written, with the counts of R100 (log entry 75). -/
def mmamElem (fmt a b t t2 i j : Nat) : Written × Written × Troubles :=
  let f := accFmt fmt
  let p := f.prec
  let hi := f.read (tileElem f.width t i j)
  let lo := f.read (tileElem f.width t2 i j)
  let d := dot fmt a b 0 i j
  let fin := b2n hi.2 + b2n lo.2
  if d.special || hi.1.special || lo.1.special then
    let x := (hi.1.add lo.1).add d
    let wr := f.write x
    (wr, ⟨0, false, false⟩, { fin := fin, fout := b2n wr.flush, nan := b2n x.isNan })
  else
    let phi := d.round p
    let plo := (d.add phi.neg).round p
    let hp := hi.1.add phi
    let s := hp.round p
    let e := hp.add s.neg
    let tt := ((lo.1.add plo).add e).round p
    let st := s.add tt
    let h := st.round p
    let wh := f.write h
    let wl := f.write (st.add h.neg)
    let ovr := decide ((f.num wh.val).special = true)
    let wl' : Written := if ovr then ⟨0, false, false⟩ else wl
    (wh, wl', { fin := fin, fout := b2n wh.flush + b2n wl'.flush, nan := b2n (f.num wh.val).isNan })

/-- `MMAM` (R99, R100): the pair of tiles after the operation. -/
def mmam (fmt a b t t2 : Nat) : MatOut :=
  let w := (accFmt fmt).width
  let n := matRows fmt * 32
  let es := (List.range n).map fun k => mmamElem fmt a b t t2 (k / 32) (k % 32)
  { t := ofLanes w n (fun k => (es.getD k (⟨0, false, false⟩, ⟨0, false, false⟩, {})).1.val),
    t2 := ofLanes w n (fun k => (es.getD k (⟨0, false, false⟩, ⟨0, false, false⟩, {})).2.1.val),
    cnt := (es.foldl (fun (s : Troubles) e => s.add e.2.2) {}).add { fin := flushedIn fmt a b } }

end Sys2Proof
end

