-- ==== Sys2Proof/Machine/Operands.lean ====
section
/-!
DEFINITION. The operand forms of a line (02 R47 to R69): a 256-bit line has four 64-bit slots; each slot decodes to an operation or
raises `ILL`; the registers an operation writes; the rule of two writes in one line.
-/
namespace Sys2Proof

/-- The operations of the four ports (R55, R58, R63, R66). -/
inductive Op where
  | HALT | BR | LOOP | BAR | WAITS | ADD | SUB | MUL | AND | OR | XOR | SHL | SHR | SRA | LI | LUI | CMP | SEL | PLOG | LD | ST
  | RDSR | WRSR
  | MLD | MST | MLD2 | MST2 | LCOPY | PASS | PWAIT | MWAIT | MTOUCH | VLD | VST | VGATHER | TLD | TST
  | VADD | VSUB | VMUL | VFMA | VMAX | VMIN | VAND | VOR | VXOR | VSH | VMOV | VBCAST | VEXT | VPERM | VRED | VCMP | VSEL | VCVT
  | VACT | VSCALE
  | MMA | MMAM | TZERO | TCOPY | TGET | TPUT
deriving DecidableEq, Repr

/-- The operation of an opcode, if it is assigned (R55, R58, R63, R66). -/
def Op.ofCode : Nat → Option Op
  | 0x01 => some .HALT | 0x02 => some .BR | 0x03 => some .LOOP | 0x04 => some .BAR | 0x05 => some .WAITS
  | 0x06 => some .ADD | 0x07 => some .SUB | 0x08 => some .MUL | 0x09 => some .AND | 0x0A => some .OR
  | 0x0B => some .XOR | 0x0C => some .SHL | 0x0D => some .SHR | 0x0E => some .SRA | 0x0F => some .LI
  | 0x10 => some .LUI | 0x11 => some .CMP | 0x12 => some .SEL | 0x13 => some .PLOG | 0x14 => some .LD
  | 0x15 => some .ST | 0x16 => some .RDSR | 0x17 => some .WRSR
  | 0x40 => some .MLD | 0x41 => some .MST | 0x42 => some .MLD2 | 0x43 => some .MST2 | 0x44 => some .LCOPY
  | 0x45 => some .PASS | 0x46 => some .PWAIT | 0x47 => some .MWAIT | 0x48 => some .MTOUCH | 0x49 => some .VLD
  | 0x4A => some .VST | 0x4B => some .VGATHER | 0x4C => some .TLD | 0x4D => some .TST
  | 0x80 => some .VADD | 0x81 => some .VSUB | 0x82 => some .VMUL | 0x83 => some .VFMA | 0x84 => some .VMAX
  | 0x85 => some .VMIN | 0x86 => some .VAND | 0x87 => some .VOR | 0x88 => some .VXOR | 0x89 => some .VSH
  | 0x8A => some .VMOV | 0x8B => some .VBCAST | 0x8C => some .VEXT | 0x8D => some .VPERM | 0x8E => some .VRED
  | 0x8F => some .VCMP | 0x90 => some .VSEL | 0x91 => some .VCVT | 0x92 => some .VACT | 0x93 => some .VSCALE
  | 0xC0 => some .MMA | 0xC1 => some .MMAM | 0xC2 => some .TZERO | 0xC3 => some .TCOPY | 0xC4 => some .TGET
  | 0xC5 => some .TPUT
  | _ => none

/-! The fields of R54, by port. A slot is the number its 64 bits spell. -/

def fOp (w : Nat) : Nat := bits w 63 56
def fNeg (w : Nat) : Bool := bit w 55
def fPn (w : Nat) : Nat := bits w 54 52
-- control
def cD (w : Nat) : Nat := bits w 51 47
def cA (w : Nat) : Nat := bits w 46 42
def cB (w : Nat) : Nat := bits w 41 37
def cI (w : Nat) : Bool := bit w 36
def cFunc (w : Nat) : Nat := bits w 35 32
def cImm (w : Nat) : Nat := bits w 31 0
-- move, transfer layout
def mL (w : Nat) : Nat := bits w 51 47
def mO (w : Nat) : Nat := bits w 46 42
def mN (w : Nat) : Nat := bits w 41 37
def mH (w : Nat) : Nat := bits w 36 31
def mT (w : Nat) : Nat := bits w 30 27
def mDir (w : Nat) : Nat := bits w 26 25
def mQ (w : Nat) : Nat := bits w 24 20
def mAll (w : Nat) : Bool := bit w 19
-- move, local layout
def lV (w : Nat) : Nat := bits w 51 47
def lA (w : Nat) : Nat := bits w 46 42
def lB (w : Nat) : Nat := bits w 41 37
def lImm (w : Nat) : Nat := bits w 31 16
-- vector
def vD (w : Nat) : Nat := bits w 51 47
def vA (w : Nat) : Nat := bits w 46 42
def vB (w : Nat) : Nat := bits w 41 37
def vC (w : Nat) : Nat := bits w 36 32
def vType (w : Nat) : Nat := bits w 31 29
def vSx (w : Nat) : Nat := bits w 28 24
def vFunc (w : Nat) : Nat := bits w 23 16
-- matrix
def xTD (w : Nat) : Nat := bits w 51 49
def xSA (w : Nat) : Nat := bits w 48 44
def xSB (w : Nat) : Nat := bits w 43 39
def xSS (w : Nat) : Nat := bits w 38 34
def xFmt (w : Nat) : Nat := bits w 33 30
def xCh (w : Nat) : Nat := bits w 29 24
def xVR (w : Nat) : Nat := bits w 23 19

/-- The mask of bits `[hi:lo]`. -/
def fmask (hi lo : Nat) : Nat := 2 ^ (hi + 1) - 2 ^ lo

/-- The bits an operation uses besides opcode and predicate; every other bit is reserved (R54). -/
def Op.used : Op → Nat
  | .HALT => 0
  | .BR => fmask 31 0
  | .LOOP => fmask 51 47 + fmask 31 0
  | .BAR => fmask 35 32
  | .WAITS => fmask 46 42
  | .ADD | .SUB | .MUL | .AND | .OR | .XOR | .SHL | .SHR | .SRA => fmask 51 36 + fmask 31 0
  | .LI => fmask 51 47 + fmask 31 0
  | .LUI => fmask 51 42 + fmask 31 0
  | .CMP => fmask 49 32 + fmask 31 0
  | .SEL => fmask 51 37 + fmask 34 32
  | .PLOG => fmask 49 47 + fmask 44 42 + fmask 39 37 + fmask 35 32 + fmask 31 0
  | .LD => fmask 51 42 + fmask 31 0
  | .ST => fmask 46 37 + fmask 31 0
  | .RDSR => fmask 51 47 + fmask 7 0
  | .WRSR => fmask 46 42 + fmask 7 0
  | .MLD | .MST => fmask 51 27
  | .MLD2 | .MST2 => fmask 51 27 + fmask 24 20
  | .LCOPY => fmask 51 37 + fmask 30 27
  | .PASS => fmask 51 37 + fmask 30 25
  | .PWAIT => fmask 51 47 + fmask 26 25
  | .MWAIT => fmask 30 27 + fmask 19 19
  | .MTOUCH => fmask 46 27
  | .VLD | .VST => fmask 51 42 + fmask 31 16
  | .VGATHER => fmask 51 37
  | .TLD | .TST => fmask 49 42
  | .VADD | .VSUB | .VMUL | .VAND | .VOR | .VXOR | .VPERM => fmask 51 37 + fmask 31 29
  | .VFMA => fmask 51 29
  | .VMAX | .VMIN => fmask 51 37 + fmask 31 29 + fmask 23 16
  | .VSH | .VEXT | .VRED | .VACT => fmask 51 42 + fmask 31 29 + fmask 23 16
  | .VMOV => fmask 51 42 + fmask 31 29
  | .VBCAST => fmask 51 47 + fmask 31 24
  | .VCMP => fmask 49 37 + fmask 31 29 + fmask 23 16
  | .VSEL => fmask 51 37 + fmask 31 29 + fmask 18 16
  | .VCVT => fmask 51 42 + fmask 31 16
  | .VSCALE => fmask 51 42 + fmask 31 24
  | .MMA => fmask 51 30
  | .MMAM => fmask 51 39 + fmask 33 30
  | .TZERO => fmask 51 49
  | .TCOPY => fmask 51 49 + fmask 46 44
  | .TGET | .TPUT => fmask 51 49 + fmask 29 19

/-- Whether an operation takes Sb or the immediate (R54, field I). -/
def Op.immForm : Op → Bool
  | .ADD | .SUB | .MUL | .AND | .OR | .XOR | .SHL | .SHR | .SRA | .CMP => true
  | _ => false

/-- The lane types an operation accepts (R62, R63). -/
def Op.typeOk (o : Op) (ty : Nat) : Bool :=
  match o with
  | .VADD | .VSUB | .VMUL | .VMAX | .VMIN | .VRED | .VCMP => isF ty || isI ty
  | .VFMA | .VACT | .VSCALE => isF ty
  | .VSH => isI ty
  | _ => true

/-- The form of `VCVT` (R64, R103, R104, R105). -/
def cvtOk (ty fn sx : Nat) : Bool :=
  let d := fn / 16
  let sw := laneW ty
  let dw := cvtW d
  decide (d ≠ 0xF) && !bit fn 2 && (!bit fn 3 || srDest d) && (decide (sx = 0) || isMx d)
    && (if dw < sw then decide (16 * (fn % 4) + laneN ty * dw / 8 ≤ 64) else decide (fn % 4 = 0))

/-- The operation's own rules on its fields, beyond reserved bits (R53 to R69). -/
def Op.formOk (o : Op) (w : Nat) : Bool :=
  (!o.immForm || (if cI w then decide (cB w = 0) else decide (cImm w = 0))) &&
  match o with
  | .BAR => !fNeg w && decide (fPn w = 0) && decide (cFunc w % 4 ≠ 3)
  | .CMP => decide (cFunc w < 6)
  | .PLOG =>
      if cFunc w = 4 then decide (cA w = 0) && decide (cB w = 0) && decide (bits w 7 6 = 0) && decide (bits w 31 14 = 0)
      else decide (cFunc w < 4) && decide (cImm w = 0)
  | .RDSR => decide (cImm w ≤ 0x10)
  | .WRSR => decide (cImm w = 0x07)
  | .MWAIT => !mAll w || decide (mT w = 0)
  | .VMAX | .VMIN => decide (vFunc w ≤ 1) && (!isF (vType w) || decide (vFunc w = 0))
  | .VSH => decide (vFunc w / 64 ≠ 3)
  | .VEXT => decide (vFunc w < laneN (vType w))
  | .VRED => decide (vFunc w ≤ 2)
  | .VCMP => if isF (vType w) then decide (vFunc w ≤ 3 ∨ vFunc w = 6) else decide (vFunc w ≤ 5)
  | .VACT => decide (vFunc w ≤ 7) && (decide (vType w = 1) || decide (4 ≤ vFunc w ∧ vFunc w ≤ 6))
  | .VCVT => cvtOk (vType w) (vFunc w) (vSx w)
  | .MMA => decide (xFmt w ≤ 0xC) && (isMx (xFmt w) || decide (xSS w = 0))
  | .MMAM => decide (xFmt w ≤ 1) && decide (xTD w % 2 = 0)
  | _ => true

/-- What a slot holds: nothing, an operation with its word, or an encoding that raises `ILL` (R47, R54). -/
inductive SlotOp where
  | nop
  | op (o : Op) (w : Nat)
  | ill
deriving DecidableEq, Repr

/-- The decoding of slot `port` (0 control, 1 move, 2 vector, 3 matrix): opcode[63:62] names the port (R47). -/
def decodeSlot (port w : Nat) : SlotOp :=
  if w = 0 then .nop
  else
    match Op.ofCode (fOp w) with
    | none => .ill
    | some o =>
      if bits w 63 62 ≠ port then .ill
      else if (w % 2 ^ 52) &&& o.used ≠ w % 2 ^ 52 then .ill
      else if (vType w < 8 ∧ port = 2 ∧ o.typeOk (vType w) = false) then .ill
      else if o.formOk w then .op o w else .ill

/-- Registers that two operations of one line may not both write (R49). -/
inductive RegName where
  | S (n : Nat) | P (n : Nat) | V (n : Nat) | A (n : Nat) | SEED
deriving DecidableEq, Repr

/-- The registers an operation writes; S0 and P0 are left out, for they never conflict (R49). -/
def Op.writes (o : Op) (w : Nat) : List RegName :=
  let s (n : Nat) : List RegName := if n = 0 then [] else [.S n]
  let p (n : Nat) : List RegName := if n = 0 then [] else [.P n]
  match o with
  | .LOOP | .ADD | .SUB | .MUL | .AND | .OR | .XOR | .SHL | .SHR | .SRA | .LI | .LUI | .SEL | .LD | .RDSR => s (cD w)
  | .CMP | .PLOG => p (cD w)
  | .WRSR => [.SEED]
  | .VLD | .VGATHER => [.V (lV w)]
  | .TLD => [.A (lV w)]
  | .VEXT => s (vD w)
  | .VCMP => p (vD w)
  | .VCVT => .V (vD w) :: (if bit (vFunc w) 3 then [.SEED] else [])
  | .VADD | .VSUB | .VMUL | .VFMA | .VMAX | .VMIN | .VAND | .VOR | .VXOR | .VSH | .VMOV | .VBCAST | .VPERM | .VRED | .VSEL
  | .VACT | .VSCALE => [.V (vD w)]
  | .MMA | .TZERO | .TCOPY | .TPUT => [.A (xTD w)]
  | .MMAM => [.A (xTD w), .A (xTD w + 1)]
  | .TGET => [.V (xVR w)]
  | _ => []

/-- The writes of a slot. -/
def SlotOp.writes : SlotOp → List RegName
  | .op o w => o.writes w
  | _ => []

/-- A line's four slots, the first 64 bits first. -/
structure Line where
  ctl : SlotOp
  mov : SlotOp
  vec : SlotOp
  mat : SlotOp
deriving DecidableEq, Repr

/-- The decoding of a line's 32 bytes (little-endian slots). -/
def decodeLine (x : Nat) : Line :=
  ⟨decodeSlot 0 (bits x 63 0), decodeSlot 1 (bits x 127 64), decodeSlot 2 (bits x 191 128), decodeSlot 3 (bits x 255 192)⟩

/-- Whether two slots of the line write one register (R49). -/
def Line.doubleWrite (l : Line) : Bool :=
  !decide ((l.ctl.writes ++ l.mov.writes ++ l.vec.writes ++ l.mat.writes).Nodup)

/-- Whether a slot holds an operation that satisfies `sel`. -/
def SlotOp.sat (x : SlotOp) (sel : Op → Nat → Bool) : Bool :=
  match x with
  | .op o w => sel o w
  | _ => false

/-- Whether some slot of the line holds such an operation. -/
def Line.sat (l : Line) (sel : Op → Nat → Bool) : Bool := l.ctl.sat sel || l.mov.sat sel || l.vec.sat sel || l.mat.sat sel

/-- Whether some slot's encoding raises `ILL`. -/
def Line.anyIll (l : Line) : Bool := [l.ctl, l.mov, l.vec, l.mat].any fun s => decide (s = .ill)

end Sys2Proof
end

