-- ==== Sys2Proof/Machine/Flags.lean ====
section
/-!
DEFINITION. A carrel's registers and the counters it keeps as flags (02 R36, R38, R57; 03 R109): reads with the hard-wired S0 and P0,
writes, trouble counts, the predicate.
-/
namespace Sys2Proof.Machine

/-- Sn; S0 reads 0 (R36). -/
def sget (x : Carrel) (n : Nat) : Nat := if n = 0 then 0 else (tget (fun _ => 0) x.sreg n).toNat

/-- Sn set; writes to S0 are discarded. -/
def sset (x : Carrel) (n v : Nat) : Carrel :=
  if n = 0 then x else { x with sreg := tset (fun _ => 0) x.sreg n (BitVec.ofNat 64 v) }

/-- Pn; P0 reads all ones. -/
def pget (x : Carrel) (n : Nat) : Nat := if n = 0 then 2 ^ 64 - 1 else (tget (fun _ => 0) x.preg n).toNat

/-- Pn set; writes to P0 are discarded. -/
def pset (x : Carrel) (n v : Nat) : Carrel :=
  if n = 0 then x else { x with preg := tset (fun _ => 0) x.preg n (BitVec.ofNat 64 v) }

def vget (x : Carrel) (n : Nat) : Nat := (tget (fun _ => 0) x.vreg n).toNat
def vset (x : Carrel) (n v : Nat) : Carrel := { x with vreg := tset (fun _ => 0) x.vreg n (BitVec.ofNat 512 v) }

/-- A tile as a number. -/
def aget (x : Carrel) (n : Nat) : Nat := (tget (fun _ => 0) x.tile n).toNat
def aset (x : Carrel) (n v : Nat) : Carrel := { x with tile := tset (fun _ => 0) x.tile n (BitVec.ofNat 32768 v) }

/-- The inbound pass counter of a side (0 north, 1 south, 2 east, 3 west). -/
def passGet (x : Carrel) (d : Nat) : Nat := tget (fun _ => 0) x.pass d
def passSet (x : Carrel) (d v : Nat) : Carrel := { x with pass := tset (fun _ => 0) x.pass d (v % 2 ^ 32) }

/-- The trouble counters raised, each saturating at 0xFFFF_FFFF (R78, R109). -/
def addTroubles (x : Carrel) (t : Troubles) : Carrel :=
  { x with trb := ⟨satAdd 32 x.trb.sat t.sat, satAdd 32 x.trb.fin t.fin, satAdd 32 x.trb.fout t.fout, satAdd 32 x.trb.nan t.nan⟩ }

/-- A predicate word with NEG applied (R53). -/
def predOf (x : Carrel) (w : Nat) : Nat :=
  let v := pget x (fPn w)
  if fNeg w then 2 ^ 64 - 1 - v else v

/-- Whether a control, move or matrix operation acts: bit 0 of its predicate (R53). -/
def acts (x : Carrel) (w : Nat) : Bool := bit (predOf x w) 0

/-- Registers, tiles, counters and flags as dispatch sets them (R38, R61, R77, 03 R107, 04 R154). -/
def freshCarrel (x : Carrel) (start allotIndex : Nat) : Carrel :=
  { x with sreg := [], preg := [], vreg := [], tile := [], lp := start, seed := (allotIndex + 1) % 2 ^ 32, cycles := 0, trb := {},
           pass := [], arrived := 0, run := .waiting, xfers := [] }

end Sys2Proof.Machine
end

