-- ==== Sys2Proof/Machine/Carrel.lean ====
section
/-!
DEFINITION. The issue of one line by one carrel (02 R45 to R71): what the line is, whether it stalls, which exception it raises, what its
operations do. Sources are read before anything is written (R49); the local store is likewise read as it was before the line.
-/
namespace Sys2Proof.Machine

/-- Where a carrel stands: device number, physical carrel, slot, position in the allotment, the invocation and its folio. -/
structure Ctx where
  c : Nat
  p : Nat
  n : Nat
  ai : Nat
  inv : Inv
  fo : Folio
deriving DecidableEq, Repr

/-- The place of a list's element. -/
def indexIn (xs : List Nat) (x : Nat) : Nat := xs.idxOf x

/-- ALLOT_INDEX of device carrel `c` in an allotment (R57). -/
def allotIndex (allot : List Nat) (c : Nat) : Nat := 16 * indexIn allot (shelfOf c) + c % 16

/-- The context of a carrel that belongs to a running invocation. -/
def State.ctx (s : State) (c : Nat) : Option Ctx :=
  match s.slotOfShelf (shelfOf c) with
  | none => none
  | some n =>
    match (s.slot n).inv with
    | none => none
    | some v =>
      match (s.slot n).folios[v.folio]? with
      | none => none
      | some f => some ⟨c, s.phys c, n, allotIndex (s.slot n).allot c, v, f⟩

/-- A carrel may issue: its slot's work has not been ended, the carrel is active and not in reset (R48, R71, R79). -/
def State.mayIssue (s : State) (k : Ctx) : Bool :=
  let st := s.g SLOT_STATUS.STATE k.n
  (decide (st = 3) || decide (st = 4) || decide (st = 5)) && decide ((s.slot k.n).ending = none)
    && decide ((s.carrel k.p).run = .active) && !(s.carrel k.p).inReset && !s.gb DEV_STATUS.SAFE

/-- The carrel's CYCLES has reached a non-zero budget (R79). -/
def State.overBudget (s : State) (k : Ctx) : Bool :=
  decide (k.inv.budget ≠ 0) && decide (k.inv.budget ≤ (s.carrel k.p).cycles)

/-- The line at the line pointer, read from the local store (R47). -/
def State.lineAt (s : State) (k : Ctx) : Line :=
  decodeLine ((s.mem k.p).le (k.fo.load + 32 * (s.carrel k.p).lp) 32)

/-! ### Local ranges (R39) -/

/-- Byte ranges that no folio write may touch: the lines, and pinned data (R74). -/
def pinned (fs : List Folio) : List (Nat × Nat) :=
  fs.flatMap fun f => (f.load, f.load + 32 * f.lines) :: (if f.dataPinned then [(f.dataAddr, f.dataAddr + f.dataSize)] else [])

/-- Two half-open ranges meet. -/
def meets (a b c d : Nat) : Bool := decide (a < d) && decide (c < b) && decide (a < b) && decide (c < d)

/-- A read of `n` bytes at `a`: RNG beyond the store. -/
def rdExc (a n : Nat) : List Nat := if 2 ^ 19 < a + n then [3] else []

/-- A write of `n` bytes at `a`: RNG outside the writable ranges, STD on a pinned range. -/
def wrExc (pins : List (Nat × Nat)) (a n : Nat) : List Nat :=
  (if a + n ≤ 0x7F000 ∨ (0x7FF80 ≤ a ∧ a + n ≤ 0x7FFC0) then [] else [3])
    ++ (if pins.any (fun r => meets a (a + n) r.1 r.2) then [8] else [])

/-- Alignment to `m`. -/
def alnExc (m : Nat) (xs : List Nat) : List Nat := if xs.all (fun x => decide (x % m = 0)) then [] else [2]

/-! ### Transfers (R58) -/

/-- A transfer's rows as (local address, remote offset) pairs, and the row length; a one-dimensional form has one row. -/
structure Rows where
  rows : List (Nat × Nat)
  len : Nat
deriving DecidableEq, Repr

/-- The rows of a transfer whose registers hold `l`, `o`, `n`, `q`. -/
def rowsOf (two : Bool) (l o n q : Nat) : Rows :=
  if two then
    let cnt := bits n 47 32
    let len := bits n 31 0
    if len = 0 then ⟨[], 0⟩
    else ⟨(List.range cnt).map fun i => (l + i * bits q 31 0, o + i * bits q 63 32), len⟩
  else if n = 0 then ⟨[], 0⟩ else ⟨[(l, o)], n⟩

/-- The length limit (R58): above 16 MiB, or SN[63:48] set in a two-dimensional form. -/
def lenExc (two : Bool) (n : Nat) : List Nat :=
  if two then (if 2 ^ 24 < bits n 31 0 ∨ bits n 63 48 ≠ 0 then [3] else []) else (if 2 ^ 24 < n then [3] else [])

/-- The slot's binding of a handle. -/
def State.handleOf (s : State) (n h : Nat) : Option Handle := tget (fun _ => none) (s.slot n).handles h

/-- HDL, BND and ACC of a transfer that reads (`rd`) or writes (`wr`) through a handle; BND only for rows that name bytes. -/
def hdlExc (h : Option Handle) (r : Rows) (rd wr : Bool) : List Nat :=
  match h with
  | none => [4]
  | some x =>
    (if r.rows.any (fun e => decide (x.len < e.2 + r.len)) then [5] else [])
      ++ (if (rd && !x.r) || (wr && !x.w) then [6] else [])

/-- The device carrel number of the logical neighbour in direction `d` (01 R15), if the grid has one there. -/
def neighbour (c d : Nat) : Option Nat :=
  let sh := c % 128 / 16
  let pos := c % 16
  match d with
  | 0 => if sh = 0 then none else some (c - 16)
  | 1 => if sh = 7 then none else some (c + 16)
  | 2 => if pos = 15 then none else some (c + 1)
  | _ => if pos = 0 then none else some (c - 1)

/-- The neighbour a PASS may reach: in the same allotment (R60). -/
def State.passTo (s : State) (k : Ctx) (d : Nat) : Option Nat :=
  match neighbour k.c d with
  | some m => if shelfOf m ∈ (s.slot k.n).allot then some m else none
  | none => none

/-- The NEIGHBOURS register (R57). -/
def State.neighbours (s : State) (k : Ctx) : Nat := ofBits 4 fun d => (s.passTo k d).isSome

/-! ### Exceptions of one operation (R52, R55 to R69, R71) -/

/-- The bytes a matrix operand occupies (R88). -/
def matExc (fmt a b sc : Nat) : List Nat :=
  alnExc 64 (if isMx fmt then [a, b, sc] else [a, b])
    ++ rdExc a (matABytes fmt) ++ rdExc b (matBBytes fmt) ++ (if isMx fmt then rdExc sc (matSBytes fmt) else [])

/-- Every exception code that an acting operation raises, apart from ILL. -/
def State.opExc (s : State) (k : Ctx) (o : Op) (w : Nat) : List Nat :=
  let x := s.carrel k.p
  let S := sget x
  let pins := pinned (s.slot k.n).folios
  let imm := (cImm w + (if cImm w < 2 ^ 31 then 0 else 2 ^ 64 - 2 ^ 32))
  let ea := (S (cA w) + imm) % 2 ^ 64
  let lea := (S (lA w) + lImm w + (if lImm w < 2 ^ 15 then 0 else 2 ^ 64 - 2 ^ 16)) % 2 ^ 64
  let tgt : Int := x.lp + sgn 32 (cImm w)
  let out := decide (tgt < 0) || decide ((k.fo.lines : Int) ≤ tgt)
  let two := decide (o = .MLD2 ∨ o = .MST2)
  let l := S (mL w); let off := S (mO w); let n := S (mN w); let q := S (mQ w)
  let r := rowsOf two l off n q
  let stride := if two then [bits q 31 0, bits q 63 32] else []
  let nl := if two then bits n 31 0 else n
  match o with
  | .BR => if out then [3] else []
  | .LOOP => if (S (cD w) + 2 ^ 64 - 1) % 2 ^ 64 ≠ 0 ∧ out then [3] else []
  | .LD => alnExc 8 [ea] ++ rdExc ea 8
  | .ST => alnExc 8 [ea] ++ wrExc pins ea 8
  | .MLD | .MLD2 =>
    alnExc 8 ([l, off, nl] ++ stride) ++ (if r.rows = [] then [] else lenExc two n)
      ++ r.rows.flatMap (fun e => wrExc pins e.1 r.len) ++ hdlExc (s.handleOf k.n (mH w)) r true false
  | .MST | .MST2 =>
    alnExc 8 ([l, off, nl] ++ stride) ++ (if r.rows = [] then [] else lenExc two n)
      ++ r.rows.flatMap (fun e => rdExc e.1 r.len) ++ hdlExc (s.handleOf k.n (mH w)) r false true
  | .LCOPY =>
    alnExc 8 [l, off, n] ++ (if n = 0 then [] else lenExc false n ++ rdExc l n ++ wrExc pins off n)
  | .PASS =>
    alnExc 8 [l, off, n] ++ (if n = 0 then [] else lenExc false n ++ rdExc l n ++ wrExc pins off n)
      ++ (if (s.passTo k (mDir w)).isSome then [] else [7])
  | .MTOUCH =>
    alnExc 8 [off, n] ++ (if n = 0 then [] else lenExc false n) ++ hdlExc (s.handleOf k.n (mH w)) r false false
  | .VLD => alnExc 8 [lea] ++ rdExc lea 64
  | .VST => alnExc 8 [lea] ++ wrExc pins lea 64
  | .VGATHER =>
    (List.range 8).flatMap fun i =>
      let a := (S (lA w) + lane 64 (vget x (lB w)) i) % 2 ^ 64
      alnExc 8 [a] ++ rdExc a 8
  | .TLD => alnExc 64 [S (lA w)] ++ rdExc (S (lA w)) 4096
  | .TST => alnExc 64 [S (lA w)] ++ wrExc pins (S (lA w)) 4096
  | .MMA => matExc (xFmt w) (S (xSA w)) (S (xSB w)) (S (xSS w))
  | .MMAM => matExc (xFmt w) (S (xSA w)) (S (xSB w)) 0
  | _ => []

/-- The least of a list of codes, 0 when it is empty. -/
def leastCode (l : List Nat) : Nat := l.foldl (fun a b => if a = 0 then b else min a b) 0

/-- Whether an operation of a slot acts at all: the vector port and VLD and VST are predicated by lane, and their checks do not depend on
the predicate (R53). -/
def State.opActs (s : State) (k : Ctx) (o : Op) (w : Nat) : Bool :=
  if o = .BAR ∨ o = .VLD ∨ o = .VST ∨ fOp w / 64 = 2 then true else acts (s.carrel k.p) w

/-- The code that one slot raises; 0 for none (R71: the lowest of an operation's codes). -/
def State.slotExc (s : State) (k : Ctx) : SlotOp → Nat
  | .nop => 0
  | .ill => 1
  | .op o w => if s.opActs k o w then leastCode (s.opExc k o w) else 0

/-- Whether a slot's writes meet those of the slots before it (R49). -/
def clash (before : List RegName) (x : SlotOp) : Bool := x.writes.any fun r => decide (r ∈ before)

/-- The code the line reports: the first raising slot in the order control, move, vector, matrix (R71); a second write of a register is the
later slot's `ILL`. -/
def State.lineExc (s : State) (k : Ctx) (l : Line) : Nat :=
  let e0 := s.slotExc k l.ctl
  let e1 := if clash l.ctl.writes l.mov then 1 else s.slotExc k l.mov
  let e2 := if clash (l.ctl.writes ++ l.mov.writes) l.vec then 1 else s.slotExc k l.vec
  let e3 := if clash (l.ctl.writes ++ l.mov.writes ++ l.vec.writes) l.mat then 1 else s.slotExc k l.mat
  if e0 ≠ 0 then e0 else if e1 ≠ 0 then e1 else if e2 ≠ 0 then e2 else e3

/-! ### Stalls (R45, R48, R55, R58, R153) -/

/-- The local ranges an operation reads and writes. -/
def State.opRanges (s : State) (k : Ctx) (o : Op) (w : Nat) : List (Nat × Nat) × List (Nat × Nat) :=
  let x := s.carrel k.p
  let S := sget x
  let imm := (cImm w + (if cImm w < 2 ^ 31 then 0 else 2 ^ 64 - 2 ^ 32))
  let ea := (S (cA w) + imm) % 2 ^ 64
  let lea := (S (lA w) + lImm w + (if lImm w < 2 ^ 15 then 0 else 2 ^ 64 - 2 ^ 16)) % 2 ^ 64
  let two := decide (o = .MLD2 ∨ o = .MST2)
  let r := rowsOf two (S (mL w)) (S (mO w)) (S (mN w)) (S (mQ w))
  let n := S (mN w)
  match o with
  | .LD => ([(ea, ea + 8)], [])
  | .ST => ([], [(ea, ea + 8)])
  | .MLD | .MLD2 => ([], r.rows.map fun e => (e.1, e.1 + r.len))
  | .MST | .MST2 => (r.rows.map fun e => (e.1, e.1 + r.len), [])
  | .LCOPY => if n = 0 then ([], []) else ([(S (mL w), S (mL w) + n)], [(S (mO w), S (mO w) + n)])
  | .PASS => if n = 0 then ([], []) else ([(S (mL w), S (mL w) + n)], [])
  | .VLD => ([(lea, lea + 64)], [])
  | .VST => ([], [(lea, lea + 64)])
  | .VGATHER =>
    ((List.range 8).map fun i => let a := (S (lA w) + lane 64 (vget x (lB w)) i) % 2 ^ 64; (a, a + 8), [])
  | .TLD => ([(S (lA w), S (lA w) + 4096)], [])
  | .TST => ([], [(S (lA w), S (lA w) + 4096)])
  | .MMA => ([(S (xSA w), S (xSA w) + matABytes (xFmt w)), (S (xSB w), S (xSB w) + matBBytes (xFmt w)),
              (S (xSS w), S (xSS w) + matSBytes (xFmt w))], [])
  | .MMAM => ([(S (xSA w), S (xSA w) + matABytes (xFmt w)), (S (xSB w), S (xSB w) + matBBytes (xFmt w))], [])
  | _ => ([], [])

/-- The bounding range of the pieces that a transfer has not moved (R45); empty once all are moved. -/
def xferRest (x : Xfer) : Nat × Nat :=
  let ps := x.todo ++ x.wait.map (·.2)
  (ps.foldl (fun a p => min a p.loc) (2 ^ 64), ps.foldl (fun a p => max a (p.loc + p.len)) 0)

/-- The local range that a transfer still reads (R45). -/
def xferReads (x : Xfer) : Nat × Nat := match x.kind with | .mst => xferRest x | _ => (x.rdLo, x.rdHi)

/-- The local range that a transfer still writes (R45). -/
def xferWrites (x : Xfer) : Nat × Nat := match x.kind with | .mld => xferRest x | _ => (x.wrLo, x.wrHi)

/-- The interlock of R45: a read meets a range that a transfer still writes, or a write meets one that it still reads or writes. -/
def interlocked (xs : List Xfer) (rd wr : List (Nat × Nat)) : Bool :=
  xs.any fun x =>
    rd.any (fun r => meets r.1 r.2 (xferWrites x).1 (xferWrites x).2)
      || wr.any (fun r => meets r.1 r.2 (xferWrites x).1 (xferWrites x).2 || meets r.1 r.2 (xferReads x).1 (xferReads x).2)

/-- Whether tag `t` is outstanding. -/
def tagBusy (x : Carrel) (t : Nat) : Bool := x.xfers.any fun e => decide (e.tag = t)

/-- Operations that name a mover tag. -/
def Op.usesTag : Op → Bool
  | .MLD | .MST | .MLD2 | .MST2 | .LCOPY | .PASS | .MTOUCH => true
  | _ => false

/-- Whether an acting operation stalls its line. -/
def State.opStall (s : State) (k : Ctx) (o : Op) (w : Nat) : Bool :=
  let x := s.carrel k.p
  let r := s.opRanges k o w
  (Op.usesTag o && tagBusy x (mT w)) || interlocked x.xfers r.1 r.2 ||
  match o with
  | .WAITS => decide (s.now < sget x (cA w))
  | .PWAIT => decide (passGet x (mDir w) < sget x (mL w) % 2 ^ 32)
  | .MWAIT => if mAll w then !x.xfers.isEmpty else tagBusy x (mT w)
  | .BAR => decide (cFunc w % 4 < 2) && bit x.arrived (cFunc w / 4)
  | _ => false

/-- Whether a slot stalls its line (log entries 70, 71). -/
def State.slotStall (s : State) (k : Ctx) : SlotOp → Bool
  | .op o w => s.opActs k o w && s.opStall k o w
  | _ => false

/-- Whether the line stalls. -/
def State.lineStall (s : State) (k : Ctx) (l : Line) : Bool :=
  s.slotStall k l.ctl || s.slotStall k l.mov || s.slotStall k l.vec || s.slotStall k l.mat

end Sys2Proof.Machine
end

