-- ==== Sys2Proof/Machine/Issue.lean ====
section
/-!
DEFINITION. What the operations of a line do (02 R55 to R69, 03 R95 to R110) and the issue of a whole line.
-/
namespace Sys2Proof.Machine

/-- What a line's operations read: the carrel and its store before the line (R49). -/
structure Src where
  x : Carrel
  m : Memory
deriving DecidableEq, Repr

/-- A change of the carrel's own state. -/
def State.onCar (s : State) (k : Ctx) (f : Carrel → Carrel) : State := s.setCarrel k.p (f (s.carrel k.p))

/-- A change of the carrel's store. -/
def State.onMem (s : State) (k : Ctx) (f : Memory → Memory) : State := s.setMem k.p (f (s.mem k.p))

/-- IMM32 sign-extended to 64 bits (R54). -/
def simm (w : Nat) : Nat := (cImm w + (if cImm w < 2 ^ 31 then 0 else 2 ^ 64 - 2 ^ 32)) % 2 ^ 64

/-- IMM16 sign-extended. -/
def simm16 (w : Nat) : Nat := (lImm w + (if lImm w < 2 ^ 15 then 0 else 2 ^ 64 - 2 ^ 16)) % 2 ^ 64

/-- Sb or the immediate (R54, field I). -/
def srcB (x : Carrel) (w : Nat) : Nat := if cI w then simm w else sget x (cB w)

/-- A control operation that writes Sd from Sa and Sb or IMM32 (R55). -/
def effAlu (f : Nat → Nat → Nat) (k : Ctx) (r : Src) (w : Nat) (s : State) : State :=
  s.onCar k fun x => sset x (cD w) (f (sget r.x (cA w)) (srcB r.x w) % 2 ^ 64)

def effAdd := effAlu (fun a b => a + b)
def effSub := effAlu (fun a b => a + (2 ^ 64 - b))
def effMul := effAlu (fun a b => a * b)
def effAnd := effAlu (fun a b => a &&& b)
def effOr := effAlu (fun a b => a ||| b)
def effXor := effAlu (fun a b => a ^^^ b)
def effShl := effAlu (fun a b => a * 2 ^ (b % 64))
def effShr := effAlu (fun a b => a / 2 ^ (b % 64))
def effSra := effAlu (fun a b => unsgn 64 (sgn 64 a / (2 ^ (b % 64) : Nat)))

def effLi (k : Ctx) (_ : Src) (w : Nat) (s : State) : State := s.onCar k fun x => sset x (cD w) (simm w)

def effLui (k : Ctx) (r : Src) (w : Nat) (s : State) : State :=
  s.onCar k fun x => sset x (cD w) (cImm w * 2 ^ 32 + sget r.x (cA w) % 2 ^ 32)

def effCmp (k : Ctx) (r : Src) (w : Nat) (s : State) : State :=
  s.onCar k fun x => pset x (cD w) (if condI 64 (cFunc w) (sget r.x (cA w)) (srcB r.x w) then 2 ^ 64 - 1 else 0)

def effSel (k : Ctx) (r : Src) (w : Nat) (s : State) : State :=
  s.onCar k fun x => sset x (cD w) (if bit (pget r.x (cFunc w % 8)) 0 then sget r.x (cA w) else sget r.x (cB w))

/-- `PLOG` (R55): AND, OR, XOR, AND-NOT, or RANGE. -/
def effPlog (k : Ctx) (r : Src) (w : Nat) (s : State) : State :=
  let a := pget r.x (cA w)
  let b := pget r.x (cB w)
  let v := match cFunc w with
    | 0 => a &&& b
    | 1 => a ||| b
    | 2 => a ^^^ b
    | 3 => a &&& (2 ^ 64 - 1 - b)
    | _ => ofBits 64 fun i => decide (bits w 5 0 ≤ i ∧ i ≤ bits w 13 8)
  s.onCar k fun x => pset x (cD w) v

def effLd (k : Ctx) (r : Src) (w : Nat) (s : State) : State :=
  s.onCar k fun x => sset x (cD w) (r.m.le ((sget r.x (cA w) + simm w) % 2 ^ 64) 8)

def effSt (k : Ctx) (r : Src) (w : Nat) (s : State) : State :=
  s.onMem k fun m => m.write ((sget r.x (cA w) + simm w) % 2 ^ 64) (natLe 8 (sget r.x (cB w)))

/-- The special registers (R57). -/
def State.special (s : State) (k : Ctx) (x : Carrel) (num : Nat) : Nat :=
  match num with
  | 0x00 => k.c
  | 0x01 => k.n
  | 0x02 => k.ai
  | 0x03 => 16 * (s.slot k.n).allot.length
  | 0x04 => k.inv.entry
  | 0x05 => s.now
  | 0x06 => x.cycles
  | 0x07 => x.seed
  | 0x08 => x.trb.sat
  | 0x09 => x.trb.fin
  | 0x0A => x.trb.fout
  | 0x0B => x.trb.nan
  | 0x0C => passGet x 0
  | 0x0D => passGet x 1
  | 0x0E => passGet x 2
  | 0x0F => passGet x 3
  | _ => s.neighbours k

def effRdsr (k : Ctx) (r : Src) (w : Nat) (s : State) : State :=
  s.onCar k fun x => sset x (cD w) (s.special k r.x (cImm w))

/-- `WRSR` of SEED: [31:0], 1 in place of 0 (03 R107). -/
def effWrsr (k : Ctx) (r : Src) (w : Nat) (s : State) : State :=
  let v := sget r.x (cA w) % 2 ^ 32
  s.onCar k fun x => { x with seed := if v = 0 then 1 else v }

def effBr (k : Ctx) (r : Src) (w : Nat) (s : State) : State :=
  s.onCar k fun x => { x with lp := ((r.x.lp : Int) + sgn 32 (cImm w)).toNat }

/-- `LOOP`: Sd − 1, and a branch if the new value is not 0 (log entry 72). -/
def effLoop (k : Ctx) (r : Src) (w : Nat) (s : State) : State :=
  let v := (sget r.x (cD w) + 2 ^ 64 - 1) % 2 ^ 64
  s.onCar k fun x =>
    let x := sset x (cD w) v
    if v = 0 then x else { x with lp := ((r.x.lp : Int) + sgn 32 (cImm w)).toNat }

/-- `BAR` (R55, 04 R153): mode 0 arrives and waits, 1 arrives, 2 waits if the flag is set. -/
def effBar (k : Ctx) (r : Src) (w : Nat) (s : State) : State :=
  let b := cFunc w / 4
  match cFunc w % 4 with
  | 0 => s.onCar k fun x => { x with arrived := setBit x.arrived b true, run := .gated b }
  | 1 => s.onCar k fun x => { x with arrived := setBit x.arrived b true }
  | _ => if bit r.x.arrived b then s.onCar k fun x => { x with run := .gated b } else s

/-- `HALT`: the carrel stops once its tags are complete. -/
def effHalt (k : Ctx) (_ : Src) (_ : Nat) (s : State) : State := s.onCar k fun x => { x with run := .halting }

/-- No effect beyond the stall (`WAITS`, `PWAIT`, `MWAIT`). -/
def effNone (_ : Ctx) (_ : Src) (_ : Nat) (s : State) : State := s

/-! ### The mover (R58 to R61) -/

/-- The pieces of a row that each lie in one 64-byte line of virtual address. -/
def linePieces (base : Nat) (loc off len : Nat) : List Piece :=
  let a := base + off
  if len = 0 then []
  else
    (List.range ((a + len - 1) / 64 - a / 64 + 1)).map fun i =>
      let lo := max a (64 * (a / 64 + i))
      let hi := min (a + len) (64 * (a / 64 + i + 1))
      { loc := loc + (lo - a), off := off + (lo - a), len := hi - lo }

/-- The bounding local range of a transfer (R45). -/
def boundOf (r : Rows) : Nat × Nat :=
  match r.rows with
  | [] => (0, 0)
  | e :: es => ((e :: es).foldl (fun a x => min a x.1) e.1, (e :: es).foldl (fun a x => max a (x.1 + r.len)) 0)

/-- The start of a transfer through a handle; a transfer that moves nothing completes at once. -/
def effXfer (kind : XKind) (two : Bool) (k : Ctx) (r : Src) (w : Nat) (s : State) : State :=
  let l := sget r.x (mL w)
  let rs := rowsOf two (if kind = .mtouch then 0 else l) (sget r.x (mO w)) (sget r.x (mN w)) (sget r.x (mQ w))
  if rs.rows = [] then s
  else
    let h := (s.handleOf k.n (mH w)).getD {}
    let b := boundOf rs
    let xf : Xfer :=
      { tag := mT w, kind := kind, slot := k.n, h := mH w, todo := rs.rows.flatMap fun e => linePieces h.base e.1 e.2 rs.len,
        rdLo := if kind = .mst then b.1 else 0, rdHi := if kind = .mst then b.2 else 0,
        wrLo := if kind = .mld then b.1 else 0, wrHi := if kind = .mld then b.2 else 0 }
    s.onCar k fun x => { x with xfers := x.xfers ++ [xf] }

def effMld := effXfer .mld false
def effMst := effXfer .mst false
def effMld2 := effXfer .mld true
def effMst2 := effXfer .mst true
def effMtouch := effXfer .mtouch false

def effLcopy (k : Ctx) (r : Src) (w : Nat) (s : State) : State :=
  let n := sget r.x (mN w)
  let a := sget r.x (mL w)
  let b := sget r.x (mO w)
  if n = 0 then s
  else
    let xf : Xfer := { tag := mT w, kind := .lcopy, slot := k.n, src := a, dst := b, len := n, rdLo := a, rdHi := a + n, wrLo := b, wrHi := b + n }
    s.onCar k fun x => { x with xfers := x.xfers ++ [xf] }

/-- A `PASS` starts; one of length 0 moves nothing and completes, landing, at once (R58, R61). -/
def effPass (k : Ctx) (r : Src) (w : Nat) (s : State) : State :=
  let n := sget r.x (mN w)
  let a := sget r.x (mL w)
  let xf : Xfer := { tag := mT w, kind := .pass, slot := k.n, src := a, dst := sget r.x (mO w), len := n, dir := mDir w, rdLo := a, rdHi := a + n }
  if n = 0 then
    match s.passTo k (mDir w) with
    | some d =>
      let p := s.phys d
      let y := s.carrel p
      let side := match mDir w with | 0 => 1 | 1 => 0 | 2 => 3 | _ => 2
      s.setCarrel p (passSet y side (passGet y side + 1))
    | none => s
  else s.onCar k fun x => { x with xfers := x.xfers ++ [xf] }

/-! ### Local vector and tile accesses -/

def effVld (k : Ctx) (r : Src) (w : Nat) (s : State) : State :=
  let v := r.m.le ((sget r.x (lA w) + simm16 w) % 2 ^ 64) 64
  s.onCar k fun x => vset x (lV w) (vMerge 4 (predOf r.x w) (vget r.x (lV w)) v)

def effVst (k : Ctx) (r : Src) (w : Nat) (s : State) : State :=
  let a := (sget r.x (lA w) + simm16 w) % 2 ^ 64
  let v := vget r.x (lV w)
  s.onMem k fun m => (setBitsOf 8 (predOf r.x w)).foldl (fun m i => m.write (a + 8 * i) (natLe 8 (lane 64 v i))) m

def effVgather (k : Ctx) (r : Src) (w : Nat) (s : State) : State :=
  let v := ofLanes 64 8 fun i => r.m.le ((sget r.x (lA w) + lane 64 (vget r.x (lB w)) i) % 2 ^ 64) 8
  s.onCar k fun x => vset x (lV w) v

def effTld (k : Ctx) (r : Src) (w : Nat) (s : State) : State :=
  s.onCar k fun x => aset x (lV w) (r.m.le (sget r.x (lA w)) 4096)

def effTst (k : Ctx) (r : Src) (w : Nat) (s : State) : State :=
  s.onMem k fun m => m.write (sget r.x (lA w)) (natLe 4096 (aget r.x (lV w)))

/-! ### Vector operations: the acting lanes of VD are written (R53) -/

/-- A vector operation whose result is a whole vector. -/
def effVec (f : Carrel → Nat → Nat) (k : Ctx) (r : Src) (w : Nat) (s : State) : State :=
  s.onCar k fun x => vset x (vD w) (vMerge (vType w) (predOf r.x w) (vget r.x (vD w)) (f r.x w))

def effVadd := effVec fun x w => vAdd (vType w) (vget x (vA w)) (vget x (vB w))
def effVsub := effVec fun x w => vSub (vType w) (vget x (vA w)) (vget x (vB w))
def effVmul := effVec fun x w => vMul (vType w) (vget x (vA w)) (vget x (vB w))
def effVfma := effVec fun x w => vFma (vType w) (vget x (vA w)) (vget x (vB w)) (vget x (vC w))
def effVmax := effVec fun x w => vPick true (vType w) (vFunc w) (vget x (vA w)) (vget x (vB w))
def effVmin := effVec fun x w => vPick false (vType w) (vFunc w) (vget x (vA w)) (vget x (vB w))
def effVand := effVec fun x w => vget x (vA w) &&& vget x (vB w)
def effVor := effVec fun x w => vget x (vA w) ||| vget x (vB w)
def effVxor := effVec fun x w => vget x (vA w) ^^^ vget x (vB w)
def effVsh := effVec fun x w => vSh (vType w) (vFunc w) (vget x (vA w))
def effVmov := effVec fun x w => vget x (vA w)
def effVbcast := effVec fun x w => vBcast (vType w) (sget x (vSx w))
def effVperm := effVec fun x w => vPerm (vType w) (vget x (vA w)) (vget x (vB w))
def effVsel := effVec fun x w => vSel (vType w) (pget x (vFunc w % 8)) (vget x (vA w)) (vget x (vB w))
def effVact := effVec fun x w => vAct (vType w) (vFunc w) (vget x (vA w))
def effVscale := effVec fun x w => vScale (vType w) (sget x (vSx w)) (vget x (vA w))

/-- `VEXT` acts if bit 0 of its predicate is 1. -/
def effVext (k : Ctx) (r : Src) (w : Nat) (s : State) : State :=
  if acts r.x w then s.onCar k fun x => sset x (vD w) (lane (laneW (vType w)) (vget r.x (vA w)) (vFunc w)) else s

/-- `VRED` acts if bit 0 of its predicate is 1. -/
def effVred (k : Ctx) (r : Src) (w : Nat) (s : State) : State :=
  if acts r.x w then s.onCar k fun x => vset x (vD w) (vRed (vType w) (vFunc w) (vget r.x (vA w))) else s

/-- `VCMP`: the bits of the acting lanes; bits beyond the lane count become 0. -/
def effVcmp (k : Ctx) (r : Src) (w : Nat) (s : State) : State :=
  let old := pget r.x (vD w)
  let p := predOf r.x w
  let v := ofBits (laneN (vType w)) fun i =>
    if bit p i then vCmpLane (vType w) (vFunc w) (vget r.x (vA w)) (vget r.x (vB w)) i else bit old i
  s.onCar k fun x => pset x (vD w) v

/-- `VCVT` (03 R102 to R106; log entry 73). -/
def effVcvt (k : Ctx) (r : Src) (w : Nat) (s : State) : State :=
  let c := vCvt (vType w) (vFunc w) (sget r.x (vSx w)) (predOf r.x w) (vget r.x (vD w)) (vget r.x (vA w)) r.x.seed
  s.onCar k fun x =>
    let x := addTroubles (vset x (vD w) c.v) c.t
    if bit (vFunc w) 3 then { x with seed := c.seed } else x

/-! ### Matrix operations -/

def effMma (k : Ctx) (r : Src) (w : Nat) (s : State) : State :=
  let f := xFmt w
  let o := mma f (r.m.le (sget r.x (xSA w)) (matABytes f)) (r.m.le (sget r.x (xSB w)) (matBBytes f))
    (if isMx f then r.m.le (sget r.x (xSS w)) (matSBytes f) else 0) (aget r.x (xTD w))
  s.onCar k fun x => addTroubles (aset x (xTD w) o.t) o.cnt

def effMmam (k : Ctx) (r : Src) (w : Nat) (s : State) : State :=
  let f := xFmt w
  let o := mmam f (r.m.le (sget r.x (xSA w)) (matABytes f)) (r.m.le (sget r.x (xSB w)) (matBBytes f))
    (aget r.x (xTD w)) (aget r.x (xTD w + 1))
  s.onCar k fun x => addTroubles (aset (aset x (xTD w) o.t) (xTD w + 1) o.t2) o.cnt

def effTzero (k : Ctx) (_ : Src) (w : Nat) (s : State) : State := s.onCar k fun x => aset x (xTD w) 0

def effTcopy (k : Ctx) (r : Src) (w : Nat) (s : State) : State :=
  s.onCar k fun x => aset x (xTD w) (aget r.x (xSA w % 8))

def effTget (k : Ctx) (r : Src) (w : Nat) (s : State) : State :=
  s.onCar k fun x => vset x (xVR w) (lane 512 (aget r.x (xTD w)) (xCh w))

def effTput (k : Ctx) (r : Src) (w : Nat) (s : State) : State :=
  s.onCar k fun x =>
    aset x (xTD w) (setBits (aget r.x (xTD w)) (512 * xCh w + 511) (512 * xCh w) (vget r.x (xVR w)))

/-- The effect of each operation. -/
def Op.eff : Op → Ctx → Src → Nat → State → State
  | .HALT => effHalt | .BR => effBr | .LOOP => effLoop | .BAR => effBar | .WAITS => effNone | .ADD => effAdd | .SUB => effSub
  | .MUL => effMul | .AND => effAnd | .OR => effOr | .XOR => effXor | .SHL => effShl | .SHR => effShr | .SRA => effSra
  | .LI => effLi | .LUI => effLui | .CMP => effCmp | .SEL => effSel | .PLOG => effPlog | .LD => effLd | .ST => effSt
  | .RDSR => effRdsr | .WRSR => effWrsr
  | .MLD => effMld | .MST => effMst | .MLD2 => effMld2 | .MST2 => effMst2 | .LCOPY => effLcopy | .PASS => effPass
  | .PWAIT => effNone | .MWAIT => effNone | .MTOUCH => effMtouch | .VLD => effVld | .VST => effVst | .VGATHER => effVgather
  | .TLD => effTld | .TST => effTst
  | .VADD => effVadd | .VSUB => effVsub | .VMUL => effVmul | .VFMA => effVfma | .VMAX => effVmax | .VMIN => effVmin
  | .VAND => effVand | .VOR => effVor | .VXOR => effVxor | .VSH => effVsh | .VMOV => effVmov | .VBCAST => effVbcast
  | .VEXT => effVext | .VPERM => effVperm | .VRED => effVred | .VCMP => effVcmp | .VSEL => effVsel | .VCVT => effVcvt
  | .VACT => effVact | .VSCALE => effVscale
  | .MMA => effMma | .MMAM => effMmam | .TZERO => effTzero | .TCOPY => effTcopy | .TGET => effTget | .TPUT => effTput

/-- The effect of a slot: nothing for NOP or where the predicate is off. -/
def slotEff (k : Ctx) (r : Src) (x : SlotOp) (act : Bool) (s : State) : State :=
  match x with
  | .op o w => if act then Op.eff o k r w s else s
  | _ => s

/-- Whether a slot's operation acts in the state before the line. -/
def State.slotActs (s : State) (k : Ctx) : SlotOp → Bool
  | .op o w => s.opActs k o w
  | _ => false

/-- The effects of a line that issues: the line pointer goes on (a branch sets it again), then the slots in order. -/
def State.runLine (s : State) (k : Ctx) (l : Line) : State :=
  let r : Src := ⟨s.carrel k.p, s.mem k.p⟩
  let a0 := s.slotActs k l.ctl
  let a1 := s.slotActs k l.mov
  let a2 := s.slotActs k l.vec
  let a3 := s.slotActs k l.mat
  let s := s.onCar k fun x => { x with lp := x.lp + 1 }
  let s := slotEff k r l.mat a3 (slotEff k r l.vec a2 (slotEff k r l.mov a1 (slotEff k r l.ctl a0 s)))
  s.onCar k fun x => if x.run = .halting ∧ x.xfers = [] then { x with run := .halted } else x

/-- A carrel that has not completed `HALT` has reached the budget of the invocation (R79), gated or not. -/
def State.budgetHit (s : State) (v : Inv) (c : Nat) : Bool :=
  let x := s.carrel (s.phys c)
  let runs := match x.run with | .active | .gated _ | .released _ | .halting => true | _ => false
  runs && decide (v.budget ≠ 0 ∧ v.budget ≤ x.cycles)

/-- The carrel of a lower `ALLOT_INDEX` that raises `OVR` in the same cycle, when there is one (R71). -/
def State.overFirst (s : State) (k : Ctx) : Option Nat :=
  ((carrelsOf (s.slot k.n).allot).take k.ai).find? fun c => s.budgetHit k.inv c

/-- What an exception of carrel `k` reports (R71): the lowest `ALLOT_INDEX` among the carrels that raise one in this cycle. -/
def State.excReport (s : State) (k : Ctx) (code line : Nat) : Ending :=
  match s.overFirst k with
  | some c => { status := 1, exc := 9, carrel := allotIndex (s.slot k.n).allot c, line := (s.carrel (s.phys c)).lp }
  | none => { status := 1, exc := code, carrel := k.ai, line := line }

/-- A folio exception (R71): issue stops in every carrel of the allotment and the invocation ends with the code. -/
def State.folioExc (s : State) (k : Ctx) (code line : Nat) : State :=
  (s.stopCarrels k.n).endSlot k.n (s.excReport k code line)

/-- What a carrel that may issue does next: `OVR` at its budget (R79), `RNG` past the last line (R52), the line's exception, a stall (no
change), or the line. -/
def State.issueLine (s : State) (k : Ctx) : State :=
  let x := s.carrel k.p
  if s.overBudget k then s.folioExc k 9 x.lp
  else if k.fo.lines ≤ x.lp then s.folioExc k 3 k.fo.lines
  else
    let l := s.lineAt k
    if l.anyIll || l.doubleWrite then s.folioExc k (s.lineExc k l) x.lp
    else if s.lineStall k l then s
    else
      let e := s.lineExc k l
      if e ≠ 0 then s.folioExc k e x.lp else s.runLine k l

/-- The context and line of a carrel that may issue a line it holds. -/
def State.front (s : State) (c : Nat) : Option (Ctx × Line) :=
  match s.ctx c with
  | some k => if s.mayIssue k && decide ((s.carrel k.p).lp < k.fo.lines) then some (k, s.lineAt k) else none
  | none => none

/-- The command "carrel `c` issues its next line, which holds an operation that satisfies `sel`": nothing happens where the carrel may
not issue or its next line holds no such operation. -/
def State.issueIf (s : State) (c : Nat) (sel : Op → Nat → Bool) : State :=
  match s.front c with
  | some (k, l) =>
    if l.sat sel then s.issueLine k else s
  | none => s

end Sys2Proof.Machine
end

