-- ==== Sys2Proof/Machine/Memory.lean ====
section
/-!
DEFINITION. Device memory (08): the interleave, the write-combining buffers, the reserve, the regulators, frames and their owners.
-/
namespace Sys2Proof.Machine

/-- The capacity in frames falls: the scrubber goes on below it (R295, R300). -/
def State.setCap (s : State) (c : Nat) : State :=
  { s with dmem := { s.dmem with cap := c, scrub := if s.dmem.scrub < c * 8192 then s.dmem.scrub else 0 } }

/-! ### Replacement trees (07 R273, 08 R304) -/

/-- A way below node `i` of the tree at height `h` satisfies `ok`. Node 1 is the root, nodes 16 to 31 are the ways. -/
def plruAny (ok : Nat → Bool) (h i : Nat) : Bool := (List.range (2 ^ h)).any fun k => ok (i * 2 ^ h + k - 16)

/-- The way the tree's bits point to, among those that satisfy `ok`. -/
def plruWalk (t : Nat) (ok : Nat → Bool) : Nat → Nat → Nat
  | 0, i => i - 16
  | h + 1, i =>
    let b := b2n (bit t i)
    if plruAny ok h (2 * i + b) then plruWalk t ok h (2 * i + b) else plruWalk t ok h (2 * i + (1 - b))

/-- The victim way of a set. -/
def plruVictim (t : Nat) (ok : Nat → Bool) : Nat := plruWalk t ok 4 1

/-- The bits after a use of way `w`: every node on its path points away from it. -/
def plruTouch (t w : Nat) : Nat :=
  let l := 16 + w
  [8, 4, 2, 1].foldl (fun t k => setBit t (l / (2 * k)) (decide (l / k % 2 = 0))) t

/-! ### Addresses (R295, R296) -/

/-- The device physical address of a device line. -/
def dpaOf (line : Nat) : Nat := line * 64 % 2 ^ 52

/-- Whether a line is a device line (07 R243). -/
def isDev (line : Nat) : Bool := bit line 46

/-- The logical column of a DPA (R296). -/
def colOfDpa (dpa : Nat) : Nat :=
  let g := dpa / 256
  let r := g / 384
  let k := g % 384
  let h := (bits r 8 0 ^^^ bits r 17 9 ^^^ bits r 22 18) % 384
  (k + h) % 384

/-- The physical channel of a DPA. Where a granule of a column that is mapped out lies is internal to the device, on some column in service (R313): a
free value. -/
def State.chanOf (s : State) (dpa : Nat) : Nat :=
  let c := colOfDpa dpa
  if s.g CMAP.STATE c = 2 then
    let on := (List.range 384).filter fun e => decide (s.g CMAP.STATE e ≠ 2)
    s.g CMAP.CHANNEL (on.getD (Config.refuge (dpa / 256) % on.length) 0)
  else s.g CMAP.CHANNEL c

/-- The stack, and so the controller, of a DPA. -/
def State.stackOf (s : State) (dpa : Nat) : Nat := s.chanOf dpa / 32

/-- Channels of a stack that are mapped out. -/
def State.outOf (s : State) (st : Nat) : Nat :=
  ((List.range 384).filter fun e => decide (s.g CMAP.STATE e = 2) && decide (s.g CMAP.CHANNEL e / 32 = st)).length

/-! ### Frames (R309) -/

/-- Partition + 1 of a frame's owner; 0 for a frame of no partition. -/
def State.frameOwner (s : State) (f : Nat) : Nat := tget (fun _ => 0) s.dmem.owner f

def State.setOwner (s : State) (f v : Nat) : State :=
  { s with dmem := { s.dmem with owner := tset (fun _ => 0) s.dmem.owner f v } }

/-- Frames in use by a partition. -/
def State.framesUsed (s : State) (p : Nat) : Nat := (s.dmem.owner.filter fun e => decide (e.2 = p + 1)).length

/-- The lowest free frame, the network frame left out; the frames above every listed one are free. -/
def State.freeFrame (s : State) : Option Nat :=
  let n := s.dmem.owner.length + 2
  (List.range n).find? fun f => decide (0 < f) && decide (f < s.dmem.cap) && decide (s.frameOwner f = 0)

/-- A frame taken for partition `p`: none where its share has no room (R309). -/
def State.allocFrame (s : State) (p : Nat) : Option (Nat × State) :=
  if s.framesUsed p < s.g MEM_PART.TOTAL p - s.g MEM_PART.CUT p then
    match s.freeFrame with
    | some f => some (f, s.setOwner f (p + 1))
    | none => none
  else none

def State.releaseFrame (s : State) (f : Nat) : State := s.setOwner f 0

/-- The partition charged for a DPA (R311): the owner of its frame, 0xF for management traffic. -/
def State.chargedTo (s : State) (dpa : Nat) : Nat :=
  match s.frameOwner (dpa / 2 ^ 21) with
  | 0 => 0xF
  | p + 1 => p

/-! ### Regulators (R310, R311) -/

/-- The transfers of a pass over a frame, charged to a partition or to management (R311). -/
def State.chargeFrame (s : State) (p f : Nat) : State :=
  (List.range 8192).foldl (fun s k => s.charge p (s.stackOf (f * 2 ^ 21 + 256 * k)) 4) s

/-- The guaranteed share of a partition on a stack; 8 steps for management. Stacks 12 and 13 are the host link's two directions. -/
def State.guar (s : State) (p st : Nat) : Nat :=
  if p = 0xF then 8 else if 12 ≤ st then s.g REG_LINK.GUAR p else s.g REG_STACK.GUAR (p * 12 + st)

def State.ceil (s : State) (p st : Nat) : Nat :=
  if p = 0xF then 256 else if 12 ≤ st then s.g REG_LINK.CEIL p else s.g REG_STACK.CEIL (p * 12 + st)

/-- U: bytes per step and µs. -/
def State.stepBytes (s : State) (st : Nat) : Nat :=
  if 12 ≤ st then 1000 * s.link.modules.length else 300 * (32 - s.outOf st)

/-! ### The stacks (R294, R298, R299) -/

/-- A word that reads uncorrected: marked so, on a channel that does not respond, or lost with its column and not written since. -/
def State.badWord (s : State) (w : Nat) : Bool :=
  let d := s.dmem
  decide (w ∈ d.bad) || (decide (d.down ≠ []) && decide (s.chanOf (8 * w) ∈ d.down))
    || (decide (colOfDpa (8 * w) ∈ d.lost) && !decide (w ∈ d.healed) && !decide (8 * w / 2 ^ 21 ∈ d.healedF))

/-- The words of a line that read uncorrected, outside the bytes of `mask`. -/
def State.badWords (s : State) (line mask : Nat) : List Nat :=
  (List.range 8).filter fun i => decide (bits mask (8 * i + 7) (8 * i) ≠ 255) && s.badWord (dpaOf line / 8 + i)

/-- A line's bytes in the stacks. -/
def State.stackRead (s : State) (line : Nat) : Bytes := s.dmem.dram.read (dpaOf line) 64

/-- `old` with the bytes of `new` that `mask` enables. -/
def maskMerge (mask : Nat) (old new : Bytes) : Bytes :=
  (List.range 64).map fun i => if bit mask i then new.getD i 0 else old.getD i 0

/-- All 64 bytes. -/
def fullMask : Nat := 2 ^ 64 - 1

/-- A write into the stacks: a word all of whose bytes are written becomes correct again (R299). -/
def State.stackWrite (s : State) (line mask : Nat) (data : Bytes) : State :=
  let d := s.dmem
  let bytes := maskMerge mask (s.stackRead line) data
  let base := dpaOf line / 8
  let fresh (w : Nat) : Bool := decide (base ≤ w) && decide (w < base + 8) && decide (bits mask (8 * (w - base) + 7) (8 * (w - base)) = 255)
  let heal := if colOfDpa (dpaOf line) ∈ d.lost then ((List.range 8).map (· + base)).filter fresh else []
  { s with dmem := { d with dram := d.dram.write (dpaOf line) bytes, bad := d.bad.filter fun w => !fresh w, healed := d.healed ++ heal } }

/-! ### Write-combining buffers (R301 to R303) -/

/-- A reader has met an uncorrected word at a DPA (R298): counted for its channel, and a UC event of the slot served. -/
def State.readUc (s : State) (dpa slot : Nat) : State :=
  let ch := s.chanOf dpa
  (s.bump MC_CHAN.UC ch).raise { source := srcId 4 (ch / 32) (32 + ch % 32), info0 := dpa, slot := slot, part := (s.partOf slot).getD 0xF }

/-- Words that a flush or a copy reads uncorrected are logged; nobody consumes them (R298). -/
def State.readUcs (s : State) (ws : List Nat) : State := ws.foldl (fun s w => s.readUc (8 * w) noSlot) s

/-- An entry is flushed: a full line as it stands, a partial one read and merged; the transfers are charged. Words of it that read uncorrected stay so, and are
logged (R298). -/
def State.wcbFlush (s : State) (e : WcbEnt) : State :=
  let s : State := { s with dmem := { s.dmem with wcb := s.dmem.wcb.filter fun x => decide (x.line ≠ e.line) } }
  let s := if e.mask = fullMask then s else s.readUcs ((s.badWords e.line e.mask).map (· + dpaOf e.line / 8))
  let s := s.charge e.part (s.stackOf (dpaOf e.line)) (if e.mask = fullMask then 1 else 2)
  s.stackWrite e.line e.mask e.data

/-- Every entry that satisfies `p` is flushed (a fence, R303). -/
def State.wcbFence (s : State) (p : WcbEnt → Bool) : State := (s.dmem.wcb.filter p).foldl State.wcbFlush s

/-- A write into the buffer: merged into the line's entry, or a new entry, the oldest of a full buffer flushed first. -/
def State.wcbWrite (s : State) (line mask : Nat) (data : Bytes) : State :=
  let c := s.stackOf (dpaOf line)
  if s.dmem.wcb.any (fun e => decide (e.line = line)) then
    { s with dmem := { s.dmem with wcb := s.dmem.wcb.map fun e =>
        if e.line = line then { e with data := maskMerge mask e.data data, mask := e.mask ||| mask, last := s.time } else e } }
  else
    let mine := s.dmem.wcb.filter fun e => decide (s.stackOf (dpaOf e.line) = c)
    let s := match mine with
      | e :: _ => if 64 ≤ mine.length then s.wcbFlush e else s
      | [] => s
    { s with dmem := { s.dmem with wcb := s.dmem.wcb ++ [⟨line, maskMerge mask (zeros 64) data, mask, s.chargedTo (dpaOf line), s.time⟩] } }

/-! ### The reserve (R304 to R308) -/

/-- The reserve's set of a line. -/
def resSet (line : Nat) : Nat :=
  let d := dpaOf line
  bits d 21 6 ^^^ bits d 37 22 ^^^ bits d 39 38

/-- No line. -/
def noRes : Nat → ResLine := fun _ => { way := 0, data := [] }

/-- The reserve's copy of a line; its way is 1 to 16, 0 for none. -/
def State.resLine (s : State) (line : Nat) : ResLine := tget noRes s.dmem.res line

def State.setRes (s : State) (line : Nat) (r : ResLine) : State :=
  { s with dmem := { s.dmem with res := tset noRes s.dmem.res line r } }

/-- A line leaves the reserve; a dirty one enters the write-combining buffer. -/
def State.resDrop (s : State) (line : Nat) : State :=
  let r := s.resLine line
  let s := s.setRes line (noRes 0)
  if r.way ≠ 0 ∧ r.dirty then s.wcbWrite line fullMask r.data else s

/-- The reserve's class of a slot's transfers (R305), when it is a priority slot. -/
def State.slotClass (s : State) (n : Nat) : Option Nat :=
  [4, 5, 6, 7].find? fun k => s.gb RES_CLASS.SLOT_VALID k && decide (s.g RES_CLASS.SLOT k = n)

/-- A use of a line of the reserve: replacement bits, the access's own hint; ways 14 and 15 hold no protected line (R306). -/
def State.resTouch (s : State) (line : Nat) (cls : Option Nat) : State :=
  let r := s.resLine line
  let t := tget (fun _ => 0) s.dmem.resPlru (resSet line)
  let d := s.dmem
  let s : State := { s with dmem := { d with resPlru := tset (fun _ => 0) d.resPlru (resSet line) (plruTouch t (r.way - 1)),
                                             resUse := d.resUse + 1 } }
  let r := { r with used := s.dmem.resUse }
  match cls with
  | none => s.setRes line r
  | some k =>
    match s.g RES_CLASS.HINT k with
    | 1 => s.setRes line (if r.way ≤ 14 then { r with prot := some k } else r)
    | 2 => s.setRes line { r with count := some (max 1 (s.g RES_CLASS.COUNT k)) }
    | _ => s.setRes line r

/-- The way in which a line of class `k` is placed, and the line it displaces (R306): a free one, an unprotected one, or the class's least recently used
protected line. Where the ways of the class's `MASK` are full of other classes' protected lines, the least recently used of those (log entry 88). -/
def State.resPlace (s : State) (line k : Nat) : Option (Nat × Option Nat) :=
  let inSet := s.dmem.res.filter fun e => decide (resSet e.1 = resSet line)
  let at' (w : Nat) : Option (Nat × ResLine) := inSet.find? fun e => decide (e.2.way = w + 1)
  let keep := decide (s.g RES_CLASS.HINT k = 1)
  let ways := if keep then setBitsOf 16 (s.g RES_CLASS.MASK k) else List.range 16
  match ways.find? (fun w => (at' w).isNone) with
  | some w => some (w, none)
  | none =>
    let free (w : Nat) : Bool := decide (w ∈ ways) && (match at' w with | some e => decide (e.2.prot = none) | none => true)
    if ways.any free then
      let w := plruVictim (tget (fun _ => 0) s.dmem.resPlru (resSet line)) free
      some (w, (at' w).map (·.1))
    else
      let here := inSet.filter fun e => decide (e.2.way - 1 ∈ ways)
      let mine := here.filter fun e => decide (e.2.prot = some k)
      match (if mine = [] then here else mine) with
      | [] => none
      | e :: es =>
        let v := es.foldl (fun a b => if b.2.used < a.2.used then b else a) e
        some (v.2.way - 1, some v.1)

/-- A line is allocated for class `k`; its write-combining entry merges into it (R303). -/
def State.resAlloc (s : State) (line k : Nat) (data : Bytes) (dirty : Bool) : State :=
  match s.resPlace line k with
  | none => if dirty then s.wcbWrite line fullMask data else s
  | some (w, v) =>
    let s := match v with | some x => s.resDrop x | none => s
    let merged := s.dmem.wcb.any fun e => decide (e.line = line)
    let s : State := { s with dmem := { s.dmem with wcb := s.dmem.wcb.filter fun e => decide (e.line ≠ line) } }
    let s := s.setRes line { way := w + 1, data := data, dirty := dirty || merged, part := s.chargedTo (dpaOf line) }
    s.resTouch line (some k)

/-- Whether class `k` allocates now: its hint is not `STREAM` and the reserve is enabled. -/
def State.resUses (s : State) (cls : Option Nat) : Option Nat :=
  match cls with
  | some k => if s.g RES_STATUS.STATE = 1 ∧ s.g RES_CLASS.HINT k ≠ 0 then some k else none
  | none => none

/-- A read of a device line (R302, R304, R306): its bytes, and whether it is uncorrected. The read that sets a count is counted by it, and an uncorrected
one is not allocated (log entries 110, 111). -/
def State.memRead (s : State) (line : Nat) (cls : Option Nat) : Bytes × Bool × State :=
  let r := s.resLine line
  if r.way ≠ 0 then
    let s := s.resTouch line cls
    let r2 := s.resLine line
    let s := match r2.count with
      | some n => if n ≤ 1 then s.resDrop line else s.setRes line { r2 with count := some (n - 1) }
      | none => s
    (r.data, false, s)
  else
    let e := s.dmem.wcb.find? fun e => decide (e.line = line)
    let mask := (e.map (·.mask)).getD 0
    let data := maskMerge mask (s.stackRead line) ((e.map (·.data)).getD [])
    let err := decide (s.badWords line mask ≠ [])
    let s := if mask = fullMask then s else s.charge (s.chargedTo (dpaOf line)) (s.stackOf (dpaOf line)) 1
    match err, s.resUses cls with
    | false, some k => (data, false, s.resAlloc line k data false)
    | e, _ => (data, e, s)

/-- A write of a device line under a mask (R301, R304, R306). One that misses and leaves a bad word of the line is not allocated: it goes to the
write-combining buffer (log entry 111). -/
def State.memWrite (s : State) (line mask : Nat) (data : Bytes) (cls : Option Nat := none) : State :=
  let r := s.resLine line
  if r.way ≠ 0 then
    (s.setRes line { r with data := maskMerge mask r.data data, dirty := true }).resTouch line cls
  else
    match s.resUses cls with
    | some k =>
      let e := s.dmem.wcb.find? fun e => decide (e.line = line)
      let m := (e.map (·.mask)).getD 0 ||| mask
      if s.badWords line m ≠ [] then s.wcbWrite line mask data
      else
        let old := maskMerge ((e.map (·.mask)).getD 0) (s.stackRead line) ((e.map (·.data)).getD [])
        -- what the allocation reads of the stack is charged (R311)
        let s := if m = fullMask then s else s.charge (s.chargedTo (dpaOf line)) (s.stackOf (dpaOf line)) 1
        s.resAlloc line k (maskMerge mask old data) true
    | none => s.wcbWrite line mask data

/-- Every dirty line is written back and kept clean (`FLUSH`, R308): straight to the stack, since a line is never in both buffers. -/
def State.resFlush (s : State) : State :=
  s.dmem.res.foldl (fun s e =>
    if e.2.dirty then
      ((s.setRes e.1 { e.2 with dirty := false }).charge (s.chargedTo (dpaOf e.1)) (s.stackOf (dpaOf e.1)) 1).stackWrite e.1 fullMask e.2.data
    else s) s

/-- A wipe of the frames that satisfy `p`: every buffered write is flushed first, nothing of them stays in the reserve, their bytes read
0 and correct (R303, R308, 13 R465); their lost lines are lost no longer (07 R283). -/
def State.wipeFrames (s : State) (p : Nat → Bool) (all : Bool) : State :=
  let inF (dpa : Nat) : Bool := p (dpa / 2 ^ 21)
  let s := s.wcbFence fun e => all || inF (dpaOf e.line)
  let d := s.dmem
  { s with
    coh := { s.coh with cat := s.coh.cat.filter fun e => !(e.2.lost && isDev e.1 && inF (dpaOf e.1)) },
    dmem := { d with
      dram := d.dram.filter fun c => !inF c.1,
      bad := d.bad.filter fun w => !inF (8 * w),
      lost := if all then [] else d.lost,
      healed := if all ∨ d.lost = [] then [] else d.healed,
      healedF := if all ∨ d.lost = [] then [] else d.healedF ++ (d.owner.map (·.1)).filter p,
      res := tdrop (fun l => inF (dpaOf l)) d.res } }

end Sys2Proof.Machine
end

