-- ==== Sys2Proof/Machine/Cache.lean ====
section
/-!
DEFINITION. The wing caches (07 R251 to R258, R273 to R282): regions, lines, replacement, the eviction buffer, requests, snoops.
-/
namespace Sys2Proof.Machine

/-- The home slice of a line (R244). -/
def homeOf (l : Nat) : Nat :=
  bits l 5 0 ^^^ bits l 11 6 ^^^ bits l 17 12 ^^^ bits l 23 18 ^^^ bits l 29 24 ^^^ bits l 35 30 ^^^ bits l 41 36 ^^^ bits l 46 42

/-- The set of a wing cache in which a line lies (R273). -/
def wsetOf (l : Nat) : Nat := bits l 11 0 ^^^ bits l 23 12 ^^^ bits l 35 24

/-- A message enters the fabric. -/
def State.send (s : State) (m : Msg) : State := { s with net := s.net ++ [m] }

/-- The first message like `m` leaves the fabric: same opcode, ends, number and line. -/
def State.unsend (s : State) (opc src dst txn ca : Nat) : State :=
  { s with net := s.net.eraseP fun x => decide (x.opc = opc ∧ x.src = src ∧ x.dst = dst ∧ x.txn = txn ∧ x.ca = ca) }

/-- Cache_Enable (06 R211). -/
def State.cacheEn (s : State) : Bool := (s.fn 0).cacheEn

/-! ### Regions (R272, R274, R275) -/

/-- The first region entry that matches a line. -/
def State.ratOf (s : State) (l : Nat) : Option Nat :=
  (List.range 16).find? fun k =>
    s.gb RAT_ATTR.VALID k && decide (s.g RAT_BASE.ADDR k ≤ l / 64) && decide (l / 64 ≤ s.g RAT_LIMIT.ADDR k)

/-- The policy of a line: 0 write-back, 1 write-through, 2 write-around, 3 uncached; host lines are uncached while Cache_Enable is 0. -/
def State.policyOf (s : State) (l : Nat) : Nat :=
  if !isDev l && !s.cacheEn then 3
  else match s.ratOf l with | some k => s.g RAT_ATTR.POLICY k | none => 0

/-- Prefetch into a line's region is allowed. -/
def State.pfAllowed (s : State) (l : Nat) : Bool :=
  decide (s.policyOf l ≠ 3) && (match s.ratOf l with | some k => !s.gb RAT_ATTR.NOPF k | none => true)

/-! ### Lines -/

def noWLine : Nat → WLine := fun _ => { st := 0, way := 0, data := [] }

def State.wline (s : State) (w l : Nat) : WLine := tget noWLine (s.wing w).lines l

def State.setWline (s : State) (w l : Nat) (x : WLine) : State :=
  let g := s.wing w
  s.setWing w { g with lines := tset noWLine g.lines l x }

/-- The lines that satisfy `p` leave a wing's cache with their data. -/
def State.dropWLines (s : State) (w : Nat) (p : Nat → Bool) : State :=
  let g := s.wing w
  s.setWing w { g with lines := tdrop p g.lines }

/-- A wing cache accepts lines: `ENABLED`, or waiting for its walk (R280, R290). -/
def State.wOn (s : State) (w : Nat) : Bool :=
  decide (s.g WING_CACHE_STATUS.STATE w = 1) || decide (s.g WING_CACHE_STATUS.STATE w = 2)

/-- The eviction-buffer entry of a line. -/
def State.ebOf (s : State) (w l : Nat) : Option EbEnt := (s.wing w).eb.find? fun e => decide (e.line = l)

def State.ebDrop (s : State) (w l : Nat) : State :=
  let g := s.wing w
  s.setWing w { g with eb := g.eb.filter fun e => decide (e.line ≠ l) }

/-- The write-back of an unsent entry is cancelled (R278). -/
def State.ebCancel (s : State) (w l : Nat) : State :=
  ((s.ebDrop w l).unsend 0x08 w (0x40 + homeOf l) 0 l).unsend 0x09 w (0x40 + homeOf l) 0 l

/-- A line leaves the cache (R255, R277): S silently, E, O and M through the eviction buffer. -/
def State.evictLine (s : State) (w l : Nat) : State :=
  let x := s.wline w l
  let s := s.setWline w l (noWLine 0)
  if x.st ≤ 1 then s
  else
    let g := s.wing w
    let s := s.setWing w { g with eb := g.eb ++ [{ line := l, st := x.st, data := x.data, fn := x.fn }] }
    s.send { opc := if x.st = 2 then 0x09 else 0x08, src := w, dst := 0x40 + homeOf l, ca := l, dirty := decide (x.st ≠ 2), data := x.data }

/-- The ways of a set that outstanding requests of the wing have reserved. -/
def State.waysReserved (s : State) (w l : Nat) : List Nat :=
  (s.coh.txns.filter fun t => decide (t.agent = w) && decide (t.opc ≤ 2) && decide (wsetOf t.line = wsetOf l)).map (·.way)

/-- A way for a line, and the line it displaces (R273): invalid ways first, lowest first, then by the replacement tree; none while every
way is reserved. -/
def State.pickWay (s : State) (w l : Nat) : Option (Nat × Option Nat) :=
  let g := s.wing w
  let here := g.lines.filter fun e => decide (wsetOf e.1 = wsetOf l)
  let rsv := s.waysReserved w l
  let free (k : Nat) : Bool := !decide (k ∈ rsv)
  match (List.range 16).find? fun k => free k && !(here.any fun e => decide (e.2.way = k)) with
  | some k => some (k, none)
  | none =>
    if (List.range 16).any free then
      let k := plruVictim (tget (fun _ => 0) g.plru (wsetOf l)) free
      some (k, (here.find? fun e => decide (e.2.way = k)).map (·.1))
    else none

/-- A use of a line for replacement. -/
def State.wTouch (s : State) (w l way : Nat) : State :=
  let g := s.wing w
  let t := tget (fun _ => 0) g.plru (wsetOf l)
  s.setWing w { g with plru := tset (fun _ => 0) g.plru (wsetOf l) (plruTouch t way) }

/-- A line installed for function `f`. -/
def State.wInstall (s : State) (w l st way : Nat) (data : Bytes) (f : Nat) : State := (s.setWline w l ⟨st, way, data, f⟩).wTouch w l way

/-! ### Requests (R253, R255, R261) -/

/-- The lowest transaction number an agent has free. -/
def State.newTxn (s : State) (agent : Nat) : Option Nat :=
  let used := (s.coh.txns.filter fun t => decide (t.agent = agent)).map (·.txn)
  (List.range 256).find? fun n => !decide (n ∈ used)

def State.addTxn (s : State) (t : Txn) : State := { s with coh := { s.coh with txns := s.coh.txns ++ [t] } }

/-- The message of a transaction's request. -/
def Txn.msg (t : Txn) : Msg :=
  { opc := t.opc, src := t.agent, dst := 0x40 + homeOf t.line, txn := t.txn, ca := t.line, wing := t.wing, mask := t.mask, data := t.bytes,
    count := t.nacks }

/-- A request leaves an agent; nothing while the agent has no free number. -/
def State.request (s : State) (t : Txn) : State :=
  match s.newTxn t.agent with
  | some n => let t := { t with txn := n }; (s.addTxn t).send (Txn.msg t)
  | none => s

/-- An agent's own request for a line that is under way and fills the cache. -/
def State.filling (s : State) (w l : Nat) : Bool :=
  s.coh.txns.any fun t => decide (t.agent = w) && decide (t.line = l) && decide (t.who = none)

/-- A miss that installs a line: a way is made free and the request sent; it waits (no request) while no way or no eviction-buffer entry is
free. -/
def State.fillMiss (s : State) (w l opc slot ep : Nat) (prefetch : Bool) : State :=
  let x := s.wline w l
  let req (s : State) (way : Nat) : State :=
    s.request { opc := opc, agent := w, txn := 0, line := l, way := way, slot := slot, prefetch := prefetch, epoch := ep }
  if (s.newTxn w).isNone then s
  else if x.st ≠ 0 then req s x.way
  else
    match s.pickWay w l with
    | none => s
    | some (k, none) => req s k
    | some (k, some v) =>
      let st := (s.wline w v).st
      if prefetch ∧ 3 ≤ st then s
      else if 2 ≤ st ∧ 32 ≤ (s.wing w).eb.length then s
      else req (s.evictLine w v) k

/-- The next-line prefetch after a demand read miss (R276). -/
def State.prefetch (s : State) (w l slot ep : Nat) : State :=
  let n := l + 1
  if s.gb WING_CACHE_CTL.PF_EN w ∧ n % 64 ≠ 0 ∧ s.pfAllowed n ∧ (s.wline w n).st = 0 ∧ s.ebOf w n = none ∧ ¬ s.filling w n then
    let k := s.coh.txns.length
    let s := s.fillMiss w n 0x01 slot ep true
    if s.coh.txns.length = k then s else s.wrap WING_CACHE_PF.COUNT w
  else s

/-- `n` bytes at offset `off` of a line as a mask. -/
def byteMask (off n : Nat) : Nat := (2 ^ n - 1) * 2 ^ off

/-- A line with bytes written. -/
def lineWrite (line : Bytes) (off : Nat) (bs : Bytes) : Bytes := patch (slice line 0 64) off bs

/-- The answer of an access: served with the line's bytes, a fill requested for it, a request out that it waits for, or no room for one yet. -/
inductive Acc where
  | served (line : Bytes)
  | sent
  | wait
  | retry
deriving DecidableEq, Repr

/-- Who asks: physical carrel, tag, piece and slot, with the epoch of the translation. -/
structure Asker where
  p : Nat
  tag : Nat
  piece : Piece
  slot : Nat
  epoch : Nat := 0
deriving DecidableEq, Repr

/-- An access that bypasses the cache (R267, R275, R280): `RD_ONCE`, `WR_NA` or `WR_NA_PART`, or `WR_THRU`. -/
def State.bypass (s : State) (w l opc : Nat) (a : Asker) (off : Nat) (bs : Bytes) : Acc × State :=
  if (s.newTxn w).isNone then (.retry, s)
  else
    (.wait, s.request { opc := opc, agent := w, txn := 0, line := l, slot := a.slot, who := some (a.p, a.tag, a.piece), off := off,
                        bytes := lineWrite (zeros 64) off bs, mask := byteMask off bs.length, epoch := a.epoch })

/-- A mover access that sent a request (R291); an access that sends a second one is not counted again. -/
def State.missed (s : State) (w : Nat) (a : Asker) : State := if a.piece.miss then s else s.wrap WING_CACHE_MISSES.COUNT w

/-- A mover access served by the cache or the eviction buffer, unless it has missed before. -/
def State.hitIn (s : State) (w : Nat) (a : Asker) : State := if a.piece.miss then s else s.wrap WING_CACHE_HITS.COUNT w

/-- A bypassing access, counted when its request is sent. -/
def State.bypassed (s : State) (w l opc : Nat) (a : Asker) (off : Nat) (bs : Bytes) : Acc × State :=
  match s.bypass w l opc a off bs with
  | (.wait, s) => (.wait, s.missed w a)
  | r => r

/-- A miss that waits for a fill: one request per line. -/
def State.fillFor (s : State) (w l opc : Nat) (a : Asker) : Acc × State :=
  if s.filling w l then (.wait, s)
  else
    let k := s.coh.txns.length
    let s := s.fillMiss w l opc a.slot a.epoch false
    if s.coh.txns.length = k then (.retry, s) else (.sent, s.missed w a)

/-- A demand read that misses: its fill, and the prefetch that follows it (R276). -/
def State.readMiss (s : State) (w l : Nat) (a : Asker) : Acc × State :=
  match s.fillFor w l 0x01 a with
  | (.sent, s) => (.sent, s.prefetch w l a.slot a.epoch)
  | r => r

/-- A write that leaves the line's copies to the home: the whole line or a part. -/
def State.writeNa (s : State) (w l : Nat) (a : Asker) (off : Nat) (bs : Bytes) : Acc × State :=
  s.bypassed w l (if bs.length = 64 then 0x04 else 0x05) a off bs

/-- An unsent entry goes back into the cache in state `st` (R278): its write-back is cancelled. -/
def State.ebReinstall (s : State) (w l st : Nat) (data : Bytes) (f : Nat) : State :=
  match s.pickWay w l with
  | some (k, v) =>
    let s := s.ebCancel w l
    let s := match v with | some v => s.evictLine w v | none => s
    s.wInstall w l st k data f
  | none => s

/-- A mover's read of a line (R255, R275, R278); one that finds it in the eviction buffer waits for a way to install it in. -/
def State.wRead (s : State) (w l : Nat) (a : Asker) (off0 : Nat) : Acc × State :=
  let x := s.wline w l
  if s.policyOf l = 3 then s.bypassed w l 0x03 a off0 []
  else if x.st ≠ 0 then (.served x.data, (s.wTouch w l x.way).hitIn w a)
  else match s.ebOf w l with
    | some e =>
      if e.sent then s.readMiss w l a
      else if (s.pickWay w l).isNone then (.retry, s)
      else (.served e.data, (s.ebReinstall w l e.st e.data e.fn).hitIn w a)
    | none => s.readMiss w l a

/-- A mover's write of a line (R255, R269, R275, R278). A line that the wing holds in O is written only after `RD_OWN`, in the cache and in
the eviction buffer alike (R251): from the buffer it first goes back into the cache in O, its write-back cancelled. -/
def State.wWrite (s : State) (w l : Nat) (a : Asker) (off : Nat) (bs : Bytes) : Acc × State :=
  let x := s.wline w l
  let f := s.fnOf a.slot
  match s.policyOf l with
  | 0 =>
    if x.st = 2 ∨ x.st = 4 then
      let d := lineWrite x.data off bs
      (.served d, ((s.setWline w l ⟨4, x.way, d, f⟩).wTouch w l x.way).hitIn w a)
    else match s.ebOf w l with
      | some e =>
        if e.sent ∨ (s.pickWay w l).isNone then s.fillFor w l 0x02 a
        else if e.st = 3 then (s.ebReinstall w l 3 e.data e.fn).fillFor w l 0x02 a
        else
          let d := lineWrite e.data off bs
          (.served d, (s.ebReinstall w l 4 d f).hitIn w a)
      | none => s.fillFor w l 0x02 a
  | 1 => if isDev l then s.bypassed w l 0x06 a off bs else s.writeNa w l a off bs
  | _ => s.writeNa w l a off bs

/-- A mover's access to a line at byte `off0`: `wr` is the offset and bytes of a write. While the cache is not in service every access bypasses it, after
a dirty copy it still holds has been written back (R280). -/
def State.wAccess (s : State) (w l : Nat) (a : Asker) (off0 : Nat) (wr : Option (Nat × Bytes)) :
    Acc × State :=
  if s.wOn w then
    match wr with
    | none => s.wRead w l a off0
    | some (off, bs) => s.wWrite w l a off bs
  else if 3 ≤ (s.wline w l).st then
    (.retry, if (s.wing w).eb.length < 32 then s.evictLine w l else s)
  else if (match s.ebOf w l with | some e => decide (3 ≤ e.st) | none => false) then (.retry, s)
  else match wr with
    | none => s.bypassed w l 0x03 a off0 []
    | some (off, bs) => s.writeNa w l a off bs

/-! ### Snoops (R256, R257, R278) -/

/-- The answer to a snoop: 0 no copy, 1 S kept without data, 2 data sent; the state kept (0 I, 1 S, 2 O, 3 unchanged); the data, whether it
is newer than memory, whether its write-back is already sent. -/
structure SnRsp where
  kind : Nat := 0
  st : Nat := 0
  data : Bytes := []
  dirty : Bool := false
  ebWb : Bool := false
deriving DecidableEq, Repr

/-- What a cache answers from a line in state `st` (R256), with the state it keeps. Opcodes 0x40 to 0x44. -/
def snoopRule (opc st : Nat) (data : Bytes) : SnRsp × Nat :=
  match st, opc with
  | 0, _ => ({}, 0)
  | 1, 0x42 => ({}, 0) | 1, 0x44 => ({}, 0) | 1, _ => ({ kind := 1 }, 1)
  | 2, 0x40 => ({ kind := 2, st := 1, data := data }, 1)
  | 2, 0x41 => ({ kind := 1 }, 1)
  | 2, 0x42 => ({ kind := 2, st := 0, data := data }, 0)
  | 2, 0x43 => ({ kind := 2, st := 3, data := data }, 2)
  | 2, _ => ({}, 0)
  | n, 0x40 => ({ kind := 2, st := 2, data := data, dirty := true }, if n = 0 then 0 else 3)
  | _, 0x41 => ({ kind := 2, st := 1, data := data, dirty := true }, 1)
  | _, 0x42 => ({ kind := 2, st := 0, data := data, dirty := true }, 0)
  | n, 0x43 => ({ kind := 2, st := if n = 3 then 2 else 3, data := data, dirty := true }, n)
  | _, _ => ({ kind := 2, st := 0, data := data, dirty := true }, 0)

/-- What the eviction buffer answers (R278), and whether the entry stays, in which state: an unsent one in O after `SN_SHARE`. -/
def ebRule (opc : Nat) (e : EbEnt) : SnRsp × Option Nat :=
  let d := decide (e.st ≠ 2)
  if e.sent then
    if e.st = 2 ∧ (opc = 0x41 ∨ opc = 0x44) then ({}, some e.st)
    else ({ kind := 2, st := 0, data := e.data, dirty := d, ebWb := true }, some e.st)
  else match opc with
    | 0x40 => ({ kind := 2, st := 2, data := e.data, dirty := d }, some 3)
    | 0x43 => ({ kind := 2, st := 3, data := e.data, dirty := d }, some e.st)
    | 0x42 => ({ kind := 2, st := 0, data := e.data, dirty := d }, none)
    | _ => if d then ({ kind := 2, st := 0, data := e.data, dirty := true }, none) else ({}, none)

/-- One wing's answer to a snoop; for a cache that has failed the die's bridge answers `RS_I` (R284). -/
def State.snoopWing (s : State) (w l opc : Nat) : SnRsp × State :=
  if s.g WING_CACHE_STATUS.STATE w = 5 then ({}, s) else
  let s := s.wrap WING_CACHE_SNOOPS.COUNT w
  match s.ebOf w l with
  | some e =>
    let s := s.wrap WING_CACHE_EB_HITS.COUNT w
    match ebRule opc e with
    | (r, none) => (r, s.ebCancel w l)
    | (r, some st) =>
      let g := s.wing w
      let s := s.setWing w { g with eb := g.eb.map fun x => if x.line = l then { x with st := st } else x }
      -- an E line kept in O leaves as WB_DIRTY
      (r, if st = 3 ∧ e.st = 2 then
          (s.unsend 0x09 w (0x40 + homeOf l) 0 l).send { opc := 0x08, src := w, dst := 0x40 + homeOf l, ca := l, dirty := true, data := e.data }
        else s)
  | none =>
    let x := s.wline w l
    match snoopRule opc x.st x.data with
    | (r, 0) => (r, s.setWline w l (noWLine 0))
    | (r, st) => (r, s.setWline w l { x with st := st })

/-- The stronger of two answers. -/
def SnRsp.max (a b : SnRsp) : SnRsp := if a.kind < b.kind then b else a

/-- The combined answer of a die's four wings (R254), wing `skip` − 1 left out. -/
def State.snoopDie (s : State) (d l opc skip : Nat) : SnRsp × State :=
  ((List.range 4).filter fun k => decide (4 * d + k + 1 ≠ skip)).foldl
    (fun a k => let r := a.2.snoopWing (4 * d + k) l opc; (SnRsp.max a.1 r.1, r.2)) ({}, s)

/-! ### The disable walk (R280, R284) -/

/-- The walk goes on: S lines are dropped, other lines enter the eviction buffer while it has room. -/
def State.walkWing (s : State) (w : Nat) : State :=
  (s.wing w).lines.foldl (fun s e =>
    if e.2.st ≤ 1 then s.setWline w e.1 (noWLine 0)
    else if (s.wing w).eb.length < 32 then s.evictLine w e.1 else s) s

end Sys2Proof.Machine
end

