-- ==== Sys2Proof/Machine/Home.lean ====
section
/-!
DEFINITION. The home slices (07 R245 to R250, R259 to R272, R282, R283), the call-slip engine as a caching agent (05 R165, R170, 07 R271), and what
a requester does with grants and data.
-/
namespace Sys2Proof.Machine

/-! ### The catalogue (R246 to R248) -/

def noCat : Nat → CatEnt := fun _ => {}

/-- The catalogue's entry of a line; its way is 0 where there is none. -/
def State.ent (s : State) (l : Nat) : CatEnt := tget noCat s.coh.cat l

def State.setEnt (s : State) (l : Nat) (e : CatEnt) : State := { s with coh := { s.coh with cat := tset noCat s.coh.cat l e } }

def State.freeEnt (s : State) (l : Nat) : State := s.setEnt l {}

/-- The catalogue set of a line (R246). -/
def catSet (l : Nat) : Nat := bits l 12 0 ^^^ bits l 25 13 ^^^ bits l 38 26 ^^^ bits l 46 39

/-- The entries of a line's set. -/
def State.catRow (s : State) (l : Nat) : Tab CatEnt :=
  s.coh.cat.filter fun e => decide (homeOf e.1 = homeOf l) && decide (catSet e.1 = catSet l)

/-- A home transaction runs on the line (R245). -/
def State.transient (s : State) (l : Nat) : Bool := s.coh.homes.any fun h => decide (h.line = l) && !h.parked

/-- Number of set bits below 8. -/
def pop8 (m : Nat) : Nat := (setBitsOf 8 m).length

/-- Where a new entry goes: a free way, lowest first, or the victim of R248; none when every way is transient or `LOST`. -/
def State.catPlace (s : State) (l : Nat) : Option (Nat × Option Nat) :=
  let row := s.catRow l
  match (List.range 16).find? fun k => !(row.any fun e => decide (e.2.way = k + 1)) with
  | some k => some (k + 1, none)
  | none =>
    let c := row.filter fun e => !s.transient e.1 && !e.2.lost
    match c with
    | [] => none
    | e :: es =>
      let v := es.foldl (fun a b =>
        if pop8 b.2.pres < pop8 a.2.pres ∨ (pop8 b.2.pres = pop8 a.2.pres ∧ b.2.way < a.2.way) then b else a) e
      some (v.2.way, some v.1)

/-! ### The call-slip engine as an agent (R271, 05 R165, R168, R170) -/

/-- A request of the call-slip engine for a slot: 1 its call slip in S, 2 its delivery line in ownership; the epoch of the line's translation. -/
def State.engAsk (s : State) (n opc l ep : Nat) : State :=
  s.request { opc := opc, agent := 0x21, txn := 0, line := l, slot := n, epoch := ep }

/-- The engine reads the call slip, if its place for an accepted call is empty, the read is not out and no data waits to be compared (R168). -/
def State.engRead (s : State) (n : Nat) : State :=
  let x := s.csOf n
  match x.slipLine with
  | some l => if x.reading ∨ x.slipS ∨ x.call ≠ none ∨ x.got ≠ none ∨ x.disarm then s else (s.setCs n { x with reading := true }).engAsk n 1 l x.slipEp
  | none => s

/-- The engine asks for ownership of the delivery line if it does not own it. -/
def State.engOwn (s : State) (n : Nat) : State :=
  let x := s.csOf n
  match x.dlvLine with
  | some l => if x.owning ∨ 2 ≤ x.dlv then s else (s.setCs n { x with owning := true }).engAsk n 2 l x.dlvEp
  | none => s

/-- The partition of a queue pair, from its context in the network frame (10 R366). -/
def State.qpPart (s : State) (q : Nat) : Nat := ((s.memRead (2 ^ 46 + 2 * q) none).1.getD 1 0).toNat % 16

/-- A field of a queue pair's context: `n` bytes at offset `o`. -/
def State.qpCtx (s : State) (q o n : Nat) : Nat := le (s.memRead (2 ^ 46 + 2 * q + o / 64) none).1 (o % 64) n

/-- The engine's answer for the doorbell records of queue pairs, which it holds as call slips (10 R368). -/
def State.snoopRecords (s : State) (l opc : Nat) : SnRsp × State :=
  s.nic.qps.foldl (fun a e =>
    let s := a.2
    let x := s.qpOf e.1
    if x.held ∧ x.dbr = some l then
      if opc = 0x42 ∨ opc = 0x44 then
        (SnRsp.max a.1 {}, (s.setQp e.1 { x with held := false, reading := true }).engAsk (64 + e.1) 1 l x.dbrEp)
      else (SnRsp.max a.1 { kind := 1 }, s)
    else a) ({}, s)

/-- A write-back that waits at the home for its line's transaction to end: of the engine, or of data that a read took before they could leave. -/
def State.waitingWb (s : State) (l : Nat) : Option HTxn :=
  s.coh.homes.find? fun h => decide (h.opc = 8) && decide (h.src = 0x21) && decide (h.line = l) && h.parked && !h.done

/-- Dirty data of function `f` waits at the home to be written back when the line is stable. -/
def State.addWb (s : State) (f l : Nat) (data : Bytes) : State :=
  { s with coh := { s.coh with homes := s.coh.homes ++ [{ opc := 8, src := 0x21, txn := 0, line := l, bytes := data, fn := some f, parked := true }] } }

/-- The answer from a write-back that waits: a read in shared state waits for it (R259), others take its data, invalidations with its end (R278). -/
def State.snoopWb (s : State) (l opc : Nat) : SnRsp × State :=
  match s.waitingWb l with
  | none => ({}, s)
  | some h =>
    if opc = 0x40 then ({}, s)
    else ((snoopRule opc 4 h.bytes).1, if opc = 0x43 then s else { s with coh := { s.coh with homes := s.coh.homes.erase h } })

/-- The engine's answer to a snoop. An invalidation of a call slip triggers the re-read, and the request for the delivery line (R165, R249);
a delivery line is answered as R170 sets. A read in shared state finds a Modified one given up, on its way to the home (R249, R251; log entry 108). -/
def State.snoopEngine (s : State) (l opc : Nat) : SnRsp × State :=
  s.cs.foldl (fun a e =>
    let s := a.2
    let n := e.1
    let x := s.csOf n
    if x.slipS ∧ x.slipLine = some l then
      if opc = 0x42 ∨ opc = 0x44 then
        (SnRsp.max a.1 {}, ((s.setCs n { x with slipS := false }).engRead n).engOwn n)
      else (SnRsp.max a.1 { kind := 1 }, s)
    else if x.dlv = 3 ∧ x.dlvLine = some l ∧ opc = 0x40 then
      (a.1, (s.setCs n { x with dlv := 0, dlvData := [] }).addWb (s.fnOf n) l x.dlvData)
    else if x.dlv ≠ 0 ∧ x.dlvLine = some l then
      let st := if x.dlv = 3 then 4 else x.dlv
      match snoopRule opc st x.dlvData with
      | (r, st2) =>
        let d := if st2 = 0 then 0 else if opc = 0x43 then x.dlv else if st2 = 1 ∨ st2 = 3 then 1 else x.dlv

        -- SnpCur is answered with data in every state (R170)
        let r := if opc = 0x43 then { r with kind := 2, st := if r.kind = 1 then 1 else r.st, data := x.dlvData } else r
        (SnRsp.max a.1 r, s.setCs n { x with dlv := d })
    else a) (let b := s.snoopRecords l opc; let c := b.2.snoopWb l opc; (SnRsp.max b.1 c.1, c.2))

/-! ### Transactions given up -/

def State.dropTxn (s : State) (t : Txn) : State :=
  { s with coh := { s.coh with txns := s.coh.txns.filter fun x => !(decide (x.agent = t.agent) && decide (x.txn = t.txn)) } }

def State.putTxn (s : State) (t : Txn) : State :=
  { s with coh := { s.coh with txns := s.coh.txns.map fun x => if x.agent = t.agent ∧ x.txn = t.txn then t else x } }

/-- Every transfer of a wing's carrels changed. -/
def State.onXfers (s : State) (w : Nat) (f : Xfer → Xfer) : State :=
  { s with car := tmap carDef (fun p x => if p / 144 = w then { x with xfers := x.xfers.map f } else x) s.car }

/-- The pieces that wait for a line become ready to be tried again. -/
def State.unwait (s : State) (w l : Nat) : State :=
  s.onXfers w fun x =>
    { x with todo := ((x.wait.filter fun e => decide (e.1 = l)).map fun e => e.2) ++ x.todo, wait := x.wait.filter fun e => decide (e.1 ≠ l) }

/-! ### Home transactions -/

/-- A transaction changed: it is the one with this opcode, agent, number and line. -/
def State.setH (s : State) (h : HTxn) : State :=
  { s with coh := { s.coh with homes := s.coh.homes.map fun x =>
      if x.opc = h.opc ∧ x.src = h.src ∧ x.txn = h.txn ∧ x.line = h.line then h else x } }

def State.addH (s : State) (h : HTxn) : State := { s with coh := { s.coh with homes := s.coh.homes ++ [h] } }

/-- A message from a line's home to an agent. -/
def State.homeSend (s : State) (l opc dst txn : Nat) (data : Bytes := []) (err dirty : Bool := false) : State :=
  s.send { opc := opc, src := 0x40 + homeOf l, dst := dst, txn := txn, ca := l, data := data, err := err, dirty := dirty }

/-- The dies and the engine that hold a line, as the catalogue has it (bit 8: the engine). -/
def CatEnt.holders (e : CatEnt) : Nat := e.pres % 256 + 256 * b2n e.hub

/-- Snoops of a transaction sent to a set of dies and the engine. `dataTo` is the requester, or the home. -/
def State.snoops (s : State) (h : HTxn) (opc dies dataTo skip : Nat) : State :=
  let s := (setBitsOf 9 dies).foldl (fun s d =>
    s.send { opc := opc, src := 0x40 + homeOf h.line, dst := if d = 8 then 0x21 else 0x80 + d, txn := h.txn, ca := h.line, dies := dies,
             dataTo := dataTo, wing := skip }) s
  s.setH { h with dies := dies, parked := false, snooped := true }

/-- The partition function under which a transaction reaches the host (R268). -/
def State.hFn (s : State) (h : HTxn) : Nat :=
  match h.fn with
  | some f => f
  | none => if h.slot < 64 then s.fnOf h.slot else if h.slot = noSlot then 0 else s.qpPart (h.slot - 64) + 1

/-- The request of an agent that a transaction serves. -/
def State.txnFor (s : State) (h : HTxn) : Option Txn :=
  s.coh.txns.find? fun t => decide (t.agent = h.src) && decide (t.txn = h.txn) && decide (t.line = h.line)

/-- The bytes that a mask enables, as runs: the offset and the bytes of each. -/
def maskedRuns (mask : Nat) (data : Bytes) : List (Nat × Bytes) :=
  ((List.range 64).filter fun i => bit mask i && (decide (i = 0) || !bit mask (i - 1))).map fun i =>
    (i, slice data i (((List.range (64 - i)).find? fun k => !bit mask (i + k)).getD (64 - i)))

/-- Posted writes in place of a CXL.cache write while Cache_Enable is 0 (06 R211). -/
def State.postWrite (s : State) (f l mask : Nat) (data : Bytes) (xl : Bool) : State :=
  (maskedRuns mask data).foldl (fun s r => s.toHost (.hostWrite f (l * 64 + r.1) r.2 xl)) s

/-- A transaction ends. -/
def State.endH (s : State) (h : HTxn) : State := s.setH { h with done := true }

/-- A write reaches its end (R259): `CMP_W`, the entry freed or, for a write-through, kept for the writer's own copy. A full write ends a loss, else a lost
line stays lost (R283). A write that the model makes for an agent without a cache has no message. -/
def State.endWrite (s : State) (h : HTxn) : State :=
  let e := s.ent h.line
  let s := if e.lost ∧ h.opc ≠ 4 ∧ h.opc ≠ 7 then s
    else if h.opc = 6 ∧ h.src < 32 ∧ (s.wline h.src h.line).st ≠ 0 then s.setEnt h.line { e with pres := 2 ^ (h.src / 4), owned := false }
    else s.freeEnt h.line
  (if h.hub.isSome then s else s.homeSend h.line 0x84 h.src h.txn).endH h

/-- A request that has not reached the host is given up: its pieces are to be tried again, and an entry made for it alone is freed. -/
def State.cancelTxn (s : State) (h : HTxn) : State :=
  let e := s.ent h.line
  let s := (if CatEnt.holders e = 0 ∧ !e.lost then s.freeEnt h.line else s).endH h
  match s.txnFor h with
  | none => s
  | some t =>
    let s := s.dropTxn t
    if 32 ≤ t.agent then s
    else match t.who with
      | none => s.unwait h.src h.line
      | some (p, tag, pc) =>
        let c := s.carrel p
        s.setCarrel p { c with xfers := c.xfers.map fun x =>
          if x.tag = tag ∧ (h.line, pc) ∈ x.wait then { x with todo := pc :: x.todo, wait := x.wait.filter fun e => decide (e ≠ (h.line, pc)) } else x }

/-- The host has taken a transaction's write or eviction (R269). -/
def State.hostTook (s : State) (h : HTxn) : State := if h.opc = 8 ∨ h.opc = 0x44 then (s.freeEnt h.line).endH h else s.endWrite h

/-- An eviction of a host line that no transaction waits for: a CXL.cache request under a tag of its own, which the host answers or which times out (06
R236). -/
def State.hostEvict (s : State) (f opc l : Nat) (data : Bytes) : State :=
  let t := s.newTag
  let r : HReq := { tag := t, fn := f, owner := .nobody none, ca := l * 64, io := false, issued := s.time, want := [l] }
  ({ s with link := { s.link with reqs := s.link.reqs ++ [r] } }).toHost (.d2hReq t f opc (l * 64) data)

/-- A dirty host line's eviction leaves at once: it is part of a reset or of a clear of Cache_Enable, or the host has it in order (06 R212, R235); the
safe state sends none (06 R241). -/
def State.evictDirty (s : State) (f l : Nat) (data : Bytes) : State :=
  if s.gb DEV_STATUS.SAFE then s else s.hostEvict f 6 l data

/-- A host request that an FLR of its function stops before it has left (06 R235): dirty data of a line goes to the host all the same, what else it was
for is abandoned. -/
def State.giveUp (s : State) (h : HTxn) (opc : Nat) : State :=
  if 5 ≤ opc ∧ (h.opc = 8 ∨ h.opc = 0x44 ∨ h.dirty.isSome) then
    let s := (s.evictDirty (s.hFn h) h.line h.bytes).freeEnt h.line
    if h.opc < 8 then s.cancelTxn h else s.endH h
  else if h.opc < 8 then s.cancelTxn h
  else s.endH h

/-- A host request of a transaction leaves, when its function may request; until then it waits unsent (06 R231), but for a function in FLR (R235). Requests 1 to 6 are the CXL.cache
ones; while Cache_Enable is 0 a read is a CXL.io read and a write is posted (06 R211), but for the ItoMWr of a stash (R272; log entries
79, 81). -/
def State.hostAsk (s : State) (h : HTxn) (opc : Nat) (data : Bytes) : State :=
  let f := s.hFn h
  let h := { h with bytes := if data = [] then h.bytes else data }
  if (s.fn f).flr then s.giveUp h opc
  else if s.mayRequest f then
    if 5 ≤ opc ∧ !s.cacheEn ∧ h.opc ≠ 7 then
      ((s.postWrite f h.line (if h.opc = 5 ∧ h.dirty = none then h.mask else fullMask) h.bytes (decide (f ≠ 0))).setH h).hostTook h
    else
      let t := s.newTag
      let io := !s.cacheEn && decide (opc < 5)
      let r : HReq := { tag := t, fn := f, owner := .home h.line, ca := h.line * 64, io := io, issued := s.time,
                        epoch := ((h.hub.map (·.epoch)).or ((s.txnFor h).map (·.epoch))).getD (s.g XL_STATUS.EPOCH (f - 1)) }
      let s : State := { s with link := { s.link with reqs := s.link.reqs ++ [r] } }
      let s := if io then s.toHost (.hostRead f t (h.line * 64) 64 (decide (f ≠ 0))) else s.toHost (.d2hReq t f opc (h.line * 64) data)
      s.setH { h with host := some opc, hostSent := true }
  else (if 5 ≤ opc then s.heldMark f else s).setH { h with host := some opc, hostSent := false }

/-- A clean eviction of a host line (7 CleanEvict, 8 CleanEvictNoData) leaves, or waits until its function may request (R269, 06 R231). -/
def State.evictClean (s : State) (f opc l : Nat) : State :=
  if s.mayRequest f then s.hostEvict f opc l [] else { s with coh := { s.coh with owed := s.coh.owed ++ [(f, opc, l)] } }

/-- The grant of a read for a copy (R259): the catalogue after it, the grant message. -/
def State.grantRead (s : State) (h : HTxn) (code : Nat) : State :=
  let e := s.ent h.line
  let host := !isDev h.line
  let d := h.src / 4
  let e := match code with
    | 0x82 => if h.src = 0x21 then { e with pres := 0, owned := false, hub := true, hgrant := if host then 2 else 0 }
              else { e with pres := 2 ^ d, owned := true, owner := d, hub := false, hgrant := if host then 2 else 0 }
    | 0x81 => { e with pres := setBit e.pres d true, owned := true, owner := d }
    | _ => if h.src = 0x21 then { e with hub := true, hgrant := if host then max 1 e.hgrant else 0 }
           else { e with pres := setBit e.pres d true, hgrant := if host then max 1 e.hgrant else 0 }
  (s.setEnt h.line e).homeSend h.line code h.src h.txn

/-- The stash data goes to its target wing (R267). -/
def State.sendStash (s : State) (h : HTxn) : State :=
  (s.homeSend h.line 0xC3 h.wing h.txn h.bytes).setH { h with stash := true, host := none }

/-- A read of lost data, or a write of a part of it: `RS_ERR` (R283). -/
def State.lostEnd (s : State) (h : HTxn) : State := (if h.hub.isSome then s else s.homeSend h.line 0x8D h.src h.txn).endH h

/-- What a transaction does once every snoop answer and the data it promised are in (R259, R267, R269); while Cache_Enable is 0 no host line is read for a
copy (06 R211). Data lost meanwhile is answered with `RS_ERR`, and a
back-invalidation leaves a lost line's entry (R283). -/
def State.homeGo (s : State) (h : HTxn) : State :=
  let e := s.ent h.line
  let dev := isDev h.line
  let cls := s.slotClass h.slot
  if e.lost ∧ !h.fwd ∧ h.dirty = none ∧ h.opc ≠ 4 ∧ h.opc ≠ 6 ∧ h.opc ≠ 7 then (if h.opc = 0x44 ∨ h.opc = 8 then s.endH h else s.lostEnd h)
  else match h.opc with
  | 1 =>
    let s := s.setEnt h.line { e with owned := e.owned && (h.keepO || !h.fwd) }
    let e := s.ent h.line
    if h.fwd then (s.grantRead h 0x80).setH { h with ack := true }
    else
      let s := s.setEnt h.line { e with owned := false }
      if dev then
        (s.grantRead h (if e.pres % 256 = 0 ∧ !e.hub ∧ h.src ≠ 0x21 ∧ !h.snooped then 0x81 else 0x80)).setH { h with memWait := true, ack := true }
      else if s.cacheEn then s.hostAsk h (if e.hgrant = 0 then 1 else 4) [] else s.cancelTxn h
  | 2 =>
    if h.fwd then (s.grantRead h 0x82).setH { h with ack := true }
    else if dev then (s.grantRead h 0x82).setH { h with memWait := true, ack := true }
    else if s.cacheEn then s.hostAsk h (if e.hgrant = 2 then 4 else 2) [] else s.cancelTxn h
  | 3 =>
    if h.fwd then (s.homeSend h.line 0x83 h.src h.txn).setH { h with ack := true }
    else if dev then (s.homeSend h.line 0x83 h.src h.txn).setH { h with memWait := true, ack := true }
    else s.hostAsk h 4 []
  | 4 =>
    if dev then (s.memWrite h.line fullMask h.bytes cls).endWrite h else s.hostAsk h 5 h.bytes
  | 5 =>
    if dev then
      match h.dirty with
      | some d => (s.memWrite h.line fullMask (maskMerge h.mask d h.bytes) cls).endWrite h
      | none => (s.memWrite h.line h.mask h.bytes cls).endWrite h
    else match h.dirty with
      | some d => s.hostAsk h 6 (maskMerge h.mask d h.bytes)
      | none => if !s.cacheEn then s.hostAsk h 6 h.bytes else s.hostAsk h (if e.hgrant < 2 then 2 else 4) []
  | 6 =>
    match h.dirty with
    | some d => (s.memWrite h.line fullMask (maskMerge h.mask d h.bytes) cls).endWrite h
    | none => (s.memWrite h.line h.mask h.bytes cls).endWrite h
  | 7 =>
    if dev then s.sendStash h
    else if !s.cacheEn then s.hostAsk h 5 h.bytes
    else if e.hgrant < 2 then s.hostAsk h 3 []
    else s.sendStash h
  | 8 => (if h.src < 32 then s.homeSend h.line 0x88 h.src 0 else s).hostAsk h 6 h.bytes
  | _ =>
    match h.dirty with
    | some d => if dev then ((s.memWrite h.line fullMask d none).freeEnt h.line).endH h else s.hostAsk h 6 d
    | none =>
      ((if dev ∨ e.hgrant = 0 then s else s.evictClean (s.hFn h) 8 h.line).freeEnt h.line).endH h

/-- A stable line's transaction begins (R259): lost data is answered with `RS_ERR` (R283), the holders it concerns are snooped, the engine too where a wing reads
a line that it holds (log entry 105). -/
def State.homeBegin (s : State) (h : HTxn) : State :=
  let h := { h with parked := false, victim := none }
  let s := s.setH h
  let e := s.ent h.line
  -- a full write, a stash or a wipe's write ends the loss (R283)
  let s := if e.lost ∧ (h.opc = 4 ∨ h.opc = 7) then s.setEnt h.line { e with lost := false } else s
  let home := 0x40 + homeOf h.line
  let snoopOr (opc dies dataTo skip : Nat) : State := if dies = 0 then s.homeGo h else s.snoops h opc dies dataTo skip
  let owner := if e.owned then 2 ^ e.owner else if e.hub then 256 else 0
  if e.lost ∧ (h.opc = 1 ∨ h.opc = 2 ∨ h.opc = 3 ∨ h.opc = 5) then s.lostEnd h
  else match h.opc with
  | 1 => snoopOr 0x40 (if h.src = 0x21 ∧ !e.owned then 0 else owner) h.src 0
  | 2 => snoopOr 0x42 (CatEnt.holders e) h.src 0
  | 3 => snoopOr 0x43 owner h.src 0
  | 4 => snoopOr 0x42 (CatEnt.holders e) home 0
  | 5 => snoopOr 0x42 (CatEnt.holders e) home 0
  | 6 => snoopOr 0x42 (CatEnt.holders e) home (h.src + 1)
  | 7 => snoopOr 0x42 (CatEnt.holders e) home 0
  | 8 => snoopOr 0x42 (e.pres % 256 - (if bit e.pres (h.src / 4) then 2 ^ (h.src / 4) else 0)) home 0
  | _ => snoopOr 0x44 (CatEnt.holders e) home 0

/-- The function a host line's write-back is attributed to: that of the cache that owns it, or else of one that holds it (06 R231). -/
def State.lineFn (s : State) (l : Nat) : Nat :=
  let held (k : Nat) : Option Nat :=
    (List.range 32).findSome? fun w => if k ≤ (s.wline w l).st then some (s.wline w l).fn else (s.ebOf w l).map (·.fn)
  let eng (k : Nat) : Option Nat := (s.cs.find? fun e => (decide (e.2.dlv ≠ 0) && decide (e.2.dlvLine = some l)) ||
    (decide (k = 1) && e.2.slipS && decide (e.2.slipLine = some l))).map fun e => s.fnOf e.1
  (((held 2).or (eng 2)).or ((held 1).or (eng 1))).getD 0

/-- Whether a request needs a catalogue entry it does not have. -/
def State.needsEnt (s : State) (opc l : Nat) : Bool :=
  (decide (opc = 1) || decide (opc = 2) || decide (opc = 7)) && decide ((s.ent l).way = 0)

/-- The transaction takes its entry, or starts the back-invalidation of the victim first (R248); then it begins. -/
def State.homeEnter (s : State) (h : HTxn) : State :=
  if s.needsEnt h.opc h.line then
    match s.catPlace h.line with
    | some (k, none) => (s.setEnt h.line { way := k }).homeBegin h
    | some (_, some v) =>
      let s := s.setH { h with victim := some v, parked := false }
      let b : HTxn := { opc := 0x44, src := 0x40, txn := 0, line := v, fn := some (s.lineFn v) }
      let s := s.wrap HOME_EVICTS.COUNT (homeOf v)
      (s.addH b).homeBegin b
    | none => s.setH { h with parked := true }
  else s.homeBegin h

/-! ### Arrival, NACK and reservation (R245, R265, R266) -/

/-- Request trackers in use at a slice, those held open for a GO included. -/
def State.trackers (s : State) (sl : Nat) : Nat :=
  (s.coh.homes.filter fun h => decide (h.opc ≤ 7) && decide (homeOf h.line = sl)).length
    + (tget (fun _ => []) s.coh.goHeld sl).length

/-- Write-back trackers in use at a slice: one is free once the host port's write queue has the data (R263). -/
def State.wbTrackers (s : State) (sl : Nat) : Nat :=
  (s.coh.homes.filter fun h => decide (h.opc = 8) && decide (homeOf h.line = sl) && h.host.isNone).length
    + (s.coh.wbs.filter fun e => decide (homeOf e.2 = sl)).length

/-- The slot a message's transaction serves. -/
def State.slotOfMsg (s : State) (m : Msg) : Nat :=
  match s.coh.txns.find? fun t => decide (t.agent = m.src) && decide (t.txn = m.txn) with
  | some t => t.slot
  | none => noSlot

/-- A request arrives at its home. -/
def State.arrive (s : State) (m : Msg) : State :=
  let sl := homeOf m.ca
  let h : HTxn := { opc := m.opc, src := m.src, txn := m.txn, line := m.ca, mask := m.mask, bytes := slice m.data 0 64, wing := m.wing,
                    slot := s.slotOfMsg m }
  let rq := tget (fun _ => ([] : List (Nat × Nat))) s.coh.resq sl
  let go := tget (fun _ => ([] : List (Nat × Nat))) s.coh.goHeld sl
  let nack (s : State) : State := (s.bump HOME_COUNTS.NACKS sl).homeSend m.ca 0x85 m.src m.txn
  if (m.src, m.txn) ∈ go then
    let s : State := { s with coh := { s.coh with goHeld := tset (fun _ => []) s.coh.goHeld sl (go.erase (m.src, m.txn)) } }
    if s.transient m.ca then s.addH { h with parked := true } else (s.addH h).homeEnter h
  else if (rq ++ go).any (fun e => decide (e.1 = m.src)) then nack s
  else if s.transient m.ca ∨ 48 ≤ s.trackers sl ∨ (s.needsEnt m.opc m.ca ∧ s.catPlace m.ca = none) then
    if 3 ≤ m.count then
      let s : State := { s with coh := { s.coh with resq := tset (fun _ => []) s.coh.resq sl (rq ++ [(m.src, m.txn)]) } }
      ((s.bump HOME_COUNTS.NACKS sl).bump HOME_COUNTS.RESERVES sl).homeSend m.ca 0x86 m.src m.txn
    else nack s
  else (s.addH h).homeEnter h

/-! ### Write-backs (R259, R263, R269, R278) -/

/-- A write-back or eviction of wing `w` is applied at a stable line, and acknowledged. -/
def State.applyWb (s : State) (w l : Nat) : State :=
  let e := s.ent l
  let d := w / 4
  let s : State := { s with coh := { s.coh with wbs := s.coh.wbs.filter fun x => decide (x ≠ (w, l)) } }
  match s.ebOf w l with
  | none => s
  | some b =>
    let own := e.owned && decide (e.owner = d)
    let e' := { e with owned := e.owned && !own }
    if isDev l then
      let s := if b.st = 2 then s else s.memWrite l fullMask b.data none
      (s.setEnt l e').homeSend l 0x88 w 0
    else if b.st = 2 then
      let others := e.pres % 256 - (if bit e.pres d then 2 ^ d else 0)
      let s := if others = 0 ∧ !e.hub then (s.evictClean b.fn 8 l).freeEnt l else s.setEnt l e'
      s.homeSend l 0x88 w 0
    else
      let h : HTxn := { opc := 8, src := w, txn := 0, line := l, bytes := b.data, fn := some b.fn }
      (s.addH h).homeBegin h

/-- Dirty data that a read in progress waits for (R259): written to memory, or to the host; while its function may not request, the reader takes the data
from the home, and they leave for the host later (06 R231). -/
def State.takeData (s : State) (h : HTxn) (f : Nat) (data : Bytes) : HTxn × State :=
  let l := h.line
  if isDev l then (h, s.memWrite l fullMask data none)
  else if s.mayRequest f then (h, (s.setEnt l { s.ent l with hgrant := 0 }).evictDirty f l data)
  else ({ h with fwd := true }, (s.homeSend l 0xC0 h.src h.txn data).addWb f l data)

/-- A write-back of wing `w` that a read in progress waits for is applied at once. -/
def State.takeWb (s : State) (h : HTxn) (w : Nat) : HTxn × State :=
  let l := h.line
  let s : State := { s with coh := { s.coh with wbs := s.coh.wbs.filter fun x => decide (x ≠ (w, l)) } }
  match s.ebOf w l with
  | none => (h, s)
  | some b =>
    let r := if b.st = 2 then (h, s) else s.takeData h b.fn b.data
    let e := r.2.ent l
    (r.1, (r.2.setEnt l { e with owned := e.owned && decide (e.owner ≠ w / 4) }).homeSend l 0x88 w 0)

/-- A write-back is discarded: its data was taken by a snoop (R278). -/
def State.discardWb (s : State) (w l : Nat) : State :=
  let s : State := { s with coh := { s.coh with wbs := s.coh.wbs.filter fun x => decide (x ≠ (w, l)) } }
  s.homeSend l 0x88 w 0

/-! ### Host snoops (R270) -/

/-- The answer to a host snoop: what the device held, with dirty data. -/
def State.snpAnswer (s : State) (kind l : Nat) (held : Bool) (dirty : Option Bytes) : State :=
  let ca := l * 64
  match dirty, kind with
  | some d, 0 => s.emit (.d2hRsp 2 ca d)
  | some d, 1 => s.emit (.d2hRsp 4 ca d)
  | some d, _ => s.emit (.d2hRsp 6 ca d)
  | none, 0 => s.emit (.d2hRsp (if held then 1 else 0) ca [])
  | none, 1 => s.emit (.d2hRsp (if held then 3 else 0) ca [])
  | none, _ => s.emit (.d2hRsp (if held then 5 else 0) ca [])

/-- A snoop of the holders named, in the same step: what was held and the dirty data. -/
def State.snoopAll (s : State) (l opc dies : Nat) : Bool × Option Bytes × State :=
  (setBitsOf 9 dies).foldl (fun a d =>
    let s := a.2.2
    let eng := d = 8
    let r := if eng then s.snoopEngine l opc else s.snoopDie d l opc 0
    let s := r.2
    let s := if r.1.ebWb ∧ (opc = 0x42 ∨ opc = 0x44) then
        (List.range 4).foldl (fun s k => if (s.ebOf (4 * d + k) l).isSome then s.discardWb (4 * d + k) l else s) s
      else s
    (a.1 || eng || decide (r.1.kind ≠ 0), if r.1.dirty ∨ (eng ∧ opc = 0x43 ∧ r.1.kind = 2) then some r.1.data else a.2.1, s)) (false, none, s)

/-- A host snoop (0 SnpInv, 1 SnpData, 2 SnpCur) of a line with no transaction in the way. -/
def State.hostSnoopNow (s : State) (kind l : Nat) : State :=
  let e := s.ent l
  if e.way = 0 then s.snpAnswer kind l false none
  else match kind with
  | 0 =>
    let held := decide (CatEnt.holders e ≠ 0)
    let r := s.snoopAll l 0x42 (CatEnt.holders e)
    let s := (r.2.2.freeEnt l)
    s.snpAnswer 0 l held r.2.1
  | 1 =>
    let dies := (if e.owned then 2 ^ e.owner else 0) + 256 * b2n e.hub
    let r := s.snoopAll l 0x41 dies
    let e := r.2.2.ent l
    let s := r.2.2.setEnt l { e with owned := false, hgrant := 1 }
    s.snpAnswer 1 l (decide (CatEnt.holders e ≠ 0)) r.2.1
  | _ =>
    let dies := (if e.owned then 2 ^ e.owner else 0) + 256 * b2n e.hub
    let r := s.snoopAll l 0x43 dies
    r.2.2.snpAnswer 2 l (decide (CatEnt.holders e ≠ 0)) r.2.1

/-- A host snoop of a line whose transaction awaits the host: answered from what the device held before that request (R270). SnpInv invalidates the
shared copies that stand. -/
def State.hostSnoopPending (s : State) (kind l : Nat) (h : HTxn) : State :=
  let e := s.ent l
  let dirty := if h.host = some 6 then some h.bytes else none
  let s := s.snpAnswer kind l (decide (e.hgrant ≠ 0)) dirty
  if kind = 0 then (s.snoopAll l 0x42 (CatEnt.holders e)).2.2.setEnt l { e with pres := 0, owned := false, hub := false, hgrant := 0 }
  else if kind = 1 then s.setEnt l { e with hgrant := min e.hgrant 1 } else s

/-- The transaction that runs on a line. -/
def State.runsOn (s : State) (l : Nat) : Option HTxn := s.coh.homes.find? fun h => decide (h.line = l) && !h.parked

/-- A host snoop with a tracker acts, or waits while the device's own snoops, grant or memory read are under way (R270); a line whose request still waits for
its entry is not held (R262). In the safe state it is a
miss (06 R241). -/
def State.hostSnoopGo (s : State) (kind l : Nat) : State :=
  if s.gb DEV_STATUS.SAFE then s.snpAnswer kind l false none
  else match s.runsOn l with
    | none => s.hostSnoopNow kind l
    | some h =>
      if h.victim ≠ none then s.hostSnoopNow kind l
      else if h.host ≠ none then s.hostSnoopPending kind l h
      else { s with coh := { s.coh with hsnp := s.coh.hsnp ++ [(kind, l)] } }

/-- A host snoop arrives: while the 16 trackers of its slice are in use the host port holds it (R265, R270). -/
def State.hostSnoop (s : State) (kind l : Nat) : State :=
  if !s.gb DEV_STATUS.SAFE ∧ 16 ≤ (s.coh.hsnp.filter fun e => decide (homeOf e.2 = homeOf l)).length then
    { s with coh := { s.coh with hsnp := s.coh.hsnp ++ [(kind, l)] } }
  else s.hostSnoopGo kind l

/-- The host snoops that have a tracker: the first 16 of each slice. -/
def State.hsnpTracked (s : State) : List (Nat × Nat) :=
  (s.coh.hsnp.foldl (fun (a : List (Nat × Nat)) e =>
    if (a.filter fun x => decide (homeOf x.2 = homeOf e.2)).length < 16 then a ++ [e] else a) [])

/-! ### What can go on -/

/-- A request tracker of the slice is free and a reservation waits: the tracker is held for the oldest one, and GO sent (R266). A reservation
whose request has been given up is dropped. -/
def State.serveRes (s : State) (sl : Nat) : State :=
  match tget (fun _ => ([] : List (Nat × Nat))) s.coh.resq sl with
  | [] => s
  | a :: rest =>
    if s.trackers sl < 48 then
      let go := tget (fun _ => ([] : List (Nat × Nat))) s.coh.goHeld sl
      let s : State := { s with coh := { s.coh with resq := tset (fun _ => []) s.coh.resq sl rest } }
      match s.coh.txns.find? fun t => decide (t.agent = a.1) && decide (t.txn = a.2) with
      | some t =>
        let s : State := { s with coh := { s.coh with goHeld := tset (fun _ => []) s.coh.goHeld sl (go ++ [a]) } }
        s.homeSend t.line 0x87 a.1 t.txn
      | none => s
    else s

/-- One thing that can go on: a finished transaction leaves, a parked or victim-waiting one begins, a waiting host snoop or write-back
acts, a reservation is served. -/
def State.settle1 (s : State) : Option State :=
  let c := s.coh
  match c.homes.find? (·.done) with
  | some h => some { s with coh := { c with homes := c.homes.erase h } }
  | none =>
    match s.hsnpTracked.find? fun e => s.gb DEV_STATUS.SAFE || (match s.runsOn e.2 with | none => true | some h => decide (h.host ≠ none ∨ h.victim ≠ none)) with
    | some e => some (({ s with coh := { c with hsnp := c.hsnp.erase e } } : State).hostSnoopGo e.1 e.2)
    | none =>
      match c.homes.find? fun h => match h.victim with
          | some v => !(c.homes.any fun x => decide (x.opc = 0x44) && decide (x.line = v)) | none => false with
      | some h => some (s.homeEnter { h with victim := none })
      | none =>
        match c.wbs.find? fun e => !s.transient e.2 with
        | some e => some (s.applyWb e.1 e.2)
        | none =>
          match c.homes.find? fun h => h.parked && !s.transient h.line && (!s.needsEnt h.opc h.line || (s.catPlace h.line).isSome) with
          | some h => some (s.homeEnter h)
          | none =>
            match c.resq.find? fun e => decide (e.2 ≠ []) && decide (s.trackers e.1 < 48) with
            | some e => some (s.serveRes e.1)
            | none => none

/-- Everything that can go on, goes on. -/
def State.settleN : Nat → State → State
  | 0, s => s
  | k + 1, s => match s.settle1 with | some s => State.settleN k s | none => s

def State.settle (s : State) : State :=
  State.settleN (4 * (s.coh.homes.length + s.coh.hsnp.length + s.coh.wbs.length + s.coh.resq.length) + 8) s

/-! ### Snoop answers at the home (R247, R259) -/

/-- A transaction goes on once its answers and the promised data are in. -/
def State.homeReady (s : State) (h : HTxn) : State :=
  if h.dies = 0 ∧ h.promised = h.came ∧ !h.wbWait then s.homeGo h else s.setH h

/-- The transaction that waits for an answer of die `d` (8: the engine). -/
def State.waitsFor (s : State) (l d : Nat) : Option HTxn :=
  s.coh.homes.find? fun h => decide (h.line = l) && !h.parked && bit h.dies d

/-- The number of a snooped party. -/
def partyOf (src : Nat) : Nat := if src = 0x21 then 8 else src - 0x80

/-- A `PRES` bit, or `HUB`, is cleared. -/
def State.clearPres (s : State) (l d : Nat) : State :=
  let e := s.ent l
  if e.way = 0 then s else s.setEnt l (if d = 8 then { e with hub := false } else { e with pres := setBit e.pres d false })

/-- A die's wings have a write-back of the line under way. -/
def State.wbUnderWay (s : State) (l d : Nat) : Bool := (List.range 4).any fun k => (s.ebOf (4 * d + k) l).isSome

/-- `RS_I`. -/
def State.rspNone (s : State) (m : Msg) : State :=
  let d := partyOf m.src
  match s.waitsFor m.ca d with
  | none =>
    -- a wing's answer to a stash (R267)
    match s.coh.homes.find? fun h => decide (h.line = m.ca) && h.stash && decide (h.wing = m.src) with
    | some h =>
      let w := h.wing
      let e := s.ent h.line
      let s := s.setEnt h.line { e with pres := 2 ^ (w / 4), owned := true, owner := w / 4, hub := false, lost := false,
                                        hgrant := if isDev h.line then 0 else 2 }
      (s.homeSend h.line 0x84 h.src h.txn).endH h
    | none => s
  | some h =>
    let s := s.clearPres m.ca d
    let h := { h with dies := setBit h.dies d false }
    if h.opc = 1 ∧ d ≠ 8 ∧ s.wbUnderWay m.ca d then
      -- the owner's line is in flight: its write-back is applied, now if it has come (R259)
      match s.coh.wbs.find? fun e => decide (e.2 = m.ca) && decide (e.1 / 4 = d) with
      | some e => let r := s.takeWb h e.1; r.2.homeReady r.1
      | none => s.homeReady { h with wbWait := true }
    else if h.opc = 1 ∧ d = 8 then
      match s.waitingWb m.ca with
      | some b =>
        let r := State.takeData { s with coh := { s.coh with homes := s.coh.homes.erase b } } h (b.fn.getD 0) b.bytes
        r.2.homeReady r.1
      | none => s.homeReady h
    else s.homeReady h

/-- `RS_S`. -/
def State.rspShared (s : State) (m : Msg) : State :=
  match s.waitsFor m.ca (partyOf m.src) with
  | none => s
  | some h =>
    let h := { h with dies := setBit h.dies (partyOf m.src) false }
    let e := s.ent m.ca
    (if h.opc = 0x44 then s else s.setEnt m.ca { e with owned := e.owned && decide (e.owner ≠ partyOf m.src) }).homeReady h

/-- `RS_FWD` with the state kept. Data goes to the home for write and back-invalidation snoops, else to the requester. A write-back already
sent whose line was invalidated is discarded (R278). -/
def State.rspFwd (s : State) (m : Msg) : State :=
  let d := partyOf m.src
  match s.waitsFor m.ca d with
  | none => s
  | some h =>
    let h := { h with dies := setBit h.dies d false }
    let toHome := decide (4 ≤ h.opc)
    let h := if toHome then { h with promised := h.promised + 1 } else { h with fwd := true, keepO := h.keepO || decide (m.st = 2) }
    let s := if m.ebWb ∧ (toHome ∨ h.opc = 2) then
        (List.range 4).foldl (fun s k => if (4 * d + k, m.ca) ∈ s.coh.wbs then s.discardWb (4 * d + k) m.ca else s) s
      else s
    s.homeReady h

/-- `DAT_HOME` for a waiting transaction. -/
def State.datHome (s : State) (m : Msg) : State :=
  match s.coh.homes.find? fun h => decide (h.line = m.ca) && !h.parked && (decide (h.came < h.promised) || decide (h.dies ≠ 0)) with
  | none => s
  | some h =>
    s.homeReady { h with came := h.came + 1, dirty := if m.dirty then some (slice m.data 0 64) else h.dirty }

/-- `STASH_REFUSE` (R267): the data goes to memory or to the host, the entry is freed. -/
def State.stashRefused (s : State) (m : Msg) : State :=
  match s.coh.homes.find? fun h => decide (h.line = m.ca) && h.stash with
  | none => s
  | some h =>
    let h := { h with stash := false }
    if isDev h.line then (s.memWrite h.line fullMask h.bytes (s.slotClass h.slot)).endWrite h
    else s.hostAsk h 5 h.bytes

/-! ### Memory and host answers -/

/-- What an uncorrected read leaves of a grant: nothing is installed (R260), so nobody owns the line by it; `PRES` may name a die that holds no copy
(R247). -/
def State.ungrant (s : State) (h : HTxn) : State :=
  if h.opc = 1 ∨ h.opc = 2 then
    let e := s.ent h.line
    if h.src = 0x21 then s.setEnt h.line { e with hub := false } else s.setEnt h.line { e with owned := false }
  else s

/-- The memory read of a transaction returns (R260, R298). -/
def State.memReturn (s : State) (h : HTxn) (err : Bool) : State :=
  let r := s.memRead h.line (s.slotClass h.slot)
  let bad := err || r.2.1
  let s := r.2.2
  let s := if bad then
      (s.readUc (dpaOf h.line) h.slot).ungrant h
    else s
  (s.homeSend h.line 0xC0 h.src h.txn r.1 bad).setH { h with memWait := false }

/-- The host's answer to a transaction's request (R268, R269): data for a read, acceptance for a write or eviction. -/
def State.hostReturn (s : State) (h : HTxn) (data : Bytes) (err : Bool) : State :=
  let h0 := { h with host := none, hostSent := false }
  let give (s : State) (code : Nat) (h : HTxn) : State :=
    let s := if code = 0x83 then s.homeSend h.line 0x83 h.src h.txn else s.grantRead h code
    let s := if err then s.ungrant h else s
    (s.homeSend h.line 0xC0 h.src h.txn (slice data 0 64) err).setH { h with ack := true }
  -- a read that failed leaves nothing to write (06 R237)
  let merge (s : State) : State :=
    if err then s.endWrite h0 else s.hostAsk { h0 with mask := h.mask } 6 (maskMerge h.mask (slice data 0 64) h.bytes)
  match h.opc, h.host with
  | 1, _ => give s 0x80 h0
  | 2, _ => give s 0x82 h0
  | 3, _ => give s 0x83 h0
  | 5, some 2 => merge s
  | 5, some 4 => merge s
  | 7, some 3 => (s.setEnt h.line { s.ent h.line with hgrant := 2 }).sendStash h0
  | _, _ => s.hostTook h0

/-! ### The requester (R257, R258, R260) -/

/-- The pieces of transfers that satisfy `hit` (carrel, tag, piece) no longer wait for a line of wing `w`; the slots they belong to end with a status. -/
def State.failPieces (s : State) (w l status : Nat) (hit : Nat → Nat → Piece → Bool) : State :=
  let out (p : Nat) (x : Xfer) (y : Nat × Piece) : Bool := decide (y.1 = l) && hit p x.tag y.2
  let slots := s.car.flatMap fun e => if e.1 / 144 = w then (e.2.xfers.filter fun x => x.wait.any (out e.1 x)).map (·.slot) else []
  let s : State := { s with car := tmap carDef (fun p x =>
    if p / 144 = w then { x with xfers := x.xfers.map fun x => { x with wait := x.wait.filter fun y => !out p x y } } else x) s.car }
  slots.foldl (fun s n => s.endSlot n { status := status }) s

/-- A wing's read ends with an error: what consumed it is abandoned, and its slot ends with `MEM_UNCORRECTED`, or with the status given (R260, R283, 06 R237).
That is the piece of a bypassing access, `who`; of a fill every piece that waits for the line with no request of its own. -/
def State.failLine (s : State) (w l status : Nat) (who : Option (Nat × Nat × Piece)) : State :=
  match who with
  | some (p, tag, pc) => s.failPieces w l status fun q t y => decide (q = p ∧ t = tag ∧ y = pc)
  | none => s.failPieces w l status fun q t y =>
      !(s.coh.txns.any fun x => decide (x.agent = w) && decide (x.line = l) && decide (x.who = some (q, t, y)))

/-- One bypassing piece is done: the bytes read go into the carrel's store, unless its transfer has been abandoned. -/
def State.pieceDone (s : State) (t : Txn) (p tag : Nat) (pc : Piece) (data : Option Bytes) : State :=
  let owed : Bool := (s.carrel p).xfers.any fun f => decide (f.tag = tag) && decide ((t.line, pc) ∈ f.wait)
  let s := match data with
    | some d => if owed then s.setMem p ((s.mem p).write pc.loc (slice d t.off pc.len)) else s
    | none => s
  let x := s.carrel p
  s.setCarrel p { x with xfers := x.xfers.map fun f => if f.tag = tag then { f with wait := f.wait.filter fun e => decide (e ≠ (t.line, pc)) } else f }

/-- The function of a slot of the call-slip engine; 64 + q stands for queue pair q. -/
def State.engFn (s : State) (n : Nat) : Nat := if n < 64 then s.fnOf n else s.qpPart (n - 64) + 1

/-- The engine gives up its copy of a line: dirty data is written back (DirtyEvict), a clean copy dropped (CleanEvict). A write-back waits at the home for a
transaction of its line (R245) and for its function's right to request (06 R231), and answers snoops with its data; with `now` the latter does not gate it
(06 R212, R235). -/
def State.engDrop (s : State) (f l : Nat) (dirty : Option Bytes) (now : Bool := false) : State :=
  let e := s.ent l
  if isDev l then
    let s := match dirty with | some d => s.memWrite l fullMask d none | none => s
    s.setEnt l { e with hub := false }
  else
    match dirty with
    | some d =>
      if s.transient l then s.addWb f l d
      else if now ∨ s.mayRequest f then (s.evictDirty f l d).freeEnt l
      else
        let h : HTxn := { opc := 8, src := 0x21, txn := 0, line := l, bytes := d, fn := some f }
        ((s.setEnt l { e with hub := false }).addH h).hostAsk h 6 d
    | none =>
      if e.pres = 0 ∧ !e.owned ∧ !s.transient l then
        (if now then (if s.gb DEV_STATUS.SAFE then s else s.hostEvict f 7 l []) else s.evictClean f 7 l).freeEnt l
      else s.setEnt l { e with hub := false }

/-- The engine's requests of an opcode for a slot that are out are given up: what they bring is dropped at once (05 R179). -/
def State.engForget (s : State) (n opc : Nat) : State :=
  { s with coh := { s.coh with txns := s.coh.txns.map fun t => if t.agent = 0x21 ∧ t.slot = n ∧ t.opc = opc then { t with orphan := true } else t } }

/-- The call-slip engine has its line (05 R165, R170); an owned one is Modified where another's dirty data came with it (R251). -/
def State.engGot (s : State) (t : Txn) (data : Bytes) (err : Bool) : State :=
  let x := s.csOf t.slot
  if t.orphan then (if err then s else s.engDrop (s.engFn t.slot) t.line (if t.dirty then some data else none))
  else if t.opc = 1 then
    let x := { x with reading := false }
    if 64 ≤ t.slot then
      let y := s.qpOf (t.slot - 64)
      s.setQp (t.slot - 64) { y with reading := false, held := !err, got := if err then none else some data }
    else if err then (s.setCs t.slot x).p CS_STATUS.STATE t.slot 4
    else s.setCs t.slot { x with slipS := true, got := some data }
  else if err then (s.setCs t.slot { x with owning := false }).p CS_STATUS.STATE t.slot 4
  else s.setCs t.slot { x with owning := false, dlv := if t.dirty then 3 else 2, dlvData := data }

/-- The transaction of a message at its requester. -/
def State.txnOf (s : State) (m : Msg) : Option Txn :=
  s.coh.txns.find? fun t => decide (t.agent = m.dst) && decide (t.txn = m.txn) && decide (t.line = m.ca)

/-- A read that has its grant and its data: `CMP_ACK`, and the line installed, or the bytes delivered. A cache that has failed takes no line (R284). -/
def State.readDone (s : State) (t : Txn) (code : Nat) (data : Bytes) : State :=
  let s := (s.dropTxn t).send { opc := 0x89, src := t.agent, dst := 0x40 + homeOf t.line, txn := t.txn, ca := t.line }
  if t.agent = 0x21 then s.engGot t data t.err
  else if 32 ≤ t.agent then s
  else
    match t.who with
    | some (p, tag, pc) =>
      if t.err then s.failLine t.agent t.line 4 t.who else s.pieceDone t p tag pc (some data)
    | none =>
      if t.err then s.failLine t.agent t.line 4 none
      else if s.g WING_CACHE_STATUS.STATE t.agent = 5 then s.unwait t.agent t.line
      else
        let st := match code with | 0x80 => 1 | 0x81 => 2 | _ => 4
        let s := (s.wInstall t.agent t.line st t.way data (s.fnOf t.slot)).unwait t.agent t.line
        if s.g WING_CACHE_STATUS.STATE t.agent = 3 then s.walkWing t.agent else s

/-- A read goes on when both its parts are there. -/
def State.readStep (s : State) (t : Txn) : State :=
  match t.grant, t.data with
  | some code, some d => s.readDone t code d
  | _, _ => s.putTxn t

/-- A grant arrives. -/
def State.granted (s : State) (m : Msg) : State :=
  match s.txnOf m with
  | some t => s.readStep { t with grant := some m.opc }
  | none => s.send { opc := 0x89, src := m.dst, dst := m.src, txn := m.txn, ca := m.ca }

/-- Data arrives. -/
def State.dataCame (s : State) (m : Msg) : State :=
  match s.txnOf m with
  | some t => s.readStep { t with data := some (slice m.data 0 64), err := m.err, dirty := m.dirty }
  | none => s

/-- `CMP_W` (R258, R275): the piece is done; a write-through's own copy takes the bytes and is S. -/
def State.written (s : State) (m : Msg) : State :=
  match s.txnOf m with
  | none => s
  | some t =>
    let s := s.dropTxn t
    if 32 ≤ t.agent then s
    else
      let x := s.wline t.agent t.line
      let s := if t.opc = 6 ∧ x.st ≠ 0 then s.setWline t.agent t.line { x with st := 1, data := maskMerge t.mask x.data t.bytes } else s
      match t.who with
      | some (p, tag, pc) => s.pieceDone t p tag pc none
      | none => s

/-- `RS_ERR` (R283). -/
def State.lostData (s : State) (m : Msg) : State :=
  match s.txnOf m with
  | none => s
  | some t =>
    let s := s.dropTxn t
    if t.agent = 0x21 then s.engGot t [] true
    else if 32 ≤ t.agent then s
    else s.failLine t.agent t.line 4 t.who

/-! ### Lines lost (R282, R283) -/

/-- An uncorrected error in an M or O line of device memory: the wing drops the line, the home sets `LOST`; beyond 16 in a slice or 4 in a
set it is a FATAL error of class 3. -/
def State.loseLine (s : State) (l : Nat) : State :=
  let e := s.ent l
  let lost := s.coh.cat.filter fun x => x.2.lost && decide (homeOf x.1 = homeOf l)
  let inSet := lost.filter fun x => decide (catSet x.1 = catSet l)
  if 16 ≤ lost.length ∨ 4 ≤ inSet.length then
    let sl := homeOf l
    s.raise { source := srcId 3 (sl % 32) (2 + 64 * (sl / 32)), info0 := l }
  else s.setEnt l { e with way := max 1 e.way, owned := false, lost := true }

/-! ### Agents without caches (R267)

The intake, the network receive paths, the walker and the management cores read stable lines, and write stable lines of device memory or posted, in
one step; other writes are transactions of the home, one at a time for each function. -/



/-- `RD_ONCE` in one step: the owner's data, device memory, or the host bytes `hb` that came with the command. -/
def State.hubRead (s : State) (l : Nat) (cls : Option Nat) (hb : Bytes) : Bytes × Bool × State :=
  let e := s.ent l
  if e.lost then (zeros 64, true, s)
  else
    let dies := (if e.owned then 2 ^ e.owner else 0) + 256 * b2n e.hub
    let r := s.snoopAll l 0x43 dies
    match r.2.1 with
    | some d => (d, false, r.2.2)
    | none =>
      if isDev l then
        let m := r.2.2.memRead l cls
        (m.1, m.2.1, if m.2.1 then m.2.2.readUc (dpaOf l) noSlot else m.2.2)
      else (slice hb 0 64, false, r.2.2)

/-- The lines of a byte range are all stable: an agent without a cache may read them in one step. -/
def State.stableRange (s : State) (ca n : Nat) : Bool :=
  (List.range ((ca + n - 1) / 64 + 1 - ca / 64)).all fun i => !s.transient (ca / 64 + i)

/-- `WR_NA` or `WR_NA_PART` of a stable line in one step: every copy is invalidated, dirty data merged, the line written to device memory, or posted to
the host under function `f`. A part of a lost line is not written (R283). -/
def State.hubWrite (s : State) (f l mask : Nat) (data : Bytes) (cls : Option Nat) (xl : Bool) : State :=
  let e := s.ent l
  if e.lost ∧ mask ≠ fullMask then s
  else
    let r := s.snoopAll l 0x42 (CatEnt.holders e)
    let s := r.2.2.freeEnt l
    let m := if r.2.1.isSome then fullMask else mask
    let d := match r.2.1 with | some o => maskMerge mask o data | none => data
    if isDev l then s.memWrite l m d cls else s.postWrite f l m d xl

/-- A write of bytes in one line by function `f` is made, when it may be: none while it must wait for its line, for a tracker, for Bus Master Enable or
for an earlier write of the function. -/
def State.hubGo (s : State) (f : Nat) (h : HeldW) : Option State :=
  let l := h.ca / 64
  let mask := byteMask (h.ca % 64) h.bytes.length
  let data := lineWrite (zeros 64) (h.ca % 64) h.bytes
  let may := s.mayRequest f && !s.hubBusy f
  if h.posted then (if may then some (s.toHost (.hostWrite f h.ca h.bytes h.xl)) else none)
  else if s.transient l then none
  else if isDev l then some (s.hubWrite f l mask data h.cls h.xl)
  else if !may then none
  else if !s.cacheEn then some (s.hubWrite f l mask data h.cls h.xl)
  else if 48 ≤ s.trackers (homeOf l) then none
  else
    let t : HTxn := { opc := if mask = fullMask then 4 else 5, src := 0x20, txn := 256 + f, line := l, mask := mask, bytes := data,
                      fn := some f, hub := some h }
    some ((s.addH t).homeEnter t)

/-- The home turns an agent's request for a line away: the line is transient, or no request tracker is free (R265). -/
def State.homeFull (s : State) (l : Nat) : Bool := s.transient l || decide (48 ≤ s.trackers (homeOf l))

/-- A write of bytes in one line: made now, or held behind the function's earlier ones (log entry 83). A write of device memory passes those. The home's
first refusal is counted (R265). -/
def State.hubPut (s : State) (f : Nat) (h : HeldW) : State :=
  if (s.fn f).held = [] ∨ isDev (h.ca / 64) then
    match s.hubGo f h with
    | some t => t
    | none => (if !h.posted && s.homeFull (h.ca / 64) then s.bump HOME_COUNTS.NACKS (homeOf (h.ca / 64)) else s).holdWrite f h
  else s.holdWrite f h

/-- The pieces of a byte range by line: line, offset, length. -/
def linesOf (ca n : Nat) : List (Nat × Nat × Nat) :=
  if n = 0 then []
  else (List.range ((ca + n - 1) / 64 - ca / 64 + 1)).map fun i =>
    let lo := max ca (64 * (ca / 64 + i))
    let hi := min (ca + n) (64 * (ca / 64 + i + 1))
    (ca / 64 + i, lo % 64, hi - lo)

/-- A write of bytes at a coherence address by an agent without a cache, line by line. -/
def State.hubStore (s : State) (f : Nat) (h : HeldW) : State :=
  (linesOf h.ca h.bytes.length).foldl (fun s e =>
    let o := e.1 * 64 + e.2.1 - h.ca
    s.hubPut f { h with ca := h.ca + o, bytes := slice h.bytes o e.2.2, va := h.va + o }) s

/-- A read of bytes by an agent without a cache; `hb` holds what the host supplied for the range. -/
def State.hubLoad (s : State) (ca n : Nat) (cls : Option Nat) (hb : Bytes) : Bytes × Bool × State :=
  (linesOf ca n).foldl (fun a e =>
    let o := e.1 * 64 + e.2.1 - ca
    let r := a.2.2.hubRead e.1 cls (lineWrite (zeros 64) e.2.1 (slice hb o e.2.2))
    (a.1 ++ slice r.1 e.2.1 e.2.2, a.2.1 || r.2.1, r.2.2)) ([], false, s)

/-! ### Host lines that leave every cache (06 R211, R212, R235) -/

/-- Dirty data of a line that leaves every cache goes to memory or to the host, once its function may request (06 R231). -/
def State.putBack (s : State) (f l : Nat) (data : Bytes) : State :=
  if isDev l then s.memWrite l fullMask data else if s.mayRequest f then s.evictDirty f l data else s.addWb f l data

/-- The host lines in the wings' caches and eviction buffers that satisfy `p`. -/
def State.hostLines (s : State) (p : Nat → Nat → Bool) : List Nat :=
  ((List.range 32).flatMap fun w =>
    ((s.wing w).lines.filter fun e => !isDev e.1 && p e.2.st e.2.fn).map (·.1)
      ++ ((s.wing w).eb.filter fun e => !isDev e.line && p e.st e.fn).map (·.line)).eraseDups

/-- A stable host line leaves every cache: dirty data is written back, a clean line given up (06 R212, R235). These evictions are not gated. -/
def State.flushLine (s : State) (l : Nat) : State :=
  let f := s.lineFn l
  let e := s.ent l
  let r := s.snoopAll l 0x42 (CatEnt.holders e)
  match r.2.1 with
  | some d => (r.2.2.evictDirty f l d).freeEnt l
  | none => ((if e.hgrant = 0 ∨ s.gb DEV_STATUS.SAFE then r.2.2 else r.2.2.hostEvict f 8 l []).freeEnt l)

/-- Clean evictions of host lines that wait for the right to request leave, those of functions that satisfy `p`. -/
def State.flushOwed (s : State) (p : Nat → Bool) : State :=
  (s.coh.owed.filter fun e => p e.1).foldl (fun s e => if s.gb DEV_STATUS.SAFE then s else s.hostEvict e.1 e.2.1 e.2.2 [])
    { s with coh := { s.coh with owed := s.coh.owed.filter fun e => !p e.1 } }

end Sys2Proof.Machine
end

