-- ==== Sys2Proof/Machine/Xlat.lean ====
section
/-!
DEFINITION. Translation (09 R323 to R343): buffers and their fill, the lending table's lookup, ATS and page requests, faults and the fault
log, and the withdrawal of translations.
-/
namespace Sys2Proof.Machine

/-- Bytes an entry covers: 2^merge pages of its size (R326). -/
def XlEnt.span (e : XlEnt) : Nat := 2 ^ (e.size + e.merge)

/-- The entry translates `va` under `pasid`. -/
def XlEnt.hits (e : XlEnt) (pasid va : Nat) : Bool :=
  decide (e.pasid = pasid) && decide (e.va ≤ va) && decide (va < e.va + 2 ^ (e.size + e.merge))

/-- The first entry that translates an address. -/
def xlFind (b : List XlEnt) (pasid va : Nat) : Option XlEnt := b.find? fun e => XlEnt.hits e pasid va

/-- Two entries are the halves of one aligned run (R326). -/
def buddies (a b : XlEnt) : Bool :=
  let n := 2 ^ (a.size + a.merge)
  decide (a.pasid = b.pasid) && decide (a.fn = b.fn) && decide (a.size = b.size) && decide (a.merge = b.merge) && decide (a.merge < 4)
    && decide (a.r = b.r) && decide (a.w = b.w) && decide (a.lent = b.lent)
    && (if a.va / n % 2 = 0 then decide (b.va = a.va + n) && decide (b.ca = a.ca + n) && decide (a.ca % (2 * n) = 0)
        else decide (a.va = b.va + n) && decide (a.ca = b.ca + n) && decide (b.ca % (2 * n) = 0))

/-- An entry put first, merged with its other half while there is one; the merged entry keeps the older entry's epoch. -/
def mergeIn : Nat → List XlEnt → XlEnt → List XlEnt
  | 0, b, e => e :: b
  | k + 1, b, e =>
    match b.find? (buddies e) with
    | some o =>
      mergeIn k (b.filter fun x => decide (x ≠ o)) { o with va := min o.va e.va, ca := min o.ca e.ca, merge := e.merge + 1 }
    | none => e :: b

/-- A buffer with an entry put first; an older entry of the same page goes. -/
def xlPut (b : List XlEnt) (e : XlEnt) : List XlEnt :=
  mergeIn 5 (b.filter fun x => !(decide (x.pasid = e.pasid) && decide (x.va < e.va + 2 ^ (e.size + e.merge))
    && decide (e.va < x.va + 2 ^ (x.size + x.merge)))) e

/-- A fully associative buffer of `cap` entries after a fill: the last ones in its order beyond the capacity go. -/
def xlFill (cap : Nat) (b : List XlEnt) (e : XlEnt) : List XlEnt := (xlPut b e).take cap

/-- The second level after a fill (R327): 256 sets of 8 ways, in each of which the entry filled longest ago goes first (log entry 85). -/
def l2Fill (b : List XlEnt) (e : XlEnt) : List XlEnt :=
  let set (x : XlEnt) : Nat := Config.l2Set x.pasid x.va x.size % 256
  let b := xlPut b e
  if b.length ≤ 8 then b
  else b.foldl (fun a x => if (a.filter fun y => decide (set y = set x)).length < 8 then a ++ [x] else a) []

/-- The carrel buffer after a hit (R327): the entry used last stands first (log entry 85). -/
def xlTouch (b : List XlEnt) (e : XlEnt) : List XlEnt := e :: b.filter fun x => decide (x ≠ e)

/-- The answer of a translation. -/
inductive XRes where
  | ok (ca : Nat)
  | wait
  | fault (code : Nat)
deriving DecidableEq, Repr

/-- The lending-table entry of a granule (R344, R345). -/
def State.lendFind (s : State) (part pasid va : Nat) : Option LendEnt :=
  (s.lendOf part).find? fun e => decide (e.pasid = pasid) && decide (e.vpn = va / 2 ^ 21)

/-- The granule of an address is being copied or dropped: accesses wait (R344). -/
def State.moving (s : State) (part pasid va : Nat) : Bool :=
  match s.lendFind part pasid va with
  | some e => decide (e.state = 1 ∨ e.state = 4 ∨ e.state = 5)
  | none => false

/-! ### The table in device memory (R327, R345) -/

/-- The number of buckets of a partition's lending table (R345, R360). -/
def State.buckets (s : State) (part : Nat) : Nat := 2 ^ s.g LT_PART.LOG2_B part

/-- The home bucket of a key (R345). -/
def State.bucketOf (s : State) (part pasid vpn : Nat) : Nat :=
  (bits vpn 17 0 ^^^ bits vpn 35 18 ^^^ bits pasid 17 0 ^^^ (bits pasid 19 18 * 2 ^ 16)) % s.buckets part

/-- The line of device memory that holds a bucket. -/
def State.tableLine (s : State) (part bucket : Nat) : Nat := 2 ^ 46 + s.g LT_PART.BASE_FRAME part * 32768 + bucket

/-- A bucket's occupancy bit. -/
def State.occupied (s : State) (part bucket : Nat) : Bool := (s.lendOf part).any fun e => decide (e.bucket = bucket)

/-- The walker reads the occupied ones of a key's two buckets through the reserve (R305, R327): whether a word of them was uncorrected. -/
def State.walkTable (s : State) (part pasid va : Nat) : Bool × State :=
  let h := s.bucketOf part pasid (va / 2 ^ 21)
  ([h, (h + 1) % s.buckets part].eraseDups).foldl (fun a b =>
    if a.2.occupied part b then
      let l := a.2.tableLine part b
      let r := a.2.memRead l (some 1)
      if r.2.1 then (true, r.2.2.readUc (dpaOf l) noSlot) else (a.1, r.2.2)
    else a) (false, s)

/-- The coherence address of byte `off` of a frame: device addresses have CA[52] = 1. -/
def frameCa (frame off : Nat) : Nat := 2 ^ 52 + frame * 2 ^ 21 + off

/-! ### Faults and the fault log (R338 to R340) -/

/-- One entry of the fault log ring, or its count when the ring is full or off. -/
def State.logFault (s : State) (part cause va pasid : Nat) (w : Bool) (who : Waiter) : State :=
  let x := s.xlOf part
  let tail := s.g FLOG_STATUS.TAIL part
  let used := (tail + 2048 - s.g FLOG_HEAD.HEAD part) % 2048
  if s.gb FLOG_CFG.ENABLE part ∧ used < 1024 then
    let ai := match who.source with
      | 0 => match s.slotOfShelf (who.carrel / 16) with
        | some n => 16 * ((s.slot n).allot.idxOf (who.carrel / 16)) + who.carrel % 16
        | none => 0
      | _ => 0
    let e := natLe 8 va ++ natLe 4 (pasid % 2 ^ 20 + cause * 2 ^ 24) ++ natLe 1 who.source
      ++ natLe 1 (b2n (decide (tail / 1024 = 0)) + 2 * b2n w) ++ natLe 1 (if who.slot < 64 then who.slot else 0xFF) ++ zeros 1 ++ natLe 8 s.now
      ++ natLe 2 ai ++ zeros 2 ++ natLe 4 x.unlogged
    let s := s.hostWrite (part + 1) { ca := s.g FLOG_BASE.ADDR part * 4096 + 32 * (tail % 1024), bytes := e, xl := false }
    let s := s.setXl part { x with unlogged := 0 }
    let s := s.p FLOG_STATUS.TAIL part ((tail + 1) % 2048)
    if s.gb FLOG_CFG.IRQ part then s.vec (part + 1) (s.g FLOG_CFG.VEC part) else s
  else
    let s := s.setXl part { x with unlogged := satAdd 32 x.unlogged 1 }
    let s := s.bump FLOG_STATUS.DROPPED part
    if s.gb FLOG_CFG.ENABLE part then
      let s := s.p FLOG_STATUS.OVERFLOW part 1
      if s.gb FLOG_CFG.IRQ part then s.vec (part + 1) (s.g FLOG_CFG.VEC part) else s
    else s

/-- A queue halts with an error (05 R184, R195): what was fetched or is being fetched is dropped, for `RESUME` fetches again at the head. -/
def State.haltQueue (s : State) (q err : Nat) : State :=
  let s := s.setQueue q { s.queue q with cur := none, stale := 0, pre := none }
  let s := ((s.giveUpRing q).p Q_STATUS.STATE q 2).p Q_STATUS.ERROR q err
  if q < 64 ∧ s.gb Q_CFG.ERR_IRQ q then s.vec (s.fnOf q) (s.g Q_CFG.ERR_VEC q) else s

/-- `SQ_HEAD` goes on by one descriptor. -/
def State.headOn (s : State) (q : Nat) : State :=
  let h := s.g Q_STATUS.SQ_HEAD q + 1
  let s := if h = 2 ^ s.g Q_CFG.SQ_LOG2 q then (s.p Q_STATUS.SQ_HEAD q 0).p Q_STATUS.SQ_GEN q (1 - s.g Q_STATUS.SQ_GEN q)
    else s.p Q_STATUS.SQ_HEAD q h
  let x := s.queue q
  s.setQueue q { x with avail := x.avail - 1, cur := none, pre := none }

/-- The read of a descriptor's list is over: the descriptor has ended (R331). -/
def State.dropListRead (s : State) (q : Nat) : State := match s.readOf (.list q) with | some r => s.dropReq r.tag | none => s

/-- A ring's translation or read has failed (05 R195): the queue halts. One that drains reports the error and gives up the records it cannot write; one that is
`OFF` has no ring (log entry 107). -/
def State.ringFault (s : State) (q : Nat) : State :=
  let st := s.g Q_STATUS.STATE q
  if st = 0 then s
  else if st = 3 then ((s.setQueue q { s.queue q with hold := none, owed := [] }).giveUpRing q).p Q_STATUS.ERROR q 4
  else s.haltQueue q 4

/-- What a translation that fails ends, with a status (R336, 08 R298): the slot's invocation; the descriptor being accessioned, or the queue for a ring
access; the call-slip pair, or, of one that disarms, its last delivery (log entry 106); the access to a window; the lending operation. Of the intake's work, `aux` 1 is an access to the submission ring, 4 one to the completion ring, 3 concerns the first
accessioned descriptor. -/
def State.faultWork (s : State) (who : Waiter) (status : Nat := 7) : State :=
  match who.source with
  | 0 => s.endSlot who.slot { status := status }
  | 1 =>
    let x := s.queue who.slot
    if who.aux = 4 ∨ (who.aux = 1 ∧ s.g Q_STATUS.STATE who.slot = 1) then s.ringFault who.slot
    else if who.aux = 1 then s
    else if who.aux = 3 then
      match x.accs with
      | d :: ds => s.setQueue who.slot { x with accs := { d with fail := some (d.fail.getD { status := status }) } :: ds, re := none }
      | [] => s
    else
      match x.cur with
      | some b =>
        let s := (s.headOn who.slot).dropListRead who.slot
        let x := s.queue who.slot
        s.setQueue who.slot { x with accs := x.accs ++ [{ bytes := b, fail := some { status := status } }] }
      | none => s
  | 2 =>
    let n := who.slot
    let st := s.g CS_STATUS.STATE n
    if st = 1 ∨ st = 2 ∨ st = 3 then s.p CS_STATUS.STATE n 4
    else if st = 5 ∧ (s.csOf n).report.isSome then s.setCs n { s.csOf n with report := none, running := false }
    else s
  | 4 => { s with cas := { s.cas with held := s.cas.held.map fun x => if x.id = who.aux then { x with failed := true } else x } }
  | 5 => s.setQueue who.slot { s.queue who.slot with lend := { (s.queue who.slot).lend with fault := some status } }
  | _ => s

/-- A non-recoverable fault: logged, then its work ends. Cause 0 stands for an uncorrected read of the walker, which is no translation fault: it is not
logged, and what it ends ends with `MEM_UNCORRECTED` (08 R298). -/
def State.xlFault (s : State) (part cause va pasid : Nat) (w : Bool) (who : Waiter) : State :=
  if cause = 0 then s.faultWork who 4 else (s.logFault part cause va pasid w who).faultWork who

/-! ### ATS and page requests (R330, R333 to R335) -/

/-- Those of some waiters whose work has not ended: a slot's invocation that is ending waits no longer (04 R148). -/
def State.liveWho (s : State) (who : List Waiter) : List Waiter :=
  who.filter fun u => !(decide (u.source = 0) && (decide ((s.slot u.slot).inv = none) || (s.slot u.slot).ending.isSome))

/-- The waits of a slot or queue that satisfy `p` are forgotten: what they were for is over, and answers for it are discarded. -/
def State.forgetThose (s : State) (n : Nat) (p : Waiter → Bool) : State :=
  match s.partOf n with
  | none => s
  | some part =>
    let x := s.xlOf part
    let rid (l : List Waiter) : List Waiter := l.filter fun u => !(decide (u.slot = n) && p u)
    s.setXl part { x with ats := x.ats.map (fun r => { r with who := rid r.who }), prs := x.prs.map (fun r => { r with who := rid r.who }),
                          queued := x.queued.map fun r => { r with who := rid r.who } }

/-- The waits of a slot under a source are forgotten. -/
def State.forgetWho (s : State) (n source : Nat) : State := s.forgetThose n fun u => decide (u.source = source)

/-- The waits of a slot's movers are forgotten: its invocation is over, and answers for it are discarded (04 R148). -/
def State.forgetWaits (s : State) (n : Nat) : State := s.forgetWho n 0

/-- A Translation Request for the 64 KiB range that holds the page; a request already out takes the waiter. It leaves once the function may request
(06 R231). -/
def State.atsAsk (s : State) (part pasid va : Nat) (w : Bool) (retry : Nat) (who : List Waiter) : State :=
  let x := s.xlOf part
  if x.ats.any (fun r => decide (r.pasid = pasid) && decide (r.va / 4096 = va / 4096) && decide (r.w = w)) then
    s.setXl part { x with ats := x.ats.map fun r =>
      if r.pasid = pasid ∧ r.va / 4096 = va / 4096 ∧ r.w = w then { r with who := (r.who ++ who).eraseDups } else r }
  else
    let go := s.mayRequest (part + 1)
    let s := s.setXl part { x with ats := x.ats ++ [{ pasid := pasid, va := va, w := w, retry := retry, who := who, sent := go }] }
    if go then (s.bump XL_COUNTS.ATS_REQS part).emit (.atsReq (part + 1) pasid (va / 65536 * 65536) w) else s

/-- A Translation Request that is to be made again; while ATS Enable is 0 those who wait for it meet `ATS_OFF` (R325). -/
def State.atsTry (s : State) (part pasid va : Nat) (w : Bool) (retry : Nat) (who : List Waiter) : State :=
  if (s.fn (part + 1)).atsEn then s.atsAsk part pasid va w retry who else who.foldl (fun s u => s.xlFault part 3 va pasid w u) s

/-- Translation Requests that waited for Bus Master Enable leave; while ATS Enable is 0 they end with `ATS_OFF` (R325). -/
def State.atsResend (s : State) (part : Nat) : State :=
  let x := s.xlOf part
  let l := x.ats.filter fun r => !r.sent
  if l = [] then s
  else if !(s.fn (part + 1)).atsEn then
    l.foldl (fun s r => (s.liveWho r.who).foldl (fun s u => s.xlFault part 3 r.va r.pasid r.w u) s)
      (s.setXl part { x with ats := x.ats.filter (·.sent) })
  else if !s.mayRequest (part + 1) then s
  else l.foldl (fun s r => (s.bump XL_COUNTS.ATS_REQS part).emit (.atsReq (part + 1) r.pasid (r.va / 65536 * 65536) r.w))
    (s.setXl part { x with ats := x.ats.map fun r => { r with sent := true } })

/-- A page request is sent under a PRG index that no outstanding one has: outstanding from now on. -/
def State.prSend (s : State) (part : Nat) (r : PageReq) : State :=
  let x := s.xlOf part
  let k := (((List.range 512).map fun i => (x.nextPrg + i) % 512).find? fun k => x.prs.all fun y => decide (y.prg ≠ k)).getD x.nextPrg
  let s := s.setXl part { x with prs := x.prs ++ [{ r with prg := k }], nextPrg := (k + 1) % 512 }
  let s := s.bump XL_COUNTS.PAGE_REQS part
  s.emit (.pageReq (part + 1) r.pasid (r.va / 4096 * 4096) r.w k)

/-- Slots wait for a queued page request in `FAULT_WAIT` (R334, 04 R147), a paused one once it goes on. -/
def State.faultWait (s : State) (who : List Waiter) : State :=
  who.foldl (fun s u =>
    if u.source ≠ 0 then s
    else if s.g SLOT_STATUS.STATE u.slot = 3 then s.p SLOT_STATUS.STATE u.slot 4
    else if s.g SLOT_STATUS.STATE u.slot = 5 ∧ (s.slot u.slot).left = some 3 then s.setSlot u.slot { s.slot u.slot with left := some 4 } else s) s

/-- Slots whose queued page request has been sent run again, unless another one of theirs is queued still. -/
def State.faultGo (s : State) (part : Nat) (who : List Waiter) : State :=
  who.foldl (fun s u =>
    if u.source ≠ 0 ∨ (s.xlOf part).queued.any (fun r => r.who.any fun v => decide (v.source = 0) && decide (v.slot = u.slot)) then s
    else if s.g SLOT_STATUS.STATE u.slot = 4 then s.p SLOT_STATUS.STATE u.slot 3
    else if s.g SLOT_STATUS.STATE u.slot = 5 ∧ (s.slot u.slot).left = some 4 then s.setSlot u.slot { s.slot u.slot with left := some 3 } else s) s

/-- A page that is not present or lacks the right (R333 to R335): one request per PASID, page and right; queued beyond the allocation, or while the
function may not request (06 R231). -/
def State.prAsk (s : State) (part pasid va : Nat) (w : Bool) (retry : Nat) (who : List Waiter) : State :=
  let x := s.xlOf part
  let same (r : PageReq) : Bool := decide (r.pasid = pasid) && decide (r.va / 4096 = va / 4096) && decide (r.w = w)
  let full := decide ((s.fn (part + 1)).prAlloc ≤ x.prs.length)
  if !(s.fn (part + 1)).priEn then who.foldl (fun s u => s.xlFault part 4 va pasid w u) s
  else if s.gb XL_STATUS.PRI_STOPPED part then who.foldl (fun s u => s.xlFault part 7 va pasid w u) s
  else if x.prs.any same then
    s.setXl part { x with prs := x.prs.map fun r => if same r then { r with who := (r.who ++ who).eraseDups } else r }
  else if x.queued.any same then
    let s := s.setXl part { x with queued := x.queued.map fun r => if same r then { r with who := (r.who ++ who).eraseDups } else r }
    if full then s.faultWait who else s
  else
    let r : PageReq := { prg := 0, pasid := pasid, va := va, w := w, retry := retry, who := who }
    if !full && decide (x.queued = []) && s.mayRequest (part + 1) then s.prSend part r
    else
      let s := s.setXl part { x with queued := x.queued ++ [r] }
      if full then s.faultWait who else s

/-- Queued page requests are sent in order of arrival while the allocation has room and the function may request; their slots run again (R334). One for
which nothing waits any longer is dropped. -/
def State.prDrain : Nat → State → Nat → State
  | 0, s, _ => s
  | k + 1, s, part =>
    let x := s.xlOf part
    match x.queued with
    | [] => s
    | r :: rs =>
      if s.liveWho r.who = [] then State.prDrain k (s.setXl part { x with queued := rs }) part
      else if x.prs.length < (s.fn (part + 1)).prAlloc ∧ s.mayRequest (part + 1) then
        State.prDrain k (((s.setXl part { x with queued := rs }).prSend part r).faultGo part r.who) part
      else if (s.fn (part + 1)).prAlloc ≤ x.prs.length then s.faultWait (x.queued.flatMap (·.who))
      else s

/-! ### Withdrawal (R332, R341) -/

/-- An entry is covered by a withdrawal of function `f`: all that the function asked for, or what overlaps the range under the PASID. -/
def covers (f : Nat) (glob : Bool) (pasid va size : Nat) (e : XlEnt) : Bool :=
  if glob then decide (e.fn = f) else decide (e.pasid = pasid) && decide (va < e.va + 2 ^ (e.size + e.merge)) && decide (e.va < va + size)

/-- Step 2 of R341: the matching entries leave every buffer. -/
def State.purge (s : State) (f : Nat) (glob : Bool) (pasid va size : Nat) : State :=
  let keep (b : List XlEnt) : List XlEnt := b.filter fun e => !covers f glob pasid va size e
  { s with hubBuf := keep s.hubBuf,
           car := tmap carDef (fun _ x => { x with xlat := keep x.xlat }) s.car,
           wings := tmap (fun _ => {}) (fun _ x => { x with l2 := keep x.l2 }) s.wings }

/-- ATS Enable of function `f` is cleared: what ATS has given it leaves every buffer, and is asked for no more (R325). -/
def State.purgeAts (s : State) (f : Nat) : State :=
  let keep (b : List XlEnt) : List XlEnt := b.filter fun e => decide (e.fn ≠ f) || e.lent
  { s with hubBuf := keep s.hubBuf,
           car := tmap carDef (fun _ x => { x with xlat := keep x.xlat }) s.car,
           wings := tmap (fun _ => {}) (fun _ x => { x with l2 := keep x.l2 }) s.wings }

/-- A function level reset of function `f` zeroes its lending table: its translations of lent granules go; those from ATS stay, of the epoch that begins
anew (R353; 13 R463). -/
def State.purgeLent (s : State) (f : Nat) : State :=
  let keep (b : List XlEnt) : List XlEnt :=
    (b.filter fun e => !(decide (e.fn = f) && e.lent)).map fun e => if e.fn = f then { e with epoch := 0 } else e
  { s with hubBuf := keep s.hubBuf,
           car := tmap carDef (fun _ x => { x with xlat := keep x.xlat }) s.car,
           wings := tmap (fun _ => {}) (fun _ x => { x with l2 := keep x.l2 }) s.wings }

/-- A descriptor's buffers overlap a withdrawn range. -/
def Desc.touches (d : Desc) (va size : Nat) : Bool :=
  d.bufs.any fun b => decide (b.addr < va + size) && decide (va < b.addr + b.len)

/-- Step 3 of R341 for the partition's accessioned descriptors and held writes; a translation of buffers that is under way begins anew. -/
def State.markWork (s : State) (part : Nat) (glob : Bool) (pasid va size : Nat) : State :=
  let s := s.each (s.slotsOf part) fun s n =>
    if glob ∨ s.g SLOT_CFG.PASID n = pasid then
      let x := s.queue n
      s.setQueue n { x with pre := none, re := none,
                            accs := x.accs.map fun d => if glob || Desc.touches d va size then { d with marked := true } else d }
    else s
  let f := s.fn (part + 1)
  s.setFn (part + 1) { f with held := f.held.map fun h =>
    match h.pasid with
    | some p => if glob || (decide (p = pasid) && decide (h.va < va + size) && decide (va < h.va + h.bytes.length)) then
        { h with marked := true } else h
    | none => h }

/-- Translation Requests that are out are to discard results that overlap a withdrawn range (R343). -/
def State.atsStale (s : State) (part : Nat) (glob : Bool) (pasid va size : Nat) : State :=
  let x := s.xlOf part
  s.setXl part { x with ats := x.ats.map fun q =>
    if glob then { q with stale := [(0, 2 ^ 64)] } else if q.pasid = pasid then { q with stale := q.stale ++ [(va, size)] } else q }

/-- Steps 1 to 3 of R341 as far as they concern the translation unit: the epoch rises, the entries go, descriptors, held writes and requests are
marked. -/
def State.withdraw (s : State) (part : Nat) (glob : Bool) (pasid va size : Nat) : State :=
  (((s.wrap XL_STATUS.EPOCH part).purge (part + 1) glob pasid va size).markWork part glob pasid va size).atsStale part glob pasid va size

/-! ### The lookup (R323, R325, R327, R328, R344, R347) -/

/-- The fault that every translation of an address meets: `ADDRESS` (R323), `PASID_OFF` (R325). -/
def State.xlBar (s : State) (part va : Nat) : Option Nat :=
  if 2 ^ 57 ≤ va then some 1 else if !(s.fn (part + 1)).pasidEn then some 2 else none

/-- Levels 3 and 4 for one page; the entry a result fills the requester's buffers with. A held granule that is written is dropped first:
`drop` begins it (R347). Fault 0 is an uncorrected read of the walker (08 R298). -/
def State.walk (s : State) (part pasid va : Nat) (w : Bool) (who : Waiter) (drop : State → LendEnt → State) :
    XRes × Option XlEnt × State :=
  let fn := s.fn (part + 1)
  let ats (s : State) : XRes × Option XlEnt × State :=
    if !fn.atsEn then (.fault 3, none, s)
    else if !s.mayRequest (part + 1) then (.wait, none, s)
    else (.wait, none, s.atsAsk part pasid va w 0 [who])
  let t := s.walkTable part pasid va
  if t.1 then (.fault 0, none, t.2)
  else
    let s := t.2
    match s.lendFind part pasid va with
    | none => ats s
    | some e =>
      match e.state with
      | 2 =>
        if w ∧ !e.w then (.fault 9, none, s)
        else (.ok (frameCa e.frame (va % 2 ^ 21)),
              some { pasid := pasid, va := va / 2 ^ 21 * 2 ^ 21, size := 21, ca := frameCa e.frame 0, r := true, w := e.w,
                     lent := true, epoch := s.g XL_STATUS.EPOCH part, fn := part + 1 }, s)
      | 3 =>
        if w then
          let s := drop s e
          if (s.lendFind part pasid va).isSome then (.wait, none, s) else ats s
        else (.ok (frameCa e.frame (va % 2 ^ 21)),
              some { pasid := pasid, va := va / 2 ^ 21 * 2 ^ 21, size := 21, ca := frameCa e.frame 0, r := true, w := false,
                     lent := true, epoch := s.g XL_STATUS.EPOCH part, fn := part + 1 }, s)
      | _ => (.wait, none, s)

/-- The epoch of the translation that a hub agent has just used (R332). -/
def State.hubEpoch (s : State) (part pasid va : Nat) : Nat :=
  match xlFind s.hubBuf pasid va with | some e => e.epoch | none => s.g XL_STATUS.EPOCH part

/-- The epoch of the translation that a carrel's mover has just used. -/
def State.moverEpoch (s : State) (p part pasid va : Nat) : Nat :=
  match xlFind (s.carrel p).xlat pasid va with | some e => e.epoch | none => s.g XL_STATUS.EPOCH part

/-- A right suffices. -/
def XlEnt.allows (e : XlEnt) (w : Bool) : Bool := if w then e.w else e.r

/-- A lending copy's translation of one host page (R328, R346): hub buffer, then ATS. The lending table, which has the granule at hand, is not asked.
`soft` takes a page that grants read alone. -/
def State.copyXlate (s : State) (part pasid va : Nat) (w soft : Bool) (who : Waiter) : Option XlEnt × State :=
  match s.xlBar part va with
  | some c => (none, s.xlFault part c va pasid w who)
  | none =>
    match xlFind (s.hubBuf.filter fun e => !e.lent) pasid va with
    | some e => if XlEnt.allows e (w && !soft) then (some e, s) else (none, s.prAsk part pasid va w 1 [who])
    | none => if !(s.fn (part + 1)).atsEn then (none, s.xlFault part 3 va pasid w who) else (none, s.atsAsk part pasid va w 0 [who])

/-- A hub agent's translation (R328): hub buffer, lending table, ATS. A fault is logged and ends the work. -/
def State.hubXlate (s : State) (part pasid va : Nat) (w : Bool) (who : Waiter) (drop : State → LendEnt → State) : XRes × State :=
  match s.xlBar part va with
  | some c => (.fault c, s.xlFault part c va pasid w who)
  | none =>
  match xlFind s.hubBuf pasid va with
  | some e =>
    if !e.lent && s.moving part pasid va then (.wait, s)
    else if XlEnt.allows e w then (.ok (e.ca + (va - e.va)), s)
    else if e.lent then
      match s.walk part pasid va w who drop with
      | (.fault c, _, s) => (.fault c, s.xlFault part c va pasid w who)
      | (r, _, s) => (r, s)
    else (.wait, s.prAsk part pasid va w 1 [who])
  | none =>
    match s.walk part pasid va w who drop with
    | (.fault c, _, s) => (.fault c, s.xlFault part c va pasid w who)
    | (r, some e, s) => (r, { s with hubBuf := xlFill 4096 s.hubBuf e })
    | (r, none, s) => (r, s)

/-- A mover's translation (R327): carrel buffer, second level, lending table, ATS; a result fills levels 2 and 1 (R329). -/
def State.moverXlate (s : State) (part n c pasid va : Nat) (w : Bool) (drop : State → LendEnt → State) : XRes × State :=
  let p := s.phys c
  let wg := c / 128
  let who : Waiter := { source := 0, slot := n, carrel := c }
  let fill1 (s : State) (e : XlEnt) : State :=
    let x := s.carrel p
    s.setCarrel p { x with xlat := xlFill 32 x.xlat e }
  let fill2 (s : State) (e : XlEnt) : State :=
    let x := s.wing wg
    s.setWing wg { x with l2 := l2Fill x.l2 e }
  let miss (s : State) : XRes × State :=
    match s.walk part pasid va w who drop with
    | (.fault c, _, s) => (.fault c, s.xlFault part c va pasid w who)
    | (r, some e, s) => (r, fill1 (fill2 s e) e)
    | (r, none, s) => (r, s)
  let lacking (s : State) (e : XlEnt) : XRes × State :=
    if e.lent then miss s else (.wait, s.prAsk part pasid va w 1 [who])
  match s.xlBar part va with
  | some c => (.fault c, s.xlFault part c va pasid w who)
  | none =>
  match xlFind (s.carrel p).xlat pasid va with
  | some e =>
    if XlEnt.allows e w then (.ok (e.ca + (va - e.va)), s.setCarrel p { s.carrel p with xlat := xlTouch (s.carrel p).xlat e }) else lacking s e
  | none =>
    match xlFind (s.wing wg).l2 pasid va with
    | some e => if XlEnt.allows e w then (.ok (e.ca + (va - e.va)), fill1 s e) else lacking s e
    | none => miss s

end Sys2Proof.Machine
end

