-- ==== Sys2Proof/Machine/Lend.lean ====
section
/-!
DEFINITION. The lending table and what happens to a granule's frame (09 R344 to R350, R353).
-/
namespace Sys2Proof.Machine

/-- The partition and PASID a lending descriptor works on (R351, R354). -/
def State.lendPart (s : State) (q : Nat) (b : Bytes) : Nat := if q = 64 then bits (le b 0x20 4) 27 24 else (s.partOf q).getD 0
def State.lendPasid (s : State) (q : Nat) (b : Bytes) : Nat := if q = 64 then bits (le b 0x20 4) 19 0 else s.g SLOT_CFG.PASID q

/-! ### What a withdrawal reaches beside the buffers (R341 step 3; 05 R179, 10 R368) -/

/-- The pair's delivery line leaves the engine. -/
def State.dropDlv (s : State) (n : Nat) (now : Bool := false) : State :=
  let x := s.csOf n
  match x.dlvLine with
  | some l =>
    if x.dlv = 0 then s
    else (s.setCs n { x with dlv := 0, dlvData := [] }).engDrop (s.fnOf n) l (if x.dlv = 3 then some x.dlvData else none) now
  | none => s

/-- The pair's call slip leaves the engine. -/
def State.dropSlip (s : State) (n : Nat) (now : Bool := false) : State :=
  let x := s.csOf n
  match x.slipLine with
  | some l => if x.slipS then (s.setCs n { x with slipS := false }).engDrop (s.fnOf n) l none now else s
  | none => s

/-- A withdrawn range covers a slot's address. -/
def hitsRange (glob : Bool) (pasid va size slotPasid a : Nat) : Bool :=
  glob || (decide (pasid = slotPasid) && decide (va ≤ a) && decide (a < va + size))

/-- An invalidation reaches the pairs (05 R179): the copies of covered lines leave the engine, reads of them that are out are given up, and their addresses
are to be translated again. -/
def State.csWithdraw (s : State) (part : Nat) (glob : Bool) (pasid va size : Nat) : State :=
  (s.slotsOf part).foldl (fun s n =>
    if s.g CS_CTL.MODE n ≠ 1 ∧ s.g CS_STATUS.STATE n ≠ 5 then s
    else
      let ps := s.g SLOT_CFG.PASID n
      let s := if hitsRange glob pasid va size ps (s.g CS_SLIP_ADDR.ADDR n * 64) then
          let s := (s.dropSlip n).engForget n 1
          s.setCs n { s.csOf n with slipLine := none, reading := false, got := none } else s
      if hitsRange glob pasid va size ps (s.g CS_DLV_ADDR.ADDR n * 64) then
        let s := (s.dropDlv n).engForget n 2
        s.setCs n { s.csOf n with dlvLine := none, owning := false } else s) s

/-- The doorbell records of a function's queue pairs whose pages a withdrawal covers are given up; they are watched again (10 R368). -/
def State.qpWithdraw (s : State) (part : Nat) (glob : Bool) (pasid va size : Nat) : State :=
  s.nic.qps.foldl (fun s e =>
    let q := e.1
    let x := s.qpOf q
    if s.qpPart q ≠ part ∨ x.dbr = none ∨ !hitsRange glob pasid va size (s.qpCtx q 4 4) (s.qpCtx q 0x58 8) then s
    else
      let s := match x.dbr with | some l => if x.held then s.engDrop (part + 1) l none else s | none => s
      (s.setQp q { s.qpOf q with dbr := none, held := false, reading := false }).engForget (64 + q) 1) s

/-- A copy to the host whose writes are held: its function may not request (R353). -/
def State.copyHeld (s : State) (q : Nat) (d : Desc) : Bool :=
  decide ((s.queue q).lend.phase = 3) && decide (le d.bytes 0 1 = 9) && !s.mayRequest (s.lendPart q d.bytes + 1)

/-- The host pages that a lending operation has translated for its granule, or for a copy whose writes are held, are translated again where a withdrawal
covers the granule (R342, R343, R353). -/
def State.lendWithdrawn (s : State) (part : Nat) (glob : Bool) (pasid va size : Nat) : State :=
  s.q.foldl (fun s e =>
    let x := s.queue e.1
    match x.accs with
    | d :: _ =>
      let lo := (le d.bytes 0x10 8 / 2 ^ 21 + x.lend.pos) * 2 ^ 21
      if s.lendPart e.1 d.bytes = part ∧ (x.lend.phase = 2 ∨ s.copyHeld e.1 d)
          ∧ (glob ∨ (s.lendPasid e.1 d.bytes = pasid ∧ va < lo + 2 ^ 21 ∧ lo < va + size)) then
        s.setQueue e.1 { x with lend := { x.lend with phase := 2, off := 0, pages := [], wr := true } }
      else s
    | [] => s) s

/-- Steps 1 to 3 of R341, for an invalidation and for an internal withdrawal alike; held granules apart. -/
def State.withdrawAll (s : State) (part : Nat) (glob : Bool) (pasid va size : Nat) : State :=
  (((s.withdraw part glob pasid va size).csWithdraw part glob pasid va size).qpWithdraw part glob pasid va size).lendWithdrawn part glob pasid va size

/-! ### Requests under earlier translations (R332, R341 step 4) -/

/-- The function of a slot; 64 + q stands for queue pair q. -/
def State.slotFn (s : State) (n : Nat) : Nat := if n = noSlot then 0 else s.engFn n

/-- The PASID under which a slot's or a queue pair's transaction acts. -/
def State.slotPasid (s : State) (n : Nat) : Option Nat :=
  if n < 64 then some (s.g SLOT_CFG.PASID n) else if n = noSlot then none else some (s.qpCtx (n - 64) 4 4)

/-- The PASID of a home's transaction. -/
def State.homePasid (s : State) (h : HTxn) : Option Nat := match h.hub with | some w => w.pasid | none => s.slotPasid h.slot

/-- The PASID of an outstanding read. -/
def State.reqPasid (s : State) (r : HReq) : Option Nat :=
  match r.owner with
  | .ring q | .list q | .image q => if q = 64 then none else s.slotPasid q
  | .wqe q => some (s.qpCtx q 4 4)
  | .rqe q => some (s.qpCtx q 4 4)
  | .nobody pasid => pasid
  | .home l => (s.coh.homes.find? fun h => decide (h.line = l) && h.hostSent).bind fun h => s.homePasid h

/-- A request of the partition's function that used a translation, under the PASID or any, of an epoch that satisfies `p`, has not completed; the copies of
lending operations are such requests, but for held writes (R343). -/
def State.inFlight (s : State) (part : Nat) (glob : Bool) (pasid : Nat) (p : Nat → Bool) : Bool :=
  let hit (a : Option Nat) (e : Nat) : Bool := p e && (match a with | some x => glob || decide (x = pasid) | none => false)
  (s.link.reqs.any fun r => decide (r.fn = part + 1) && !r.orphan && r.quar.isNone && hit (s.reqPasid r) r.epoch)
    || (s.coh.txns.any fun t => decide (s.slotFn t.slot = part + 1) && hit (s.slotPasid t.slot) t.epoch)
    || (s.coh.homes.any fun h => decide (h.fn = some (part + 1)) && !h.done && (match h.hub with | some w => hit w.pasid w.epoch | none => false))
    || (s.q.any fun e => decide (e.2.lend.phase = 3) && (match e.2.accs with
      | d :: _ => decide (s.lendPart e.1 d.bytes = part) && !s.copyHeld e.1 d && hit (some (s.lendPasid e.1 d.bytes)) e.2.lend.epoch
      | [] => false))

/-- Epoch `e` is earlier than `E`: the count wraps (log entry 55). -/
def earlier (E e : Nat) : Bool := decide (0 < (E + 65536 - e) % 65536) && decide ((E + 65536 - e) % 65536 < 32768)

/-- A request of an epoch earlier than `E` has not completed (R341 step 4). -/
def State.older (s : State) (part : Nat) (glob : Bool) (pasid E : Nat) : Bool := s.inFlight part glob pasid (earlier E)

/-- The next `k` epochs are accepted: no request of the ones 32,768 steps earlier is in flight (R332). -/
def State.epochFree (s : State) (part : Nat) (k : Nat := 1) : Bool :=
  !s.inFlight part true 0 fun e => decide ((e + 98303 - s.g XL_STATUS.EPOCH part) % 65536 < k)

/-! ### The table (R345) -/

/-- An entry's 16 bytes. -/
def LendEnt.bytes (e : LendEnt) : Bytes :=
  natLe 8 (e.vpn * 2 ^ 28 + e.pasid * 2 ^ 8 + e.state)
    ++ natLe 8 (e.frame * 2 ^ 45 + b2n e.r * 2 ^ 44 + b2n e.w * 2 ^ 43 + e.advice * 2 ^ 40 + e.order % 2 ^ 32)

/-- The bytes of an entry's place in the table's frames. -/
def State.tablePut (s : State) (part : Nat) (e : LendEnt) (bs : Bytes) : State :=
  s.memWrite (s.tableLine part e.bucket) (byteMask (16 * e.pos) 16) (lineWrite (zeros 64) (16 * e.pos) bs) (some 1)

/-- The lowest free place of a bucket. -/
def State.freePos (s : State) (part b : Nat) : Option Nat :=
  (List.range 4).find? fun k => !(s.lendOf part).any fun e => decide (e.bucket = b ∧ e.pos = k)

/-- Where a new entry is stored: the home bucket, or the next one, and the place in it; none with both full. -/
def State.freePlace (s : State) (part pasid vpn : Nat) : Option (Nat × Nat) :=
  let h := s.bucketOf part pasid vpn
  match s.freePos part h with
  | some k => some (h, k)
  | none =>
    let h2 := (h + 1) % s.buckets part
    (s.freePos part h2).map fun k => (h2, k)

/-- The entry of a granule changed. -/
def State.lendSet (s : State) (part : Nat) (e : LendEnt) : State :=
  (s.setLend part ((s.lendOf part).map fun x => if x.pasid = e.pasid ∧ x.vpn = e.vpn then e else x)).tablePut part e (LendEnt.bytes e)

def State.lendAdd (s : State) (part : Nat) (e : LendEnt) : State :=
  (s.setLend part (s.lendOf part ++ [e])).tablePut part e (LendEnt.bytes e)

def State.lendRemove (s : State) (part : Nat) (e : LendEnt) : State :=
  (s.setLend part ((s.lendOf part).filter fun x => !(decide (x.pasid = e.pasid) && decide (x.vpn = e.vpn)))).tablePut part e (zeros 16)

/-- The first line of a frame, and whether a line lies in it. -/
def frameLine (f : Nat) : Nat := 2 ^ 46 + f * 32768

def inFrame (f l : Nat) : Bool := decide (frameLine f ≤ l) && decide (l < frameLine f + 32768)

/-- Every cached copy of a frame's lines is invalidated; dirty data goes to memory, unless it is to be discarded. A lost line stays lost (07 R283). -/
def State.recallFrame (s : State) (f : Nat) (keep : Bool) : State :=
  (s.coh.cat.filter fun e => inFrame f e.1 && !(keep && e.2.lost)).foldl (fun s e =>
    let r := s.snoopAll e.1 0x42 (CatEnt.holders e.2)
    let s := r.2.2.freeEnt e.1
    match r.2.1 with
    | some d => if keep then s.memWrite e.1 fullMask d none else s
    | none => s) s

/-- A frame zeroed. -/
def State.zeroFrame (s : State) (f : Nat) : State := (s.recallFrame f false).wipeFrames (fun x => decide (x = f)) false

/-- A granule's entry leaves the table; its frame is zeroed and freed (R346). -/
def State.lendGone (s : State) (part : Nat) (e : LendEnt) : State := ((s.lendRemove part e).zeroFrame e.frame).releaseFrame e.frame

/-- The granule of an entry is withdrawn internally (R346 step 3): the entry notes the epoch whose forerunners are to drain. -/
def State.lendWithdraw (s : State) (part : Nat) (e : LendEnt) : LendEnt × State :=
  let s := s.withdrawAll part false e.pasid (e.vpn * 2 ^ 21) (2 ^ 21)
  let e := { e with since := some (s.g XL_STATUS.EPOCH part) }
  (e, s.lendSet part e)

/-- A drop that waits for the requests of earlier epochs ends when they have completed. -/
def State.dropEnd (s : State) (part : Nat) (e : LendEnt) : State :=
  match e.since with
  | some E => if s.older part false e.pasid E then s else s.lendGone part e
  | none => s

/-- A granule in `DROPPING` goes on: withdrawn, drained, removed (R346). -/
def State.dropGo (s : State) (part : Nat) (e : LendEnt) : State :=
  if e.since.isSome then s.dropEnd part e
  else if s.epochFree part then
    let r := s.lendWithdraw part e
    r.2.dropEnd part r.1
  else s

/-- A held granule is dropped: `DROPPING` until it is gone (R344, R346). -/
def State.dropGranule (s : State) (part : Nat) (e : LendEnt) : State :=
  let e := { e with state := 5, since := none }
  (s.lendSet part e).dropGo part e

/-- The reclaim class of R349: `DONE`, then `NONE` and `READ_MOSTLY`, then `SOON`. -/
def reclaimClass (a : Nat) : Nat := match a with | 3 => 0 | 0 => 1 | 2 => 1 | _ => 2

/-- The `HELD` granule to reclaim: by class, the lowest `ORDER` first. -/
def State.reclaimPick (s : State) (part : Nat) : Option LendEnt :=
  match (s.lendOf part).filter fun e => decide (e.state = 3) with
  | [] => none
  | e :: es => some (es.foldl (fun a b =>
      if reclaimClass b.advice < reclaimClass a.advice ∨ (reclaimClass b.advice = reclaimClass a.advice ∧ b.order < a.order) then b
      else a) e)

/-- A frame for LEND or HOLD (R349), `some none` while a reclaimed granule is being dropped; none with no room. HOLD never reclaims for itself. -/
def State.lendFrame : Nat → State → Nat → Bool → Option (Option Nat) × State
  | 0, s, _, _ => (none, s)
  | k + 1, s, part, hold =>
    match s.allocFrame part with
    | some (f, s) => (some (some f), s)
    | none =>
      if hold then (none, s)
      else if (s.lendOf part).any fun e => decide (e.state = 5) then (some none, s)
      else match s.reclaimPick part with
        | some e => State.lendFrame k (s.dropGranule part e) part hold
        | none => (none, s)

/-- The words of a frame that read uncorrected in the stacks. -/
def State.frameBadWords (s : State) (f : Nat) : List Nat :=
  if s.dmem.down = [] ∧ s.dmem.lost = [] then s.dmem.bad.filter fun w => decide (f * 2 ^ 18 ≤ w) && decide (w < (f + 1) * 2 ^ 18)
  else ((List.range 262144).map (· + f * 262144)).filter s.badWord

/-- Lost lines of a frame that is to be moved: their words are stored with a failing pattern, and their entries go (07 R283; log entry 112). -/
def State.lostToBad (s : State) (f : Nat) : State :=
  let l := (s.coh.cat.filter fun e => inFrame f e.1 && e.2.lost).map (·.1)
  let ws := (l.flatMap fun l => (List.range 8).map (· + dpaOf l / 8)).filter fun w => !decide (w ∈ s.dmem.bad)
  l.foldl (fun s l => s.freeEnt l) { s with dmem := { s.dmem with bad := s.dmem.bad ++ ws } }

/-- A frame's bytes, as offsets in the granule, every dirty copy recalled to memory first; the read is charged to the frame's owner (08 R311). -/
def State.frameCells (s : State) (f : Nat) : Memory × State :=
  let s := s.chargeFrame (s.chargedTo (f * 2 ^ 21)) f
  let s := s.recallFrame f true
  let lo := f * 2 ^ 21
  let s := s.wcbFence fun e => inFrame f e.line
  let s := (s.dmem.res.filter fun e => inFrame f e.1).foldl (fun s e => s.resDrop e.1) s
  let s := s.wcbFence fun e => inFrame f e.line
  ((s.dmem.dram.filter fun c => decide (lo ≤ c.1) && decide (c.1 < lo + 2 ^ 21)).map fun c => (c.1 - lo, c.2), s)

/-- A word of a frame reads uncorrected, or a line of it is lost. -/
def State.frameBad (s : State) (f : Nat) : Bool :=
  (s.coh.cat.any fun e => inFrame f e.1 && e.2.lost) || decide (s.frameBadWords f ≠ [])

/-- A hub agent's translation with holds dropped on writes (R328, R347). -/
def State.hubVa (s : State) (part pasid va : Nat) (w : Bool) (who : Waiter) : XRes × State :=
  s.hubXlate part pasid va w who fun s e => s.dropGranule part e

/-- A mover's translation (R327). -/
def State.moverVa (s : State) (part n c pasid va : Nat) (w : Bool) : XRes × State :=
  s.moverXlate part n c pasid va w fun s e => s.dropGranule part e

end Sys2Proof.Machine
end

