-- ==== Sys2Proof/Machine/Mover.lean ====
section
/-!
DEFINITION. The mover (02 R58 to R61, 07 R255, R258, R275, 09 R327, 10 R384): pieces of transfers find their translation and their line; tags
complete.
-/
namespace Sys2Proof.Machine

/-- What became of a piece: done, its request is out under a line number, or to be tried again; with what has been counted of it. -/
inductive PieceRes where
  | done
  | out (key : Nat) (pc : Piece)
  | again (pc : Piece)
deriving DecidableEq, Repr

/-- The number under which an interloan transfer's piece waits. -/
def ilKey (itag : Nat) : Nat := 2 ^ 60 + itag

/-- The links towards a member, the first hop of each way, in the order in which they are taken (10 R377, R378): the shortest way and, where a link on
it is down, the ring's other direction, the cube's next differing dimension, a mesh's lowest intermediate member. -/
def ways (topo count me dst : Nat) : List Nat :=
  match topo with
  | 1 => [if dst < me then 0 else 1]
  | 2 =>
    let up := (dst + count - me) % count
    let down := (me + count - dst) % count
    let l := if up ≤ down then 1 else 0
    [l, 1 - l]
  | 3 => (List.range 3).filter fun k => bit (me ^^^ dst) k
  | _ =>
    let l := if dst < me then dst else dst - 1
    l :: (List.range (count - 1)).filter fun k => decide (k ≠ l)

/-- An exchange window is open on a link (10 R386). -/
def State.winOpen (s : State) (link : Nat) : Bool := decide (s.time < tget (fun _ => 0) s.cas.openTo link)

/-- The link an interloan transfer takes: the first on the way that is up and whose far end reaches the member. -/
def State.ilLink (s : State) (member : Nat) : Option Nat :=
  (ways s.arec.topo s.arec.count s.arec.member member).find? fun l =>
    decide (s.g PLOLI_LINK.STATE l = 1) && bit (tget (fun _ => 0) s.cas.reach l) member

/-- A transfer to a member may leave: the group is formed (10 R379, R382; log entry 101), there is a way, and a windowed one finds its window open (10 R376,
R386); in the safe state the transmitters are still (12 R439). -/
def State.ilMay (s : State) (member : Nat) (windowed : Bool) : Bool :=
  match s.ilLink member with
  | some l => (!windowed || s.winOpen l) && decide (s.g CAS_STATUS.STATE = 2) && !s.gb DEV_STATUS.SAFE
  | none => false

/-- The message of an interloan transfer leaves. -/
def State.ilLeave (s : State) (t : IlTx) : State :=
  if t.write then s.emit (.ilWrite t.member t.window t.off t.itag ((s.mem t.p).read t.piece.loc t.piece.len) t.windowed)
  else s.emit (.ilRead t.member t.window t.off t.piece.len t.itag t.windowed)

/-- An interloan access is answered, in the class of its request: one of class `WIN` waits for an exchange window (10 R376, R385; log entry 102). -/
def State.ilAnswer (s : State) (member tag status : Nat) (data : Bytes) (win : Bool) : State :=
  if win && !s.ilMay member true then { s with cas := { s.cas with rsps := s.cas.rsps ++ [⟨member, tag, status, data⟩] } }
  else s.emit (.ilRsp member tag status data win)

/-- Answers and interloan transfers that wait for a way or for an exchange window leave once there is one, class `WIN` first (R376, R378, R386). -/
def State.ilGo (s : State) : State :=
  let s := (s.cas.rsps.filter fun r => s.ilMay r.member true).foldl (fun s r => s.emit (.ilRsp r.member r.tag r.status r.data true))
    { s with cas := { s.cas with rsps := s.cas.rsps.filter fun r => !s.ilMay r.member true } }
  ((s.cas.il.filter fun t => t.windowed) ++ s.cas.il.filter fun t => !t.windowed).foldl (fun s t =>
    if !t.left ∧ s.ilMay t.member t.windowed then
      ({ s with cas := { s.cas with il := s.cas.il.map fun (x : IlTx) => if x.itag = t.itag then { x with left := true } else x } }).ilLeave t
    else s) s

/-- One piece of a transfer on a bound interloan handle (10 R384, R385). -/
def State.ilPiece (s : State) (p n tag : Nat) (h : Handle) (write : Bool) (pc : Piece) : PieceRes × State :=
  let k := s.cas.nextIl
  let ready := s.ilMay h.member h.windowed
  let t : IlTx := { itag := k, p := p, tag := tag, piece := pc, slot := n, member := h.member, window := h.window, off := h.base + pc.off,
                    write := write, windowed := h.windowed, sent := s.time, left := ready }
  let s : State := { s with cas := { s.cas with nextIl := k + 1, il := s.cas.il ++ [t] } }
  (.out (ilKey k) pc, if ready then s.ilLeave t else s)

/-- A page request holds the page: outstanding or queued. -/
def State.onPageRequest (s : State) (part pasid va : Nat) : Bool :=
  ((s.xlOf part).prs ++ (s.xlOf part).queued).any fun r => decide (r.pasid = pasid) && decide (r.va / 4096 = va / 4096)

/-- What an access leaves of its piece; `again` and `out` say what has been counted (07 R291). -/
def accPiece (l : Nat) (pc : Piece) : Acc → PieceRes
  | .served _ => .done
  | .sent => .out l { pc with miss := true }
  | .wait => .out l pc
  | .retry => .again pc

/-- One piece: translated, then its line accessed. In `ENDING` a piece that waits on a page request is abandoned (04 R148). -/
def State.pumpPiece (s : State) (c : Nat) (x : Xfer) (pc : Piece) : PieceRes × State :=
  let p := s.phys c
  let n := x.slot
  match s.handleOf n x.h with
  | none => (.done, s)
  | some h =>
    if h.remote then
      if x.kind = .mtouch then (.done, s) else s.ilPiece p n x.tag h (decide (x.kind = .mst)) pc
    else
      match s.partOf n with
      | none => (.done, s)
      | some part =>
        let va := h.base + pc.off
        let pasid := s.g SLOT_CFG.PASID n
        match s.moverVa part n c pasid va (decide (x.kind = .mst)) with
        | (.fault _, s) => (.done, s)
        | (.wait, s) =>
          if s.g SLOT_STATUS.STATE n = 6 ∧ s.onPageRequest part pasid va then (.done, s) else (.again pc, s)
        | (.ok ca, s) =>
          let l := ca / 64
          let w := c / 128
          if x.kind = .mtouch ∧ (s.policyOf l = 3 ∨ !s.wOn w) then (.done, s)
          else
            let found := (s.ebOf w l).isSome
            let s := if found && !pc.eb then s.wrap WING_CACHE_EB_HITS.COUNT w else s
            let pc := { pc with eb := pc.eb || found }
            let a : Asker := ⟨p, x.tag, pc, n, s.moverEpoch p part pasid va⟩
            let wr := if x.kind = .mst then some (ca % 64, (s.mem p).read pc.loc pc.len) else none
            match s.wAccess w l a (ca % 64) wr with
            | (.served d, s) =>
              (.done, if x.kind = .mld then s.setMem p ((s.mem p).write pc.loc (slice d (ca % 64) pc.len)) else s)
            | (r, s) => (accPiece l pc r, s)

/-- The pieces of one transfer that are to be tried. -/
def State.pumpXfer (s : State) (c : Nat) (x : Xfer) : State :=
  let p := s.phys c
  let r := x.todo.foldl (fun a pc =>
    match a.2.2.pumpPiece c x pc with
    | (.done, s) => (a.1, a.2.1, s)
    | (.out k pc, s) => (a.1 ++ [(k, pc)], a.2.1, s)
    | (.again pc, s) => (a.1, a.2.1 ++ [pc], s)) (([] : List (Nat × Piece)), ([] : List Piece), s)
  let s := r.2.2
  let y := s.carrel p
  s.setCarrel p { y with xfers := y.xfers.map fun f =>
    if f.tag = x.tag then { f with wait := f.wait ++ r.1, todo := r.2.1 } else f }

/-- A carrel's transfers go on as far as they can. -/
def State.pump (s : State) (c : Nat) : State := (s.carrel (s.phys c)).xfers.foldl (fun s x => if x.todo = [] then s else s.pumpXfer c x) s

/-- The device carrel number of a physical carrel, when the map has it. -/
def State.deviceOf (s : State) (p : Nat) : Option Nat :=
  ((List.range 128).map (· + 128 * (p / 144))).find? fun c => decide (s.phys c = p)

/-- Every transfer that has pieces to try, in the carrels that satisfy `p`, goes on. -/
def State.pumpAll (s : State) (p : Nat → Bool) : State :=
  (s.car.filter fun e => p e.1 && e.2.xfers.any fun x => decide (x.todo ≠ [])).foldl (fun s e =>
    match s.deviceOf e.1 with
    | some c => s.pump c
    | none => s) s

/-- The transfers of one wing's carrels go on. -/
def State.pumpWing (s : State) (w : Nat) : State := s.pumpAll fun p => decide (p / 144 = w)

/-- A carrel that has issued `HALT` and has no tag left has completed it (02 R55). -/
def Carrel.settled (x : Carrel) : Carrel := if x.run = .halting ∧ x.xfers = [] then { x with run := .halted } else x

/-- A transfer's completion (02 R59, R61): the copy of an `LCOPY`, the landing of a `PASS` with the neighbour's counter, the tag. -/
def State.tagDone (s : State) (c : Nat) (x : Xfer) : State :=
  let p := s.phys c
  let s := match x.kind with
    | .lcopy => s.setMem p ((s.mem p).write x.dst ((s.mem p).read x.src x.len))
    | .pass =>
      match neighbour c x.dir with
      | some m =>
        let q := s.phys m
        let s := s.setMem q ((s.mem q).write x.dst ((s.mem p).read x.src x.len))
        let y := s.carrel q
        let side := match x.dir with | 0 => 1 | 1 => 0 | 2 => 3 | _ => 2
        s.setCarrel q (passSet y side (passGet y side + 1))
      | none => s
    | _ => s
  let y := s.carrel p
  s.setCarrel p (Carrel.settled { y with xfers := y.xfers.filter fun f => decide (f.tag ≠ x.tag) })

/-- `MOVER_TAG_COMPLETE`: the tag completes if nothing of its transfer is left to do. -/
def State.tagComplete (s : State) (c tag : Nat) : State :=
  let s := s.pump c
  match (s.carrel (s.phys c)).xfers.find? fun x => decide (x.tag = tag) with
  | some x => if x.todo = [] ∧ x.wait = [] then s.tagDone c x else s
  | none => s

end Sys2Proof.Machine
end

