-- ==== Sys2Proof/Machine/Report.lean ====
section
/-!
DEFINITION. Completion records and delivery lines (05 R173, R174, R190 to R193, R197) and the end of an invocation (02 R78, 03 R111, 04 R148).
-/
namespace Sys2Proof.Machine

/-! ### Rings (R180, R190, R191) -/

/-- The address of byte `off` of a ring of queue `q`, translated; queue 64, the management lending queue, uses untranslated addresses
(09 R354). -/
def State.ringVa (s : State) (q va : Nat) (w : Bool) : XRes × State :=
  if q = 64 then (.ok va, s)
  else match s.partOf q with
    | none => (.wait, s)
    | some part => s.hubVa part (s.g SLOT_CFG.PASID q) va w { source := 1, slot := q, aux := if w then 4 else 1 }

/-- The epoch of the translation of a ring address. -/
def State.ringEpoch (s : State) (q va : Nat) : Nat :=
  match s.partOf q with | some part => s.hubEpoch part (s.g SLOT_CFG.PASID q) va | none => 0

/-- The function of a queue. -/
def State.queueFn (s : State) (q : Nat) : Nat := if q = 64 then 0 else s.fnOf q

/-- A completion record but for its `SQ_HEAD` and `PHASE` (R190). `flags` are bits [7:1] of `FLAGS`. -/
def recBytes (tag status flags exc carrel line detail : Nat) (trb : List Nat) : Bytes :=
  natLe 8 tag ++ zeros 2 ++ natLe 1 status ++ natLe 1 flags ++ natLe 1 exc ++ zeros 1 ++ natLe 2 carrel ++ natLe 4 line ++ natLe 4 detail
    ++ trb.flatMap (fun t => natLe 2 (min t 0xFFFF))

/-- The completion ring has a free entry. -/
def State.cqRoom (s : State) (q : Nat) : Bool := decide ((s.queue q).used < 2 ^ s.g Q_CFG.CQ_LOG2 q)

/-- A record written at the ring's tail, with its interrupts after it; where the address waits for its translation the record is owed. -/
def State.putRec (s : State) (q : Nat) (r : HeldRec) : State :=
  let tail := s.g Q_STATUS.CQ_TAIL q
  let va := s.g CQ_BASE.ADDR q * 4096 + 32 * tail
  match s.ringVa q va true with
  | (.ok ca, s) =>
    let head := natLe 2 (s.g Q_STATUS.SQ_HEAD q)
    let fl := (r.bytes.getD 11 0).toNat + s.g Q_STATUS.CQ_GEN q
    let bytes := patch (patch r.bytes 8 head) 11 (natLe 1 fl)
    let s := s.hubStore (s.queueFn q) { ca := ca, bytes := bytes, pasid := if q = 64 then none else some (s.g SLOT_CFG.PASID q), va := va,
                                        xl := decide (q ≠ 64), who := { source := 1, slot := q, aux := 4 }, epoch := s.ringEpoch q va }
    let x := s.queue q
    let s := s.setQueue q { x with used := x.used + 1 }
    let n := tail + 1
    let s := if n = 2 ^ s.g Q_CFG.CQ_LOG2 q then (s.p Q_STATUS.CQ_TAIL q 0).p Q_STATUS.CQ_GEN q (1 - s.g Q_STATUS.CQ_GEN q)
      else s.p Q_STATUS.CQ_TAIL q n
    r.irqs.foldl (fun s v => s.vec (s.queueFn q) v) s
  | (.wait, s) =>
    let x := s.queue q
    s.setQueue q { x with owed := x.owed ++ [r] }
  | (.fault _, s) => s

/-- A record: written, or kept in the hold while the ring is full (R191). Nothing while the queue is `OFF` (R192) or in the safe state (12 R440). -/
def State.writeRec (s : State) (q : Nat) (bytes : Bytes) (irqs : List Nat) : State :=
  if s.g Q_STATUS.STATE q = 0 ∨ s.gb DEV_STATUS.SAFE then s
  else if (s.queue q).owed ≠ [] then
    let x := s.queue q
    s.setQueue q { x with owed := x.owed ++ [⟨bytes, irqs⟩] }
  else if s.cqRoom q then s.putRec q ⟨bytes, irqs⟩
  else
    let x := s.queue q
    s.setQueue q (if x.hold = none then { x with hold := some ⟨bytes, irqs⟩ } else { x with owed := x.owed ++ [⟨bytes, irqs⟩] })

/-- The held record and the owed ones are written as far as room and translations allow. -/
def State.flushRecs (s : State) (q : Nat) : State :=
  if s.gb DEV_STATUS.SAFE then s else
  let s := match (s.queue q).hold with
    | some r => if s.cqRoom q then (s.setQueue q { s.queue q with hold := none }).putRec q r else s
    | none => s
  let owed := (s.queue q).owed
  if owed = [] then s
  else owed.foldl (fun s r =>
    if (s.queue q).owed ≠ [] ∨ !s.cqRoom q then s.setQueue q { s.queue q with owed := (s.queue q).owed ++ [r] } else s.putRec q r)
      (s.setQueue q { s.queue q with owed := [] })

/-- The interrupts of a descriptor's record (R186, R194). -/
def State.recIrqs (s : State) (q : Nat) (flags vec status : Nat) : List Nat :=
  if q = 64 then []
  else (if bit flags 1 then [vec] else []) ++ (if s.gb Q_CFG.ERR_IRQ q ∧ status ≠ 0 then [s.g Q_CFG.ERR_VEC q] else [])

/-- The completion of a descriptor (R186, R190): none is written for `QUIET` with `STATUS` = `OK`. -/
def State.finishDesc (s : State) (q : Nat) (d : Bytes) (e : Ending) (trb : List Nat) : State :=
  let flags := le d 1 1
  if bit flags 3 ∧ e.status = 0 then s
  else s.writeRec q (recBytes (le d 8 8) e.status 0 e.exc e.carrel e.line e.detail trb) (s.recIrqs q flags (le d 4 1) e.status)

/-! ### The end of an invocation -/

/-- The four trouble sums of an allotment (R78). -/
def State.troubleSums (s : State) (n : Nat) : List Nat :=
  let xs := (carrelsOf (s.slot n).allot).map fun c => (s.carrel (s.phys c)).trb
  let sum (f : Troubles → Nat) : Nat := xs.foldl (fun a t => satAdd 32 a (f t)) 0
  [sum (·.sat), sum (·.fin), sum (·.fout), sum (·.nan)]

/-- The sums added to the slot's totals, each saturating (R111, R112). -/
def State.addTotals (s : State) (n : Nat) (t : List Nat) : State :=
  (((s.bump TRB_TOTAL_SAT.COUNT n (t.getD 0 0)).bump TRB_TOTAL_FIN.COUNT n (t.getD 1 0)).bump TRB_TOTAL_FOUT.COUNT n (t.getD 2 0)).bump
    TRB_TOTAL_NAN.COUNT n (t.getD 3 0)

/-- The delivery line of a call (R173): result bytes of the lead carrel, or the exception's line index. -/
def State.deliveryLine (s : State) (n seq : Nat) (e : Ending) (trb : List Nat) : Bytes :=
  let body :=
    if e.status = 0 then
      match carrelsOf (s.slot n).allot with
      | c :: _ => (s.mem (s.phys c)).read 0x7FF80 48
      | [] => zeros 48
    else if e.status = 1 then natLe 4 e.line ++ zeros 44
    else zeros 48
  natLe 4 seq ++ natLe 1 e.status ++ natLe 1 (if e.status = 1 then e.exc else 0) ++ natLe 2 (if e.status = 1 then e.carrel else 0) ++ body
    ++ trb.flatMap (fun t => natLe 2 (min t 0xFFFF))

/-- The report of an ended invocation to whoever started it (R171, R190, R192, R197). `SLIP_LINE` shows reports of calls through the slip registers alone
(log entry 121). -/
def State.reportTo (s : State) (n : Nat) (src : Source) (e : Ending) (trb : List Nat) : State :=
  match src with
  | .slip seq coherent =>
    let line := s.deliveryLine n seq e trb
    let x := s.csOf n
    if coherent then s.setCs n { x with report := some line }
    else
      let s := s.setCs n { x with running := false, valid := true, line := line }
      if e.status ≠ 0 ∧ s.gb CS_CTL.EXC_IRQ n then s.vec (s.fnOf n) (s.g CS_CTL.EXC_VEC n) else s
  | .desc d => s.finishDesc n d e trb
  | .due idx t late skipped suspended record =>
    if record then
      s.writeRec n (recBytes t e.status (2 + 4 * b2n late + 8 * b2n skipped + 16 * b2n suspended) e.exc e.carrel e.line idx trb)
        (if s.gb Q_CFG.ERR_IRQ n ∧ e.status ≠ 0 then [s.g Q_CFG.ERR_VEC n] else [])
    else s

/-- Every carrel of an allotment stands idle. -/
def State.idleCarrels (s : State) (n : Nat) : State :=
  s.each (carrelsOf (s.slot n).allot) fun s c =>
    let p := s.phys c
    s.setCarrel p { s.carrel p with run := .idle, xfers := [] }

/-- The invocation is over: totals, report, the slot's state. Handles 0 to 31 were the invocation's own (R185, R187). -/
def State.endInvocation (s : State) (n : Nat) (e : Ending) (next : Nat) : State :=
  match (s.slot n).inv with
  | none => s
  | some v =>
    let trb := s.troubleSums n
    let s := (s.addTotals n trb).reportTo n v.src e trb
    let s := (s.idleCarrels n).forgetWaits n
    let x := s.slot n
    let s := s.setSlot n { x with inv := none, ending := none, endMark := false, left := none, hubArr := [], gates := 0, grpWait := 0, clear := [],
                                  handles := x.handles.filter fun h => decide (32 ≤ h.1) }
    let s : State := { s with rels := s.rels.filter fun r => decide (r.slot ≠ n) }
    s.p SLOT_STATUS.STATE n next

/-- Every transfer of an allotment has nothing left to move. -/
def State.drained (s : State) (n : Nat) : Bool :=
  (carrelsOf (s.slot n).allot).all fun c => (s.carrel (s.phys c)).xfers.all fun x => decide (x.todo = [] ∧ x.wait = [])

/-- The transfers that are done complete their tags. -/
def State.finishTags (s : State) (n : Nat) : State :=
  s.each (carrelsOf (s.slot n).allot) fun s c => (s.carrel (s.phys c)).xfers.foldl (fun s x => s.tagDone c x) s

/-- Every carrel of the allotment has completed `HALT`. -/
def State.allHalted (s : State) (n : Nat) : Bool :=
  (carrelsOf (s.slot n).allot).all fun c => decide ((s.carrel (s.phys c)).run = .halted)

end Sys2Proof.Machine
end

