-- ==== Sys2Proof/Machine/Slots.lean ====
section
/-!
DEFINITION. Work slots: dispatch (02 R77), release waves and barriers (04 R153 to R163), group barriers (04 R158, 10 R381), allotments and
`SLOT_CFG` (04 R144, R150), the ends of an invocation (04 R147, R148).
-/
namespace Sys2Proof.Machine

/-! ### Release waves (R159 to R162) -/

/-- A release of a slot's carrels with wave 0 at time `trel`: after a dispatch (`bar` none) or of a barrier. -/
def State.formRelease (s : State) (n : Nat) (bar : Option Nat) (trel : Nat) : State :=
  let x := s.slot n
  let r : Release := { slot := n, bar := bar, trel := trel, spread := decide (16 < x.allot.length), stride := s.g STAMP_CTL.WAVE_STRIDE,
                       prio := x.prio, formed := s.time }
  { s with rels := s.rels ++ [r] }

/-- The tick in which a release's next wave is due. -/
def relDue (r : Release) : Nat := r.trel + (if r.spread then r.started * r.stride else 0) + r.shift

/-- A release is admitted before another (R161): formed earlier, or in the same tick by priority and then by slot number. -/
def relBefore (a b : Release) : Bool :=
  decide (a.formed < b.formed) || (decide (a.formed = b.formed) && (decide (b.prio < a.prio) ||
    (decide (a.prio = b.prio) && decide (a.slot < b.slot))))

/-- Carrels started in the `stride` ticks that end now. -/
def State.startedIn (s : State) (stride : Nat) : Nat :=
  (s.starts.filter fun e => decide (s.time < e.1 + stride)).foldl (fun a e => a + e.2) 0

/-- The next wave of release `r` may start now (R161). The interval in which 256 carrels may start is the stride of the release whose wave it is (log entry
118). -/
def State.waveOk (s : State) (r : Release) : Bool :=
  decide (relDue r ≤ s.time) && decide (s.startedIn r.stride + (s.slot r.slot).allot.length ≤ 256)
    && !s.rels.any fun e => relBefore e r && decide (relDue e ≤ s.time)

/-- Wave 0 of a barrier's release completes its generation (R153, R157): the flags are cleared, the gate is consumed, the waiting carrels
belong to the release. -/
def State.completeGen (s : State) (n b : Nat) : State :=
  let x := s.slot n
  let s := s.setSlot n { x with gates := setBit x.gates b false, hubArr := tset (fun _ => 0) x.hubArr b 0,
                                grpWait := setBit x.grpWait b false }
  s.each (carrelsOf x.allot) fun s c =>
    let p := s.phys c
    let y := s.carrel p
    s.setCarrel p { y with arrived := setBit y.arrived b false, run := if y.run = .gated b then .released b else y.run }

/-- How a carrel waits for a wave of the release of `bar`: dispatched, or freed by that barrier's release. -/
def relRun (bar : Option Nat) : Run := match bar with | none => .waiting | some b => .released b

/-- Wave `w` of the release of `bar` starts the carrels at position `w` of each shelf that wait for it (R160). -/
def State.startCarrels (s : State) (n : Nat) (bar : Option Nat) (w : Nat) : State :=
  s.each (((s.slot n).allot).map fun h => 16 * h + w) fun s c =>
    let p := s.phys c
    let y := s.carrel p
    if y.run = relRun bar then s.setCarrel p { y with run := .active } else s

/-- The wing nodes count the wave; wave 0 is stamped (R163). -/
def State.countWave (s : State) (n w : Nat) : State :=
  s.each (wingsOf (s.slot n).allot) fun s g =>
    let s := s.wrap WBAR_STATUS.RELEASES g
    if w = 0 then s.p WBAR_LAST.STAMP g s.now else s

/-- `WAVE_START`: the next wave of a release starts, when it is due and admitted. A deferred wave takes the later ones of its release
with it. -/
def State.waveStart (s : State) (rel wave : Nat) : State :=
  match s.rels[rel]? with
  | none => s
  | some r =>
    if r.started ≠ wave ∨ !s.waveOk r then s
    else
      let n := r.slot
      let s := match wave, r.bar with
        | 0, some b => s.completeGen n b
        | _, _ => s
      let s := (s.startCarrels n r.bar wave).countWave n wave
      let r' : Release := { r with started := wave + 1, shift := r.shift + (s.time - relDue r) }
      let starts := (s.starts.filter fun e => decide (s.time < e.1 + 64)) ++ [(s.time, (s.slot n).allot.length)]
      { s with rels := if wave = 15 then s.rels.eraseIdx rel else s.rels.set rel r', starts := starts }

/-! ### Barriers (R153 to R158) -/

/-- Group work acts: the device is in a group of kind widen or deepen (R158, 10 R381). -/
def State.groupKind (s : State) : Bool :=
  (s.g CAS_STATUS.STATE = 1 || s.g CAS_STATUS.STATE = 2 || s.g CAS_STATUS.STATE = 4) && decide (s.arec.kind ≠ 2)

/-- Barrier `b` of slot `n` is combined across the group in the running invocation. -/
def State.isGroupBar (s : State) (n b : Nat) : Bool := s.groupKind && bit (s.slot n).group b

/-- Group messages may go: the group is formed and its work is not suspended (R120, R158). -/
def State.groupGoes (s : State) : Bool := decide (s.g CAS_STATUS.STATE = 2) && !s.gb STAMP_STATUS.GROUP_SUSPENDED && !s.gb DEV_STATUS.SAFE

/-- A release of barrier `b` is formed and its generation not over yet: wave 0 ends it (R153). -/
def State.formed (s : State) (n b : Nat) : Bool := s.rels.any fun r => decide (r.slot = n ∧ r.bar = some b ∧ r.started = 0)

/-- Every wing of the allotment has arrived, and the gate of a gated barrier is open. -/
def State.arrivedAll (s : State) (n b : Nat) : Bool :=
  let x := s.slot n
  x.allot ≠ [] && (wingsOf x.allot).all fun w => bit (tget (fun _ => 0) x.hubArr b) w

/-- This device takes part in the group barrier (10 R381). -/
def State.takesPart (s : State) (n b : Nat) : Bool := bit (s.g SLOT_CFG.GROUP_BAR n) b && decide (s.g SLOT_CFG.SHELVES n ≠ 0)

/-- A group release that has come is acted on (R158): at `T_rel`, or at once and counted late. `t` is a stamp; it is taken as so many ticks from now (log
entry 119). -/
def State.groupAct (s : State) (n b t : Nat) : State :=
  if s.now + 2 ≤ t then s.formRelease n (some b) (s.time + (t - s.now))
  else (s.bump STAMP_COUNTS.GROUP_LATE 0).formRelease n (some b) s.time

/-- On the master, the arrivals of a slot's barrier are complete: the release is formed and sent (R158); held while a member that takes part is not
present (10 R382). -/
def State.combine (s : State) (n b : Nat) : State :=
  let parts := s.cas.takes.filter fun e => decide (e.2 = (n, b))
  let own := s.takesPart n b
  if (parts ≠ [] ∨ own) ∧ (!own ∨ (bit (s.slot n).grpWait b ∧ !s.formed n b)) ∧ parts.all (fun e => decide (e ∈ s.cas.came) && bit (s.g CAS_STATUS.PRESENT) e.1) then
    let t := (s.now + s.g STAMP_CTL.GROUP_LEAD) % 2 ^ 64
    let s : State := { s with cas := { s.cas with came := s.cas.came.filter fun e => decide (e.2 ≠ (n, b)) } }
    let s := parts.foldl (fun s e => s.emit (.grpRelease e.1 n b t)) s
    if own then s.groupAct n b t else s
  else s

/-- The local arrivals of a group barrier go to the master, once. -/
def State.groupArrive (s : State) (n b : Nat) : State :=
  let x := s.slot n
  if bit x.grpWait b ∨ !s.groupGoes then s
  else
    let s := s.setSlot n { x with grpWait := setBit x.grpWait b true }
    if s.arec.role = 1 then s.combine n b else s.emit (.grpArrive n b)

/-- What follows once arrivals are complete: the release is formed (R155), unless a gate is closed or a group combines it. -/
def State.barrierGo (s : State) (n b : Nat) : State :=
  let x := s.slot n
  if !s.arrivedAll n b ∨ s.formed n b ∨ (bit x.gated b ∧ !bit x.gates b) then s
  else if s.isGroupBar n b then s.groupArrive n b
  else s.formRelease n (some b) (s.time + 2)

/-- A carrel counts as arrived (R153, R154). -/
def hasArrived (y : Carrel) (b : Nat) : Bool := bit y.arrived b || decide (y.run = .halted)

/-- `HUB_BARRIER_ARRIVAL`: a wing's arrival reaches the hub, when every carrel of the slot in the wing has arrived or has halted (R154, R155). -/
def State.hubArrival (s : State) (n b w : Nat) : State :=
  let x := s.slot n
  let cs := (carrelsOf x.allot).filter fun c => decide (c / 128 = w)
  let a := tget (fun _ => 0) x.hubArr b
  if 4 ≤ b ∨ x.inv = none ∨ cs = [] ∨ bit a w ∨ s.formed n b ∨ !(cs.all fun c => hasArrived (s.carrel (s.phys c)) b) then s
  else (s.setSlot n { x with hubArr := tset (fun _ => 0) x.hubArr b (setBit a w true) }).barrierGo n b

/-- A gate opens (R157, R136): the release takes `T` if the arrivals were complete in time, else R155 sets it. `t` is the time of the due
stamp. `false`: no target. -/
def State.openGate (s : State) (n b t : Nat) : Bool × State :=
  let x := s.slot n
  let st := s.g SLOT_STATUS.STATE n
  if (st = 3 ∨ st = 4 ∨ st = 5) ∧ bit x.gated b then
    let s := s.setSlot n { x with gates := setBit x.gates b true }
    if s.arrivedAll n b ∧ !s.formed n b ∧ !s.isGroupBar n b ∧ s.time + 2 ≤ t then (true, s.formRelease n (some b) t)
    else (true, s.barrierGo n b)
  else (false, s)

/-- Every group barrier whose arrivals wait, and every release held, goes on (R158); the master combines the arrivals that reached it meanwhile,
whether or not it takes part itself. -/
def State.groupResume (s : State) : State :=
  if !s.groupGoes then s
  else
    let s := (List.range 64).foldl (fun s n =>
      let x := s.slot n
      let s := s.setSlot n { x with grpRel := [] }
      let s := x.grpRel.foldl (fun s e => s.groupAct n e.1 e.2) s
      (List.range 4).foldl (fun s b => if s.isGroupBar n b then s.barrierGo n b else s) s) s
    if s.arec.role = 1 then ((s.cas.takes.map (·.2)).eraseDups).foldl (fun s e => s.combine e.1 e.2) s else s

/-- The device reports CASCADE_CONFLICT: its group barriers are local ones from now on, so those whose arrivals are complete are released (R158). -/
def State.groupLocal (s : State) : State :=
  (List.range 64).foldl (fun s n =>
    let x := s.slot n
    if x.group = 0 then s
    else (List.range 4).foldl (fun s b => if bit x.group b then s.barrierGo n b else s) (s.setSlot n { x with grpRel := [], grpWait := 0 })) s

/-- `GROUP_RELEASE_RECEIVE` (R158): held while group work is suspended. A release that no invocation awaits is dropped. -/
def State.groupRelease (s : State) (n b t : Nat) : State :=
  let x := s.slot n
  if !bit x.grpWait b ∨ s.formed n b then s
  else if s.groupGoes then s.groupAct n b t
  else s.setSlot n { x with grpRel := x.grpRel ++ [(b, t)] }

/-! ### Dispatch (02 R77) -/

/-- The place of the folio that registered an entry, and the entry. -/
def findEntry (fs : List Folio) (e : Nat) : Option (Nat × Entry) :=
  (List.range fs.length).findSome? fun i =>
    match fs[i]? with
    | some f => (f.entries.find? fun x => decide (x.num = e)).map fun x => (i, x)
    | none => none

/-- A slot may dispatch now (R147, 13 R456): idle, no install at work, no repair owed, no WING reset over its wings, the device in SERVICE,
the function's requests not stopped (06 R212, R231). -/
def State.canDispatch (s : State) (n : Nat) : Bool :=
  let x := s.slot n
  decide (s.g SLOT_STATUS.STATE n = 2) && decide (x.inv = none) && !x.imgJob && !x.repair && !x.shelfLost && s.inService
    && s.mayRequest (s.fnOf n) && (wingsOf x.allot).all fun w => decide ((s.wing w).rst = 0)

/-- A dispatch that ends with `EMPTY` (R77 step 1, R147): the report alone. -/
def State.endEmpty (s : State) (n : Nat) (src : Source) : State := s.reportTo n src { status := 1, exc := 0xA } [0, 0, 0, 0]

/-- The carrels of an allotment set up for an invocation (R38, R40, R61, R77 step 2, 04 R154). -/
def State.setUp (s : State) (n start : Nat) (block : Bytes) : State :=
  let a := (s.slot n).allot
  s.each (carrelsOf a) fun s c =>
    let p := s.phys c
    let s := s.setMem p (((s.mem p).write 0x7FF00 (slice block 0 128)).zero 0x7FF80 64)
    s.setCarrel p (freshCarrel (s.carrel p) start (allotIndex a c))

/-- The dispatch of an invocation (R77): `by slip` or `by descriptor` as its source says; its release's wave 0 is at time `trel`. -/
def State.dispatch (s : State) (n entry : Nat) (src : Source) (block : Bytes) (trel : Nat) : State :=
  let x := s.slot n
  match findEntry x.folios entry with
  | none => s.endEmpty n src
  | some (i, e) =>
    let ok := match src with | .slip _ _ => e.bySlip | _ => e.byDesc
    if !ok then s.endEmpty n src
    else
      let s := s.setSlot n { x with inv := some ⟨src, entry, i, e.budget⟩, gates := 0, hubArr := [], gated := s.g SLOT_CFG.GATED n,
                                    group := s.g SLOT_CFG.GROUP_BAR n, prio := s.g SLOT_CFG.PRIORITY n, grpWait := 0, grpRel := [],
                                    left := none, ending := none, endMark := false }
      let s := s.setUp n e.start block
      (s.p SLOT_STATUS.STATE n 3).formRelease n none trel

/-- The invocation block of a due-date start (R137). -/
def dueBlock (s : State) (d : Start) : Bytes :=
  natLe 8 d.stamp ++ natLe 8 s.now ++ natLe 4 d.arg ++ natLe 1 d.idx ++ natLe 1 (b2n d.late + 2 * b2n d.skipped + 4 * b2n d.suspended)

/-- The dispatch of a due-date start. Its record is written only where the queue was on at dispatch (05 R192). -/
def State.dispatchDue (s : State) (n : Nat) (d : Start) (trel : Nat) : State :=
  s.dispatch n d.entry (.due d.idx d.stamp d.late d.skipped d.suspended (decide (s.g Q_STATUS.STATE n ≠ 0))) (dueBlock s d) trel

/-- The dispatch of an accepted call (05 R169): the place empties and, under `MODE` 1, the engine re-reads the slip (05 R168). -/
def State.dispatchCall (s : State) (n : Nat) (b : Bytes) : State :=
  let x := s.csOf n
  let coherent := decide (s.g CS_CTL.MODE n = 1)
  let s := s.setCs n { x with call := none, running := true }
  let s := s.p CS_STATUS.PENDING n 0
  let s := if s.g CS_STATUS.STATE n = 3 then s.p CS_STATUS.STATE n 2 else s
  let s := s.dispatch n (bits (le b 4 1) 2 0) (.slip (le b 0 4) coherent) (slice b 0 64) s.time
  if coherent ∧ s.g CS_STATUS.STATE n = 2 ∧ s.cacheEn ∧ s.mayRequest (s.fnOf n) then s.engRead n else s

/-- The start latch holds one start (R149). -/
def State.latchStart (s : State) (n : Nat) (d : Start) : State :=
  (s.setSlot n { s.slot n with latch := some d }).p SLOT_STATUS.START_PENDING n 1

def State.unlatch (s : State) (n : Nat) : State :=
  (s.setSlot n { s.slot n with latch := none }).p SLOT_STATUS.START_PENDING n 0

/-- A start fires at a slot (R136): dispatched, latched, turned away as busy, or without a target. The pair says BUSY and NO_TARGET. -/
def State.fireStart (s : State) (n : Nat) (d : Start) (trel : Nat) : (Bool × Bool) × State :=
  let st := s.g SLOT_STATUS.STATE n
  if s.partOf n = none ∨ st = 8 then ((false, true), s)
  else if st = 0 then ((false, false), s.endEmpty n (.due d.idx d.stamp d.late d.skipped d.suspended (decide (s.g Q_STATUS.STATE n ≠ 0))))
  else if s.canDispatch n ∧ (s.queue n).hold = none ∧ (s.slot n).latch = none then ((false, false), s.dispatchDue n d trel)
  else if (s.slot n).latch = none then ((false, false), s.latchStart n d)
  else ((true, false), s.p SLOT_STATUS.START_BUSY n 1)

/-! ### Allotments (R144) -/

/-- A carrel of the shelf is being substituted (01 R17): the shelf returns to allotment once the map has changed. -/
def State.shelfRepair (s : State) (h : Nat) : Bool :=
  s.flt.repairs.any fun p => match s.deviceOf p with | some c => decide (shelfOf c = h) | none => false

/-- The shelves of a partition that are in no allotment and not withdrawn (R152, 01 R20). -/
def State.idleShelves (s : State) (p : Nat) : List Nat :=
  (s.part p).shelves.filter fun h => decide (s.slotOfShelf h = none) && decide (h ∉ s.flt.withdrawn)

/-- Those that an allotment may take: none of them under repair (01 R17). -/
def State.freeShelves (s : State) (p : Nat) : List Nat := (s.idleShelves p).filter fun h => !s.shelfRepair h

/-- The stores of some shelves are wiped. -/
def State.wipeShelves (s : State) (hs : List Nat) : State :=
  s.each (carrelsOf hs) fun s c => s.setMem (s.phys c) []

/-- The folio at a place leaves its slot with its entries, its handles and its kept copy (05 R188). -/
def State.removeFolio (s : State) (n i : Nat) : State :=
  let x := s.slot n
  match x.folios[i]? with
  | none => s
  | some f =>
    let s := s.setSlot n { x with folios := x.folios.eraseIdx i, handles := x.handles.filter fun e => decide (e.1 ∉ f.handles) }
    let es := (f.entries.map (·.num)).foldl (fun m e => setBit m e false) (s.g SLOT_STATUS.ENTRIES n)
    (s.p SLOT_STATUS.ENTRIES n es).releaseFrame f.frame

/-- Every folio leaves the slot. -/
def State.removeFolios (s : State) (n : Nat) : State :=
  ((s.slot n).folios).foldl (fun s _ => s.removeFolio n 0) s

/-- The slot's shelves go back, wiped; folios and latch go (R144, R149). -/
def State.dropAllot (s : State) (n : Nat) : State :=
  let s := s.removeFolios n
  let x := s.slot n
  let s := s.wipeShelves x.allot
  (s.setSlot n { x with allot := [], latch := none }).p SLOT_STATUS.START_PENDING n 0

/-- Which group barriers a slot takes part in. -/
def State.takesOf (s : State) (n : Nat) : List Bool := (List.range 4).map fun b => s.takesPart n b

/-- A member tells the master which group barriers a slot takes part in, when that changes (10 R381); on the master itself the arrivals of the others may be
complete then (R158). In the safe state nothing is sent (12 R439). -/
def State.tellTakes (s : State) (n : Nat) (old : List Bool) : State :=
  if s.arec.role = 0 ∨ s.gb DEV_STATUS.SAFE then s
  else (List.range 4).foldl (fun s b =>
    let now := s.takesPart n b
    if now = old.getD b false then s
    else if s.arec.role = 2 then s.emit (.grpTakes n b now)
    else if s.groupGoes then s.combine n b
    else s) s

/-- A new allotment of `k` shelves (R144); the intake serves the slot by the `PRIORITY` of that write from now on (log entry 103). -/
def State.allot (s : State) (p n k : Nat) : State :=
  let s := s.dropAllot n
  if k = 0 then (s.p SLOT_CFG.SHELVES n 0).p SLOT_STATUS.STATE n 0
  else
    let free := s.freeShelves p
    if free.length < k then ((s.p SLOT_CFG.SHELVES n 0).p SLOT_STATUS.STATE n 0).p SLOT_STATUS.CFG_REFUSED n 1
    else
      let hs := ((List.range 256).filter fun h => decide (h ∈ free)).take k
      let s := (s.setSlot n { s.slot n with allot := hs, prio := s.g SLOT_CFG.PRIORITY n }).wipeShelves hs
      (s.p SLOT_CFG.SHELVES n k).p SLOT_STATUS.STATE n 1

/-- `SLOT_CFG_WRITE` by partition `p` (R144, R150). -/
def State.slotCfgWrite (s : State) (p n v : Nat) : State :=
  if !s.owns p n then s
  else
    let st := s.g SLOT_STATUS.STATE n
    let pasid := bits v 43 24
    let k := bits v 8 0
    let newPasid := decide (pasid ≠ s.g SLOT_CFG.PASID n)
    if (st ≠ 0 ∧ st ≠ 2) ∨ (s.slot n).imgJob ∨ (newPasid ∧ (s.g Q_STATUS.STATE n ≠ 0 ∨ s.g CS_STATUS.STATE n ≠ 0)) then
      s.p SLOT_STATUS.CFG_REFUSED n 1
    else
      let old := s.takesOf n
      let s := if newPasid then s.removeFolios n else s
      let s := (((s.p SLOT_CFG.PASID n pasid).p SLOT_CFG.GROUP_BAR n (bits v 23 20)).p SLOT_CFG.GATED n (bits v 19 16)).p
        SLOT_CFG.PRIORITY n (bits v 13 12)
      let s := if k = s.g SLOT_CFG.SHELVES n ∧ (st = 2 ∨ k = 0) then s else s.allot p n k
      s.tellTakes n old

/-- `ALLOTMENT_COMPLETE`: the shelves are wiped and assigned; a repair of one of them that started meanwhile holds the slot in `REPAIR` (01 R17). -/
def State.allotDone (s : State) (n : Nat) : State :=
  if s.g SLOT_STATUS.STATE n = 1 then s.p SLOT_STATUS.STATE n (if (s.slot n).repair then 7 else 2) else s

/-! ### Ends (R147, R148) -/

/-- `SLOT_END`: the invocation is to end; the latch empties (R149). In any other state it is ignored. -/
def State.slotEnd (s : State) (p n : Nat) : State :=
  let st := s.g SLOT_STATUS.STATE n
  if s.owns p n ∧ (st = 3 ∨ st = 4 ∨ st = 5) then (s.endSlot n { status := 2 }).unlatch n else s

/-- `SLOT_CLR_FLAGS`. -/
def State.clrFlags (s : State) (p n : Nat) : State :=
  if s.owns p n then ((s.p SLOT_STATUS.CFG_REFUSED n 0).p SLOT_STATUS.SHELF_LOST n 0).p SLOT_STATUS.START_BUSY n 0 else s

/-- A slot goes to `UNCONFIGURED` because a shelf is withdrawn (R147, 01 R20): folios and shelves go. -/
def State.loseShelf (s : State) (n : Nat) : State :=
  let old := s.takesOf n
  let s := s.dropAllot n
  let s := s.setSlot n { s.slot n with shelfLost := false, repair := false }
  (((s.p SLOT_CFG.SHELVES n 0).p SLOT_STATUS.SHELF_LOST n 1).p SLOT_STATUS.STATE n 0).tellTakes n old

/-- A carrel of the slot is owed a substitution that a pending trap will start (01 R17, 12 R443). -/
def State.owedRepair (s : State) (n : Nat) : Bool :=
  s.flt.trap && (carrelsOf (s.slot n).allot).any fun c => decide (s.phys c ∈ s.flt.subst)

/-- The state in which an ended slot goes on. -/
def State.afterEnd (s : State) (n : Nat) : State :=
  let x := s.slot n
  if x.shelfLost then s.loseShelf n
  else if x.repair || s.owedRepair n then (s.setSlot n { x with repair := true }).p SLOT_STATUS.STATE n 7
  else s

/-- The folios of a slot are put into a carrel again from their kept copies (02 R76). -/
def State.restoreImages (s : State) (n c : Nat) : State :=
  let p := s.phys c
  (s.slot n).folios.foldl (fun s f => s.setMem p (((s.mem p).write f.load f.lineBytes).write f.dataAddr f.dataBytes)) s

/-- The slot's stores in the wings whose WING reset ended it are wiped and take its images again (02 R76, 13 R463). -/
def State.clearStores (s : State) (n : Nat) : State :=
  ((carrelsOf (s.slot n).allot).filter fun c => decide (c / 128 ∈ (s.slot n).clear)).foldl
    (fun s c => (s.setMem (s.phys c) []).restoreImages n c) s

/-- `SLOT_ENDING_DRAINED`: the issued transfers are done, the end is reported and the slot goes on; in the safe state no work ends (12 R440). -/
def State.endDrained (s : State) (n : Nat) : State :=
  match (s.slot n).ending with
  | some e =>
    if s.g SLOT_STATUS.STATE n = 6 ∧ !s.gb DEV_STATUS.SAFE ∧ s.drained n ∧ (wingsOf (s.slot n).allot).all (fun w => decide ((s.wing w).rst = 0)) then
      (((s.finishTags n).clearStores n).endInvocation n e 2).afterEnd n
    else s
  | none => s

/-- `INVOCATION_NORMAL_END`. -/
def State.normalEnd (s : State) (n : Nat) : State :=
  if s.g SLOT_STATUS.STATE n = 3 ∧ (s.slot n).inv ≠ none ∧ s.allHalted n then (s.endInvocation n { status := 0 } 2).afterEnd n else s



/-- `TRB_CLEAR` (03 R113): bit n of the mask clears the totals of the partition's slot n. -/
def State.trbClear (s : State) (p mask : Nat) : State :=
  (setBitsOf 64 mask).foldl (fun s n =>
    if s.owns p n then (((s.p TRB_TOTAL_SAT.COUNT n 0).p TRB_TOTAL_FIN.COUNT n 0).p TRB_TOTAL_FOUT.COUNT n 0).p TRB_TOTAL_NAN.COUNT n 0
    else s) s

end Sys2Proof.Machine
end

