-- ==== Sys2Proof/Machine/DueDate.lean ====
section
/-!
DEFINITION. The date stamp and the due-date table (04 R116 to R142).
-/
namespace Sys2Proof.Machine

/-! ### Owners and entries (R128, R129) -/

/-- Bits of a `DD_SPEC` value (R139). -/
def ddArg (v : Nat) : Nat := bits v 63 32
def ddAction (v : Nat) : Nat := bits v 31 28
def ddSub (v : Nat) : Nat := bits v 26 24
def ddSlot (v : Nat) : Nat := bits v 21 16

/-- An index of the group-plan range. -/
def State.inPlan (s : State) (i : Nat) : Bool := decide (s.arec.mgmtDd ≤ i) && decide (i < s.arec.mgmtDd + s.arec.groupDd)

/-- The partition that owns an entry. -/
def State.ddPart (s : State) (i : Nat) : Option Nat :=
  (List.range s.partCount).find? fun p => decide ((s.part p).ddBase ≤ i) && decide (i < (s.part p).ddBase + (s.part p).ddCount)

/-- The device is a member or the master of a group that has not been refused (R135): `FORMING`, `FORMED` or `LOST`. -/
def State.grouped (s : State) : Bool := s.g CAS_STATUS.STATE = 1 || s.g CAS_STATUS.STATE = 2 || s.g CAS_STATUS.STATE = 4

/-- A group entry (R135). -/
def State.isGroupEnt (s : State) (i spec : Nat) : Bool := s.grouped && (bit spec 27 || s.inPlan i)

/-- No due date fires before the first good frame (R119), outside SERVICE (13 R456) or in the safe state. -/
def State.canFire (s : State) : Bool := s.gb STAMP_STATUS.SYNC_OK && s.inService && !s.gb DEV_STATUS.SAFE

/-- The actions an owner may use (R129): 0 management, 1 a partition, 2 the group. -/
def actionAllowed (owner a : Nat) : Bool :=
  match owner with
  | 1 => decide (a = 1 ∨ a = 2 ∨ a = 7)
  | 2 => decide (a = 1 ∨ a = 2 ∨ a = 3 ∨ a = 5)
  | _ => decide (1 ≤ a ∧ a ≤ 7)

/-! ### Firing (R130 to R136) -/

/-- The time of a stamp, for what acts at it; the present where it has passed. -/
def State.timeOf (s : State) (t : Nat) : Nat := s.time + (t - s.now)

/-- `OPEN_WINDOW` (10 R386) in its tick: each named link is open to the later end, and what waited for it leaves. -/
def State.openWindow (s : State) (arg : Nat) : State :=
  State.ilGo ((setBitsOf 4 arg).foldl (fun s l =>
    let e := s.time + bits arg 31 16
    { s with cas := { s.cas with openTo := tp s.cas.openTo l (max (tn s.cas.openTo l) e) } }) s)

/-- The function that `RAISE_INT` of entry `i` signals (R129; log entry 76). -/
def State.ddFn (s : State) (i arg : Nat) : Nat := match s.ddPart i with | some p => p + 1 | none => bits arg 19 16

/-- The effect, in its tick, of an action that is neither a release nor a start (R129, R130). -/
def State.ddEffect (s : State) (i spec : Nat) : State :=
  let arg := ddArg spec
  match ddAction spec with
  | 3 => s.openWindow arg
  | 4 => s.p PWR_OP.TARGET 0 (bits arg 2 0)
  | 5 => s.telemetry arg
  | 6 => s.ledgerSnapshot
  | 7 =>
    let f := s.ddFn i arg
    if f = 0 then s.p STAMP_EVENTS.DD_INT 0 1 else if s.partCount < f then s else s.vec f (bits arg 7 0)
  | _ => s

/-- An effect of the tick of stamp `a`: now, or when that tick comes (R130). -/
def State.ddSoon (s : State) (a i spec : Nat) : State :=
  if a ≤ s.now then s.ddEffect i spec
  else { s with stamp := { s.stamp with acts := s.stamp.acts ++ [(s.timeOf a, i, spec)] } }

/-- The effects whose tick has come; none while no due date fires. -/
def State.ddActs (s : State) : State :=
  let due := s.stamp.acts.filter fun e => decide (e.1 ≤ s.time)
  if due = [] then s
  else
    let s : State := { s with stamp := { s.stamp with acts := s.stamp.acts.filter fun e => decide (s.time < e.1) } }
    if s.canFire then due.foldl (fun s e => s.ddEffect e.2.1 e.2.2) s else s

/-- The action of an entry of stamp `t` that takes effect in the tick of stamp `a`; the pair says BUSY and NO_TARGET. -/
def State.ddAct (s : State) (i t a spec mark : Nat) : (Bool × Bool) × State :=
  let arg := ddArg spec
  let n := ddSlot spec
  match ddAction spec with
  | 1 => let r := s.openGate n (ddSub spec) (s.timeOf a); ((false, !r.1), r.2)
  | 2 => s.fireStart n ⟨i, t, arg, ddSub spec, bit mark 0, bit mark 1, bit mark 2⟩ (s.timeOf a)
  | 7 => if s.partCount < s.ddFn i arg then ((false, true), s) else ((false, false), s.ddSoon a i spec)
  | _ => ((false, false), s.ddSoon a i spec)

/-- The stamp of the tick in which an entry that is due at `base` takes effect: the first from there on in which fewer than 16 do (R131). -/
def State.ddTick (s : State) (base : Nat) : Nat :=
  let l := s.stamp.actAt
  base + ((List.range (l.length + 1)).find? fun k => decide ((l.filter fun x => decide (x = s.timeOf base + k)).length < 16)).getD 0

/-- An armed entry fires (R130, R132): its action, its result, and its next instance if it is periodic (log entry 77). It acts at its stamp, or at once where that has
passed or the entry is marked, or where a tick is full in a following one (R131, R140). -/
def State.ddFire (s : State) (i : Nat) : State :=
  let e := s.ddEnt i
  let t := e.stamp
  let m := e.pend.getD (0, 0, (t + e.period) % 2 ^ 64)
  let a := s.ddTick (if m.1 = 0 then max t s.now else s.now)
  let x := s.timeOf a
  let r := s.ddAct i t a e.spec m.1
  let s := r.2
  let e : DdEnt := { e with busy := r.1.1, noTarget := r.1.2, late := bit m.1 0, skipped := bit m.1 1, susp := bit m.1 2,
                            missed := min m.2.1 0xFFFF, firedAt := a, pend := none,
                            state := if e.period = 0 then 2 else 1, stamp := if e.period = 0 then t else m.2.2 }
  let s := s.setDd i e
  { s with stamp := { s.stamp with actAt := s.stamp.actAt ++ [x] } }

/-- An entry may fire now: armed, and due by its stamp or marked. -/
def State.ddDue (s : State) (i : Nat) : Bool :=
  let e := s.ddEnt i
  decide (e.state = 1) && (e.pend.isSome || decide (e.stamp ≤ s.now + 2))

/-- Entry `j` fires before entry `i`: by stamp, then by index (R131). -/
def State.ddBefore (s : State) (j i : Nat) : Bool :=
  let a := (s.ddEnt j).stamp
  let b := (s.ddEnt i).stamp
  decide (a < b) || (decide (a = b) && decide (j < i))

/-- The first of the entries that satisfy `p`, in the order of R131. -/
def State.ddFirst (s : State) (p : Nat → Bool) : Option Nat :=
  let due := (List.range 256).filter p
  due.find? fun i => due.all fun j => decide (j = i) || s.ddBefore i j

/-- The entry that fires next. -/
def State.ddNext (s : State) : Option Nat := s.ddFirst s.ddDue

/-- `DUE_DATE_FIRE`: the entry fires if it is the next one that may (R131); where a tick is full its effect follows (`ddTick`). -/
def State.dueDateFire (s : State) (i : Nat) : State :=
  if s.canFire ∧ s.ddNext = some i then s.ddFire i else s

/-- The marked entries fire, in order. -/
def State.ddFireMarked : Nat → State → State
  | 0, s => s
  | k + 1, s =>
    match s.ddFirst fun i => decide ((s.ddEnt i).state = 1) && (s.ddEnt i).pend.isSome with
    | some i => if s.canFire then (s.ddFire i).ddFireMarked k else s
    | none => s

/-- The first instance of a periodic entry at or above a stamp, and the number of its instances below it. -/
def collapse (t period lim : Nat) : Nat × Nat :=
  if period = 0 ∨ lim ≤ t then (t, 0)
  else
    let k := (lim - t + period - 1) / period
    (t + k * period, k)

/-- An entry is marked to fire at once, its instances below `lim` collapsed. -/
def ddMark (e : DdEnt) (mark lim : Nat) : DdEnt :=
  let c := collapse e.stamp e.period lim
  { e with pend := some (mark, c.2 - 1, c.1 % 2 ^ 64) }

/-- The armed entries that satisfy `p` are changed. -/
def State.ddEach (s : State) (p : Nat → DdEnt → Bool) (f : DdEnt → DdEnt) : State :=
  (List.range 256).foldl (fun s i => let e := s.ddEnt i; if p i e then s.setDd i (f e) else s) s

/-! ### The date stamp (R116 to R122) -/

/-- STAMP_NOW set. -/
def State.setNow (s : State) (v : Nat) : State := s.p STAMP_NOW.VALUE 0 (v % 2 ^ 64)

/-- `STAMP_TICK`; due-date effects of the new tick act (R130). -/
def State.stampTick (s : State) : State :=
  let s := s.setNow (s.now + 1)
  let x := s.stamp
  State.ddActs { s with
           time := s.time + 1,
           stamp := { x with actAt := x.actAt.filter (fun t => decide (s.time < t)), sinceGood := x.sinceGood + 1,
                             holdTicks := if x.refPresent then 0 else x.holdTicks + 1,
                             refTicks := if x.refPresent then x.refTicks + 1 else 0 } }

/-- A bad or missing frame; at the limit the sync is lost (R118). -/
def State.badFrame (s : State) : State :=
  let r := s.stamp.missRun + 1
  let s : State := { s with stamp := { s.stamp with missRun := r } }
  if s.g STAMP_CTL.SYNC_MISS_LIMIT ≤ r ∧ !s.gb STAMP_STATUS.SYNC_LOST then
    ((s.p STAMP_STATUS.SYNC_LOST 0 1).p STAMP_EVENTS.SYNC_LOST 0 1).raise { source := srcId 12 0 2 }
  else s

/-- `SYNC_FRAME_MISSED` (R118): 65,600 tk after the last good frame, and each 65,536 tk after. -/
def State.frameMissed (s : State) : State :=
  if s.gb STAMP_STATUS.SYNC_OK ∧ 65600 ≤ s.stamp.sinceGood then
    let seen := s.stamp.badSeen
    let s : State := { s with stamp := { s.stamp with sinceGood := ((s.stamp.sinceGood : Int) - 65536).toNat, badSeen := false } }
    let s := s.bump STAMP_COUNTS.MISSED 0
    -- a frame that came and was bad is one of the consecutive frames already
    if seen then s else s.badFrame
  else s

/-- The comparison of a good frame with the counter (R117, R133, R134). -/
def State.stampStep (s : State) (v : Nat) : State :=
  let n := s.now
  if n = v then s
  else
    let s := ((s.setNow v).p STAMP_LAST_STEP.DELTA 0 (unsgn 64 ((v : Int) - (n : Int)))).bump STAMP_COUNTS.STEPS 0
    let s := (s.p STAMP_EVENTS.STEP 0 1).raise { source := srcId 12 0 1 }
    if n < v then
      s.ddEach (fun _ e => decide (e.state = 1) && e.pend.isNone && decide (n + 2 ≤ e.stamp) && decide (e.stamp < v + 2))
        (fun e => ddMark e 2 (v + 2))
    else s

/-- The suspended entries are armed again; one whose instance has passed is marked to fire at once, its missed instances collapsed (R135). -/
def State.unsuspend (s : State) : State :=
  let lim := s.now + 2
  s.ddEach (fun _ e => decide (e.state = 3))
    (fun e => if e.stamp < lim then ddMark { e with state := 1 } 5 lim else { e with state := 1 })

/-- The end of holdover (R121, R135, R158). -/
def State.leaveHoldover (s : State) : State :=
  let s : State := { s with stamp := { s.stamp with holdover := false, holdTicks := 0 } }
  (((s.p STAMP_STATUS.GROUP_SUSPENDED 0 0).p STAMP_EVENTS.HOLDOVER_LEFT 0 1).unsuspend).groupResume

/-- `SYNC_FRAME` at its mark tick (R117 to R121, 16 R537; log entry 78). -/
def State.syncFrame (s : State) (v crc : Nat) (stop : Bool) : State :=
  if !s.stamp.refPresent then s
  else if stop ∨ crc ≠ crc16 v then
    let s := (s.bump STAMP_COUNTS.CRC_ERRS 0).raise { source := srcId 12 0 0 }
    State.badFrame { s with stamp := { s.stamp with badSeen := true } }
  else
    let s : State := { s with stamp := { s.stamp with missRun := 0, sinceGood := 0, badSeen := false } }
    let s := s.p STAMP_STATUS.SYNC_LOST 0 0
    let s := if s.gb STAMP_STATUS.SYNC_OK then s.stampStep v
      else
        let s := (s.setNow v).p STAMP_STATUS.SYNC_OK 0 1
        s.ddEach (fun _ e => decide (e.state = 1) && decide (e.stamp < v + 2))
          (fun e => { e with pend := some (1, 0, (e.stamp + e.period) % 2 ^ 64) })
    let s := if s.stamp.holdover ∧ 1024 ≤ s.stamp.refTicks then s.leaveHoldover else s
    s.ddFireMarked 256

/-- `REFERENCE_LOSS` (R120). -/
def State.referenceLoss (s : State) : State :=
  if !s.stamp.refPresent ∧ s.stamp.holdover then s
  else
    let was := s.stamp.holdover
    let s : State := { s with stamp := { s.stamp with refPresent := false, holdover := true, refTicks := 0 } }
    if was then s else (s.p STAMP_EVENTS.HOLDOVER_ENTERED 0 1).raise { source := srcId 12 0 3 }

/-- `DSTAMP_REFERENCE_RETURN` (R121). -/
def State.referenceReturn (s : State) : State :=
  if s.stamp.refPresent then s else { s with stamp := { s.stamp with refPresent := true, refTicks := 0, holdTicks := 0 } }

/-- While group work is suspended, an armed group entry is `SUSPENDED` (R135). -/
def State.suspendEnts (s : State) : State :=
  if s.gb STAMP_STATUS.GROUP_SUSPENDED then
    s.ddEach (fun i e => decide (e.state = 1) && s.isGroupEnt i e.spec) (fun e => { e with state := 3, pend := none })
  else s

/-- `GROUP_SUSPEND` (R120): after 10 ms without the reference. -/
def State.groupSuspend (s : State) : State :=
  if s.stamp.holdover ∧ 1562500 ≤ s.stamp.holdTicks ∧ !s.gb STAMP_STATUS.GROUP_SUSPENDED then
    ((s.p STAMP_STATUS.GROUP_SUSPENDED 0 1).p STAMP_EVENTS.GROUP_SUSPENDED 0 1).suspendEnts
  else s

/-- `STAMP_NOW_LOW_READ` (R122): the low half is answered, the high half latched. -/
def State.stampLowRead (s : State) : State :=
  ({ s with stamp := { s.stamp with latchHi := some (s.now / 2 ^ 32) } }).emit (.cpl 0 0 (s.now % 2 ^ 32))

/-! ### Commands (R138 to R141) -/

/-- The ownership of an index by management (none) or a partition: 0 fine, 1 `NOT_OWNED`, 5 `GROUP_REFUSED`. -/
def State.ddOwn (s : State) (who : Option Nat) (i : Nat) : Nat :=
  match who with
  | some p => if s.ddPart i = some p then 0 else 1
  | none => if 256 ≤ i then 1 else if s.arec.role = 2 ∧ s.grouped ∧ s.inPlan i then 5 else 0

/-- The checks of a `COMMIT` in their order (R140). -/
def State.ddCheck (s : State) (who : Option Nat) (i spec period : Nat) : Nat :=
  let own := s.ddOwn who i
  let foreign : Bool := match who with | some p => !s.owns p (ddSlot spec) | none => false
  let owner := match who with | some _ => 1 | none => if s.grouped ∧ s.inPlan i then 2 else 0
  if own = 1 ∨ foreign then 1
  else if own = 5 then 5
  else if !actionAllowed owner (ddAction spec) ∨ (period ≠ 0 ∧ period < 16) ∨ (ddAction spec = 3 ∧ bits (ddArg spec) 31 16 = 0)
      ∨ (bit spec 27 ∧ s.arec.role = 1 ∧ s.grouped ∧ !s.inPlan i) then 2
  else if (s.ddEnt i).state = 1 ∨ (s.ddEnt i).state = 3 then 3
  else 0

/-- An entry is stored and armed; it fires at once where it is late (R130, R135). What an earlier firing left in it goes (log entry 117). -/
def State.ddArm (s : State) (i stamp spec period : Nat) : State :=
  let susp := s.isGroupEnt i spec && s.gb STAMP_STATUS.GROUP_SUSPENDED
  let late := decide (stamp < s.now + 2) && s.gb STAMP_STATUS.SYNC_OK && !susp
  let e : DdEnt := { stamp := stamp, spec := spec, period := period, state := if susp then 3 else 1,
                     pend := if late then some (1, 0, (stamp + period) % 2 ^ 64) else none }
  (s.setDd i e).ddFireMarked 256

/-- The master sends a plan entry, or its removal, to every member that is present (10 R380). -/
def State.sendPlan (s : State) (i : Nat) (commit : Bool) (stamp spec period : Nat) : State :=
  if s.arec.role = 1 ∧ s.g CAS_STATUS.STATE = 2 ∧ s.inPlan i then
    (List.range 8).foldl (fun s m => if bit (s.g CAS_STATUS.PRESENT) m ∧ m ≠ s.arec.member then s.emit (.plan m i commit stamp spec period) else s) s
  else s

/-- `COMMIT` with its result. -/
def State.ddCommit (s : State) (who : Option Nat) (i stamp spec period : Nat) : Nat × State :=
  let r := s.ddCheck who i spec period
  if r ≠ 0 then (r, s) else (0, (s.sendPlan i true stamp spec period).ddArm i stamp spec period)

/-- `CANCEL` with its result. -/
def State.ddCancel (s : State) (who : Option Nat) (i : Nat) : Nat × State :=
  let own := s.ddOwn who i
  if own ≠ 0 then (own, s)
  else if (s.ddEnt i).state = 1 ∨ (s.ddEnt i).state = 3 then (0, (s.sendPlan i false 0 0 0).setDd i {})
  else (4, s)

/-- The staging registers' `DD_CMD` commands (R140): 1 `COMMIT`, 2 `CANCEL`, 3 `READ`. -/
def State.ddCmd (s : State) (cmd : Nat) : State :=
  let i := s.g DD_INDEX.INDEX
  match cmd with
  | 1 =>
    let r := s.ddCommit none i (s.g DD_STAMP.STAMP) (s.reg .DD_SPEC 0).toNat (s.g DD_PERIOD.PERIOD)
    r.2.p DD_RESULT.RESULT 0 r.1
  | 2 => let r := s.ddCancel none i; r.2.p DD_RESULT.RESULT 0 r.1
  | 3 =>
    let own := s.ddOwn none i
    if own ≠ 0 then s.p DD_RESULT.RESULT 0 own
    else
      let e := s.ddEnt i
      let s := ((s.p DD_STAMP.STAMP 0 e.stamp).setReg .DD_SPEC 0 (BitVec.ofNat 64 e.spec)).p DD_PERIOD.PERIOD 0 e.period
      let s := (((s.p DD_RESULT.MISSED 0 e.missed).p DD_RESULT.NO_TARGET 0 (b2n e.noTarget)).p DD_RESULT.BUSY 0 (b2n e.busy)).p
        DD_RESULT.SUSPENDED 0 (b2n e.susp)
      let s := ((s.p DD_RESULT.SKIPPED 0 (b2n e.skipped)).p DD_RESULT.LATE 0 (b2n e.late)).p DD_RESULT.STATE 0 e.state
      (s.p DD_RESULT.RESULT 0 0).p DD_FIRED_AT.STAMP 0 e.firedAt
  | _ => s

/-- `PLAN_ENTRY_RECEIVE` (10 R380, 14 R496): stored at the same index, or discarded with an error. -/
def State.planReceive (s : State) (i : Nat) (commit : Bool) (stamp spec period : Nat) : State :=
  if s.arec.role ≠ 2 ∨ !s.grouped then s
  else if !s.inPlan i then s.raise { source := srcId 7 4 3 }
  else if commit then s.ddArm i stamp spec period
  else s.setDd i {}

/-- The table's entries from `a` on are freed. -/
def State.ddFree (s : State) (p : Nat → Bool) : State := { s with dd := tdrop p s.dd }

end Sys2Proof.Machine
end

