-- ==== Sys2Proof/Machine/CallSlip.lean ====
section
/-!
DEFINITION. The call-slip engine and the slip registers (05 R164 to R179, R196, R197; 06 R211, R212).
-/
namespace Sys2Proof.Machine

/-! ### Lines of a pair -/

/-- A line of the pair translated: its line number and the translation's epoch, or none while it waits or where the fault has moved the pair to
`FAULT`. -/
def State.csXlate (s : State) (n va : Nat) (w : Bool) : Option Nat × Nat × State :=
  match s.partOf n with
  | none => (none, 0, s)
  | some part =>
    match s.hubVa part (s.g SLOT_CFG.PASID n) va w { source := 2, slot := n } with
    | (.ok ca, s) => (some (ca / 64), s.hubEpoch part (s.g SLOT_CFG.PASID n) va, s)
    | (_, s) => (none, 0, s)

/-- The slip's address is translated if it is owed. -/
def State.csSlip (s : State) (n : Nat) : State :=
  if (s.csOf n).slipLine = none then
    let r := s.csXlate n (s.g CS_SLIP_ADDR.ADDR n * 64) false
    r.2.2.setCs n { r.2.2.csOf n with slipLine := r.1, slipEp := r.2.1 }
  else s

/-- The delivery line's address is translated if it is owed. -/
def State.csDlv (s : State) (n : Nat) : State :=
  if (s.csOf n).dlvLine = none then
    let r := s.csXlate n (s.g CS_DLV_ADDR.ADDR n * 64) true
    r.2.2.setCs n { r.2.2.csOf n with dlvLine := r.1, dlvEp := r.2.1 }
  else s

/-! ### Modes (R178) -/

/-- The pair may be armed now (13 R456, 06 R231). -/
def State.csMay (s : State) (n : Nat) : Bool := s.inService && s.mayRequest (s.fnOf n) && s.cacheEn

/-- An arming pair goes on: both addresses, then the read of the call slip; a pair of slip registers is `ARMED` once the device is in SERVICE (13 R456). -/
def State.csArmGo (s : State) (n : Nat) : State :=
  if s.g CS_STATUS.STATE n = 1 ∧ s.g CS_CTL.MODE n = 2 then (if s.inService then s.p CS_STATUS.STATE n 2 else s)
  else if s.g CS_STATUS.STATE n = 1 ∧ s.csMay n then
    let s := (s.csSlip n).csDlv n
    if s.g CS_STATUS.STATE n = 1 ∧ (s.csOf n).slipLine.isSome ∧ (s.csOf n).dlvLine.isSome then s.engRead n else s
  else s

/-- `CS_MODE_COHERENT`: `MODE` 0 to 1; ignored from 2, while disarming and while Cache_Enable is 0. -/
def State.csCoherent (s : State) (p n : Nat) : State :=
  if s.owns p n ∧ s.g CS_CTL.MODE n = 0 ∧ s.g CS_STATUS.STATE n = 0 ∧ s.cacheEn then
    ((s.p CS_CTL.MODE n 1).p CS_STATUS.STATE n 1).csArmGo n
  else s

/-- `CS_MODE_SLIP_REGISTERS`: `MODE` 0 to 2, `ARMED` at once in SERVICE and else when it comes (13 R456); ignored from 1 and while disarming. -/
def State.csSlipRegs (s : State) (p n : Nat) : State :=
  if s.owns p n ∧ s.g CS_CTL.MODE n = 0 ∧ s.g CS_STATUS.STATE n = 0 then
    (s.p CS_CTL.MODE n 2).p CS_STATUS.STATE n (if s.inService then 2 else 1)
  else s

/-- `CS_MODE_OFF`: an accepted call that has not been dispatched is discarded. -/
def State.csOff (s : State) (p n : Nat) : State :=
  if s.owns p n ∧ s.g CS_CTL.MODE n ≠ 0 ∧ s.g CS_STATUS.STATE n ≠ 5 then
    let s := s.setCs n { s.csOf n with call := none, disarm := true }
    ((s.p CS_CTL.MODE n 0).p CS_STATUS.PENDING n 0).p CS_STATUS.STATE n 5
  else s

/-- The engine reads the slip where it holds no copy and may ask for one. -/
def State.csSeek (s : State) (n : Nat) : State := if s.csMay n then s.engRead n else s

/-- `CS_ARM_COMPLETE`: the slip's `SEQ` is taken without a dispatch; a slip invalidated since it was read is read again (R165). -/
def State.csArmed (s : State) (n : Nat) : State :=
  match (s.csOf n).got with
  | some b =>
    if s.g CS_STATUS.STATE n = 1 ∧ s.inService then
      (((s.setCs n { s.csOf n with got := none }).p CS_STATUS.LAST_SEQ n (le b 0 4)).p CS_STATUS.STATE n 2).csSeek n
    else s
  | none => s.csArmGo n

/-- `CS_DISARM_COMPLETE`: with no call running or owed a delivery, the lines leave the engine, its translations concern the pair no more, and the pair is
`OFF`. -/
def State.csDisarmed (s : State) (n : Nat) : State :=
  let x := s.csOf n
  if s.g CS_STATUS.STATE n = 5 ∧ !x.running ∧ x.report = none ∧ x.call = none ∧ !x.reading ∧ !x.owning
      ∧ (s.mayRequest (s.fnOf n) ∨ (x.dlv = 0 ∧ !x.slipS)) then
    let s := (s.dropDlv n).dropSlip n
    let s := (s.setCs n { valid := x.valid, line := x.line }).forgetWho n 2
    (s.p CS_STATUS.STATE n 0).p CS_CTL.MODE n 0
  else s

/-! ### Calls (R166, R168) -/

/-- `CALL_SLIP_REREAD_DATA`: the re-read slip is compared with the last `SEQ`; with an equal one, a slip invalidated since is read again. An accepted call fills the place, and the engine holds no
copy of the slip while it is full (R168); it takes the delivery line while the call is in progress (R170). -/
def State.csReread (s : State) (n : Nat) : State :=
  match (s.csOf n).got with
  | none => s
  | some b =>
    if s.g CS_STATUS.STATE n ≠ 2 then s
    else
      let s := s.setCs n { s.csOf n with got := none }
      if le b 0 4 = s.g CS_STATUS.LAST_SEQ n then (s.bump CS_STATUS.SPURIOUS n).csSeek n
      else
        let s := s.dropSlip n
        let s := s.setCs n { s.csOf n with call := some b }
        let s := ((s.p CS_STATUS.LAST_SEQ n (le b 0 4)).p CS_STATUS.PENDING n 1).p CS_STATUS.STATE n 3
        if s.csMay n then (s.csDlv n).engOwn n else s

/-- The pair goes on after a translation, a delivery or the return of Bus Master Enable: what is owed is translated, read or asked for. -/
def State.csWake (s : State) (n : Nat) : State :=
  let st := s.g CS_STATUS.STATE n
  if st = 1 then s.csArmGo n
  else if (st = 2 ∨ st = 3) ∧ s.g CS_CTL.MODE n = 1 ∧ s.csMay n then
    let s := s.csSlip n
    let s := s.engRead n
    if (s.csOf n).report.isSome ∨ (s.csOf n).running ∨ (s.csOf n).call.isSome then (s.csDlv n).engOwn n else s
  else s

/-- The interrupt of a delivery with an error (R175). -/
def State.csIrq (s : State) (n : Nat) (line : Bytes) : State :=
  if le line 4 1 ≠ 0 ∧ s.gb CS_CTL.EXC_IRQ n then s.vec (s.fnOf n) (s.g CS_CTL.EXC_VEC n) else s

/-- The end of the pair after a posted delivery (06 R212): `OFF`, unless another accepted call is to be served. -/
def State.csPostedEnd (s : State) (n : Nat) : State :=
  let x := s.csOf n
  if x.call = none then (((s.setCs n { valid := x.valid, line := x.line }).forgetWho n 2).p CS_STATUS.STATE n 0).p CS_CTL.MODE n 0 else s

/-- A delivery with posted writes (06 R212): bytes 0x04 to 0x3F, then `SEQ`. -/
def State.csPost (s : State) (n : Nat) (line : Bytes) : State :=
  let s := s.csDlv n
  match (s.csOf n).dlvLine with
  | none => if s.g CS_STATUS.STATE n = 4 then s.setCs n { s.csOf n with report := none, running := false } else s
  | some l =>
    let va := s.g CS_DLV_ADDR.ADDR n * 64
    let h (o : Nat) (b : Bytes) : HeldW :=
      { ca := l * 64 + o, bytes := b, pasid := some (s.g SLOT_CFG.PASID n), va := va + o, who := { source := 2, slot := n }, epoch := (s.csOf n).dlvEp }
    let s := (s.hostWrite (s.fnOf n) (h 4 (line.drop 4))).hostWrite (s.fnOf n) (h 0 (line.take 4))
    ((s.setCs n { s.csOf n with report := none, running := false }).csIrq n line).csPostedEnd n

/-- `DELIVERY_LINE_WRITE` (R171): the whole line is written into the owned copy, which stays Modified; then the slip is read again if it is
not held. Without ownership it is asked for. -/
def State.deliver (s : State) (n : Nat) : State :=
  match (s.csOf n).report with
  | none => s
  | some line =>
    if (s.csOf n).posted then s.csPost n line
    else if 2 ≤ (s.csOf n).dlv then
      let s := s.setCs n { s.csOf n with dlv := 3, dlvData := line, report := none, running := false }
      (s.csIrq n line).csWake n
    else if s.csMay n then (s.csDlv n).engOwn n
    else s

/-! ### Invalidations and Cache_Enable (R179, 06 R211, R212) -/

/-- The pairs in `MODE` 1 when Cache_Enable is cleared, and those that were disarming (06 R212): the lines are written back or dropped, the pairs
disarm, and accepted calls keep their places. -/
def State.csCacheOff (s : State) : State :=
  (List.range 64).foldl (fun s n =>
    if s.g CS_CTL.MODE n ≠ 1 ∧ ((s.g CS_STATUS.STATE n ≠ 5) ∨ ((s.csOf n).slipLine = none ∧ (s.csOf n).dlvLine = none)) then s
    else
      let s := (((s.dropDlv n true).dropSlip n true).engForget n 1).engForget n 2
      let x := s.csOf n
      let s := s.setCs n { x with posted := true, reading := false, owning := false, got := none }
      let s := s.p CS_STATUS.STATE n 5
      if x.call = none ∧ !x.running ∧ x.report = none then s.csPostedEnd n else s) s

/-! ### Slip registers (R196, R197) -/

/-- `SLIP_GO` of a partition. The pair shows the call as `PENDING`; its `STATE` stays `ARMED` (log entry 120). -/
def State.slipGo (s : State) (p : Nat) : State :=
  let n := s.g SLIP_SEL.SLOT p
  let x := s.csOf n
  let f := s.slipOf p
  if !s.owns p n ∨ s.g CS_CTL.MODE n ≠ 2 ∨ x.valid ∨ x.running ∨ x.call ≠ none then s.setSlip p { f with refused := true }
  else ((s.setSlip p { f with refused := false }).setCs n { x with call := some (slice f.callBytes 0 64) }).p CS_STATUS.PENDING n 1

/-- The value of `SLIP_RESULT` and `SLIP_PEEK`. -/
def State.slipResult (s : State) (p : Nat) : Nat :=
  let n := s.g SLIP_SEL.SLOT p
  let x := s.csOf n
  let own := s.owns p n
  let v := x.valid && own
  b2n v * 2 ^ 63 + b2n (s.slipOf p).refused * 2 ^ 62 + n * 2 ^ 56 + (if v then le x.line 4 1 * 2 ^ 40 + le x.line 5 1 * 2 ^ 32 + le x.line 0 4 else 0)

/-- `SLIP_RESULT_READ`: the answer; a valid delivery is consumed. -/
def State.slipResultRead (s : State) (p : Nat) : State :=
  let n := s.g SLIP_SEL.SLOT p
  let v := s.slipResult p
  let s := s.emit (.cpl (p + 1) 0 v)
  if bit v 63 then s.setCs n { s.csOf n with valid := false } else s

end Sys2Proof.Machine
end

