-- ==== Sys2Proof/Machine/Folio.lean ====
section
/-!
DEFINITION. Standing folios (02 R73 to R76, R80 to R82): the checks of an image in their order, its relocation, its installation in a slot.
-/
namespace Sys2Proof.Machine

/-- A relocation entry (R81): line, site, image handle, reserved bytes. -/
structure Reloc where
  line : Nat
  site : Nat
  handle : Nat
  rsvd : Nat
deriving DecidableEq, Repr

/-- The relocation entries of an image. -/
def relocsOf (g : Bytes) : List Reloc :=
  (List.range (le g 0x30 2)).map fun k =>
    let o := le g 0x2C 4 + 8 * k
    ⟨le g o 4, le g (o + 4) 1, le g (o + 5) 1, le g (o + 6) 2⟩

/-- The standing-entry records of an image (R82), with the sum of their reserved fields. -/
def entriesOf (g : Bytes) : List (Entry × Nat) :=
  (List.range (le g 0x32 2)).map fun k =>
    let o := le g 0x34 4 + 16 * k
    let f := le g (o + 1) 1
    ({ num := le g o 1, bySlip := bit f 0, byDesc := bit f 1, start := le g (o + 4) 4, budget := le g (o + 8) 4 },
     f / 4 + le g (o + 2) 2 + le g (o + 12) 4)

/-- The operation in slot `port` of line `i` of an image, by its opcode. -/
def imageOp (g : Bytes) (i port : Nat) : Option Op := Op.ofCode (fOp (le g (0x40 + 32 * i + 8 * port) 8))

/-- Whether a move operation has field H. -/
def Op.hasH (o : Op) : Bool := decide (o.used &&& fmask 36 31 = fmask 36 31)

/-- A relocation's site matches its operation (R81). -/
def siteOk (g : Bytes) (r : Reloc) : Bool :=
  match r.site with
  | 0 => decide (imageOp g r.line 0 = some .LI)
  | 1 => match imageOp g r.line 1 with | some o => decide (fOp (le g (0x40 + 32 * r.line + 8) 8) / 64 = 1) && Op.hasH o | none => false
  | _ => false

/-- Where the pieces of an image lie by the packing rule (R80): data, padding, relocations, entries, end. -/
def packed (g : Bytes) : Nat × Nat × Nat × Nat :=
  let d := 0x40 + 32 * le g 0x18 4
  let r := (d + le g 0x24 4 + 7) / 8 * 8
  let e := r + 8 * le g 0x30 2
  (d, r, e, e + 16 * le g 0x32 2)

/-- `IMG_LAYOUT`: the image breaks a rule of its layout (R73). -/
def badLayout (g : Bytes) (n : Nat) : Bool :=
  let k := packed g
  let lines := 32 * le g 0x18 4
  let load := le g 0x14 4
  let da := le g 0x20 4
  let ds := le g 0x24 4
  let pad := k.1 + ds
  decide (le g 0x1C 4 ≠ 0x40 ∨ le g 0x28 4 ≠ k.1 ∨ le g 0x2C 4 ≠ k.2.1 ∨ le g 0x34 4 ≠ k.2.2.1 ∨ le g 0x10 4 ≠ k.2.2.2 ∨ le g 0x10 4 ≠ n)
    || decide (le g pad (k.2.1 - pad) ≠ 0)
    || decide (lines = 0 ∨ load % 64 ≠ 0 ∨ da % 64 ≠ 0 ∨ 0x7F000 < load + lines ∨ (ds ≠ 0 ∧ 0x7F000 < da + ds))
    || (decide (ds ≠ 0) && meets load (load + lines) da (da + ds))
    || decide (le g 0x38 2 = 0 ∨ 256 < le g 0x38 2 ∨ 32 < le g 0x3A 1 ∨ 1 < le g 6 2 ∨ le g 0x3B 1 ≠ 0)
    || (relocsOf g).any (fun r => decide (le g 0x18 4 ≤ r.line) || !siteOk g r || decide (r.rsvd ≠ 0))
    || (entriesOf g).any (fun e => decide (e.2 ≠ 0))

/-- Two folios' lines or data overlap (R73). -/
def overlaps (g : Bytes) (f : Folio) : Bool :=
  let a := [(le g 0x14 4, 32 * le g 0x18 4), (le g 0x20 4, le g 0x24 4)]
  let b := [(f.load, 32 * f.lines), (f.dataAddr, f.dataSize)]
  a.any fun x => b.any fun y => decide (x.2 ≠ 0) && decide (y.2 ≠ 0) && meets x.1 (x.1 + x.2) y.1 (y.1 + y.2)

/-- The status of an install (R73): the first check of the table that fails, in its order; 0 with none. `m` is the request's `MAP`, `fs` the
installed folios, `shelves` the allotment's size, `ver` the `BLOCK_VERSION`. -/
def imgStatus (g : Bytes) (n ver shelves : Nat) (m : Nat → Nat) (fs : List Folio) : Nat :=
  let es : List Entry := (entriesOf g).map (·.1)
  let nums : List Nat := es.map (·.num)
  if n < 64 then 4
  else if le g 0 4 ≠ 0x4F46484D then 1
  else if le g 5 1 ≠ 1 ∨ ver < le g 8 4 ∨ le g 0xC 4 < ver then 2
  else if le g 0x3C 4 ≠ crc32c (patch (slice g 0 n) 0x3C (zeros 4)) then 3
  else if badLayout g n then 4
  else if fs.any (overlaps g) then 5
  else if decide (es = []) || decide (8 < es.length) || !decide nums.Nodup
      || es.any (fun (e : Entry) => decide (7 < e.num) || (findEntry fs e.num).isSome || decide (le g 0x18 4 ≤ e.start) || !(e.bySlip || e.byDesc)) then 6
  else if shelves < le g 0x38 2 then 7
  else if (relocsOf g).any (fun r => decide (le g 0x3A 1 ≤ r.handle) || decide (m r.handle = 0xFF)) then 8
  else 0

/-- The lines of an image after relocation (R74, R81). -/
def relocated (g : Bytes) (m : Nat → Nat) : Bytes :=
  (relocsOf g).foldl (fun b r =>
    let o := 32 * r.line + (if r.site = 0 then 0 else 8)
    let w := le b o 8
    patch b o (natLe 8 (if r.site = 0 then setBits w 5 0 (m r.handle) else setBits w 36 31 (m r.handle))))
    (slice g 0x40 (32 * le g 0x18 4))

/-- The folio that an image makes. -/
def folioOf (g : Bytes) (m : Nat → Nat) (handles : List Nat) (frame : Nat) : Folio :=
  { load := le g 0x14 4, lines := le g 0x18 4, dataAddr := le g 0x20 4, dataSize := le g 0x24 4, dataPinned := bit (le g 6 2) 0,
    entries := (entriesOf g).map (·.1), handles := handles, lineBytes := relocated g m,
    dataBytes := slice g (0x40 + 32 * le g 0x18 4) (le g 0x24 4), frame := frame }

/-- A handle bound from a buffer entry (R324). -/
def bufHandle (b : Buf) (epoch : Nat) : Handle := { base := b.addr, len := b.len, r := bit b.rights 0, w := bit b.rights 1, epoch := epoch }

/-- The handles of a request bound in a slot. -/
def State.bindBufs (s : State) (n : Nat) (bufs : List Buf) (epoch : Nat) : State :=
  bufs.foldl (fun s b => s.setSlot n { s.slot n with handles := tset (fun _ => none) (s.slot n).handles b.handle (some (bufHandle b epoch)) }) s

/-- A folio whose checks have passed is installed (R74): into every carrel of the allotment, with its entries and handles. -/
def State.putFolio (s : State) (n : Nat) (f : Folio) (bufs : List Buf) (epoch : Nat) : State :=
  let x := s.slot n
  let s := s.setSlot n { x with folios := x.folios ++ [f] }
  let s := s.bindBufs n bufs epoch
  let s := s.each (carrelsOf x.allot) fun s c =>
    let p := s.phys c
    s.setMem p (((s.mem p).write f.load f.lineBytes).write f.dataAddr f.dataBytes)
  s.p SLOT_STATUS.ENTRIES n ((f.entries.map (·.num)).foldl (fun m e => setBit m e true) (s.g SLOT_STATUS.ENTRIES n))

/-- An install on the image's bytes (R73, R74, 05 R188): the ending of its descriptor. The kept copy takes a frame of the partition; where
none is free the install fails, with a `DETAIL` that the manual leaves open. -/
def State.install (s : State) (n : Nat) (g : Bytes) (len : Nat) (m : Nat → Nat) (bufs : List Buf) (epoch : Nat) : Ending × State :=
  let x := s.slot n
  let st := imgStatus g len ((s.reg .BLOCK_VERSION 0).toNat) x.allot.length m x.folios
  if st ≠ 0 then ({ status := 9, detail := st }, s)
  else match s.partOf n with
    | none => ({ status := 9, detail := 7 }, s)
    | some p =>
      match s.allocFrame p with
      | none => ({ status := 9, detail := Config.freeValue s.free % 2 ^ 32 }, { s with free := s.free + 1 })
      | some (fr, s) =>
        ({ status := 0 }, s.putFolio n (folioOf g m (bufs.map (·.handle)) fr) bufs epoch)

/-- `REMOVE` (05 R188): the folio that registered an entry goes. `DETAIL` is 1 when the entry was empty. -/
def State.remove (s : State) (n entry : Nat) : Ending × State :=
  match findEntry (s.slot n).folios entry with
  | some (i, _) => ({ status := 0 }, s.removeFolio n i)
  | none => ({ status := 0, detail := 1 }, s)

end Sys2Proof.Machine
end

