-- ==== Sys2Proof/Machine/Queue.lean ====
section
/-!
DEFINITION. The partition queues and the management lending queue (05 R180 to R195, 09 R331, R346 to R354): doorbells, intake, accession and
the work of descriptors. A queue is numbered by its slot; 64 is the management lending queue. Partition 8 stands for the management
function.
-/
namespace Sys2Proof.Machine

/-- A queue is the partition's. -/
def State.ownsQ (s : State) (p q : Nat) : Bool := if q = 64 then decide (p = 8) else decide (p < 8) && s.owns p q

/-- The number of entries that a doorbell describes, from index `h` of generation `g` in a ring of `2^k` (R183). -/
def ringCount (tail gen h g k : Nat) : Option Nat :=
  if 2 ^ k ≤ tail then none
  else if h < tail then (if gen = g then some (tail - h) else none)
  else if tail < h then (if gen ≠ g then some (tail + 2 ^ k - h) else none)
  else if gen = g then some 0
  else some (2 ^ k)

/-- An invocation of a descriptor of the queue runs. -/
def State.descRunning (s : State) (q : Nat) : Bool :=
  match (s.slot q).inv with
  | some v => (match v.src with | .desc _ => decide (q < 64) | _ => false)
  | none => false

/-- A descriptor's opcode, and whether its buffers are in a list. -/
def descOp (b : Bytes) : Nat := le b 0 1
def descList (b : Bytes) : Bool := bit (le b 1 1) 2

/-! ### The checks of a descriptor (R186 to R189, R351, R354) -/

/-- The buffer entries spelt from byte `o` on. -/
def bufsOf (b : Bytes) (o n : Nat) : List Buf :=
  (List.range n).map fun k => ⟨le b (o + 16 * k) 8, le b (o + 16 * k + 8) 4, le b (o + 16 * k + 12) 1, le b (o + 16 * k + 13) 1⟩

/-- The buffer entries follow R187: lengths, distinct handles of the opcode's range, rights, reserved bytes. -/
def bufsOk (b : Bytes) (o n lo : Nat) : Bool :=
  let xs := bufsOf b o n
  xs.all (fun x => decide (1 ≤ x.len) && decide (lo ≤ x.handle) && decide (x.handle < lo + 32) && decide (1 ≤ x.rights) && decide (x.rights ≤ 3))
    && decide (xs.map (·.handle)).Nodup && (List.range n).all fun k => decide (le b (o + 16 * k + 14) 2 = 0)

/-- The header follows R186. -/
def headerOk (b : Bytes) : Bool :=
  decide (le b 1 1 < 16 ∧ le b 2 1 < 8 ∧ le b 3 1 ≤ (if descList b then 32 else 4) ∧ le b 5 1 = 0 ∧ le b 6 2 = 0)

/-- A descriptor names its buffers as `RUN` and `INSTALL` do (R187, R188). -/
def hasBufs (b : Bytes) : Bool := decide (descOp b = 1 ∨ descOp b = 2)

/-- The rules of a descriptor apart from its buffer entries. -/
def State.bodyOk (s : State) (q : Nat) (b : Bytes) : Bool :=
  let listOk : Bool := !descList b || (decide (le b 0x40 8 % 8 = 0) && decide (le b 0x48 56 = 0))
  let lending : Bool :=
    let fl := le b 0x1C 1
    decide (le b 2 1 = 0 ∧ le b 3 1 = 0 ∧ descList b = false ∧ le b 0x10 8 % 2 ^ 21 = 0 ∧ le b 0x10 8 < 2 ^ 57)
      && decide (1 ≤ le b 0x18 4 ∧ le b 0x18 4 ≤ 393216 ∧ le b 0x10 8 + le b 0x18 4 * 2 ^ 21 ≤ 2 ^ 57)
      && decide (if descOp b = 8 ∨ descOp b = 9 then fl ≤ 1 else fl = 0)
      && decide (if descOp b = 11 then le b 0x1D 1 ≤ 3 else le b 0x1D 1 = 0)
      && decide (le b 0x1E 2 = 0 ∧ le b 0x24 92 = 0)
      && (if q = 64 then decide (le b 0x20 4 / 2 ^ 28 = 0 ∧ bits (le b 0x20 4) 23 20 = 0 ∧ s.lendPart q b < s.partCount ∧ s.lendPasid q b ≠ 0)
          else decide (le b 0x20 4 = 0))
  headerOk b && (match descOp b with
    | 1 => decide (q < 64) && listOk
    | 2 => decide (q < 64) && listOk && decide (le b 0x1C 4 = 0)
        && (slice b 0x20 32).all fun x => decide (x = 0xFF) || (decide (32 ≤ x.toNat) && decide (x.toNat < 64))
    | 3 => decide (q < 64)
    | 4 => decide (q < 64) && decide (le b 0x10 1 = 1 ∨ le b 0x10 1 = 2) && decide (le b 0x12 6 = 0 ∧ le b 0x2C 84 = 0)
        && (decide (le b 0x10 1 = 2) || decide (bits (le b 0x20 8) 23 22 = 0 ∧ bits (le b 0x20 8) 15 0 = 0))
    | 8 => lending | 9 => lending | 10 => lending | 11 => lending
    | _ => false)

/-! ### Reads through a slot's addresses -/

/-- A read of bytes at a virtual address by the intake, page by page; `hb` holds what the host supplied for its pages. -/
def State.loadVa : Nat → State → Nat → Nat → Nat → Nat → Waiter → Bytes → Bytes → Bool → XRes × Bytes × Bool × State
  | 0, s, _, _, _, _, _, _, acc, bad => (.ok 0, acc, bad, s)
  | fuel + 1, s, part, pasid, va, n, who, hb, acc, bad =>
    if n = 0 then (.ok 0, acc, bad, s)
    else
      let k := min n (4096 - va % 4096)
      match s.hubVa part pasid va false who with
      | (.ok ca, s) =>
        if !s.stableRange ca k then (.wait, acc, bad, s)
        else
        let r := s.hubLoad ca k (some 2) (slice hb 0 k)
        r.2.2.loadVa fuel part pasid (va + k) (n - k) who (hb.drop k) (acc ++ r.1) (bad || r.2.1)
      | (r, s) => (r, acc, bad, s)

/-- The translation of a list of ranges goes on (R331): what was translated before is not asked for again. -/
def State.preGo : Nat → State → Nat → Nat → Waiter → PreSt → XRes × PreSt × State
  | 0, s, _, _, _, x => (.ok 0, x, s)
  | fuel + 1, s, part, pasid, who, x =>
    match x.todo with
    | [] => (.ok 0, x, s)
    | (va, n, w) :: rest =>
      if n = 0 then s.preGo fuel part pasid who { x with todo := rest }
      else match s.hubVa part pasid va w who with
        | (.ok _, s) =>
          match xlFind s.hubBuf pasid va with
          | some e =>
            let k := min n (e.va + XlEnt.span e - va)
            s.preGo fuel part pasid who { todo := (va + k, n - k, w) :: rest, got := if x.got.length < 512 then x.got ++ [e] else x.got }
          | none =>
            let k := min n (4096 - va % 4096)
            s.preGo fuel part pasid who { x with todo := (va + k, n - k, w) :: rest }
        | (r, s) => (r, x, s)

/-- The ranges of buffers, for each right that they grant. -/
def bufRanges (bufs : List Buf) : List (Nat × Nat × Bool) :=
  bufs.flatMap fun b => (if bit b.rights 0 then [(b.addr, b.len, false)] else []) ++ (if bit b.rights 1 then [(b.addr, b.len, true)] else [])

/-- Steps that suffice for a list of ranges, page by page. -/
def preFuel (l : List (Nat × Nat × Bool)) : Nat := l.foldl (fun a r => a + r.2.1 / 4096 + 4) 1

/-- The translation of every page of ranges for the intake, from where it stands (`x`). -/
def State.preRun (s : State) (part pasid : Nat) (who : Waiter) (x : PreSt) : XRes × PreSt × State :=
  s.preGo (preFuel x.todo) part pasid who x

/-- Up to 512 entries go into level 2 of each wing of the slot's allotment (R331). -/
def State.fillL2 (s : State) (n : Nat) (es : List XlEnt) : State :=
  s.each (wingsOf (s.slot n).allot) fun s w =>
    let x := s.wing w
    s.setWing w { x with l2 := es.eraseDups.foldl l2Fill x.l2 }

/-! ### Intake (R183 to R185) -/

/-- The intake takes descriptors of a queue: `ACTIVE`, no record in the hold (R191), not paused (13 R459), requests allowed. -/
def State.mayFetch (s : State) (q : Nat) : Bool :=
  decide (s.g Q_STATUS.STATE q = 1) && decide ((s.queue q).hold = none) && !s.dev.intakePause && s.inService && s.mayRequest (s.queueFn q)

/-- The read of the ring entry at the head is asked for. -/
def State.fetchAsk (s : State) (q : Nat) : State :=
  if (s.readOf (.ring q)).isSome then s
  else match s.ringVa q (s.g SQ_BASE.ADDR q * 4096 + 128 * s.g Q_STATUS.SQ_HEAD q) false with
    | (.ok ca, s) => s.hostRead (s.queueFn q) [(ca, 128)] (s.ringEpoch q (s.g SQ_BASE.ADDR q * 4096 + 128 * s.g Q_STATUS.SQ_HEAD q)) (.ring q)
    | (_, s) => s

/-- The coherence addresses of a translated range, as runs. -/
def State.vaParts (s : State) (pasid va n : Nat) : List (Nat × Nat) :=
  let pages := (List.range ((va + n - 1) / 4096 + 1 - va / 4096)).filterMap fun i =>
    let lo := max va (4096 * (va / 4096 + i))
    (xlFind s.hubBuf pasid lo).map fun e => (e.ca + (lo - e.va), min (va + n) (4096 * (va / 4096 + i + 1)) - lo)
  pages.foldl (fun (a : List (Nat × Nat)) p =>
    match a.getLast? with
    | some q => if q.1 + q.2 = p.1 then a.dropLast ++ [(q.1, q.2 + p.2)] else a ++ [p]
    | none => [p]) []

/-- A read of bytes at a virtual address whose answer comes with the command (log entry 113): its requests leave, and are answered, in this step. -/
def State.payloadVa (s : State) (part pasid va n : Nat) (who : Waiter) (hb : Bytes) : XRes × Bytes × Bool × State :=
  match s.loadVa (n / 4096 + 2) part pasid va n who hb [] false with
  | (.ok ca, g, bad, s) => (.ok ca, g, bad, s.askParts (part + 1) s.newTag (s.vaParts pasid va n))
  | r => r

/-- A list or an image is read once all its pages are translated. -/
def State.readVa (s : State) (part q va n : Nat) (who : Waiter) (o : Owner) : State :=
  let pasid := s.g SLOT_CFG.PASID q
  match s.preRun part pasid who { todo := [(va, n, false)] } with
  | (.ok _, _, s) =>
    match s.hubVa part pasid va false who with
    | (.ok _, s) => s.hostRead (part + 1) (s.vaParts pasid va n) (s.hubEpoch part pasid va) o
    | (_, s) => s
  | (_, _, s) => s

/-- The data of a read that cannot be taken is discarded; it is read again when it can. -/
def State.dropRead (s : State) (o : Owner) : State :=
  match s.readOf o with
  | some r => s.dropReq r.tag
  | none => s

/-- The intake goes on: it fetches the next descriptor, or the list of the one it has. -/
def State.intakeGo (s : State) (q : Nat) : State :=
  let x := s.queue q
  if !s.mayFetch q then s
  else match x.cur with
    | none => if x.avail ≠ 0 ∧ x.accs.length < 4 then s.fetchAsk q else s
    | some b =>
      if hasBufs b && descList b && s.bodyOk q b && decide (le b 3 1 ≠ 0) && (s.readOf (.list q)).isNone then
        match s.partOf q with
        | none => s
        | some p => s.readVa p q (le b 0x40 8) (16 * le b 3 1) { source := 1, slot := q } (.list q)
      else s

/-! ### Descriptors in ring order -/

/-- The first accessioned descriptor completes. -/
def State.endDesc (s : State) (q : Nat) (e : Ending) : State :=
  let x := s.queue q
  match x.accs with
  | [] => s
  | d :: ds => (s.setQueue q { x with accs := ds, lend := {}, re := none }).finishDesc q d.bytes e [0, 0, 0, 0]

/-- The slot stands free for an install or a remove (R75, R147). -/
def State.slotFree (s : State) (n : Nat) : Bool :=
  let x := s.slot n
  let st := s.g SLOT_STATUS.STATE n
  decide (x.inv = none) && !x.repair && !x.shelfLost && s.inService && (decide (st = 2) || decide (st = 0)) && s.mayRequest (s.fnOf n)
    && (wingsOf x.allot).all fun w => decide ((s.wing w).rst = 0)

/-- A latched start that can be dispatched, or an accepted call, comes before the slot's descriptors (R169). -/
def State.preempted (s : State) (n : Nat) : Bool := (((s.slot n).latch).isSome && s.canDispatch n) || ((s.csOf n).call).isSome

/-- An install that has come to the front starts (R75, R188): its image is read. -/
def State.installGo (s : State) (q : Nat) (d : Desc) : State :=
  if s.slotFree q && !s.preempted q && (s.readOf (.image q)).isNone then
    let x := s.slot q
    let s := s.setSlot q { x with imgJob := true }
    match s.partOf q with
    | none => s
    | some p => s.readVa p q (le d.bytes 0x10 8) (le d.bytes 0x18 4) { source := 1, slot := q, aux := 3 } (.image q)
  else s

/-- The first accessioned descriptor of a queue that may complete descriptors has failed already: how it ends. -/
def State.frontFail (s : State) (q : Nat) : Option Ending :=
  let x := s.queue q
  if s.descRunning q || decide (s.g Q_STATUS.STATE q = 0) || decide (x.hold ≠ none) then none else x.accs.head?.bind (·.fail)

/-- An install at the front starts. -/
def State.frontGo (s : State) (q : Nat) : State :=
  let x := s.queue q
  if s.descRunning q || decide (s.g Q_STATUS.STATE q = 0) || decide (x.hold ≠ none) then s
  else match x.accs with
    | d :: _ => if descOp d.bytes = 2 then s.installGo q d else s
    | [] => s

/-- What can go on in ring order, goes on: descriptors that have already failed complete, an install at the front starts, the intake goes on. -/
def State.queueGoN : Nat → State → Nat → State
  | 0, s, _ => s
  | fuel + 1, s, q =>
    match s.frontFail q with
    | some e => ((s.setSlot q { s.slot q with imgJob := false }).endDesc q e).queueGoN fuel q
    | none =>
      let s := (s.frontGo q).intakeGo q
      if (s.frontFail q).isSome then s.queueGoN fuel q else s

def State.queueGo (s : State) (q : Nat) : State := s.queueGoN 8 q

/-- A descriptor is accessioned with its buffers, or with what it failed of. -/
def State.accede (s : State) (q : Nat) (d : Desc) : State :=
  let s := s.headOn q
  let x := s.queue q
  (s.setQueue q { x with accs := x.accs ++ [d] }).queueGo q

/-- The order in which the intake serves queues (04 R144, R145): by the slot's `PRIORITY` as of its last dispatch, then by number (log entries 90, 103). -/
def State.intakeOrder (s : State) (qs : List Nat) : List Nat :=
  [3, 2, 1, 0].flatMap fun k => qs.filter fun q => decide ((s.slot q).prio = k)

/-- A fetched descriptor's generation is checked (R184): the ninth stale fetch halts the queue. One that read uncorrected ends so (08 R298). -/
def State.fetched (s : State) (q : Nat) (data : Bytes) : State :=
  match s.readOf (.ring q) with
  | none => s
  | some r =>
    if !s.stableRange r.ca 128 then s
    else
    let s := s.dropReq r.tag
    let d := s.hubLoad r.ca 128 (some 2) data
    let s := d.2.2
    let x := s.queue q
    if le d.1 1 1 % 2 = s.g Q_STATUS.SQ_GEN q then
      let s := s.setQueue q { x with stale := 0, cur := some d.1 }
      if d.2.1 then s.accede q { bytes := d.1, fail := some { status := 4 } } else s.queueGo q
    else if x.stale = 8 then (s.setQueue q { x with stale := 0 }).haltQueue q 1
    else (s.setQueue q { x with stale := x.stale + 1 }).fetchAsk q

/-- `DESCRIPTOR_FETCH`: the first fetch at a head answers. -/
def State.descFetch (s : State) (q : Nat) (data : Bytes) : State :=
  if (s.queue q).cur = none ∧ (s.queue q).stale = 0 then (if s.mayFetch q then s.fetched q data else s.dropRead (.ring q)) else s

/-- `DESCRIPTOR_REFETCH`: a further fetch of a stale entry answers. -/
def State.descRefetch (s : State) (q : Nat) (data : Bytes) : State :=
  if (s.queue q).cur = none ∧ (s.queue q).stale ≠ 0 then (if s.mayFetch q then s.fetched q data else s.dropRead (.ring q)) else s

/-- The effect of an accessioned `DUE_DATE` descriptor (R189): the result, 0 with none. -/
def State.dueDesc (s : State) (p : Nat) (b : Bytes) : Nat × State :=
  let i := (s.part p).ddBase + le b 0x11 1
  if (s.part p).ddCount ≤ le b 0x11 1 then (1, s)
  else if le b 0x10 1 = 2 then s.ddCancel (some p) i
  else if s.owns p (ddSlot (le b 0x20 8)) then s.ddCommit (some p) i (le b 0x18 8) (le b 0x20 8) (le b 0x28 4)
  else (1, s)

/-- `DESCRIPTOR_ACCESSION` (R185, R186, R331): the fetched descriptor is checked, its buffers are translated and it joins the accessioned
ones; a `DUE_DATE` acts and is reported at once. `list` is what the host supplied of a buffer list. -/
def State.accession (s : State) (q : Nat) (list : Bytes) : State :=
  let x := s.queue q
  match x.cur with
  | none => s
  | some b =>
    if !s.mayFetch q ∨ 4 ≤ x.accs.length then s.dropRead (.list q)
    else if !s.bodyOk q b then s.accede q { bytes := b, fail := some { status := 8 } }
    else if descOp b = 4 then
      match s.partOf q with
      | none => s
      | some p =>
        let s := s.headOn q
        let r := s.dueDesc p b
        (r.2.finishDesc q b (if r.1 = 0 then { status := 0 } else { status := 0xB, detail := r.1 }) [0, 0, 0, 0]).queueGo q
    else if hasBufs b then
      match s.partOf q with
      | none => s
      | some p =>
        let n := le b 3 1
        let pasid := s.g SLOT_CFG.PASID q
        let go (s : State) (g : Bytes) (o : Nat) : State :=
          let lo := if descOp b = 1 then 0 else 32
          if !bufsOk g o n lo then s.accede q { bytes := b, fail := some { status := 8 } }
          else
            let bufs := bufsOf g o n
            match s.preRun p pasid { source := 1, slot := q } ((s.queue q).pre.getD { todo := bufRanges bufs }) with
            | (.ok _, y, s) => (s.fillL2 q y.got).accede q { bytes := b, bufs := bufs, epoch := s.g XL_STATUS.EPOCH p }
            | (.wait, y, s) => s.setQueue q { s.queue q with pre := some y }
            | (.fault _, _, s) => s.queueGo q
        if !descList b ∨ n = 0 then go s b 0x40
        else match s.readOf (.list q) with
          | none => s.intakeGo q
          | some r =>
            match s.loadVa (n / 256 + 2) p pasid (le b 0x40 8) (16 * n) { source := 1, slot := q } list [] false with
            | (.ok _, g, bad, s) =>
              if bad then (s.dropReq r.tag).accede q { bytes := b, fail := some { status := 4 } }
              else
                let s' := go s g 0
                if ((s'.queue q).cur).isNone then s'.dropReq r.tag else s'
            | (.wait, _, _, s) => s.dropReq r.tag
            | (.fault _, _, _, s) => (s.dropReq r.tag).queueGo q
    else s.accede q { bytes := b }

/-! ### The work of the front descriptor -/

/-- The front descriptor of a queue when it is one of opcode `op` that may work now. -/
def State.frontDesc (s : State) (q op : Nat) : Option Desc :=
  let x := s.queue q
  if s.descRunning q || decide (s.g Q_STATUS.STATE q = 0) || decide (x.hold ≠ none) || !s.inService then none
  else match x.accs with
    | d :: _ => if descOp d.bytes = op ∧ d.fail = none then some d else none
    | [] => none

/-- A marked descriptor's buffers are translated again (R341 step 3, R342): true when it may go on. -/
def State.retranslate (s : State) (q : Nat) (d : Desc) : Bool × State :=
  if !d.marked then (true, s)
  else match s.partOf q with
    | none => (false, s)
    | some p =>
      match s.preRun p (s.g SLOT_CFG.PASID q) { source := 1, slot := q, aux := 3 } ((s.queue q).re.getD { todo := bufRanges d.bufs }) with
      | (.ok _, y, s) =>
        let s := s.fillL2 q y.got
        let x := s.queue q
        (true, match x.accs with
          | a :: as => s.setQueue q { x with accs := { a with marked := false, epoch := s.g XL_STATUS.EPOCH p } :: as, re := none }
          | [] => s)
      | (.wait, y, s) => (false, s.setQueue q { s.queue q with re := some y })
      | (.fault _, _, s) => (false, s.queueGo q)

/-- The front `RUN` descriptor is dispatched (R187), or ends with `EMPTY`. -/
def State.runDesc (s : State) (q : Nat) : State :=
  match s.frontDesc q 1 with
  | none => s
  | some d =>
    let idle := s.canDispatch q
    if !idle ∧ !(decide (s.g SLOT_STATUS.STATE q = 0) && s.mayRequest (s.fnOf q)) then s
    else match s.retranslate q d with
      | (false, s) => s
      | (true, s) =>
        let x := s.queue q
        let s := s.setQueue q { x with accs := x.accs.drop 1 }
        if !idle then (s.endEmpty q (.desc d.bytes)).queueGo q
        else
          let s := s.bindBufs q d.bufs ((x.accs.head?.map (·.epoch)).getD d.epoch)
          let s := s.dispatch q (bits (le d.bytes 2 1) 2 0) (.desc d.bytes) (slice d.bytes 0x10 48 ++ slice d.bytes 8 8) s.time
          if (s.slot q).inv = none then
            (s.setSlot q { s.slot q with handles := (s.slot q).handles.filter fun h => decide (32 ≤ h.1) }).queueGo q
          else s.intakeGo q

/-- `RUN`: a descriptor is dispatched when no latched start or accepted call comes first (R169). -/
def State.runRow (s : State) (q : Nat) : State :=
  if ((s.slot q).latch).isSome || ((s.csOf q).call).isSome then s else s.runDesc q

/-- `INVOCATION_DISPATCH` (R169): the latched start, unless a record is held (R191), then the accepted call, once the delivery of the one before it has been made (R166, R198), then the next descriptor. -/
def State.dispatchNext (s : State) (n : Nat) : State :=
  let free := s.canDispatch n
  match (s.slot n).latch, (s.csOf n).call with
  | some d, c =>
    if free ∧ (s.queue n).hold = none then (s.unlatch n).dispatchDue n d s.time
    else match c with
      | some b => if free ∧ (s.csOf n).report = none then s.dispatchCall n b else s
      | none => s
  | none, some b =>
    if (free ∨ (s.g SLOT_STATUS.STATE n = 0 ∧ s.inService)) ∧ (s.csOf n).report = none then s.dispatchCall n b else s
  | none, none => s.runDesc n

/-- `INSTALL` of the front descriptor, with what the host supplied of the image. A handle that another folio or an interloan binding has bound is `BAD_DESC`
(R188, 10 R384). -/
def State.installRow (s : State) (q : Nat) (image : Bytes) : State :=
  match s.frontDesc q 2, s.partOf q with
  | some d, some p =>
    match s.readOf (.image q) with
    | none => s.queueGo q
    | some r =>
      if !(s.slot q).imgJob then s
      else
        let b := d.bytes
        let n := le b 0x18 4
        let m (k : Nat) : Nat := (b.getD (0x20 + k) 0).toNat
        let fin (s : State) (e : Ending) : State :=
          ((s.dropReq r.tag).setSlot q { s.slot q with imgJob := false }).endDesc q e |>.queueGo q
        let bound := (s.slot q).folios.flatMap (·.handles) ++ ((s.slot q).handles.filter fun e => e.2.any (·.remote)).map (·.1)
        if d.bufs.any fun x => decide (x.handle ∈ bound) then fin s { status := 8 }
        else match s.retranslate q d with
          | (false, s) => s
          | (true, s) =>
            match s.loadVa (n / 4096 + 2) p (s.g SLOT_CFG.PASID q) (le b 0x10 8) n { source := 1, slot := q, aux := 3 } image [] false with
            | (.ok _, g, bad, s) =>
              if bad then fin s { status := 4 }
              else
                let t := s.install q g n m d.bufs (((s.queue q).accs.head?.map (·.epoch)).getD d.epoch)
                fin t.2 t.1
            | (.wait, _, _, s) => s.dropReq r.tag
            | (.fault _, _, _, s) => (s.dropReq r.tag).queueGo q
  | _, _ => s.dropRead (.image q)

/-- `REMOVE` of the front descriptor. -/
def State.removeRow (s : State) (q : Nat) : State :=
  match s.frontDesc q 3 with
  | none => s
  | some d =>
    if !s.slotFree q || s.preempted q || (s.slot q).imgJob then s
    else
      let r := s.remove q (bits (le d.bytes 2 1) 2 0)
      (r.2.endDesc q r.1).queueGo q

/-- `DUE_DATE` of a fetched descriptor: its accession. -/
def State.dueDateRow (s : State) (q : Nat) : State :=
  match (s.queue q).cur with
  | some b => if descOp b = 4 then s.accession q [] else s
  | none => s

/-! ### Lending (09 R346 to R352) -/

/-- A lending descriptor ends with a result (R352). -/
def State.lendEnd (s : State) (q status result : Nat) : State :=
  (s.endDesc q { status := status, detail := result * 2 ^ 28 + (s.queue q).lend.changed % 2 ^ 28 }).queueGo q

/-- The operation's progress changed. -/
def State.setJob (s : State) (q : Nat) (j : LendJob) : State := s.setQueue q { s.queue q with lend := j }

/-- The operation enters a phase at its granule. -/
def State.lendPhase (s : State) (q k : Nat) : State := s.setJob q { (s.queue q).lend with phase := k }

/-- The next granule's turn; `changed` when the present one has changed. -/
def State.lendNext (s : State) (q : Nat) (changed : Bool) : State :=
  let j := (s.queue q).lend
  s.setJob q { pos := j.pos + 1, changed := j.changed + b2n changed, phase := 4 }

/-- What a step of a lending operation leaves: it goes on, it waits, or it ends with a status and a result. -/
inductive LendRes where
  | more
  | wait
  | fin (status result : Nat)
deriving DecidableEq, Repr

/-- The copies' own translations of a granule leave the hub buffer when it comes to rest: its accesses go by the table again (R344; log entry 93). -/
def State.lendRest (s : State) (part : Nat) (e : LendEnt) : State :=
  let s : State := { s with hubBuf := s.hubBuf.filter fun x => !covers (part + 1) false e.pasid (e.vpn * 2 ^ 21) (2 ^ 21) x }
  s.lendSet part { e with since := none }

/-- A granule of a RETURN is gone: entry, frame, and the copy's translations. -/
def State.lendOut (s : State) (part : Nat) (e : LendEnt) : State := (s.lendRest part e).lendGone part e

/-- A lending operation meets a granule (R346 steps 1 and 2). -/
def State.lendStart (s : State) (q part pasid v : Nat) (b : Bytes) : LendRes × State :=
  let op := descOp b
  let begin_ (s : State) (held : Bool) : LendRes × State := (.more, s.setJob q { (s.queue q).lend with phase := 1, held := held })
  match s.lendFind part pasid (v * 2 ^ 21) with
  | none =>
    if op = 8 ∨ op = 10 then
      match State.lendFrame ((s.lendOf part).length + 1) s part (decide (op = 10)) with
      | (none, s) => (.fin 0 1, s)
      | (some none, s) => (.wait, s.lendPhase q 4)
      | (some (some f), s) =>
        match s.freePlace part pasid v with
        | none => (.fin 0 2, s.releaseFrame f)
        | some (bk, k) =>
          let o := (s.xlOf part).order
          let s := s.setXl part { s.xlOf part with order := (o + 1) % 2 ^ 32 }
          begin_ (s.lendAdd part { vpn := v, pasid := pasid, state := 1, frame := f, r := true, w := false, order := o, bucket := bk, pos := k }) false
    else (.more, s.lendNext q false)
  | some e =>
    if e.state = 1 ∨ e.state = 4 ∨ e.state = 5 then (.wait, s.lendPhase q 4)
    else match op with
      | 8 => if e.state = 3 then begin_ (s.lendSet part { e with state := 1, since := none }) true else (.more, s.lendNext q false)
      | 9 =>
        if e.state = 3 then (.more, (s.dropGranule part e).lendPhase q 5)
        else begin_ (s.lendSet part { e with state := 4, since := none }) false
      | 10 => (.more, s.lendNext q false)
      | _ => (.more, (s.lendSet part { e with advice := le b 0x1D 1 }).lendNext q true)

/-- The granule is withdrawn and the requests of earlier epochs drain (step 3); then what needs no copy is done. A LEND without a copy of a held granule keeps
what it holds (log entry 123). -/
def State.lendDrain (s : State) (q part : Nat) (b : Bytes) (e : LendEnt) : LendRes × State :=
  let op := descOp b
  let fl := bit (le b 0x1C 1) 0
  match e.since with
  | none => if s.epochFree part then (.more, (s.lendWithdraw part e).2) else (.wait, s)
  | some E =>
    if s.older part false e.pasid E then (.wait, s)
    else if op = 8 ∧ fl ∧ !(s.queue q).lend.held then
      (.more, ((s.zeroFrame e.frame).lendRest part { e with state := 2, r := true, w := true }).lendNext q true)
    else if op = 9 ∧ (fl ∨ !e.w) then (.more, (s.lendOut part e).lendNext q true)
    else (.more, s.lendPhase q 2)

/-- The host pages of the granule are translated, from where the operation stands (R328, R346). -/
def State.lendPages : Nat → State → Nat → Nat → Nat → Nat → Bool → Bool → State
  | 0, s, _, _, _, _, _, _ => s
  | k + 1, s, q, part, pasid, va, w, soft =>
    let j := (s.queue q).lend
    if 2 ^ 21 ≤ j.off then s
    else
      let a := va + j.off
      match s.copyXlate part pasid a w soft { source := 5, slot := q, aux := b2n soft } with
      | (some e, s) =>
        let n := min (2 ^ 21 - j.off) (e.va + XlEnt.span e - a)
        State.lendPages k (s.setJob q { j with off := j.off + n, pages := j.pages ++ [(j.off, e.ca + (a - e.va), n)],
                                                 epoch := if j.off = 0 then e.epoch else j.epoch, wr := j.wr && e.w })
          q part pasid va w soft
      | (none, s) => s

/-- The place in the granule of a host line of its pages. -/
def pageOff (pages : List (Nat × Nat × Nat)) (l : Nat) : Option Nat :=
  (pages.find? fun p => decide (p.2.1 ≤ 64 * l ∧ 64 * l < p.2.1 + p.2.2)).map fun p => p.1 + (64 * l - p.2.1)

/-- A copy into the frame begins (step 4): what wing caches own of the pages comes from them by `SN_ONCE`, the rest is read of the host. -/
def State.copyIn (s : State) (q part : Nat) : State :=
  let pages := (s.queue q).lend.pages
  let r := s.coh.cat.foldl (fun (a : List (Nat × Bytes) × State) e =>
    match pageOff pages e.1 with
    | none => a
    | some o =>
      let x := a.2.ent e.1
      let t := a.2.snoopAll e.1 0x43 ((if x.owned then 2 ^ x.owner else 0) + 256 * b2n x.hub)
      (match t.2.1 with | some d => a.1 ++ [(o, d)] | none => a.1, t.2.2)) ([], s)
  let s := r.2
  (s.setJob q { (s.queue q).lend with phase := 3, patch := r.1 }).toHost (.granuleIn (part + 1) pages)

/-- A copy out of the frame begins: full-line writes, which end every copy of the pages' lines (07 R267). -/
def State.copyOut (s : State) (q part frame : Nat) : State :=
  let pages := (s.queue q).lend.pages
  let s := s.coh.cat.foldl (fun s e =>
    match pageOff pages e.1 with
    | none => s
    | some _ => ((s.snoopAll e.1 0x42 (CatEnt.holders (s.ent e.1))).2.2).freeEnt e.1) s
  let c := s.frameCells frame
  (c.2.lendPhase q 3).toHost (.granuleOut (part + 1) pages c.1)

/-- The host pages are translated, and the copy begins once none of their lines is in a transaction. -/
def State.lendXl (s : State) (q part pasid v : Nat) (b : Bytes) (e : LendEnt) : LendRes × State :=
  let op := descOp b
  let held := (s.queue q).lend.held
  let s := State.lendPages 513 s q part pasid (v * 2 ^ 21) (decide (op = 9) || held) held
  let j := (s.queue q).lend
  if j.fault.isSome then (.more, s)
  else if j.off < 2 ^ 21 ∨ s.coh.homes.any (fun h => !h.parked && (pageOff j.pages h.line).isSome) then (.wait, s)
  else if op = 9 then
    (if s.frameBad e.frame then (.fin 4 4, (s.readUcs (s.frameBadWords e.frame)).lendRest part { e with state := 2 }) else (.wait, s.copyOut q part e.frame))
  else if held then (.more, (s.lendRest part { e with state := 2, r := true, w := j.wr }).lendNext q true)
  else (.wait, s.copyIn q part)

/-- A host translation has failed: the granule is left as it was before the operation (R346, R352). -/
def State.lendUndo (s : State) (q part pasid v : Nat) (b : Bytes) : State :=
  match s.lendFind part pasid (v * 2 ^ 21) with
  | none => s
  | some e =>
    if descOp b = 9 then s.lendRest part { e with state := 2 }
    else if (s.queue q).lend.held then s.lendRest part { e with state := 3, w := false }
    else s.lendOut part e

/-- One step of a lending operation at its granule. -/
def State.lendStep (s : State) (q part pasid v : Nat) (b : Bytes) : LendRes × State :=
  let j := (s.queue q).lend
  match j.phase, s.lendFind part pasid (v * 2 ^ 21) with
  | 1, some e => s.lendDrain q part b e
  | 2, some e => s.lendXl q part pasid v b e
  | 3, some _ => (.wait, s)
  | 5, some e =>
    let s := if e.state = 5 then s.dropGo part e else s
    (match s.lendFind part pasid (v * 2 ^ 21) with
      | some x => if x.state = 5 then (.wait, s) else (.more, s.lendNext q true)
      | none => (.more, s.lendNext q true))
  | 5, none => (.more, s.lendNext q true)
  | 0, _ => s.lendStart q part pasid v b
  | 4, _ => s.lendStart q part pasid v b
  | _, none => (.more, s.lendNext q false)
  | _, some _ => (.wait, s)

/-- A lending operation goes on, granule by granule in ascending order, until it ends or waits; nothing while its function may not request (R353). -/
def State.lendGo : Nat → State → Nat → State
  | 0, s, _ => s
  | fuel + 1, s, q =>
    let x := s.queue q
    match x.accs with
    | [] => s
    | d :: _ =>
      let b := d.bytes
      let part := s.lendPart q b
      let v := le b 0x10 8 / 2 ^ 21 + x.lend.pos
      if !s.mayRequest (part + 1) then s
      else match x.lend.fault with
        | some st => (s.lendUndo q part (s.lendPasid q b) v b).lendEnd q st 3
        | none =>
          if (x.lend.phase = 0 ∨ x.lend.phase = 4) ∧ x.lend.pos = le b 0x18 4 then s.lendEnd q 0 0
          else match s.lendStep q part (s.lendPasid q b) v b with
            | (.more, s) => s.lendGo fuel q
            | (.wait, s) => s
            | (.fin st r, s) => s.lendEnd q st r

/-- Steps that suffice for an operation on `n` granules. -/
def lendFuel (n : Nat) : Nat := 8 * n + 8

/-- A lending descriptor at the front works (R351). -/
def State.lendRow (s : State) (q op : Nat) : State :=
  match s.frontDesc q op with
  | none => s
  | some d => s.lendGo (lendFuel (le d.bytes 0x18 4)) q

/-- The copy of the granule at hand has ended: `data` is what was read of the host, to which what the wing caches held is added. -/
def State.copyDone (s : State) (q part : Nat) (op : Nat) (e : LendEnt) (data : Bytes) : State :=
  let j := (s.queue q).lend
  if op = 9 then (s.lendOut part e).lendNext q true
  else
    let s := s.wipeFrames (fun f => decide (f = e.frame)) false
    let s := s.hubStore (part + 1) { ca := frameCa e.frame 0, bytes := data.take (2 ^ 21) }
    let s := j.patch.foldl (fun s p => s.hubStore (part + 1) { ca := frameCa e.frame p.1, bytes := p.2 }) s
    (s.lendRest part (if op = 10 then { e with state := 3, w := false } else { e with state := 2, w := j.wr })).lendNext q true

/-- `GRANULE_COPY_DONE`: the copy of a granule, which must be the one at hand, has ended, or its drop is to end; the operation goes on (log entry 87). A copy
to the host holds its writes while the function may not request (R353). -/
def State.granuleDone (s : State) (q pasid va : Nat) (data : Bytes) : State :=
  let x := s.queue q
  match x.accs with
  | [] => s
  | d :: _ =>
    let b := d.bytes
    let part := s.lendPart q b
    let fuel := lendFuel (le b 0x18 4)
    let v := le b 0x10 8 / 2 ^ 21 + x.lend.pos
    if pasid ≠ s.lendPasid q b ∨ va / 2 ^ 21 ≠ v then s
    else if x.lend.phase = 3 ∧ descOp b = 9 ∧ !s.mayRequest (part + 1) then s
    else if x.lend.phase = 3 then
      match s.lendFind part pasid (v * 2 ^ 21) with
      | some e => (s.copyDone q part (descOp b) e data).lendGo fuel q
      | none => (s.lendNext q false).lendGo fuel q
    else if x.lend.phase = 5 then s.lendGo fuel q
    else s

/-! ### Doorbells and configuration -/

/-- `DB_SQ` (R183). -/
def State.dbSq (s : State) (p q v : Nat) : State :=
  let st := s.g Q_STATUS.STATE q
  if !s.ownsQ p q ∨ (st ≠ 1 ∧ st ≠ 2) then s
  else
    let x := s.queue q
    match ringCount (v % 65536) (bits v 16 16) (s.g Q_STATUS.SQ_HEAD q) (s.g Q_STATUS.SQ_GEN q) (s.g Q_CFG.SQ_LOG2 q) with
    | some n =>
      if n < b2n x.cur.isSome then s.haltQueue q 2 else (s.setQueue q { x with avail := n }).queueGo q
    | none => if st = 1 then s.haltQueue q 2 else s

/-- `DB_CQ` (R183, R191): the entries written and not consumed are those from `HEAD` to the device's tail. -/
def State.dbCq (s : State) (p q v : Nat) : State :=
  if !s.ownsQ p q ∨ s.g Q_STATUS.STATE q = 0 then s
  else
    let k := s.g Q_CFG.CQ_LOG2 q
    let n := if 2 ^ k ≤ v % 65536 then none
      else ringCount (s.g Q_STATUS.CQ_TAIL q) (s.g Q_STATUS.CQ_GEN q) (v % 65536) (bits v 16 16) k
    match n with
    | some n => ((s.setQueue q { s.queue q with used := n }).flushRecs q).queueGo q
    | none => s.bump Q_STATUS.DB_IGNORED q

/-- A write of `Q_CFG` (R194, R195). -/
def State.qCfgWrite (s : State) (p q v : Nat) : State :=
  if !s.ownsQ p q then s
  else
    let s := if q = 64 then s else (s.p Q_CFG.ERR_IRQ q (bits v 62 62)).p Q_CFG.ERR_VEC q (bits v 31 24)
    let ok (k : Nat) : Bool := decide (4 ≤ k ∧ k ≤ 12)
    if s.gb Q_CFG.ENABLE q then
      if bit v 63 then s
      else
        let x := s.queue q
        let s := (s.giveUpRing q).forgetThose q fun u => decide (u.source = 1) && decide (u.aux ≤ 1)
        let busy := (s.slot q).imgJob ∧ q < 64 ∨ x.lend.phase ≠ 0
        let cancel (d : Desc) : Desc := { d with fail := some { status := 0xA } }
        let accs := match x.accs with
          | d :: ds => (if busy then d else cancel d) :: ds.map cancel
          | [] => []
        (((s.setQueue q { x with cur := none, stale := 0, avail := 0, accs := accs, pre := none }).p Q_CFG.ENABLE q 0).p Q_STATUS.STATE q 3).queueGo q
    else
      let s := (s.p Q_CFG.CQ_LOG2 q (bits v 11 8)).p Q_CFG.SQ_LOG2 q (bits v 3 0)
      if !bit v 63 ∨ s.g Q_STATUS.STATE q ≠ 0 then s
      else if ok (bits v 11 8) && ok (bits v 3 0) then
        let s := ((((s.p Q_STATUS.CQ_TAIL q 0).p Q_STATUS.SQ_HEAD q 0).p Q_STATUS.CQ_GEN q 1).p Q_STATUS.SQ_GEN q 1).p Q_STATUS.STATE q 1
        (s.p Q_CFG.ENABLE q 1).setQueue q {}
      else s.p Q_STATUS.ERROR q 3

/-- `QUEUE_ENABLE` and `QUEUE_DISABLE`: a write of `Q_CFG` that sets or clears `ENABLE`. -/
def State.queueEnable (s : State) (p q v : Nat) : State := if bit v 63 then s.qCfgWrite p q v else s
def State.queueDisable (s : State) (p q v : Nat) : State := if bit v 63 then s else s.qCfgWrite p q v

/-- `QUEUE_DRAIN_COMPLETE`: a draining queue with nothing left is `OFF`. -/
def State.queueDrained (s : State) (q : Nat) : State :=
  let x := s.queue q
  let due : Bool := match (s.slot q).inv with
    | some v => (match v.src with | .due _ _ _ _ _ r => r && decide (q < 64) | _ => false)
    | none => false
  if s.g Q_STATUS.STATE q = 3 ∧ s.descRunning q = false ∧ due = false ∧ x.accs = [] ∧ x.hold = none ∧ x.owed = [] then
    (s.forgetWho q 1).p Q_STATUS.STATE q 0
  else s

/-- `QUEUE_RESUME` (R194). -/
def State.queueResume (s : State) (p q : Nat) : State :=
  if s.ownsQ p q ∧ s.g Q_STATUS.STATE q = 2 then
    let s := (s.p Q_STATUS.ERROR q 0).p Q_STATUS.STATE q 1
    (s.setQueue q { s.queue q with stale := 0 }).queueGo q
  else s

end Sys2Proof.Machine
end

