-- ==== Sys2Proof/Machine/Net.lean ====
section
/-!
DEFINITION. The Ethernet ports, queue pairs and memory regions (10 R361 to R374, R389 to R391).
-/
namespace Sys2Proof.Machine

/-! ### Ports (R361, R363, R364) -/

/-- The lanes of a port by its cage's mode: 0 off, 1 is 800, 2 is 2x400, 3 is 4x200; 0 for an absent port. -/
def State.portLanes (s : State) (n : Nat) : Nat :=
  match s.arec.cages.getD (n / 4) 0, n % 4 with
  | 1, 0 => 4
  | 2, 0 | 2, 2 => 2
  | 3, _ => 1
  | _, _ => 0

/-- A port is up. -/
def State.portUp (s : State) (n : Nat) : Bool :=
  decide (n < 32 ∧ s.portLanes n ≠ 0) && s.gb PORT_STATUS.LINK_UP n && !s.gb DEV_STATUS.SAFE

/-- The port's IP address. -/
def State.portIp (s : State) (n : Nat) : Nat := s.g PORT_IP_LO.IP n + s.g PORT_IP_HI.IP n * 2 ^ 64

/-- A frame is dropped and counted. -/
def State.rxDrop (s : State) (n : Nat) : State := s.bump PORT_COUNTS.RX_DROP n

/-- A PFC frame as the buffer's occupancy of a priority asks (R364). -/
def State.pfcWatch (s : State) (n prio occ : Nat) : State :=
  let on := bit (tget (fun _ => 0) s.nic.xoffSent n) prio
  let lim := s.g PORT_PFC.XOFF_KIB n
  let put (s : State) (b : Bool) : State :=
    ({ s with nic := { s.nic with xoffSent := tset (fun _ => 0) s.nic.xoffSent n (setBit (tget (fun _ => 0) s.nic.xoffSent n) prio b) } }).emit
      (.pfc n prio b)
  if !bit (s.g PORT_PFC.ENABLE n) prio then s
  else if !on ∧ lim < occ then put s true
  else if on ∧ 2 * occ < lim then put s false
  else s

/-- `ETH_FRAME_RECEIVE` (R363, R364). A RoCEv2 frame that is accepted goes on to its queue pair. Address resolution reaches the port under its own address or a
group address, of which bit 40 is the group bit (log entry 114). -/
def State.ethFrame (s : State) (n : Nat) (f : EthFrame) : State :=
  if !s.portUp n then s
  else
    let s := s.pfcWatch n (f.prio % 8) f.occ
    let ours := decide (f.dmac = s.g PORT_MAC.MAC n) && decide (f.len ≤ 9216)
    match f.carries with
    | 0 => if ours ∧ f.dip = s.portIp n then s else s.rxDrop n
    | 1 => if (f.dmac = s.g PORT_MAC.MAC n ∨ bit f.dmac 40) ∧ f.dip = s.portIp n ∧ f.len ≤ 9216 then s.emit (.ethAnswer n) else s.rxDrop n
    | _ => s.rxDrop n

/-! ### Contexts and regions (R366, R367, R371) -/

/-- Bytes of the network frame as they stand, through the reserve and the write-combining buffer. -/
def State.netBytes (s : State) (off n : Nat) : Bytes :=
  (linesOf (2 ^ 52 + off) n).flatMap fun e => slice (s.memRead e.1 none).1 e.2.1 e.2.2

/-- A read of the network frame through the reserve (R305, R366): whether it is uncorrected. -/
def State.netLoad (s : State) (off n : Nat) : Bool × State :=
  (linesOf (2 ^ 52 + off) n).foldl (fun a e =>
    let r := a.2.memRead e.1 (some 3)
    if r.2.1 then (true, r.2.2.readUc (dpaOf e.1) noSlot) else (a.1, r.2.2)) (false, s)

/-- A read of receive metadata (R373): an uncorrected one is an error of the port. -/
def State.netRead (s : State) (port off n : Nat) : Bool × State :=
  let r := s.netLoad off n
  if r.1 then (true, r.2.raise { source := srcId 6 port 3, info0 := off }) else r

def State.netWrite (s : State) (off : Nat) (bs : Bytes) : State :=
  (linesOf (2 ^ 52 + off) bs.length).foldl (fun s e =>
    s.memWrite e.1 (byteMask e.2.1 e.2.2) (lineWrite (zeros 64) e.2.1 (slice bs (e.1 * 64 + e.2.1 - 2 ^ 52 - off) e.2.2)) (some 3)) s

/-- A field of a context, and its change. -/
def State.ctxF (s : State) (q o n : Nat) : Nat := leNat (s.netBytes (128 * q + o) n)
def State.ctxPut (s : State) (q o n v : Nat) : State := s.netWrite (128 * q + o) (natLe n v)

/-- A memory-region entry's place, and one of its fields. -/
def mrOff (i : Nat) : Nat := 0x80000 + 32 * i
def State.mrF (s : State) (i o n : Nat) : Nat := leNat (s.netBytes (mrOff i + o) n)

/-- A staged context is one that `WRITE` takes (R366, R367). -/
def State.ctxOk (s : State) (b : Bytes) : Bool :=
  decide (le b 0 1 ≤ 1 ∧ le b 1 1 < s.partCount ∧ s.portLanes (le b 2 1) ≠ 0 ∧ le b 2 1 < 32 ∧ 1 ≤ le b 3 1 ∧ le b 3 1 ≤ 3)
    && decide (le b 4 4 < 2 ^ 20 ∧ le b 8 4 < 2 ^ 24 ∧ le b 0xC 4 < 2 ^ 24 ∧ le b 0x10 4 < 2 ^ 24)
    && decide (1 ≤ le b 0x14 1 ∧ le b 0x14 1 ≤ 31 ∧ le b 0x15 1 ≤ 7 ∧ le b 0x16 1 ≤ 7 ∧ 1 ≤ le b 0x17 1 ∧ le b 0x17 1 ≤ 31)
    && decide (le b 0x18 1 % 4 = 2 ∧ le b 0x19 1 ≤ 7 ∧ le b 0x1F 1 = 0 ∧ le b 0x26 2 = 0 ∧ le b 0x3A 6 = 0 ∧ le b 0x64 28 = 0)
    && ([le b 0x1D 1 % 16, le b 0x1D 1 / 16, le b 0x1E 1].all fun k => decide (4 ≤ k ∧ k ≤ 12))
    && ([le b 0x40 8 % 4096, le b 0x48 8 % 4096, le b 0x50 8 % 4096, le b 0x58 8 % 64].all fun k => decide (k = 0))

/-- Port rate in Mb/s (R361). -/
def State.portRate (s : State) (n : Nat) : Nat := 200000 * s.portLanes n

/-- The partition function under which a queue pair acts. -/
def State.qpFn (s : State) (q : Nat) : Nat := s.qpPart q + 1

def State.qpState (s : State) (q : Nat) : Nat := s.ctxF q 0 1

/-- An address of a queue pair, translated. -/
def State.qpVa (s : State) (q va : Nat) (w : Bool) : XRes × State :=
  s.hubVa (s.qpPart q) (s.ctxF q 4 4) va w { source := 3, carrel := q }

/-- The headers of a queue pair's packets (R366). -/
def State.qpHdr (s : State) (q : Nat) : RoceHdr :=
  { tclass := s.ctxF q 0x18 1, prio := s.ctxF q 0x19 1 % 8, vlan := s.ctxF q 0x1A 2, dmac := s.ctxF q 0x20 6, dip := s.ctxF q 0x28 16, sport := s.ctxF q 0x38 2 }

/-- The far end has stopped the queue pair's priority (R364). -/
def State.qpStopped (s : State) (q : Nat) : Bool := bit (tget (fun _ => 0) s.nic.xoff (s.ctxF q 2 1)) (s.ctxF q 0x19 1 % 8)

/-- A packet of a queue pair leaves: one to the far queue pair, or a CNP. -/
def State.qpOut (s : State) (q : Nat) (p : RocePkt) : State :=
  if p.op = 0x81 then s.emit (.cnp (s.ctxF q 2 1) (s.qpHdr q) (s.ctxF q 8 4))
  else s.emit (.roce (s.ctxF q 2 1) (s.qpHdr q) { p with qp := s.ctxF q 8 4 % 2 ^ 24 })

/-- A packet of a queue pair is sent, or waits while its priority is stopped (R364). -/
def State.qpSend (s : State) (q : Nat) (p : RocePkt) : State :=
  if s.qpStopped q then s.setQp q { s.qpOf q with tx := (s.qpOf q).tx ++ [p] } else s.qpOut q p

/-- The packets that waited for their priority leave in order. -/
def State.qpXon (s : State) (q : Nat) : State :=
  if s.qpStopped q then s else ((s.qpOf q).tx).foldl (fun s p => s.qpOut q p) (s.setQp q { s.qpOf q with tx := [] })

/-! ### Completions (R370) -/

/-- The completion ring has room. -/
def State.qpRoom (s : State) (q : Nat) : Bool := decide ((s.qpOf q).used < 2 ^ s.ctxF q 0x1E 1)

/-- A completion entry but for its `PHASE`. -/
def cqe (q wrId n op imm status : Nat) (hasImm : Bool) : Bytes :=
  natLe 8 wrId ++ natLe 4 n ++ natLe 2 q ++ natLe 1 op ++ natLe 1 (2 * b2n hasImm) ++ natLe 4 imm ++ natLe 1 status ++ zeros 11

/-- Data of the queue pair is not yet at its home: writes of its function wait or are under way, or stash writes (R193, R372). -/
def State.qpDataOut (s : State) (q : Nat) : Bool :=
  !s.ordered (s.qpFn q) || s.coh.txns.any fun t => decide (t.agent = 0x22 ∧ t.slot = 64 + q)

/-- A completion is written behind the data before it, with the interrupt that follows it; it is owed while that data is under way, the ring is full or
its address waits. A queue pair whose completion ring has no translation moves to `ERROR` (R373). -/
def State.qpComplete (s : State) (q : Nat) (b : Bytes) : State :=
  let x := s.qpOf q
  let owe (s : State) : State := s.setQp q { s.qpOf q with owed := (s.qpOf q).owed ++ [b] }
  if x.owed ≠ [] ∨ !s.qpRoom q ∨ s.qpDataOut q then owe s
  else match s.qpVa q (s.ctxF q 0x50 8 + 32 * x.cq) true with
    | (.ok ca, s) =>
      let s := s.hubStore (s.qpFn q) { ca := ca, bytes := patch b 0xF (natLe 1 (le b 0xF 1 + x.cqGen)), cls := some 3, pasid := some (s.ctxF q 4 4),
                                       va := s.ctxF q 0x50 8 + 32 * x.cq, who := { source := 3, carrel := q },
                                       epoch := s.hubEpoch (s.qpPart q) (s.ctxF q 4 4) (s.ctxF q 0x50 8 + 32 * x.cq) }
      let n := x.cq + 1
      let last := n = 2 ^ s.ctxF q 0x1E 1
      let s := s.setQp q { x with cq := if last then 0 else n, cqGen := if last then 1 - x.cqGen else x.cqGen, used := x.used + 1 }
      s.vec (s.qpFn q) (s.ctxF q 0x1C 1)
    | (.wait, s) => owe s
    | (.fault _, s) => if s.qpState q = 1 then s.ctxPut q 0 1 2 else s

/-- The completions owed are written as far as they go. -/
def State.qpOwed (s : State) (q : Nat) : State :=
  let o := (s.qpOf q).owed
  o.foldl (fun s b => s.qpComplete q b) (s.setQp q { s.qpOf q with owed := [] })

/-- The requests under way complete with `FLUSHED`, or with `PORT_DOWN` where the port's going down is the cause (R367, R370, R373). -/
def State.qpFlush (s : State) (q : Nat) : State :=
  let x := s.qpOf q
  let s := s.setQp q { x with sends := [], recv := none, wr := none, rnrWait := false, acks := [], tx := [] }
  let s := x.sends.foldl (fun s w => s.qpComplete q (cqe q w.wrId 0 w.op 0 x.flushAs false)) s
  match x.recv with
  | some r => s.qpComplete q (cqe q r.wrId r.got 0x10 0 x.flushAs false)
  | none => s

/-- The receive head goes on by one entry. -/
def State.rqOn (s : State) (q : Nat) : State :=
  let x := s.qpOf q
  let n := x.rq + 1
  let last := n = 2 ^ (s.ctxF q 0x1D 1 / 16)
  s.setQp q { x with rq := if last then 0 else n, rqGen := if last then 1 - x.rqGen else x.rqGen, ravail := x.ravail - 1, rstale := 0 }

/-- A posted receive request, as read of the ring, is flushed. -/
def State.rqFlushed (s : State) (q : Nat) (b : Bytes) : State := (s.rqOn q).qpComplete q (cqe q (le b 8 8) 0 0x10 0 (s.qpOf q).flushAs false)

/-- The posted requests of a queue pair in `ERROR` or `RESET` are fetched to be flushed (R367, R370, R373), as far as the completion ring has room and the
function may request: receive requests of device memory at once, those of the host, and send requests, by reads of it. What a ring without a translation holds
cannot be read (log entry 115). -/
def State.qpDrain : Nat → State → Nat → State
  | 0, s, _ => s
  | fuel + 1, s, q =>
    let x := s.qpOf q
    let epoch (s : State) (va : Nat) : Nat := s.hubEpoch (s.qpPart q) (s.ctxF q 4 4) va
    if s.qpState q = 1 ∨ !s.mayRequest (s.qpFn q) ∨ !s.qpRoom q then s
    else if x.avail ≠ 0 ∧ (s.readOf (.wqe q)).isNone then
      let va := s.ctxF q 0x40 8 + 64 * x.sq
      match s.qpVa q va false with
      | (.ok ca, s) => State.qpDrain fuel (s.hostRead (s.qpFn q) [(ca, 64)] (epoch s va) (.wqe q)) q
      | (.wait, s) => s
      | (.fault _, s) => State.qpDrain fuel (s.setQp q { s.qpOf q with avail := 0 }) q
    else if x.ravail ≠ 0 ∧ (s.readOf (.rqe q)).isNone then
      let va := s.ctxF q 0x48 8 + 32 * x.rq
      match s.qpVa q va false with
      | (.ok ca, s) =>
        if !bit ca 52 then s.hostRead (s.qpFn q) [(ca, 32)] (epoch s va) (.rqe q)
        else if !s.stableRange ca 32 then s
        else
          let d := s.hubLoad ca 32 (some 3) []
          State.qpDrain fuel (d.2.2.rqFlushed q d.1) q
      | (.wait, s) => s
      | (.fault _, s) => s.setQp q { s.qpOf q with ravail := 0 }
    else s

/-- The queue pair's posted requests are flushed as far as that goes now. -/
def State.qpDrained (s : State) (q : Nat) : State := s.qpDrain ((s.qpOf q).ravail + 3) q

/-- A posted receive request that was to be flushed has come from the host. -/
def State.rqeCame (s : State) (q : Nat) (data : Bytes) : State :=
  match s.readOf (.rqe q) with
  | none => s
  | some r =>
    let s := s.dropReq r.tag
    if s.qpState q = 1 ∨ (s.qpOf q).ravail = 0 then s else (s.rqFlushed q (data.take 32)).qpDrained q

/-- A queue pair moves to `ERROR`: the requests under way and those posted are flushed. -/
def State.qpError (s : State) (q : Nat) : State :=
  if s.qpState q = 1 then ((s.ctxPut q 0 1 2).qpFlush q).qpDrained q else s

/-- The oldest send request fails with a status, and the queue pair with it. -/
def State.qpFail (s : State) (q status : Nat) : State :=
  let x := s.qpOf q
  match x.sends with
  | w :: ws => ((s.setQp q { x with sends := ws }).qpComplete q (cqe q w.wrId w.got w.op 0 status false)).qpError q
  | [] => s.qpError q

/-! ### The indirect registers (R367, R371, R391) -/

/-- The doorbell record is watched, and read (R368). -/
def State.qpWatch (s : State) (q : Nat) : State :=
  match s.qpVa q (s.ctxF q 0x58 8) false with
  | (.fault _, s) => s.qpError q
  | (.wait, s) => s
  | (.ok ca, s) =>
    let x := s.qpOf q
    if x.reading ∨ x.held then s
    else
      let ep := s.hubEpoch (s.qpPart q) (s.ctxF q 4 4) (s.ctxF q 0x58 8)
      (s.setQp q { x with dbr := some (ca / 64), dbrEp := ep, reading := true }).engAsk (64 + q) 1 (ca / 64) ep

/-- A queue pair stops: what it holds in the engine is given up, what it was reading is forgotten. -/
def State.qpStop (s : State) (q : Nat) : State :=
  let x := s.qpOf q
  let s := match x.dbr with
    | some l => if x.held then s.engDrop (s.qpFn q) l none else s
    | none => s
  s.giveUpReads (fun o => decide (o = .wqe q ∨ o = .rqe q)) (some (s.qpCtx q 4 4))

/-- `QP_WRITE`. -/
def State.qpWrite (s : State) : State :=
  let q := s.g QP_INDEX.INDEX
  let b := s.nic.qpStage.read 0 128
  if 4096 ≤ q ∨ !s.ctxOk b then s.p QP_RESULT.RESULT 0 1
  else if s.qpState q ≠ 0 ∨ (le b 0 1 = 1 ∧ !s.inService) then s.p QP_RESULT.RESULT 0 2
  else if le b 0 1 = 1 ∧ !s.cacheEn then s.p QP_RESULT.RESULT 0 3
  else
    let rate := s.portRate (le b 2 1)
    let s := s.netWrite (128 * q) (patch b 0x60 (natLe 4 rate))
    let s := (s.setQp q { r := rate, ccAt := s.time }).p QP_RESULT.RESULT 0 0
    if le b 0 1 = 1 then s.qpWatch q else s

/-- `QP_RESET`: every unfinished request completes with `FLUSHED`; those posted and not yet fetched as they are read of their rings (log entry 115). -/
def State.qpReset1 (s : State) (q : Nat) : State :=
  let s := s.setQp q { s.qpOf q with flushAs := 6 }
  let s := (s.qpStop q).qpFlush q
  let x := s.qpOf q
  ((s.ctxPut q 0 1 0).setQp q { sq := x.sq, sqGen := x.sqGen, rq := x.rq, rqGen := x.rqGen, cq := x.cq, cqGen := x.cqGen, avail := x.avail, ravail := x.ravail,
                                used := x.used, owed := x.owed }).qpDrained q

def State.qpReset (s : State) : State :=
  let q := s.g QP_INDEX.INDEX
  if 4096 ≤ q then s.p QP_RESULT.RESULT 0 1 else (s.qpReset1 q).p QP_RESULT.RESULT 0 0

/-- `QP_READ`: an uncorrected read of the context is logged (R298). -/
def State.qpRead (s : State) : State :=
  let q := s.g QP_INDEX.INDEX
  if 4096 ≤ q then s.p QP_RESULT.RESULT 0 1
  else
    let t := (s.netLoad (128 * q) 128).2
    ({ t with nic := { t.nic with qpStage := t.nic.qpStage.write 0 (s.netBytes (128 * q) 128) } }).p QP_RESULT.RESULT 0 0

/-- `MR_WRITE`: over a valid entry it is refused. -/
def State.mrWrite (s : State) : State :=
  let i := s.g MR_INDEX.INDEX
  let b := s.nic.mrStage.read 0 32
  if bit (s.mrF i 0x10 4) 31 then s.p MR_RESULT.RESULT 0 2
  else if s.partCount ≤ bits (le b 0x10 4) 27 24 then s.p MR_RESULT.RESULT 0 1
  else (s.netWrite (mrOff i) b).p MR_RESULT.RESULT 0 0

/-- `MR_INVALIDATE`. -/
def State.mrInvalidate (s : State) : State :=
  (s.netWrite (mrOff (s.g MR_INDEX.INDEX)) (zeros 32)).p MR_RESULT.RESULT 0 0

/-- `MR_READ`: an uncorrected read of the entry is logged (R298). -/
def State.mrRead (s : State) : State :=
  let o := mrOff (s.g MR_INDEX.INDEX)
  let t := (s.netLoad o 32).2
  ({ t with nic := { t.nic with mrStage := t.nic.mrStage.write 0 (s.netBytes o 32) } }).p MR_RESULT.RESULT 0 0

/-! ### Sending (R368, R369, R374) -/

/-- Packets may leave: the port is up, the priority is not stopped, the function may request. -/
def State.qpMay (s : State) (q : Nat) : Bool :=
  s.portUp (s.ctxF q 2 1) && !s.qpStopped q && s.mayRequest (s.qpFn q)



/-- The next send request is fetched, in `READY` with room for its completion; else what is posted is flushed. A ring without a translation takes the
queue pair to `ERROR` (R373). -/
def State.qpGo (s : State) (q : Nat) : State :=
  let x := s.qpOf q
  if s.qpState q ≠ 1 then s.qpDrained q
  else if x.avail = 0 ∨ x.rnrWait ∨ !s.mayRequest (s.qpFn q) ∨ !s.qpRoom q ∨ (s.readOf (.wqe q)).isSome then s
  else match s.qpVa q (s.ctxF q 0x40 8 + 64 * x.sq) false with
    | (.ok ca, s) => s.hostRead (s.qpFn q) [(ca, 64)] (s.hubEpoch (s.qpPart q) (s.ctxF q 4 4) (s.ctxF q 0x40 8 + 64 * x.sq)) (.wqe q)
    | (.wait, s) => s
    | (.fault _, s) => (s.setQp q { s.qpOf q with avail := 0 }).qpError q

/-- `QP_DOORBELL_REREAD`: the record that has come is derived from under R183; in `ERROR` its completion head alone. -/
def State.qpDoorbell (s : State) (q : Nat) : State :=
  let x := s.qpOf q
  match x.got with
  | none => s
  | some b =>
    let s := s.setQp q { x with got := none }
    let kc := s.ctxF q 0x1E 1
    let used (y : QpSt) : Nat := ((if 2 ^ kc ≤ le b 8 2 then none else ringCount y.cq y.cqGen (le b 8 2) (le b 0xA 1 % 2) kc)).getD y.used
    if s.qpState q = 2 then ((s.setQp q { s.qpOf q with used := used (s.qpOf q) }).qpOwed q).qpDrained q
    else if s.qpState q ≠ 1 then s
    else
      let cnt (o h g k : Nat) : Option Nat := ringCount (le b o 2) (le b (o + 2) 1 % 2) h g k
      let k := s.ctxF q 0x1D 1
      match cnt 0 x.sq x.sqGen (k % 16), cnt 4 x.rq x.rqGen (k / 16) with
      | some n, some m =>
        let y := s.qpOf q
        ((s.setQp q { y with avail := n, ravail := m, used := used y }).qpOwed q).qpGo q
      | _, _ => s.qpError q

/-- PSN arithmetic is modulo 2^24: the distance from `a` to `b`. -/
def psnFrom (a b : Nat) : Nat := (b + 2 ^ 24 - a % 2 ^ 24) % 2 ^ 24

/-- The path MTU. -/
def State.qpMtu (s : State) (q : Nat) : Nat := 512 * 2 ^ (s.ctxF q 3 1 % 4)

/-- The opcode of packet `i` of `n` of a SEND or an RDMA WRITE, with or without immediate data. -/
def pktOp (write imm : Bool) (i n : Nat) : Nat :=
  let b := if write then 6 else 0
  if n = 1 then b + (if imm then 5 else 4)
  else if i = 0 then b
  else if i + 1 < n then b + 1
  else b + (if imm then 3 else 2)

/-- The packets of a send request (R365, R369); the last one of a SEND, or of a WRITE with immediate data, asks for a solicited event. -/
def sendPkts (b payload : Bytes) (psn mtu : Nat) : List RocePkt :=
  let op := le b 0 1
  let len := le b 4 4
  let n := max 1 ((len + mtu - 1) / mtu)
  if op = 5 then [{ qp := 0, psn := psn, op := 0xC, va := le b 0x18 8, rkey := le b 0x20 4, len := len }]
  else
    (List.range n).map fun i =>
      { qp := 0, se := bit (le b 1 1) 3 && decide (i + 1 = n ∧ op ≠ 3), psn := (psn + i) % 2 ^ 24, op := pktOp (decide (op = 3 ∨ op = 4)) (decide (op = 2 ∨ op = 4)) i n, va := le b 0x18 8,
        rkey := le b 0x20 4, len := len, imm := le b 0x24 4, data := (payload.drop (i * mtu)).take (min mtu (len - i * mtu)) }

/-- The send head goes on by one entry. -/
def State.sqOn (s : State) (q : Nat) : State :=
  let x := s.qpOf q
  let n := x.sq + 1
  let last := n = 2 ^ (s.ctxF q 0x1D 1 % 16)
  s.setQp q { x with sq := if last then 0 else n, sqGen := if last then 1 - x.sqGen else x.sqGen, avail := x.avail - 1, stale := 0 }

/-- A fetched work request follows its rules (R369). -/
def wqeOk (b : Bytes) : Bool :=
  decide (1 ≤ le b 0 1 ∧ le b 0 1 ≤ 5 ∧ le b 1 1 < 16 ∧ le b 2 2 = 0 ∧ le b 4 4 ≤ 2 ^ 31 ∧ le b 0x28 24 = 0)

/-- A fetched send request (R184, R368, R369): stale ones are fetched again, the ninth time the queue pair fails; else its packets leave.
`data` and `payload` are what the host supplied of the request and of its buffer. While the context reads uncorrected the request waits (log entry 116). -/
def State.wqeCame (s : State) (q : Nat) (data payload : Bytes) : State :=
  match s.readOf (.wqe q) with
  | none => s
  | some r =>
    let c := s.netLoad (128 * q) 128
    let s := c.2
    if c.1 ∨ !s.stableRange r.ca 64 then s
    else
    let d := s.hubLoad r.ca 64 (some 3) data
    let s := d.2.2
    let b := d.1
    let x := s.qpOf q
    let bad (s : State) (st : Nat) : State :=
      ((((s.dropReq r.tag).sqOn q).qpComplete q (cqe q (le b 8 8) 0 (le b 0 1) 0 st false)).qpError q).qpGo q
    if s.qpState q ≠ 1 then (if x.avail = 0 then s.dropReq r.tag else bad s x.flushAs)
    else if le b 1 1 % 2 ≠ x.sqGen then
      if x.stale = 8 then bad s 7 else ((s.setQp q { x with stale := x.stale + 1 }).dropReq r.tag).qpGo q
    else if d.2.1 then bad s 0xA
    else if !wqeOk b then bad s 7
    else if !s.qpMay q ∨ (bit (le b 1 1) 2 ∧ x.sends.any (fun w => decide (w.op = 5))) then s
    else
      let op := le b 0 1
      let len := le b 4 4
      let mtu := s.qpMtu q
      let go (s : State) (bytes : Bytes) : State :=
        let s := (s.dropReq r.tag).sqOn q
        let psn := s.ctxF q 0xC 4
        let n := max 1 ((len + mtu - 1) / mtu)
        let pk := sendPkts b bytes psn mtu
        let x := s.qpOf q
        let s := s.setQp q { x with sentAt := if x.sends = [] then s.time else x.sentAt,
                                    sends := x.sends ++ [{ op := op, wrId := le b 8 8, len := len, signal := bit (le b 1 1) 1, first := psn,
                                                           last := (psn + n - 1) % 2 ^ 24, pkts := pk, va := le b 0x10 8 }] }
        let s := s.ctxPut q 0xC 4 ((psn + n) % 2 ^ 24)
        (pk.foldl (fun s p => s.qpSend q p) s).qpGo q
      if op = 5 ∨ len = 0 then go s []
      else match s.payloadVa (s.qpPart q) (s.ctxF q 4 4) (le b 0x10 8) len { source := 3, carrel := q } payload with
        | (.ok _, g, u, s) => if u then bad s 0xA else go s g
        | (.wait, _, _, s) => s
        | (.fault _, _, _, s) => bad s 1

/-- `SEND_WQE_FETCH`: the first fetch at a head; `WORK_REQUEST_REFETCH`: a further one. -/
def State.wqeFetch (s : State) (q : Nat) (data payload : Bytes) : State :=
  if (s.qpOf q).stale = 0 then s.wqeCame q data payload else s
def State.wqeRefetch (s : State) (q : Nat) (data payload : Bytes) : State :=
  if (s.qpOf q).stale = 0 then s else s.wqeCame q data payload

/-- The oldest send request is done. -/
def State.sendDone (s : State) (q : Nat) : State :=
  let x := s.qpOf q
  match x.sends with
  | [] => s
  | w :: ws =>
    let s := s.setQp q { x with sends := ws, retry := 0, rnr := 0, sentAt := s.time }
    if w.signal then s.qpComplete q (cqe q w.wrId w.len w.op 0 0 false) else s

/-- Requests whose packets are acknowledged up to a PSN complete in order; an RDMA READ waits for its data. -/
def State.ackTo : Nat → State → Nat → Nat → State
  | 0, s, _, _ => s
  | fuel + 1, s, q, psn =>
    match (s.qpOf q).sends with
    | w :: _ => if w.op ≠ 5 ∧ psnFrom w.last psn < 2 ^ 23 then (s.sendDone q).ackTo fuel q psn else s
    | [] => s

/-- The packets from a PSN on leave again, and the retransmission timer with them. -/
def State.resendFrom (s : State) (q psn : Nat) : State :=
  ((s.qpOf q).sends.flatMap (·.pkts)).foldl (fun s p => if psnFrom psn p.psn < 2 ^ 23 then s.qpSend q p else s)
    (s.setQp q { s.qpOf q with sentAt := s.time })

/-- One more retry; at the limit the request fails. -/
def State.qpRetry (s : State) (q psn : Nat) : State :=
  let x := s.qpOf q
  if s.ctxF q 0x15 1 ≤ x.retry then s.qpFail q 4 else (s.setQp q { x with retry := x.retry + 1 }).resendFrom q psn

/-- The first PSN that is not acknowledged: of an RDMA READ, the part still to come. -/
def State.firstOpen (s : State) (q : Nat) : Nat := match (s.qpOf q).sends with | w :: _ => w.first | [] => s.ctxF q 0xC 4

/-- Microseconds in ticks, rounded up. -/
def usTicks (us : Nat) : Nat := (us * 10000 + 63) / 64

/-- The queue pair of a packet that passes its checks (R365, R373): good ICRC, a context that reads sound, `READY`, its partition not in
reset. -/
def State.roceIn (s : State) (n : Nat) (p : RocePkt) : Bool × State :=
  if !s.portUp n then (false, s)
  else if !p.icrc then (false, s.bump PORT_COUNTS.ICRC_ERR n)
  else if 4096 ≤ p.qp then (false, s.rxDrop n)
  else
    let r := s.netRead n (128 * p.qp) 128
    let s := r.2
    let st := s.qpState p.qp
    if r.1 then (false, s)
    else if st = 0 ∨ s.ctxF p.qp 2 1 ≠ n ∨ (s.fn (s.qpFn p.qp)).flr then (false, s.rxDrop n)
    else
      let x := s.qpOf p.qp
      let due : Bool := match x.lastCnp with | some t => decide (t + usTicks (s.g NET_CC.CNP_INTERVAL) ≤ s.time) | none => true
      let s := if p.ce && due then
          ((s.setQp p.qp { x with lastCnp := some s.time }).wrap PORT_COUNTS.CNP_SENT n).qpSend p.qp { qp := 0, psn := 0, op := 0x81 }
        else s
      (decide (st = 1), s)

/-- `ROCE_ACK_RECEIVE` (R365, R370). -/
def State.roceAck (s : State) (n : Nat) (p : RocePkt) : State :=
  match s.roceIn n p with
  | (false, s) => s
  | (true, s) =>
    let q := p.qp
    let x := s.qpOf q
    match p.ack with
    | 0 => (s.ackTo (x.sends.length + 1) q p.psn).qpGo q
    | 1 =>
      let s := s.ackTo (x.sends.length + 1) q ((p.psn + 2 ^ 24 - 1) % 2 ^ 24)
      let x := s.qpOf q
      let lim := s.ctxF q 0x16 1
      if x.sends = [] then s
      else if lim ≠ 7 ∧ lim ≤ x.rnr then s.qpFail q 5
      else s.setQp q { x with rnr := x.rnr + 1, rnrWait := true, rnrAt := s.time + 1600 * p.rnr }
    | 2 => (s.ackTo (x.sends.length + 1) q ((p.psn + 2 ^ 24 - 1) % 2 ^ 24)).qpRetry q p.psn
    | 3 => s.qpFail q 3
    | _ => s.qpFail q 2

/-- `ROCE_RETRANSMIT_TIMEOUT`, 4.096 µs × 2^`TIMEOUT` after the last packet or progress, and `ROCE_RNR_RETRY`, after the delay that the NAK asked for
(R366). -/
def State.roceTimeout (s : State) (q : Nat) : State :=
  let x := s.qpOf q
  if s.qpState q = 1 ∧ x.sends ≠ [] ∧ !x.rnrWait ∧ s.qpMay q ∧ x.sentAt + 640 * 2 ^ s.ctxF q 0x14 1 ≤ s.time then s.qpRetry q (s.firstOpen q) else s
def State.roceRnr (s : State) (q : Nat) : State :=
  let x := s.qpOf q
  if s.qpState q = 1 ∧ x.rnrWait ∧ s.qpMay q ∧ x.rnrAt ≤ s.time then ((s.setQp q { x with rnrWait := false }).resendFrom q (s.firstOpen q)).qpGo q else s

/-- Incoming data of `who` is stored page by page under a PASID, or nothing of it where a page has no translation. -/
def State.placeVa : Nat → State → Waiter → Nat → Nat → Nat → Bytes → XRes × State
  | 0, s, _, _, _, _, _ => (.ok 0, s)
  | fuel + 1, s, who, part, pasid, va, bs =>
    if bs = [] then (.ok 0, s)
    else
      let k := min bs.length (4096 - va % 4096)
      match s.hubVa part pasid va true who with
      | (.ok ca, s1) =>
        match s1.placeVa fuel who part pasid (va + k) (bs.drop k) with
        | (.ok _, s2) =>
          (.ok 0, s2.hubStore (part + 1) { ca := ca, bytes := bs.take k, pasid := some pasid, va := va, who := who,
                                               epoch := s2.hubEpoch part pasid va })
        | r => r
      | r => r

/-- An RDMA READ response's data (R365): placed in order; the last packet completes the request. -/
def State.roceReadRsp (s : State) (n : Nat) (p : RocePkt) : State :=
  match s.roceIn n p with
  | (false, s) => s
  | (true, s) =>
    let q := p.qp
    let s := s.ackTo ((s.qpOf q).sends.length + 1) q ((p.psn + 2 ^ 24 - 1) % 2 ^ 24)
    let x := s.qpOf q
    match x.sends with
    | w :: ws =>
      if w.op ≠ 5 ∨ psnFrom w.first p.psn * s.qpMtu q ≠ w.got then s
      else
        let bs := p.data.take (w.len - w.got)
        match s.placeVa (bs.length / 4096 + 3) { source := 3, carrel := q } (s.qpPart q) (s.ctxF q 4 4) (w.va + w.got) bs with
        | (.ok _, s) =>
          let w := { w with got := w.got + bs.length }
          let s := s.setQp q { s.qpOf q with sends := w :: ws, sentAt := s.time }
          if w.len ≤ w.got then (s.sendDone q).qpGo q else s
        | (.wait, s) => s
        | (.fault _, s) => s.qpFail q 1
    | [] => s

/-! ### Receiving (R371 to R373) -/

/-- An acknowledgement; it waits while writes of the function are held or under way. An RNR NAK asks for the delay `MIN_RNR` (R366). -/
def State.roceReply (s : State) (q psn ack : Nat) : State :=
  let p : RocePkt := { qp := 0, psn := psn, op := 0x11, ack := ack, rnr := if ack = 1 then s.ctxF q 0x17 1 else 0 }
  if ack = 0 ∧ (!s.mayRequest (s.qpFn q) ∨ s.qpDataOut q) then s.setQp q { s.qpOf q with acks := (s.qpOf q).acks ++ [p] } else s.qpSend q p

/-- Acknowledgements whose writes have landed leave, of queue pairs and of interloan writes, and completions that waited for their data are written. -/
def State.acksGo (s : State) : State :=
  let s := s.nic.qps.foldl (fun s e =>
    let q := e.1
    let x := s.qpOf q
    if (x.acks = [] ∧ x.owed = []) ∨ s.qpDataOut q then s
    else
      let s := if !s.mayRequest (s.qpFn q) then s else x.acks.foldl (fun s p => s.qpSend q p) (s.setQp q { x with acks := [] })
      if x.owed = [] then s else s.qpOwed q) s
  let go := s.cas.acks.filter fun e => s.mayRequest e.1 && s.ordered e.1
  if go = [] then s
  else go.foldl (fun s e => s.ilAnswer e.2.1 e.2.2.1 0 [] e.2.2.2)
    { s with cas := { s.cas with acks := s.cas.acks.filter fun e => !(s.mayRequest e.1 && s.ordered e.1) } }

/-- The packet's place in the sequence: `some` when it is the expected one; else it is answered as R373 sets. -/
def State.psnCheck (s : State) (q : Nat) (p : RocePkt) : Bool × State :=
  let e := s.ctxF q 0x10 4
  let d := psnFrom e p.psn
  if d = 0 then (true, s)
  else if d < 2 ^ 23 then
    if (s.qpOf q).gap then (false, s) else (false, (s.setQp q { s.qpOf q with gap := true }).roceReply q e 2)
  else (false, s.roceReply q p.psn 0)

/-- The expected PSN goes on. -/
def State.psnOn (s : State) (q n : Nat) : State :=
  (s.setQp q { s.qpOf q with gap := false }).ctxPut q 0x10 4 ((s.ctxF q 0x10 4 + n) % 2 ^ 24)

/-- The receive request in use, or the next one of the ring (`rq`: what the host supplied of it): `none` when there is none to use, after what R368,
R370 and R373 say of a stale, reserved or uncorrected one and of a ring without a translation. -/
def State.recvGet (s : State) (q psn : Nat) (rq : Bytes) : Option RecvWr × State :=
  let x := s.qpOf q
  match x.recv with
  | some r => (some r, s)
  | none =>
    if x.ravail = 0 ∨ !s.qpRoom q ∨ !s.mayRequest (s.qpFn q) then (none, s)
    else match s.qpVa q (s.ctxF q 0x48 8 + 32 * x.rq) false with
      | (.ok ca, s) =>
        if !s.stableRange ca 32 then (none, s)
        else
        let d := (s.askParts (s.qpFn q) s.newTag [(ca, 32)]).hubLoad ca 32 (some 3) rq
        let b := d.1
        let s := d.2.2
        let bad (st : Nat) : Option RecvWr × State :=
          (none, ((s.rqOn q).qpComplete q (cqe q (le b 8 8) 0 0x10 0 st false)).qpError q)
        if le b 0 1 % 2 ≠ x.rqGen then
          if x.rstale = 8 then bad 7 else (none, s.setQp q { s.qpOf q with rstale := x.rstale + 1 })
        else if d.2.1 then bad 0xA
        else if le b 0 1 / 2 ≠ 0 ∨ le b 1 7 ≠ 0 ∨ le b 0x1C 4 ≠ 0 then bad 7
        else
          let r : RecvWr := ⟨le b 8 8, le b 0x10 8, le b 0x18 4, 0⟩
          let s := s.rqOn q
          (some r, s.setQp q { s.qpOf q with recv := some r })
      | (.wait, s) => (none, s)
      | (.fault _, s) => (none, (s.roceReply q psn 4).qpError q)

/-- A message's end completes its receive request. -/
def State.recvDone (s : State) (q : Nat) (r : RecvWr) (n op imm status : Nat) : State :=
  (s.setQp q { s.qpOf q with recv := none }).qpComplete q (cqe q r.wrId n op imm status (decide (op = 0x11)))

/-- A failed placement (R373). -/
def State.placeFail (s : State) (q psn : Nat) (r : XRes) : State :=
  match r with
  | .wait => s.roceReply q psn 1
  | .fault _ => (s.roceReply q psn 4).qpError q
  | .ok _ => s

/-- `ROCE_SEND_RECEIVE`: a packet of a SEND. -/
def State.roceSend (s : State) (n : Nat) (p : RocePkt) (rq : Bytes) : State :=
  match s.roceIn n p with
  | (false, s) => s
  | (true, s) =>
    let q := p.qp
    if 5 < p.op then (s.roceReply q p.psn 3).qpError q
    else match s.psnCheck q p with
      | (false, s) => s
      | (true, s) =>
        match s.recvGet q p.psn rq with
        | (none, s) => if s.qpState q = 1 then s.roceReply q p.psn 1 else s
        | (some r, s) =>
          if r.len < r.got + p.data.length then
            ((s.roceReply q p.psn 3).recvDone q r r.got 0x10 0 9).qpError q
          else match s.placeVa (p.data.length / 4096 + 3) { source := 3, carrel := q } (s.qpPart q) (s.ctxF q 4 4) (r.va + r.got) p.data with
            | (.ok _, s) =>
              let r := { r with got := r.got + p.data.length }
              let s := s.setQp q { s.qpOf q with recv := some r }
              let s := if p.op = 2 ∨ p.op = 4 then s.recvDone q r r.got 0x10 0 0
                else if p.op = 3 ∨ p.op = 5 then s.recvDone q r r.got 0x11 p.imm 0 else s
              (s.psnOn q 1).roceReply q p.psn 0
            | (.fault _, s) => ((s.roceReply q p.psn 4).recvDone q r r.got 0x10 0 1).qpError q
            | (x, s) => s.placeFail q p.psn x

/-- A remote key admits a range (R371): its entry's index. -/
def State.mrCheck (s : State) (q rkey va len : Nat) (w : Bool) : Option Nat :=
  let i := rkey / 2 ^ 18
  let f := s.mrF i 0x10 4
  let base := s.mrF i 0 8
  if bit f 31 ∧ bits rkey 17 8 = 0 ∧ f % 256 = rkey % 256 ∧ bits f 27 24 = s.qpPart q ∧ base ≤ va ∧ va + len ≤ base + bits (s.mrF i 8 8) 47 0
      ∧ bit f (if w then 22 else 23) then some i else none

/-- A full line written with the stash hint (R267, R372): a `WR_STASH` of the Ethernet receive path. -/
def State.stashLine (s : State) (q l w ep : Nat) (bs : Bytes) : State :=
  s.request { opc := 7, agent := 0x22, txn := 0, line := l, slot := 64 + q, bytes := bs, mask := fullMask, wing := w, epoch := ep }

/-- A range of addresses is translated for writes, page by page: the entries stand in the hub buffer (R333, R373). -/
def State.vaReady : Nat → State → Nat → Nat → Nat → Nat → Waiter → XRes × State
  | 0, s, _, _, _, _, _ => (.ok 0, s)
  | fuel + 1, s, part, pasid, va, n, who =>
    if n = 0 then (.ok 0, s)
    else
      match s.hubVa part pasid va true who with
      | (.ok _, s) => let k := min n (4096 - va % 4096); s.vaReady fuel part pasid (va + k) (n - k) who
      | r => r

/-- Data of an RDMA WRITE placed in a region, once all its pages are translated: its whole lines go with the stash hint where the region has one (R372). -/
def State.mrPlace (s : State) (q i va : Nat) (bs : Bytes) : XRes × State :=
  let f := s.mrF i 0x10 4
  let pasid := bits (s.mrF i 0x18 4) 19 0
  if bit f 21 ∧ va % 64 = 0 ∧ bs.length = 64 then
    match s.hubVa (s.qpPart q) pasid va true { source := 3, carrel := q } with
    | (.ok ca, s) => (.ok 0, s.stashLine q (ca / 64) (bits f 20 16) (s.hubEpoch (s.qpPart q) pasid va) bs)
    | r => r
  else if bit f 21 then
    match s.vaReady (bs.length / 4096 + 3) (s.qpPart q) pasid va bs.length { source := 3, carrel := q } with
    | (.ok _, s) =>
      (linesOf va bs.length).foldl (fun a e =>
        let v := e.1 * 64 + e.2.1
        let d := slice bs (v - va) e.2.2
        match a with
        | (.ok _, s) =>
          if e.2.2 = 64 then
            match s.hubVa (s.qpPart q) pasid v true { source := 3, carrel := q } with
            | (.ok ca, s) => (.ok 0, s.stashLine q (ca / 64) (bits f 20 16) (s.hubEpoch (s.qpPart q) pasid v) d)
            | r => r
          else s.placeVa 2 { source := 3, carrel := q } (s.qpPart q) pasid v d
        | r => r) (.ok 0, s)
    | r => r
  else s.placeVa (bs.length / 4096 + 3) { source := 3, carrel := q } (s.qpPart q) pasid va bs

/-- `ROCE_RDMA_WRITE_RECEIVE`: a packet of an RDMA WRITE. -/
def State.roceWrite (s : State) (n : Nat) (p : RocePkt) (rq : Bytes) : State :=
  match s.roceIn n p with
  | (false, s) => s
  | (true, s) =>
    let q := p.qp
    if p.op < 6 ∨ 11 < p.op then (s.roceReply q p.psn 3).qpError q
    else match s.psnCheck q p with
      | (false, s) => s
      | (true, s) =>
        let first := decide (p.op = 6 ∨ p.op = 10 ∨ p.op = 11)
        let r := if first then s.netRead n (mrOff (p.rkey / 2 ^ 18)) 32 else (false, s)
        let s := r.2
        let at? : Option (Nat × Nat × Nat × Nat) :=
          if first then (s.mrCheck q p.rkey p.va p.len true).map fun i => (i, p.va, p.len, p.len) else (s.qpOf q).wr
        if r.1 then s
        else match at? with
          | none => if first then s.roceReply q p.psn 4 else (s.roceReply q p.psn 3).qpError q
          | some (i, va, left, total) =>
            let imm := decide (p.op = 9 ∨ p.op = 11)
            let g : Option RecvWr × State := if imm then s.recvGet q p.psn rq else (none, s)
            let s := g.2
            if imm ∧ g.1 = none then (if s.qpState q = 1 then s.roceReply q p.psn 1 else s)
            else if left < p.data.length then (s.roceReply q p.psn 3).qpError q
            else match s.mrPlace q i va p.data with
              | (.ok _, s) =>
                let lastPkt := decide (p.op = 8 ∨ p.op = 9 ∨ p.op = 10 ∨ p.op = 11)
                let s := s.setQp q { s.qpOf q with
                  wr := if lastPkt then none else some (i, va + p.data.length, left - p.data.length, total) }
                let s := match g.1 with | some r => s.recvDone q r total 0x11 p.imm 0 | none => s
                (s.psnOn q 1).roceReply q p.psn 0
              | (x, s) => s.placeFail q p.psn x

/-- `ROCE_RDMA_READ_REQUEST`: answered with the range's data; `host` is what host memory holds of it. A duplicate is served again. -/
def State.roceReadReq (s : State) (n : Nat) (p : RocePkt) (host : Bytes) : State :=
  match s.roceIn n p with
  | (false, s) => s
  | (true, s) =>
    let q := p.qp
    let e := s.ctxF q 0x10 4
    let d := psnFrom e p.psn
    let mtu := s.qpMtu q
    let k := max 1 ((p.len + mtu - 1) / mtu)
    let r := s.netRead n (mrOff (p.rkey / 2 ^ 18)) 32
    let s := r.2
    if r.1 ∨ !s.mayRequest (s.qpFn q) then s
    else if 0 < d ∧ d < 2 ^ 23 then (s.psnCheck q p).2
    else match s.mrCheck q p.rkey p.va p.len false with
      | none => s.roceReply q p.psn 4
      | some i =>
        match s.payloadVa (s.qpPart q) (bits (s.mrF i 0x18 4) 19 0) p.va p.len { source := 3, carrel := q } host with
        | (.ok _, g, bad, s) =>
          if bad then s
          else
            let s := if d = 0 then s.psnOn q k else s
            (List.range k).foldl (fun s j =>
              s.qpSend q { qp := 0, psn := (p.psn + j) % 2 ^ 24, data := (g.drop (j * mtu)).take mtu,
                           op := if k = 1 then 0x10 else if j = 0 then 0xD else if j + 1 < k then 0xE else 0xF }) s
        | (x, _, _, s) => s.placeFail q p.psn x

/-! ### Rate control (R374) -/

/-- `CC_RATE` as the context shows it: the rate in whole Mb/s. -/
def State.rateShow (s : State) (q : Nat) : State := let x := s.qpOf q; s.ctxPut q 0x60 4 (x.r / 2 ^ x.re)

/-- `ROCE_CNP_RECEIVE`: α ← 255/256 α + 1/256, then R ← R (1 − α/2), exactly. A context that reads uncorrected drops it (R373). -/
def State.cnp (s : State) (q : Nat) : State :=
  let r := s.netRead (s.ctxF q 2 1) (128 * q) 128
  let s := r.2
  if r.1 ∨ s.qpState q ≠ 1 then s
  else
    let x := s.qpOf q
    let a := 255 * x.a + 2 ^ x.ae
    let ae := x.ae + 8
    (s.setQp q { x with a := a, ae := ae, r := x.r * (2 ^ (ae + 1) - a), re := x.re + ae + 1, ccAt := s.time }).rateShow q

/-- `CC_RECOVER`, each `RECOVER_US` without a CNP: α ← 255/256 α and the rate rises by `RAI_MBPS`, up to the port rate. -/
def State.ccRecover (s : State) (q : Nat) : State :=
  let x := s.qpOf q
  if s.qpState q ≠ 1 ∨ s.time < x.ccAt + usTicks (s.g NET_CC.RECOVER_US) then s
  else
    let top := s.portRate (s.ctxF q 2 1)
    let r := x.r + s.g NET_CC.RAI_MBPS * 2 ^ x.re
    let ovr := top * 2 ^ x.re ≤ r
    (s.setQp q { x with a := 255 * x.a, ae := x.ae + 8, r := if ovr then top else r, re := if ovr then 0 else x.re,
                         ccAt := s.time }).rateShow q

/-! ### Ports up and down (R364, R373) -/

/-- `PFC_FRAME_RECEIVE`: a priority stops, or goes on with the packets that wait. -/
def State.pfcIn (s : State) (n prio : Nat) (xoff : Bool) : State :=
  if !s.portUp n then s
  else
    let s : State := { s with nic := { s.nic with xoff := tset (fun _ => 0) s.nic.xoff n (setBit (tget (fun _ => 0) s.nic.xoff n) (prio % 8) xoff) } }
    if xoff then s else s.nic.qps.foldl (fun s e => if e.2.tx ≠ [] ∧ s.ctxF e.1 2 1 = n then (s.qpXon e.1).qpGo e.1 else s) s

/-- `ETH_PORT_DOWN`: every queue pair on the port moves to `ERROR`, its open requests with `PORT_DOWN`; in the safe state no work ends
(12 R440). -/
def State.portDown (s : State) (n : Nat) : State :=
  if !s.gb PORT_STATUS.LINK_UP n then s
  else
    let s := (s.p PORT_STATUS.LINK_UP n 0).raise { source := srcId 6 n 2 }
    let s : State := { s with nic := { s.nic with xoff := tset (fun _ => 0) s.nic.xoff n 0, xoffSent := tset (fun _ => 0) s.nic.xoffSent n 0 } }
    if s.gb DEV_STATUS.SAFE then s
    else s.nic.qps.foldl (fun s e =>
      let q := e.1
      if s.qpState q = 1 ∧ s.ctxF q 2 1 = n then
        let x := s.qpOf q
        let s := s.setQp q { x with sends := [], recv := none, flushAs := 8 }
        let s := x.sends.foldl (fun s w => s.qpComplete q (cqe q w.wrId w.got w.op 0 8 false)) s
        (match x.recv with | some r => s.qpComplete q (cqe q r.wrId r.got 0x10 0 8 false) | none => s).qpError q
      else s) s

/-- `ETH_PORT_UP`: a present port whose cage has power trains, in SERVICE (14 R503 note n); one that failed calibration stays down (13 R459). -/
def State.portUpRow (s : State) (n : Nat) : State :=
  if n < 32 ∧ s.portLanes n ≠ 0 ∧ (s.cage (n / 4)).powered ∧ !s.port.serdesLost ∧ s.inService ∧ n ∉ s.nic.bad then s.p PORT_STATUS.LINK_UP n 1
  else s

/-- The region entries that are not all zero are among these: those with a byte in the stacks, a write-combining entry or a line of the
reserve. -/
def State.mrListed (s : State) : List Nat :=
  let at? (a : Nat) : List Nat := if 0x80000 ≤ a ∧ a < 0x100000 then [(a - 0x80000) / 64 * 2, (a - 0x80000) / 64 * 2 + 1] else []
  ((s.dmem.dram.map (·.1)) ++ s.dmem.wcb.map (fun e => dpaOf e.line) ++ s.dmem.res.map (fun e => dpaOf e.1)).flatMap at? |>.eraseDups

/-- The queue pairs and regions of a partition leave (R389). -/
def State.netPartReset (s : State) (p : Nat) : State :=
  let s := s.nic.qps.foldl (fun s e =>
    if s.qpPart e.1 = p then ((s.qpStop e.1).ctxPut e.1 0 1 0).setQp e.1 {} else s) s
  s.mrListed.foldl (fun s i =>
    if bit (s.mrF i 0x10 4) 31 ∧ bits (s.mrF i 0x10 4) 27 24 = p then s.netWrite (mrOff i) (zeros 32) else s) s

/-- Cache_Enable is cleared: every `READY` queue pair moves to `ERROR` (06 R212). -/
def State.netCacheOff (s : State) : State := s.nic.qps.foldl (fun s e => (s.qpStop e.1).qpError e.1) s

/-- The queue pairs of a function go on when it may request again. -/
def State.netWake (s : State) (f : Nat) : State :=
  (s.nic.qps.foldl (fun s e => if s.qpFn e.1 = f then (((if s.qpState e.1 = 1 then s.qpWatch e.1 else s).qpOwed e.1).qpGo e.1) else s) s).acksGo

end Sys2Proof.Machine
end

