-- ==== Sys2Proof/Machine/Cascade.lean ====
section
/-!
DEFINITION. Ploli links, the group, interloan transfers and windows, the peer inbox (10 R375 to R388, R393, R394).
-/
namespace Sys2Proof.Machine

/-- The Ploli major version of the running desk firmware (R375, 15 R509); 0 with none. -/
def State.ploliMajor (s : State) : Nat := match s.fw.desk with | some k => le (s.slotHdr k) 0xD 1 | none => 0

/-- The member at the far end of a link by the topology's table (R377): none for an unused link. -/
def farMember (topo count me l : Nat) : Option Nat :=
  match topo with
  | 1 => if l = 0 then (if me = 0 then none else some (me - 1)) else if l = 1 ∧ me + 1 < count then some (me + 1) else none
  | 2 => if l = 0 then some ((me + count - 1) % count) else if l = 1 then some ((me + 1) % count) else none
  | 3 => if l < 3 then some (me ^^^ 2 ^ l) else none
  | 4 => if l + 1 < count then some (if l < me then l else l + 1) else none
  | _ => none

/-- An interloan transfer leaves the list, its piece no longer awaited; the bytes of a read go into the carrel's store (R385). -/
def State.ilEnd (s : State) (t : IlTx) (data : Option Bytes) : State :=
  let s := match data with
    | some d => if t.write then s else s.setMem t.p ((s.mem t.p).write t.piece.loc (slice d 0 t.piece.len))
    | none => s
  let x := s.carrel t.p
  let s := s.setCarrel t.p { x with xfers := x.xfers.map fun f =>
    if f.tag = t.tag then { f with wait := f.wait.filter fun e => decide (e ≠ (ilKey t.itag, t.piece)) } else f }
  { s with cas := { s.cas with il := s.cas.il.filter fun x => decide (x.itag ≠ t.itag) } }

/-- Every interloan transfer that satisfies `p` ends, and with it the sending slot, with `CPL_TIMEOUT` (R382, R384). -/
def State.ilAbort (s : State) (p : IlTx → Bool) : State :=
  (s.cas.il.filter p).foldl (fun s t => (s.ilEnd t none).endSlot t.slot { status := 3 }) s

/-! ### Links and membership -/

/-- The members reached over links that are up (R377, R379). -/
def State.reached (s : State) : Nat :=
  (List.range 4).foldl (fun a l => if s.g PLOLI_LINK.STATE l = 1 then a ||| tget (fun _ => 0) s.cas.reach l else a) 0

/-- The group's state as the links show it (R379): `CONFLICT`, in which the device stands alone and its due dates are local ones (04 R135); `FORMED` once every
member is reached, else as it is or `FORMING`. Group work that is suspended takes in the entries that are group entries again (log entry 104). -/
def State.groupEval (s : State) : State :=
  if s.arec.role = 0 then s
  else if s.cas.confl ≠ 0 then ((((s.p CAS_STATUS.PRESENT 0 (2 ^ s.arec.member)).p CAS_STATUS.STATE 0 3).groupLocal).unsuspend).ddFireMarked 256
  else
    let all := (2 ^ s.arec.count - 1) &&& (255 - 2 ^ s.arec.member)
    let s := s.p CAS_STATUS.PRESENT 0 ((s.g CAS_STATUS.PRESENT ||| s.reached) ||| 2 ^ s.arec.member)
    if s.reached &&& all = all then ((s.p CAS_STATUS.STATE 0 2).suspendEnts.ilGo).groupResume
    else if s.g CAS_STATUS.STATE = 4 ∨ s.g CAS_STATUS.STATE = 2 then s.ilGo
    else (s.p CAS_STATUS.STATE 0 1).suspendEnts

/-- The links' reach has changed from `old`: when the last way to a member went is kept (R378). -/
def State.noteReach (s : State) (old : Nat) : State :=
  (setBitsOf 8 old).foldl (fun s m =>
    if bit s.reached m then s else { s with cas := { s.cas with gone := tset (fun _ => 0) s.cas.gone m s.time } }) s

/-- A group record's device forms its group, and the links that its topology leaves unused show it (R377, R379). -/
def State.groupStart (s : State) : State :=
  if s.arec.role = 0 then s
  else
    let s := (s.p CAS_STATUS.STATE 0 1).p CAS_STATUS.PRESENT 0 (2 ^ s.arec.member)
    (List.range 4).foldl (fun s l => if (farMember s.arec.topo s.arec.count s.arec.member l).isNone then s.p PLOLI_LINK.STATE l 5 else s) s

/-- `PLOLI_LINK_TRAIN`: what the two ends exchange decides the link's state (R375, R377, R379); a link that failed calibration stays down
(13 R459). -/
def State.ploliTrain (s : State) (l : Nat) (x : PloliPeer) : State :=
  let r := s.arec
  let old := s.reached
  let mine := s.ploliMajor
  if 4 ≤ l ∨ !s.inService ∨ !(s.cage (8 + l)).powered ∨ s.port.serdesLost ∨ l ∈ s.cas.bad then s
  else if r.role = 0 then s.p PLOLI_LINK.STATE l 0
  else match farMember r.topo r.count r.member l with
    | none => s.p PLOLI_LINK.STATE l 5
    | some m =>
      let s : State := { s with cas := { s.cas with confl := setBit s.cas.confl l false, reach := tset (fun _ => 0) s.cas.reach l 0 } }
      if !x.up then ((s.p PLOLI_LINK.STATE l 0).groupEval).noteReach old
      else
        let s := s.p PLOLI_LINK.PEER_MAJOR l x.major
        let conflict := (x.group = r.groupId ∧ (x.master ≠ r.master ∨ x.count ≠ r.count ∨ x.topo ≠ r.topo ∨ x.kind ≠ r.kind)) ∨ x.member = r.member
        if mine + 1 < x.major ∨ x.major + 1 < mine then (((s.p PLOLI_LINK.STATE l 3).raise { source := srcId 7 l 5 }).groupEval).noteReach old
        else if conflict then
          let s : State := { s with cas := { s.cas with confl := setBit s.cas.confl l true } }
          (((s.p PLOLI_LINK.STATE l 0).raise { source := srcId 7 l 3 }).groupEval).noteReach old
        else if x.group ≠ r.groupId ∨ x.member ≠ m then (((s.p PLOLI_LINK.STATE l 4).raise { source := srcId 7 l 6 }).groupEval).noteReach old
        else
          let s : State := { s with cas := { s.cas with reach := tset (fun _ => 0) s.cas.reach l (x.reach ||| 2 ^ m) } }
          ((s.p PLOLI_LINK.STATE l 1).groupEval).noteReach old

/-- `PLOLI_RETRAIN` (R375): the link stays up, nothing is lost; the retrain is counted. -/
def State.ploliRetrain (s : State) (l : Nat) : State :=
  if l < 4 ∧ s.g PLOLI_LINK.STATE l = 1 then
    ((s.bump PLOLI_LINK.RETRAINS l).tally fun t => { t with retrains := t.retrains + 1 }).raise { source := srcId 7 l 1 }
  else s

/-- `PLOLI_LINK_DOWN`: transfers find another route or wait (R378); loss of a member is `MEMBER_LOST`. -/
def State.ploliDown (s : State) (l : Nat) : State :=
  if l < 4 ∧ s.g PLOLI_LINK.STATE l ≠ 5 ∧ s.arec.role ≠ 0 then
    let s := if s.g PLOLI_LINK.STATE l = 1 then s.raise { source := srcId 7 l 2 } else s
    let old := s.reached
    let s := s.p PLOLI_LINK.STATE l 0
    State.noteReach { s with cas := { s.cas with reach := tset (fun _ => 0) s.cas.reach l 0 } } old
  else s

/-- 100 µs in ticks. -/
def us100 : Nat := 15625

/-- `MEMBER_LOST` (R378, R382): no route has reached the member for 100 µs. A member that loses the master ends its interloan transfers and frees the
plan's entries; in every other case the transfers to the member that is lost meet their own time limit (R384). -/
def State.memberLost (s : State) (m : Nat) : State :=
  if s.arec.role = 0 ∨ s.arec.count ≤ m ∨ m = s.arec.member ∨ bit s.reached m ∨ !bit (s.g CAS_STATUS.PRESENT) m
      ∨ s.time < tget (fun _ => 0) s.cas.gone m + us100 then s
  else
    let s := s.p CAS_STATUS.PRESENT 0 (setBit (s.g CAS_STATUS.PRESENT) m false)
    let s := s.raise { source := srcId 7 4 4, info0 := m }
    if s.arec.role = 2 ∧ m = s.arec.master then
      let s := s.p CAS_STATUS.STATE 0 4
      (s.ddFree s.inPlan).ilAbort fun _ => true
    else s

/-! ### Group messages (R158, R380, R381) -/

/-- `PLAN_ENTRY_RECEIVE`. -/
def State.planEntry (s : State) (e : PlanEntry) : State := s.planReceive e.idx e.commit e.stamp e.spec e.period

/-- `GROUP_ARRIVAL_RECEIVE` on the master. -/
def State.groupArrival (s : State) (m n b : Nat) : State :=
  if s.arec.role ≠ 1 ∨ !s.grouped ∨ (m, n, b) ∉ s.cas.takes ∨ (m, n, b) ∈ s.cas.came then s
  else
    let s : State := { s with cas := { s.cas with came := s.cas.came ++ [(m, n, b)] } }
    if s.groupGoes then s.combine n b else s

/-- `GROUP_PARTICIPATION_REPORT` on the master: a member's part in a group barrier. -/
def State.groupPart (s : State) (m n b : Nat) (takes : Bool) : State :=
  if s.arec.role ≠ 1 ∨ s.arec.count ≤ m ∨ m = s.arec.member then s
  else
    let t := s.cas.takes.filter fun e => decide (e ≠ (m, n, b))
    let s : State := { s with cas := { s.cas with takes := if takes then t ++ [(m, n, b)] else t,
                                                  came := if takes then s.cas.came else s.cas.came.filter fun e => decide (e ≠ (m, n, b)) } }
    if s.groupGoes ∧ !takes then s.combine n b else s

/-! ### Windows (R383 to R387) -/

/-- A window access refused: counted, and logged in its partition's fault log, under a cause that the manual does not name. -/
def State.winRefuse (s : State) (w va pasid : Nat) (wr : Bool) : State :=
  let s := s.bump WIN_STATUS.REFUSED w
  if w / 64 < s.partCount then
    ({ s with free := s.free + 1 }).logFault (w / 64) (1 + Config.freeValue s.free % 9) va pasid wr { source := 4, slot := 0xFF }
  else s

/-- The answer of a window check: the partition, PASID and target address; refused; refused as the entry has no translation, which is logged; or a wait
for a translation. -/
inductive WinRes where
  | ok (part pasid va : Nat)
  | refuse
  | fault
  | wait
deriving DecidableEq, Repr

/-- A window checks an access (R383): present and enabled, within its granules, the entry's right; the entry comes from the window cache or
is read (`entry`: what host memory holds for it). `k` is the access's number for the translation unit. -/
def State.winCheck (s : State) (w off : Nat) (wr : Bool) (entry : Bytes) (k : Nat := 0) : WinRes × State :=
  let p := w / 64
  let i := off / 2 ^ 21
  let pasid := s.g WIN_CFG.PASID w
  let judge (e : Nat) : WinRes :=
    if e / 2 ^ 57 = 0 ∧ bits e 20 2 = 0 ∧ e % 4 ≠ 0 ∧ bit e (if wr then 1 else 0) then .ok p pasid (bits e 56 21 * 2 ^ 21 + off % 2 ^ 21) else .refuse
  if 512 ≤ w ∨ s.partCount ≤ p ∨ !s.gb WIN_CFG.ENABLE w ∨ s.g WIN_CFG.GRANULES w ≤ i ∨ (s.fn (p + 1)).flr then (.refuse, s)
  else match s.cas.wins.find? fun e => decide (e.1 = w ∧ e.2.1 = i) with
    | some e => (judge e.2.2, s)
    | none =>
      match s.hubVa p pasid (s.g WIN_BASE.ADDR w * 4096 + 8 * i) false { source := 4, aux := k } with
      | (.wait, s) => (.wait, s)
      | (.fault _, s) => (.fault, s)
      | (.ok ca, s) =>
        if !s.stableRange ca 8 then (.wait, s)
        else
        let d := s.hubLoad ca 8 (some 3) entry
        let s := d.2.2
        if d.2.1 then (.refuse, s)
        else
          let e := leNat d.1
          (judge e, { s with cas := { s.cas with wins := ((w, i, e) :: s.cas.wins).take 4096 } })

/-- Bytes stored under a window's PASID by the Ploli path. -/
def State.winStore (s : State) (part pasid va : Nat) (bs : Bytes) (k : Nat := 0) : XRes × State :=
  s.placeVa (bs.length / 4096 + 3) { source := 4, aux := k } part pasid va bs

/-- A refused access of the window is counted, and logged unless its translation's fault has been logged already (`logged`). -/
def State.winDenied (s : State) (w off : Nat) (wr logged : Bool) : State :=
  if logged then s.bump WIN_STATUS.REFUSED w else s.winRefuse w off (s.g WIN_CFG.PASID w) wr

/-- A refused access: an interloan access is answered, a peer's write is dropped (R384, R385, R388). -/
def State.winRefused (s : State) (a : WinIn) (logged : Bool) : State :=
  match a with
  | .write r => (s.winDenied r.window r.off true logged).ilAnswer r.member r.tag 1 [] r.windowed
  | .read r => (s.winDenied r.window r.off false logged).ilAnswer r.member r.tag 1 [] r.windowed
  | .peer w _ off _ _ => s.winDenied w off true logged

/-- An access that its window has checked is carried out at its target: over (`true`), with its answer (R384, R385), or to be tried again. A write is
acknowledged once it has landed. -/
def State.winDo (s : State) (a : WinIn) (k p pasid va : Nat) : Bool × State :=
  let stored (bs : Bytes) (after : State → State) : Bool × State :=
    match s.winStore p pasid va bs k with
    | (.ok _, s) => (true, after s)
    | (.wait, s) => (false, s)
    | (.fault _, s) => (true, s.winRefused a true)
  if !s.mayRequest (p + 1) then (false, s)
  else match a with
    | .write r => stored r.data fun s =>
        if s.ordered (p + 1) then s.ilAnswer r.member r.tag 0 [] r.windowed
        else { s with cas := { s.cas with acks := s.cas.acks ++ [(p + 1, r.member, r.tag, r.windowed)] } }
    | .peer _ _ _ data _ => stored data id
    | .read r =>
      match s.payloadVa p pasid va r.len { source := 4, aux := k } r.host with
      | (.ok _, g, bad, s) => (true, if bad then s.ilAnswer r.member r.tag 2 [] r.windowed else s.ilAnswer r.member r.tag 0 g r.windowed)
      | (.wait, _, _, s) => (false, s)
      | (.fault _, _, _, s) => (true, s.winRefused a true)

/-- The window that an access uses, the offset, whether it writes, and what host memory holds for the entry. -/
def WinIn.place : WinIn → Nat × Nat × Bool × Bytes
  | .write r => (r.window, r.off, true, r.entry)
  | .read r => (r.window, r.off, false, r.entry)
  | .peer w _ off _ e => (w, off, true, e)

/-- An access to a window goes as far as it can (R383 to R388): over (none), or how it waits. One that was checked before is not checked again, but an FLR of
the partition refuses it (R387). -/
def State.winServe (s : State) (x : WinWait) : Option WinWait × State :=
  let (w, off, wr, entry) := WinIn.place x.acc
  let r : WinRes × State := match x.target with
    | some (p, pasid, va) => (if (s.fn (p + 1)).flr then .refuse else .ok p pasid va, s)
    | none => s.winCheck w off wr entry x.id
  if x.failed then (none, s.winRefused x.acc true)
  else match r with
  | (.refuse, s) => (none, s.winRefused x.acc false)
  | (.fault, s) => (none, s.winRefused x.acc true)
  | (.wait, s) => (some x, s)
  | (.ok p pasid va, s) =>
    match s.winDo x.acc x.id p pasid va with
    | (true, s) => (none, s)
    | (false, s) => (some { x with target := some (p, pasid, va) }, s)

/-- An access stands behind an earlier one that waits: the writes of one peer are applied in the order of their arrival (R388). -/
def behind (l : List WinWait) (a : WinIn) : Bool :=
  match a with
  | .peer _ rid _ _ _ => l.any fun y => match y.acc with | .peer _ r _ _ _ => decide (r = rid) | _ => false
  | _ => false

/-- An access to a window arrives; one that waits is held until it can be served (R385, R387). -/
def State.winIn (s : State) (a : WinIn) : State :=
  let x : WinWait := { id := s.cas.nextIn, acc := a }
  let hold (s : State) (x : WinWait) : State := { s with cas := { s.cas with held := s.cas.held ++ [x], nextIn := s.cas.nextIn + 1 } }
  if behind s.cas.held a then hold s x
  else match s.winServe x with
    | (none, s) => s
    | (some x, s) => hold s x

/-- The accesses that wait are tried again, in the order of their arrival; none in the safe state (12 R440). -/
def State.winAll (s : State) : State :=
  if s.gb DEV_STATUS.SAFE then s
  else s.cas.held.foldl (fun s y =>
    match s.cas.held.find? fun x => decide (x.id = y.id) with
    | none => s
    | some x =>
      if behind (s.cas.held.takeWhile fun z => decide (z.id ≠ x.id)) x.acc then s
      else
        let r := s.winServe x
        { r.2 with cas := { r.2.cas with held := r.2.cas.held.filterMap fun z => if z.id = x.id then r.1 else some z } }) s

/-- `INTERLOAN_WRITE_RECEIVE` (R384, R387), `INTERLOAN_READ_REQUEST` (R385). -/
def State.ilWriteIn (s : State) (r : IlReq) : State := s.winIn (.write r)

def State.ilReadIn (s : State) (r : IlReq) : State := s.winIn (.read r)

/-- `INTERLOAN_RESPONSE_RECEIVE`: a transfer of this device is answered (R384, R385). After an uncorrected word at the receiver the bytes of a
read's destination are undefined (R385): free values. -/
def State.ilResponse (s : State) (r : IlRsp) : State :=
  match s.cas.il.find? fun t => decide (t.itag = r.tag) && t.left with
  | none => s
  | some t =>
    match r.status with
    | 0 => s.ilEnd t (some r.data)
    | 1 => (s.ilEnd t none).endSlot t.slot { status := 7 }
    | _ =>
      let f := s.freeBytes t.piece.len
      (f.2.ilEnd t (some f.1)).endSlot t.slot { status := 4 }

/-- 64 ms in ticks. -/
def ms64 : Nat := 10000000

/-- `INTERLOAN_TIMEOUT` (R384, R385). -/
def State.ilTimeout (s : State) (tag : Nat) : State := s.ilAbort fun t => decide (t.itag = tag) && decide (t.sent + ms64 ≤ s.time)

/-- `EXCHANGE_WINDOW_CLOSE` (R386): at the end of the window's time. -/
def State.windowClose (s : State) (l : Nat) : State :=
  if tget (fun _ => 0) s.cas.openTo l ≤ s.time then { s with cas := { s.cas with openTo := tset (fun _ => 0) s.cas.openTo l 0 } } else s

/-- `WIN_SYNC`: the window's cached entries go. -/
def State.winSync (s : State) (w : Nat) : State := { s with cas := { s.cas with wins := s.cas.wins.filter fun e => decide (e.1 ≠ w) } }

/-- `WIN_CFG_WRITE` (R394). -/
def State.winCfg (s : State) (w v : Nat) : State :=
  if 512 ≤ w then s
  else if s.gb WIN_CFG.ENABLE w ∧ bit v 63 then s
  else
    let g := bits v 16 0
    let s := (s.p WIN_CFG.PASID w (bits v 51 32)).p WIN_CFG.GRANULES w g
    s.p WIN_CFG.ENABLE w (b2n (bit v 63 && decide (1 ≤ g) && decide (g ≤ 65536)))

/-! ### Interloan bindings (R384, R393) -/

/-- `IL_BIND`. -/
def State.ilBind (s : State) : State :=
  let n := s.g IL_SEL.SLOT
  let h := s.g IL_SEL.HANDLE
  let res (s : State) (r : Nat) : State := s.p IL_CMD.RESULT 0 r
  if s.g SLOT_STATUS.STATE n = 3 then res s 1
  else if s.g CAS_STATUS.STATE ≠ 2 then res s 2
  else if h < 32 ∨ (s.partOf n) = none ∨ s.arec.count ≤ s.g IL_CMD.MEMBER ∨ s.g IL_CMD.MEMBER = s.arec.member ∨ s.g IL_TARGET.OFFSET % 8 ≠ 0
      ∨ (tget (fun _ => none) (s.slot n).handles h).isSome then res s 3
  else
    let x : Handle := { base := s.g IL_TARGET.OFFSET, len := s.g IL_TARGET.LEN * 65536, r := s.gb IL_CMD.RD, w := s.gb IL_CMD.WR, remote := true,
                        member := s.g IL_CMD.MEMBER, window := s.g IL_CMD.WINDOW, windowed := s.gb IL_CMD.WINDOWED }
    res (s.setSlot n { s.slot n with handles := tset (fun _ => none) (s.slot n).handles h (some x) }) 0

/-- The interloan binding of the selected handle. -/
def State.ilHandle (s : State) : Option Handle :=
  match tget (fun _ => none) (s.slot (s.g IL_SEL.SLOT)).handles (s.g IL_SEL.HANDLE) with
  | some x => if x.remote then some x else none
  | none => none

/-- `IL_UNBIND`. -/
def State.ilUnbind (s : State) : State :=
  let n := s.g IL_SEL.SLOT
  if s.g SLOT_STATUS.STATE n = 3 then s.p IL_CMD.RESULT 0 1
  else if s.g CAS_STATUS.STATE ≠ 2 then s.p IL_CMD.RESULT 0 2
  else match s.ilHandle with
    | none => s.p IL_CMD.RESULT 0 3
    | some _ =>
      (s.setSlot n { s.slot n with handles := tset (fun _ => none) (s.slot n).handles (s.g IL_SEL.HANDLE) none }).p IL_CMD.RESULT 0 0

/-- `IL_READ`: the binding is copied into the registers. -/
def State.ilRead (s : State) : State :=
  match s.ilHandle with
  | none => s.p IL_CMD.RESULT 0 3
  | some x =>
    let s := (s.p IL_TARGET.OFFSET 0 x.base).p IL_TARGET.LEN 0 (x.len / 65536)
    let s := ((s.p IL_CMD.RD 0 (b2n x.r)).p IL_CMD.WR 0 (b2n x.w)).p IL_CMD.WINDOWED 0 (b2n x.windowed)
    ((s.p IL_CMD.WINDOW 0 x.window).p IL_CMD.MEMBER 0 x.member).p IL_CMD.RESULT 0 0

/-! ### The peer inbox (06 R221, R388) -/

/-- `PEER_INBOX_WRITE` by requester `rid` into function `f`'s BAR4; `entry` is what host memory holds for the window's entry. -/
def State.peerWrite (s : State) (f rid off : Nat) (data entry : Bytes) : State :=
  let p := f - 1
  let x := s.fn f
  if f = 0 ∨ s.partCount < f ∨ !x.mse ∨ x.d3 ∨ x.flr ∨ s.gb DEV_STATUS.SAFE then s
  else match (List.range 16).find? fun i => s.gb PEER.VALID (16 * p + i) && decide (s.g PEER.RID (16 * p + i) = rid) with
    | none =>
      (((s.bump PART_ACCESS.INBOX_REJ p).aer f 20).fnError p)
    | some i => s.winIn (.peer (64 * p + s.g PEER.WINDOW (16 * p + i)) rid (off % 2 ^ 26) data entry)

end Sys2Proof.Machine
end

