-- ==== Sys2Proof/Machine/Record.lean ====
section
/-!
DEFINITION. The accession record: the checks of a copy (14 R481 to R486), its sections (R487 to R496), what it gives the device, and the registers that
it loads.
-/
namespace Sys2Proof.Machine

/-! ### Sections (R485) -/

/-- A section of a body: its type, the offset of its value, its length. -/
structure Sect where
  typ : Nat
  off : Nat
  len : Nat
deriving DecidableEq, Repr

/-- A failing field: the section's type and the field's offset in the body, where the manual gives one. -/
structure SectFail where
  typ : Nat
  off : Option Nat
deriving DecidableEq, Repr

/-- The bytes a section takes, its padding with it. -/
def sectSize (len : Nat) : Nat := (len + 11) / 8 * 8

/-- The lengths that a section allows (R486). -/
def sectLenOk (b : Bytes) (t v len : Nat) : Bool :=
  match t with
  | 1 => decide (len = 16)
  | 2 => decide (len = 16) || decide (len = 16 + 16 * le b v 1)
  | 3 => decide (len = 8)
  | 4 => decide (len = 4)
  | 5 => decide (len = 8)
  | 6 => decide (len % 24 = 0 ∧ 24 ≤ len ∧ len ≤ 384)
  | 7 => decide (len % 4 = 0 ∧ 4 ≤ len ∧ len ≤ 536)
  | 8 => decide (len = 8)
  | 9 => decide (len = 8)
  | 10 => decide (len = 4)
  | _ => true

/-- The first field that breaks its rule. -/
def firstBad (l : List (Bool × Nat)) : Option Nat := (l.find? (·.1)).map (·.2)

/-- The first byte of a range that is not 0. -/
def notZero (b : Bytes) (o n : Nat) : List (Bool × Nat) := (List.range n).map fun i => (decide (le b (o + i) 1 ≠ 0), o + i)

/-- A partition entry's own rules (R489). -/
def partEntryBad (b : Bytes) (o : Nat) : List (Bool × Nat) :=
  [(decide (63 < le b o 1), o), (decide (le b (o + 1) 1 = 0 ∨ 64 < le b o 1 + le b (o + 1) 1), o + 1),
   (decide (le b (o + 2) 2 = 0 ∨ 256 < le b (o + 2) 2), o + 2), (decide (le b (o + 4) 4 = 0 ∨ 393216 < le b (o + 4) 4), o + 4),
   (decide (224 < le b (o + 8) 1), o + 8), (decide (256 < le b (o + 10) 2 ∨ le b (o + 12) 2 < le b (o + 10) 2), o + 10),
   (decide (256 < le b (o + 12) 2), o + 12)] ++ notZero b (o + 9) 1 ++ notZero b (o + 14) 2

/-- The sum of a field over the entries before and with entry `p`. -/
def entrySum (b : Bytes) (v p o n : Nat) : Nat := (List.range (p + 1)).foldl (fun a q => a + le b (v + 16 + 16 * q + o) n) 0

/-- The partitions-and-memory section (R488, R489), but for the rules that name other sections. -/
def partsBad (b : Bytes) (v len : Nat) : List (Bool × Nat) :=
  let pc := le b v 1
  let es := if len = 16 then [] else List.range pc
  [(!decide (pc ∈ [1, 2, 4, 8]), v), (decide (4 < le b (v + 1) 1), v + 1), (decide (1 < le b (v + 2) 1), v + 2), (decide (le b (v + 4) 2 = 0), v + 4)]
    ++ notZero b (v + 6) 2 ++ notZero b (v + 12) 4
    ++ (es.flatMap fun p =>
      let o := v + 16 + 16 * p
      partEntryBad b o
        ++ [(decide (0 < p ∧ le b o 1 < le b (o - 16) 1 + le b (o - 15) 1), o),
            (decide (256 < entrySum b v p 2 2), o + 2), (decide (248 < entrySum b v p 10 2), o + 10)])

/-- The priority slots (R488): distinct, each in a present partition; the bytes beyond them 0xFF. -/
def prioBad (b : Bytes) (v len : Nat) : List (Bool × Nat) :=
  let n := le b (v + 1) 1
  let pc := le b v 1
  let held (k : Nat) : Bool :=
    if len = 16 then decide (k < 64)
    else (List.range pc).any fun p => decide (le b (v + 16 + 16 * p) 1 ≤ k ∧ k < le b (v + 16 + 16 * p) 1 + le b (v + 17 + 16 * p) 1)
  (List.range 4).map fun i =>
    let k := le b (v + 8 + i) 1
    let dup := (List.range i).any fun j => decide (le b (v + 8 + j) 1 = k)
    (if i < n then decide (63 < k) || dup || !held k else decide (k ≠ 0xFF), v + 8 + i)

/-- The cascade section (R492). -/
def cascadeBad (b : Bytes) (v : Nat) : List (Bool × Nat) :=
  let role := le b v 1
  let topo := le b (v + 2) 1
  let cnt := le b (v + 3) 1
  if role = 0 then (List.range 5).map (fun i => (decide (le b (v + 1 + i) 1 ≠ 0), v + 1 + i)) ++ [(decide (le b (v + 6) 2 ≠ 0), v + 6)]
  else
    let fits := match topo with
      | 1 => decide (2 ≤ cnt ∧ cnt ≤ 8) | 2 => decide (3 ≤ cnt ∧ cnt ≤ 8) | 3 => decide (cnt = 8) | 4 => decide (2 ≤ cnt ∧ cnt ≤ 5)
      | _ => true
    [(decide (2 < role), v), (decide (2 < le b (v + 1) 1), v + 1), (decide (topo = 0 ∨ 4 < topo), v + 2), (!fits || decide (cnt < 2 ∨ 8 < cnt), v + 3),
     (decide (cnt ≤ le b (v + 4) 1) || (decide (role = 1) != decide (le b (v + 4) 1 = le b (v + 5) 1)), v + 4), (decide (cnt ≤ le b (v + 5) 1), v + 5),
     (decide (le b (v + 6) 2 = 0), v + 6)]

/-- A collector that a reaction entry may name (R495). -/
def reactName (c : Nat) : Bool := decide (c ≤ 0x25) || (decide (0x40 ≤ c) && decide (c ≤ 0x9F))

/-- The first field of a section that breaks the section's own rules (R487 to R496). -/
def contentBad (b : Bytes) (x : Sect) : Option Nat :=
  let v := x.off
  firstBad <| match x.typ with
  | 1 => [(decide (le b v 2 = 0 ∨ le b v 2 = 0xFFFF), v), (decide (le b (v + 2) 2 = 0xFFFF), v + 2), (decide (le b (v + 4) 2 = 0xFFFF), v + 4)]
         ++ notZero b (v + 10) 6
  | 2 => partsBad b v x.len
  | 3 => cascadeBad b v
  | 4 => [(!decide (le b v 1 ∈ [1, 2, 4]), v)] ++ notZero b (v + 1) 3
  | 5 => (List.range 8).map fun c => (decide (3 < le b (v + c) 1), v + c)
  | 6 => (List.range (x.len / 24)).flatMap fun k =>
      let o := v + 24 * k
      [(decide (2 ^ 41 ≤ le b o 8), o), (decide (2 ^ 41 ≤ le b (o + 8) 8), o + 8), (decide (le b (o + 16) 4 &&& 0x7FFFFFEC ≠ 0), o + 16)]
        ++ notZero b (o + 20) 4
  | 7 => (List.range (x.len / 4)).flatMap fun k =>
      let o := v + 4 * k
      [(!reactName (le b o 1) || (List.range k).any (fun j => decide (le b (v + 4 * j) 1 = le b o 1)), o), (decide (31 < le b (o + 1) 1), o + 1),
       (decide (31 < le b (o + 2) 1), o + 2), (decide (31 < le b (o + 3) 1), o + 3)]
  | 8 =>
      let w (o : Nat) : Bool := decide (le b o 2 < 600 ∨ 2400 < le b o 2 ∨ le b o 2 % 10 ≠ 0)
      [(decide (2 < le b v 1), v)] ++ notZero b (v + 1) 1 ++ [(w (v + 2), v + 2), (w (v + 4), v + 4), (decide (le b (v + 6) 1 < 85 ∨ 105 < le b (v + 6) 1), v + 6)]
        ++ notZero b (v + 7) 1
  | 9 => [(decide (le b v 2 < 32 ∨ 1023 < le b v 2), v), (decide (le b (v + 2) 1 = 0 ∨ 15 < le b (v + 2) 1), v + 2),
          (decide (le b (v + 3) 1 < 4 ∨ 63 < le b (v + 3) 1), v + 3), (decide (le b (v + 4) 1 = 0 ∨ 64 < le b (v + 4) 1), v + 4),
          (decide (64 < le b (v + 5) 1), v + 5)] ++ notZero b (v + 6) 2
  | 10 => [(decide (le b v 1 < 8 ∨ 0x77 < le b v 1), v)] ++ notZero b (v + 1) 3
  | _ => []

/-- The sections of a body in their order, or the first that breaks a rule. -/
def sectsOf (b : Bytes) : Nat → Nat → List Sect → List Sect × Option SectFail
  | 0, off, acc => (acc, if off = b.length then none else some ⟨0, none⟩)
  | n + 1, off, acc =>
    let t := le b off 2
    let len := le b (off + 2) 2
    let x : Sect := ⟨t, off + 4, len⟩
    let stop (o : Option Nat) : List Sect × Option SectFail := (acc, some ⟨t, o⟩)
    if b.length < off + 4 then stop none
    else if t = 0 ∨ (0xB ≤ t ∧ t < 0x8000) ∨ acc.any (fun y => decide (y.typ = t)) then stop (some off)
    else if !sectLenOk b t (off + 4) len ∨ b.length < off + sectSize len then stop (some (off + 2))
    else match contentBad b x with
      | some o => stop (some o)
      | none => match firstBad (notZero b (off + 4 + len) (sectSize len - 4 - len)) with
        | some o => stop (some o)
        | none => sectsOf b n (off + sectSize len) (acc ++ [x])

/-- A section of a type. -/
def sectAt (ss : List Sect) (t : Nat) : Option Sect := ss.find? fun x => decide (x.typ = t)

/-- A field of a section, or its default where the section is absent. -/
def sectField (b : Bytes) (ss : List Sect) (t o n d : Nat) : Nat :=
  match sectAt ss t with | some x => le b (x.off + o) n | none => d

/-- The rules across sections (R485, R488, R489). -/
def crossBad (b : Bytes) (ss : List Sect) : Option SectFail :=
  if (sectAt ss 1).isNone then some ⟨1, none⟩
  else match sectAt ss 2 with
    | none => none
    | some x =>
      let base := sectField b ss 9 4 1 16 + sectField b ss 9 5 1 16
      let dd := if x.len = 16 then [] else (List.range (le b x.off 1)).map fun p => (decide (256 < base + entrySum b x.off p 8 1), x.off + 24 + 16 * p)
      (firstBad (prioBad b x.off x.len ++ dd)).map fun o => ⟨2, some o⟩

/-- A body's sections when they keep every rule, else what fails. -/
def bodyOf (b : Bytes) (n : Nat) : List Sect × Option SectFail :=
  let r := sectsOf b n 0 []
  match r.2 with
  | some f => (r.1, some f)
  | none => (r.1, crossBad b r.1)

/-! ### A copy (R481 to R484) -/

/-- A failed copy: the check's code, and for `SECTION` what failed. -/
structure CopyFail where
  code : Nat
  sect : Option SectFail := none
deriving DecidableEq, Repr

/-- The first check that a copy fails (R483). `rd` reads bytes of the copy; `digest` is the fused key digest. -/
def copyCheck (rd : Nat → Nat → Bytes) (digest : Nat) : Option CopyFail :=
  let h := rd 0 4096
  let n := le h 0x10 4
  if le h 0xFFC 4 ≠ crc32c (h.take 0xFFC) then some ⟨1, none⟩
  else if le h 0 4 ≠ 0x4341484D then some ⟨2, none⟩
  else if le h 5 1 ≠ 1 then some ⟨3, none⟩
  else if 0x30000 < le h 8 4 ∨ le h 0xC 4 < 0x30000 then some ⟨4, none⟩
  else if n % 8 ≠ 0 ∨ n < 8 ∨ 49152 < n ∨ le h 6 2 ≠ 0 ∨ le h 0x1A 6 ≠ 0 ∨ (slice h 0xD3D 703).any (fun x => decide (x ≠ 0)) then some ⟨5, none⟩
  else
    let key := rd 0x1000 1952
    if Config.sha384 key ≠ digest then some ⟨6, none⟩
    else if !Config.mldsaVerify key (slice h 0x50 3309) (h.take 0x50) then some ⟨7, none⟩
    else
      let b := rd 0x2000 n
      if Config.sha384 b ≠ le h 0x20 48 then some ⟨8, none⟩
      else match (bodyOf b (le h 0x18 2)).2 with
        | some f => some ⟨9, some f⟩
        | none => none

/-- The `INFO0` of a failed copy (R484); the offset that the manual does not give is `open_`. -/
def copyInfo (f : CopyFail) (open_ : Nat) : Nat :=
  f.code + (match f.sect with | some x => x.typ * 2 ^ 8 + (match x.off with | some o => o | none => open_) % 2 ^ 16 * 2 ^ 24 | none => 0)

/-! ### What a record gives (R487 to R496) -/

/-- The shares of the partitions (R489, R490): explicit or by default, the excess over the capacity cut. -/
def sharesOf (b : Bytes) (ss : List Sect) (cap : Nat) : List Nat :=
  let pc := sectField b ss 2 0 1 1
  match sectAt ss 2 with
  | some x =>
    if x.len = 16 then List.replicate pc ((cap - 1) / pc)
    else
      let fs := (List.range pc).map fun p => le b (x.off + 20 + 16 * p) 4
      let sum := fs.foldl (· + ·) 0
      let ovr := sum - (cap - 1)
      let cut := fs.map fun f => ovr * f / sum
      let rest := ovr - cut.foldl (· + ·) 0
      (List.range pc).map fun p => fs.getD p 0 - cut.getD p 0 - (rest / pc + (if p < rest % pc then 1 else 0))
  | none => List.replicate pc ((cap - 1) / pc)

/-- The partitions (R488, R489, R491): `avail` are the shelves that are available, in order. -/
def partsOf (b : Bytes) (ss : List Sect) (avail : List Nat) : List PartRec :=
  let pc := sectField b ss 2 0 1 1
  let dd0 := sectField b ss 9 4 1 16 + sectField b ss 9 5 1 16
  let entry (p o n d : Nat) : Nat := match sectAt ss 2 with
    | some x => if x.len = 16 then d else le b (x.off + 16 + 16 * p + o) n
    | none => d
  let shelves (p : Nat) : Nat := entry p 2 2 (256 / pc)
  let dds (p : Nat) : Nat := entry p 8 1 ((256 - dd0) / pc)
  let before (f : Nat → Nat) (p : Nat) : Nat := (List.range p).foldl (fun a q => a + f q) 0
  (List.range pc).map fun p =>
    ({ slotFirst := entry p 0 1 (64 * p / pc), slotCount := entry p 1 1 (64 / pc), shelves := (avail.drop (before shelves p)).take (shelves p),
       ddBase := dd0 + before dds p, ddCount := dds p } : PartRec)

/-- The record that a body gives. -/
def recordOf (b : Bytes) (n : Nat) (avail : List Nat) : Record :=
  let ss := (bodyOf b n).1
  let f (t o k d : Nat) : Nat := sectField b ss t o k d
  let alone := f 3 0 1 0 = 0
  { parts := partsOf b ss avail,
    mgmtDd := f 9 4 1 16, groupDd := f 9 5 1 16,
    cages := (List.range 8).map fun c => f 5 c 1 0,
    profile := f 8 0 1 0, i3c := f 10 0 1 0x3A,
    ids := (List.range 5).map fun k => f 1 (2 * k) 2 0,
    bytes := b, maxModules := f 4 0 1 4,
    role := f 3 0 1 0, kind := f 3 1 1 0, topo := f 3 2 1 0, count := if alone then 1 else f 3 3 1 1,
    member := f 3 4 1 0, master := f 3 5 1 0, groupId := f 3 6 2 0 }

/-! ### The registers that a record loads -/

/-- A field of the record in use; its default where no record is read. -/
def State.recField (s : State) (t o n d : Nat) : Nat :=
  sectField s.arec.bytes (sectsOf s.arec.bytes (s.arec.bytes.length / 8) 0 []).1 t o n d

/-- A field of a partition's entry, or its default. -/
def State.recEntry (s : State) (p o n d : Nat) : Nat :=
  match sectAt (sectsOf s.arec.bytes (s.arec.bytes.length / 8) 0 []).1 2 with
  | some x => if x.len = 16 then d else le s.arec.bytes (x.off + 16 + 16 * p + o) n
  | none => d

/-- The fields that take their accession values at COLD, LINK-LOSS and DEVICE resets (04 R123, 08 R317, R322, 11 R416, R420). -/
def State.loadSoft (s : State) : State :=
  let s := ((s.p MEM_POLICY.AUTO 0 (s.recField 2 2 1 1)).p MEM_POLICY.SCRUB_HOURS 0 (s.recField 2 3 1 24)).p MEM_POLICY.CE_LIMIT 0 (s.recField 2 4 2 1024)
  let s := ((s.p STAMP_CTL.GROUP_LEAD 0 (s.recField 9 0 2 96)).p STAMP_CTL.SYNC_MISS_LIMIT 0 (s.recField 9 2 1 4)).p STAMP_CTL.WAVE_STRIDE 0 (s.recField 9 3 1 4)
  let s := (s.p PWR_CAP.CAP_W 0 (if s.arec.profile = 0 then 2400 else s.recField 8 2 2 2400)).p THERM_CTL.THROTTLE_C 0 (s.recField 8 6 1 100)
  let s := s.p PWR_STATUS.PROFILE 0 s.arec.profile
  State.groupStart (s.each (List.range s.partCount) fun s p =>
    let g := s.recEntry p 10 2 (248 / s.partCount)
    let c := s.recEntry p 12 2 256
    s.each (List.range 13) fun s k =>
      if k = 12 then (s.p REG_LINK.GUAR p g).p REG_LINK.CEIL p c else (s.p REG_STACK.GUAR (p * 12 + k) g).p REG_STACK.CEIL (p * 12 + k) c)

/-- Where the lending table of a partition with a share of `total` frames has log2 of its buckets (09 R345, R360). -/
def log2B (total : Nat) : Nat := ((List.range 4).map (· + 15)).find? (fun k => decide (total ≤ 2 * 2 ^ k)) |>.getD 18

/-- The fields that ACCESSION loads (07 R292, 08 R309, R318, R321, 09 R345, 12 R451, 11 R418): shares, lending tables, regions, reaction masks,
priority slots. -/
def State.loadHard (s : State) : State :=
  let b := s.arec.bytes
  let ss := (sectsOf b (b.length / 8) 0 []).1
  let shares := sharesOf b ss s.dmem.cap
  let s := s.p PWR_CAP.EMERG_W 0 (s.recField 8 4 2 1200)
  let s := s.each (List.range (sectField b ss 2 1 1 0)) fun s i =>
    (s.p RES_CLASS.SLOT_VALID (4 + i) 1).p RES_CLASS.SLOT (4 + i) (sectField b ss 2 (8 + i) 1 0)
  let s := match sectAt ss 6 with
    | none => s
    | some x => s.each (List.range (x.len / 24)) fun s k =>
      let o := x.off + 24 * k
      let a := le b (o + 16) 4
      ((((s.p RAT_BASE.ADDR k (le b o 8)).p RAT_LIMIT.ADDR k (le b (o + 8) 8)).p RAT_ATTR.VALID k (bits a 31 31)).p RAT_ATTR.NOPF k (bits a 4 4)).p
        RAT_ATTR.POLICY k (bits a 1 0)
  let s := match sectAt ss 7 with
    | none => s
    | some x => s.each (List.range (x.len / 4)) fun s k =>
      let o := x.off + 4 * k
      let c := le b o 1
      let m (i : Nat) : Nat := le b (o + i) 1
      if c < 0x40 then ((s.p COL_REACT.CE_MASK c (m 1)).p COL_REACT.UC_MASK c (m 2)).p COL_REACT.FATAL_MASK c (m 3)
      else if c < 0x60 then
        let i := 38 + (c - 0x40)
        ((s.p COL_REACT.CE_MASK i (m 1)).p COL_REACT.UC_MASK i (m 2)).p COL_REACT.FATAL_MASK i (m 3)
      else if c < 0x80 then
        ((s.p COL_REACT_W1.CE_MASK (c - 0x60) (m 1)).p COL_REACT_W1.UC_MASK (c - 0x60) (m 2)).p COL_REACT_W1.FATAL_MASK (c - 0x60) (m 3)
      else ((s.p COL_REACT_W2.CE_MASK (c - 0x80) (m 1)).p COL_REACT_W2.UC_MASK (c - 0x80) (m 2)).p COL_REACT_W2.FATAL_MASK (c - 0x80) (m 3)
  let r := (List.range s.partCount).foldl (fun (a : Nat × State) p =>
    let t := shares.getD p 0
    let k := log2B t
    let n := 2 ^ k / 32768
    let s := ((a.2.p MEM_PART.TOTAL p t).p LT_PART.BASE_FRAME p a.1).p LT_PART.LOG2_B p k
    (a.1 + n, s.each (List.range n) fun s i => s.setOwner (a.1 + i) (p + 1))) (1, s)
  r.2.loadSoft

end Sys2Proof.Machine
end

