-- ==== Sys2Proof/Machine/Trans.lean ====
section
/-!
DEFINITION. The answers of the host to translation and page requests, invalidations, the fault log's and the probe's registers (09 R326,
R330, R334, R335, R338 to R343, R356 to R358), and what goes on when a translation or Bus Master Enable returns (06 R231, R233).
-/
namespace Sys2Proof.Machine

/-! ### What goes on -/

/-- Held writes of a function leave in their order, a marked one translated afresh first (06 R231, R233); a write whose translation fails is dropped, and
what it belonged to ends. Then the messages that waited for them leave (R228). -/
def State.heldGo : Nat → State → Nat → State
  | 0, s, _ => s
  | k + 1, s, f =>
    match (s.fn f).held with
    | [] =>
      (if f = 0 ∨ !s.mayRequest f ∨ !s.gb PART_STATUS.HELD_WRITES (f - 1) then s else s.p PART_STATUS.HELD_WRITES (f - 1) 0).irqsGo f
    | h :: _ =>
      let put (s : State) (l : List HeldW) : State := s.setFn f { s.fn f with held := l ++ (s.fn f).held.drop 1 }
      if h.marked then
        if !s.mayRequest f then s
        else match s.hubVa (f - 1) (h.pasid.getD 0) h.va true h.who with
          | (.ok ca, s) => State.heldGo k (put s [{ h with ca := ca, marked := false }]) f
          | (.wait, s) => s
          | (.fault _, s) => State.heldGo k (put s []) f
      else match s.hubGo f h with
        | some t => State.heldGo k (put t []) f
        | none => s

/-- Host requests of transactions, and clean evictions, that could not leave yet. -/
def State.resendHomes (s : State) : State :=
  let s := s.coh.homes.foldl (fun s h => match h.host with
    | some opc => if h.hostSent ∨ h.done then s else s.hostAsk h opc (if 5 ≤ opc then h.bytes else [])
    | none => s) s
  let go := s.coh.owed.filter fun e => s.mayRequest e.1
  go.foldl (fun s e => s.evictClean e.1 e.2.1 e.2.2) { s with coh := { s.coh with owed := s.coh.owed.filter fun e => !s.mayRequest e.1 } }

/-- A partition's work goes on: requests of the translation unit, held writes, transfers, call-slip pairs, queues, queue pairs, accesses to windows. -/
def State.wake (s : State) (p : Nat) : State :=
  let s := State.prDrain 512 (s.atsResend p) p
  let s := s.heldGo (2 * (s.fn (p + 1)).held.length + 2) (p + 1)
  let s := s.pumpAll fun _ => true
  let s := (s.slotsOf p).foldl (fun s n => (s.csWake n).flushRecs n) s
  let s := (s.intakeOrder (s.slotsOf p)).foldl (fun s n => s.queueGo n) s
  (s.netWake (p + 1)).winAll

/-- The writes of every function, and the messages and acknowledgements that wait for them, go on. -/
def State.heldAll (s : State) : State :=
  (s.fns.foldl (fun s e => if e.2.held = [] ∧ e.2.irqs = [] then s else s.heldGo (2 * e.2.held.length + 2) e.1) s).acksGo

/-- Where a lending table is no longer as in `old`, what waited for its granules goes on (09 R344). -/
def State.lendWoken (s old : State) : State :=
  (List.range 8).foldl (fun u p => if s.lendOf p = old.lendOf p then u else u.wake p) s

/-- Drops and lending operations that are under way go on, and what waited for their granules (09 R346). -/
def State.lendAll (s : State) : State :=
  let t := (List.range 8).foldl (fun s p => ((s.lendOf p).filter fun e => decide (e.state = 5)).foldl (fun s e => s.dropGo p e) s) s
  let t := t.q.foldl (fun s e => match (s.queue e.1).accs with
    | d :: _ => if (s.queue e.1).lend.phase = 0 then s else s.lendGo (lendFuel (le d.bytes 0x18 4)) e.1
    | [] => s) t
  t.lendWoken s

/-- A command of a lending operation: what the operation left waiting goes on as well. -/
def State.lendRowGo (s : State) (f : State → State) : State := (State.lendWoken (f s) s).lendAll

/-- Call-slip pairs whose addresses are to be translated again go on (05 R179). -/
def State.csAll (s : State) : State :=
  s.cs.foldl (fun s e => if s.g CS_CTL.MODE e.1 = 1 ∧ (s.csOf e.1).slipLine = none then s.csWake e.1 else s) s

/-- A transaction for a host line that is under way beyond waiting, for an entry or, unsent, for the right to request. -/
def HTxn.runs (h : HTxn) : Bool := !isDev h.line && !h.parked && !h.done && h.victim.isNone && (h.host.isNone || h.hostSent)

/-- What waits at the homes when Cache_Enable is cleared: evictions leave (06 R212), reads for a copy are given up, a stash goes to the host whole, a write
merged with dirty data leaves as their eviction. -/
def State.clearHomes (s : State) : State :=
  s.coh.homes.foldl (fun s h =>
    match h.host with
    | some opc =>
      if isDev h.line ∨ h.hostSent ∨ h.done then s
      else if h.opc = 8 ∨ h.opc = 0x44 ∨ h.opc ≤ 2 then s.giveUp h opc
      else if h.opc = 7 then s.setH { h with host := some 5 }
      else if h.opc = 5 ∧ h.dirty.isSome then (s.evictDirty (s.hFn h) h.line h.bytes).endWrite h
      else s
    | none => s) s

/-- A clear of Cache_Enable that was honoured takes effect once no transaction for a host line runs: every host line is written back or dropped, what
depends on their snoops ends, and the bit reads 0 (06 R211, R212). -/
def State.clearGo (s : State) : State :=
  if !s.link.clearing ∨ s.coh.homes.any HTxn.runs then s
  else
    let s := s.clearHomes
    let s := (s.hostLines fun _ _ => true).foldl (fun s l => s.flushLine l) s
    let s := ((s.flushOwed fun _ => true).csCacheOff).netCacheOff
    let s := s.setFn 0 { s.fn 0 with cacheEn := false }
    ({ s with link := { s.link with clearing := false } } : State).settle

/-- What the end of a command lets go on: the homes, drops and lending operations, held writes, call-slip pairs, accesses to windows, a clear of
Cache_Enable. -/
def State.goOn (s : State) : State := s.settle.lendAll.heldAll.csAll.winAll.clearGo

/-! ### Translation completions (R326, R329, R330, R335, R343) -/

/-- The entry that holds the part of an ATS result around an address: the largest page size that does not exceed it, merged up to the
limit. -/
def atsEntry (fn pasid va size res pa : Nat) (r w : Bool) (epoch : Nat) : XlEnt :=
  let size := max 12 size
  let page := if 30 ≤ size then 30 else if 21 ≤ size then 21 else 12
  let m := min 4 (size - page)
  let n := 2 ^ (page + m)
  let lo := va / n * n
  { pasid := pasid, va := lo, size := page, merge := m, ca := pa / 2 ^ size * 2 ^ size % 2 ^ 52 + (lo - res / 2 ^ size * 2 ^ size), r := r, w := w,
    lent := false, epoch := epoch, fn := fn }

/-- An entry of more than 2 MiB in which the lending table has a granule is kept for the 2 MiB of the address alone: the others are looked up (R327, R344). -/
def State.narrowed (s : State) (p : Nat) (e : XlEnt) (va : Nat) : XlEnt :=
  let lo := va / 2 ^ 21 * 2 ^ 21
  if 2 ^ 21 < XlEnt.span e ∧ (s.lendOf p).any (fun g => decide (g.pasid = e.pasid) && decide (e.va / 2 ^ 21 ≤ g.vpn) && decide (g.vpn * 2 ^ 21 < e.va + XlEnt.span e))
  then { e with va := lo, size := 21, merge := 0, ca := e.ca + (lo - e.va) } else e

/-- A result fills the buffers of those who waited for it. Where a lending operation has taken the granule meanwhile, all but its own copy translate
again by the table (R344). -/
def State.fillFrom (s : State) (p : Nat) (e : XlEnt) (va : Nat) (who : List Waiter) : State :=
  let e := s.narrowed p e va
  who.foldl (fun s u =>
    if u.source ≠ 5 ∧ (s.lendFind p e.pasid va).isSome then s
    else if u.source = 0 then
      let c := s.phys u.carrel
      let x := s.carrel c
      let wg := u.carrel / 128
      let s := s.setWing wg { s.wing wg with l2 := l2Fill (s.wing wg).l2 e }
      s.setCarrel c { x with xlat := xlFill 32 x.xlat e }
    else { s with hubBuf := xlFill 4096 s.hubBuf e }) s

/-- A range withdrawn since the request was sent overlaps a result (R343). -/
def AtsReq.spoiled (q : AtsReq) (lo n : Nat) : Bool := q.stale.any fun r => decide (r.1 < lo + n) && decide (lo < r.1 + r.2)

/-- One waiting Translation Request is answered with a result of `n` bytes from `lo` that holds its page: an overtaken one is sent again (R343), while ATS Enable
is 0 it ends with `ATS_OFF` (R325). A lending
copy that asked for write access takes a page that grants read alone (R346); what answers nobody is discarded (04 R148). -/
def State.atsAnswer (s : State) (p : Nat) (q : AtsReq) (lo n : Nat) (e : XlEnt) : State :=
  let who := s.liveWho q.who
  let soft (u : Waiter) : Bool := decide (u.source = 5 ∧ u.aux = 1) && e.r
  let rest := who.filter fun u => !soft u
  if who = [] then s
  else if AtsReq.spoiled q lo n ∨ !(s.fn (p + 1)).atsEn then s.atsTry p q.pasid q.va q.w q.retry who
  else
    let s := s.fillFrom p e q.va (who.filter soft)
    if rest = [] then s
    else if (if q.w then e.w else e.r) then s.fillFrom p e q.va rest
    else if q.retry = 2 then rest.foldl (fun s u => s.xlFault p 8 q.va q.pasid q.w u) s
    else s.prAsk p q.pasid q.va q.w (q.retry + 1) rest

/-- `ATS_TRANSLATION_COMPLETION`: a translation of the `2^size` bytes around `va`; it answers every request whose page lies there. A completion
with several results is one command for each of them, the needed page's last: a result for another page of a requested 64 KiB range fills
the buffers of those who wait, and their request stays. -/
def State.atsDone (s : State) (f pasid va size pa : Nat) (r w : Bool) : State :=
  let p := f - 1
  let n := 2 ^ max 12 size
  let lo := va / n * n
  let hit (q : AtsReq) : Bool := q.sent && decide (q.pasid = pasid) && decide (q.va / n = va / n)
  let near (q : AtsReq) : Bool := q.sent && !AtsReq.spoiled q lo n && (r || w) && decide (q.pasid = pasid) && decide (q.va / 65536 = va / 65536)
  let x := s.xlOf p
  let entry (v : Nat) : XlEnt := atsEntry f pasid v size va pa r w (s.g XL_STATUS.EPOCH p)
  if f = 0 then s
  else if x.ats.any hit then
    let s := s.setXl p { x with ats := x.ats.filter fun q => !hit q }
    let s := (x.ats.filter hit).foldl (fun s q => s.atsAnswer p q lo n (entry q.va)) s
    (s.wake p).lendAll
  else if !(s.fn f).atsEn then s
  else (x.ats.filter near).foldl (fun s q => s.fillFrom p (entry va) va (s.liveWho q.who)) s

/-- `PRG_RESPONSE` (R335): 0 Success, 1 Invalid Request, any other code Response Failure. The transfers of slots that are ending give up what waits on a
page request first; for them the response is discarded (04 R148). -/
def State.prgResponse (s : State) (f prg code : Nat) : State :=
  let p := f - 1
  if f = 0 ∨ s.partCount < f then s
  else
    let s := s.pumpAll fun _ => true
    let x := s.xlOf p
    match x.prs.find? fun r => decide (r.prg = prg) with
    | none => s.raise { source := srcId 8 p 0, part := p }
    | some r =>
      let fail (s : State) (c : Nat) (r : PageReq) : State := (s.liveWho r.who).foldl (fun s u => s.xlFault p c r.va r.pasid r.w u) s
      let s := s.setXl p { x with prs := x.prs.filter fun y => decide (y.prg ≠ prg) }
      let s :=
        if code = 0 then (let who := s.liveWho r.who; if who = [] then s else s.atsTry p r.pasid r.va r.w r.retry who)
        else if code = 1 then fail s 5 r
        else
          let s := (fail s 6 r).p XL_STATUS.PRI_STOPPED p 1
          let s := s.setFn f { s.fn f with prFail := true }
          let s := if s.gb FLOG_CFG.IRQ p then s.vec f (s.g FLOG_CFG.VEC p) else s
          let q := (s.xlOf p).queued
          q.foldl (fun s r => fail s 7 r) (s.setXl p { s.xlOf p with queued := [] })
      (s.wake p).lendAll

/-- `PRI_CONTROL_RESET` (R356). -/
def State.priReset (s : State) (f : Nat) : State := if f = 0 then s else s.p XL_STATUS.PRI_STOPPED (f - 1) 0

/-! ### Invalidation (R332, R341 to R343) -/

/-- A write of an agent without a cache that waits at its home to leave is taken back: it is held again, first of its function's, to be translated afresh
(R343); data that a snoop gave it goes to the host on its own. -/
def State.unhub (s : State) (h : HTxn) (w : HeldW) : State :=
  let f := s.hFn h
  let s := (s.setFn f { s.fn f with held := { w with marked := true } :: (s.fn f).held }).heldMark f
  match h.dirty with
  | some d => (s.endH h).addWb f h.line d
  | none => s.cancelTxn h

/-- Requests of a withdrawn PASID that have not reached the host are taken back: their pieces translate again when they are tried next. -/
def State.cancelUnsent (s : State) (f : Nat) (glob : Bool) (pasid : Nat) : State :=
  s.coh.homes.foldl (fun s h =>
    if h.host.isNone ∨ h.hostSent ∨ h.done ∨ isDev h.line ∨ 7 < h.opc ∨ s.hFn h ≠ f ∨ (!glob ∧ s.homePasid h ≠ some pasid) then s
    else match h.hub with | some w => s.unhub h w | none => s.cancelTxn h) s

/-- An invalidation is accepted (R341 steps 1 to 3): the epoch rises, the translations go, held granules in the range are dropped, requests that have not
reached the host are taken back. During the function's FLR it completes at once (R343), but for the safe state, which sends no completion
(06 R241). -/
def State.invAccept (s : State) (f : Nat) (i : InvOp) : State :=
  let p := f - 1
  let s := s.withdrawAll p i.glob i.pasid i.va i.size
  let E := s.g XL_STATUS.EPOCH p
  if (s.fn f).flr then (if s.gb DEV_STATUS.SAFE then s else (s.emit (.invCpl f i.itag)).wrap XL_COUNTS.INVALS p)
  else
    let held := (s.lendOf p).filter fun g => decide (g.state = 3) && (i.glob || (decide (g.pasid = i.pasid)
      && decide (i.va < (g.vpn + 1) * 2 ^ 21) && decide (g.vpn * 2 ^ 21 < i.va + i.size)))
    let s := (held.foldl (fun s g => s.dropGranule p g) s).cancelUnsent f i.glob i.pasid
    s.setXl p { s.xlOf p with invs := (s.xlOf p).invs ++ [{ i with epoch := E }] }

/-- Invalidations that wait are accepted in order, while a tracker is free (R343) and the epoch may rise (R332). -/
def State.invGo : Nat → State → Nat → State
  | 0, s, _ => s
  | k + 1, s, f =>
    let x := s.xlOf (f - 1)
    match x.invQ with
    | [] => s
    | i :: is =>
      if x.invs.length < 32 ∧ s.epochFree (f - 1) then State.invGo k ((s.setXl (f - 1) { x with invQ := is }).invAccept f i) f else s

/-- `ATS_INVALIDATE_REQUEST`: `size` bytes from `va` under a PASID, or everything. The 33rd waits for a tracker; an epoch 32,768 steps old
that is still in use is waited for (R332). -/
def State.atsInvalidate (s : State) (f itag : Nat) (glob : Bool) (pasid va size : Nat) : State :=
  let p := f - 1
  if f = 0 ∨ s.partCount < f then s
  else
    let x := s.xlOf p
    let s := s.setXl p { x with invQ := x.invQ ++ [{ itag := itag, glob := glob, pasid := pasid, va := va, size := size }] }
    (s.invGo (x.invQ.length + 1) f).wake p

/-- `INVALIDATE_COMPLETION`: once no older request is left; those that have not reached the host are taken back, for they do not leave under the old
translation (R342, R343). -/
def State.invalDone (s : State) (f itag : Nat) : State :=
  let p := f - 1
  match (s.xlOf p).invs.find? fun i => decide (i.itag = itag) with
  | none => s
  | some i =>
    if f = 0 ∨ s.gb DEV_STATUS.SAFE then s
    else
      let s := s.cancelUnsent f i.glob i.pasid
      if s.older p i.glob i.pasid i.epoch then s
      else
        let x := s.xlOf p
        let s := ((s.setXl p { x with invs := x.invs.filter fun j => decide (j ≠ i) }).emit (.invCpl f itag)).wrap XL_COUNTS.INVALS p
        (s.invGo (x.invQ.length + 1) f).wake p

/-! ### Registers of the translation frame (R357, R358) -/

/-- `FLOG_ENABLE`: a write of `FLOG_CFG`. -/
def State.flogCfg (s : State) (p v : Nat) : State :=
  let s := ((s.p FLOG_CFG.ENABLE p (bits v 31 31)).p FLOG_CFG.IRQ p (bits v 8 8)).p FLOG_CFG.VEC p (bits v 7 0)
  if bit v 31 then (s.p FLOG_STATUS.TAIL p 0).p FLOG_HEAD.HEAD p 0 else s

/-- `FLOG_HEAD_WRITE`. -/
def State.flogHead (s : State) (p v : Nat) : State :=
  if 1024 < (s.g FLOG_STATUS.TAIL p + 2048 - v % 2048) % 2048 then s else s.p FLOG_HEAD.HEAD p (v % 2048)

/-- `PROBE_START`: a write of `XL_PROBE_PASID` begins the lookup of the granule that `XL_PROBE_VA` holds then. -/
def State.probeStart (s : State) (p v : Nat) : State :=
  let s := (s.p XL_PROBE_PASID.PASID p (v % 2 ^ 20)).p XL_PROBE_RESULT.DONE p 0
  s.setXl p { s.xlOf p with probe := some (v % 2 ^ 20, s.g XL_PROBE_VA.VPN p) }

/-- `PROBE_DONE`. -/
def State.probeDone (s : State) (p : Nat) : State :=
  match (s.xlOf p).probe with
  | none => s
  | some (pasid, vpn) =>
    let s := s.setXl p { s.xlOf p with probe := none }
    let put (a f st : Nat) (r w : Bool) : State :=
      (((((s.p XL_PROBE_RESULT.ADVICE p a).p XL_PROBE_RESULT.RD p (b2n r)).p XL_PROBE_RESULT.WR p (b2n w)).p XL_PROBE_RESULT.FRAME p f).p
        XL_PROBE_RESULT.STATE p st).p XL_PROBE_RESULT.DONE p 1
    match (s.lendOf p).find? fun e => decide (e.pasid = pasid) && decide (e.vpn = vpn) with
    | some e => put e.advice e.frame e.state e.r e.w
    | none => put 0 0 0 false false

end Sys2Proof.Machine
end

