-- ==== Sys2Proof/Machine/Reset.lean ====
section
/-!
DEFINITION. The reset kinds and what each covers (00 R11, R12; 01 R16 to R20, R26; 06 R235, R240; 07 R279, R284; 12 R443 to R445; 13 R462 to
R466).
-/
namespace Sys2Proof.Machine

/-- The reset kinds as the field tables number them (R11). -/
def kCold : Nat := 1
def kLink : Nat := 2
def kDevice : Nat := 4
def kPart : Nat := 16
def kWing : Nat := 32
def kService : Nat := 128

/-- Every field that a reset kind restores takes its reset value, in the registers that satisfy `p` (R11). -/
def State.restoreRegs (s : State) (kind : Nat) (p : RegKind → Nat → Bool) : State :=
  { s with rf := tmap regDefault (fun key v =>
      match RegKind.all[key / 65536]? with
      | some k =>
        let i := key % 65536
        if p k i then
          BitVec.ofNat 64 (k.fields.foldl (fun a f => if f.kinds &&& kind ≠ 0 then setBits a f.hi f.lo (f.resetAt i) else a) v.toNat)
        else v
      | none => v) s.rf }

/-- A register of a wing. -/
def ofWing (w : Nat) (k : RegKind) (i : Nat) : Bool := decide (k.dom = .wing ∧ i = w)

/-- A register of a partition: its own, and those of its slots and queues. -/
def State.ofPart (s : State) (p : Nat) (k : RegKind) (i : Nat) : Bool :=
  match k.dom with
  | .part => decide (i = p)
  | .slot | .queue => decide (i < 64) && s.owns p i
  | _ => false

/-! ### Wings (07 R279, R280, R284; 12 R443, R444) -/

/-- The walk of a wing's cache begins, or waits for another wing of its die (R280). -/
def State.walkStart (s : State) (w : Nat) : State :=
  let other := (List.range 4).any fun k => decide (w / 4 * 4 + k ≠ w) && decide (s.g WING_CACHE_STATUS.STATE (w / 4 * 4 + k) = 3)
  if other then s.p WING_CACHE_STATUS.STATE w 2 else ((s.p WING_CACHE_STATUS.STATE w 3).walkWing w).settle

/-- A wing's walk has ended: a wing of its die that waits begins its own (R280). -/
def State.nextWalk (s : State) (w : Nat) : State :=
  match (List.range 4).find? fun k => decide (s.g WING_CACHE_STATUS.STATE (w / 4 * 4 + k) = 2) with
  | some k => s.walkStart (w / 4 * 4 + k)
  | none => s

/-- The slots with shelves in a wing. -/
def State.slotsInWing (s : State) (w : Nat) : List Nat :=
  (List.range 64).filter fun n => (s.slot n).allot.any fun h => decide (h / 8 = w)

/-- A WING reset of wing `w` ends slot `n`; one that is in `ENDING` already counts as ended by it too (log entry 95). -/
def State.wingEnds (s : State) (w n : Nat) : State :=
  let s := s.endSlot n { status := 5 }
  let x := s.slot n
  if x.ending.isSome then s.setSlot n { x with clear := x.clear.filter (fun v => decide (v ≠ w)) ++ [w] } else s

/-- A WING reset begins (R279, R443): the wing's slots end with `HW_ERROR`, its cache is walked, its registers take their reset values. `cls`
is the class that asked for it. -/
def State.wingReset (s : State) (w cls : Nat) : State :=
  if 32 ≤ w ∨ (s.wing w).rst ≠ 0 ∨ s.g WING_STATUS.STATE w = 3 ∨ s.g WING_STATUS.STATE w = 1 then s
  else
    let s := (s.slotsInWing w).foldl (fun s n => s.wingEnds w n) s
    let st := s.g WING_CACHE_STATUS.STATE w
    let s := (s.restoreRegs kWing (ofWing w)).p WING_CACHE_STATUS.STATE w st
    let s := (s.setWing w { s.wing w with rst := cls + 1, l2 := [], reEnable := false }).p WING_STATUS.STATE w 1
    if st = 1 then s.walkStart w else if st = 4 then s.p WING_CACHE_STATUS.STATE w 0 else s

/-- A wing's cache holds nothing more to be written back, and no line is on its way to it. -/
def State.wingEmpty (s : State) (w : Nat) : Bool :=
  decide ((s.wing w).lines = []) && decide ((s.wing w).eb = [])
    && !(s.coh.txns.any fun t => decide (t.agent = w) && decide (t.opc ≤ 2) && t.who.isNone)

/-- The state of a wing in service (01 R26): `REPAIRING` while a substitution is in progress in it, else `RUNNING`. -/
def State.wingRuns (s : State) (w : Nat) : Nat := if s.flt.repairs.any fun p => decide (p / 144 = w) then 2 else 0

/-- The walk of a WING reset is over: the cache is `INVALIDATING` (R279), and another wing of the die may walk. -/
def State.wingInval (s : State) (w : Nat) : State := (s.p WING_CACHE_STATUS.STATE w 0).nextWalk w

/-- `WING_RESET_END`: once the cache has been walked empty and invalidated, the wing runs; its registers, the counters that the walk raised among them, have
their reset values (R279, R291). The slots that the reset ended leave `ENDING` with their stores in the wing restored (02 R76, 13 R463). -/
def State.wingResetEnd (s : State) (w : Nat) : State :=
  let x := s.wing w
  if x.rst = 0 then s
  else if !s.wingEmpty w then
    (if s.g WING_CACHE_STATUS.STATE w = 2 then s.walkStart w else (s.walkWing w).settle)
  else if s.g WING_CACHE_STATUS.STATE w ≠ 0 then s.wingInval w
  else
    let s := s.restoreRegs kWing (ofWing w)
    let s := s.setWing w { s.wing w with rst := 0, plru := [] }
    let s := (s.p WING_STATUS.STATE w (s.wingRuns w)).p WING_CACHE_STATUS.STATE w 1
    let s := if x.rst = 3 then { s with flt := { s.flt with cls2End := tset (fun _ => 0) s.flt.cls2End w (s.time + 1) } } else s
    (s.slotsInWing w).foldl (fun s n => if s.drained n then (s.endDrained n).queueGo n else s) s

/-- The device is degraded in its shelves: a slot's shelf is withdrawn, and its work ends with a status (01 R20). -/
def State.withdrawShelf (s : State) (h status : Nat) : State :=
  if h ∈ s.flt.withdrawn then s
  else
    let s : State := { s with flt := { s.flt with withdrawn := s.flt.withdrawn ++ [h] } }
    let s := s.p WING_STATUS.SHELVES (h / 8) (s.g WING_STATUS.SHELVES (h / 8) - 1)
    match s.slotOfShelf h with
    | none => s
    | some n =>
      let x := s.slot n
      if x.inv.isSome then (s.setSlot n { x with shelfLost := true, repair := false }).endSlot n { status := status } else s.loseShelf n

/-- An entry whose owner's die has lost a cache (R284): every copy is recalled, once the line is stable; with none in the die's other wings the line's data
are gone (R282). A write-back that the lost cache had sent is on its way to the home. -/
def State.sweepEnt (s : State) (w l : Nat) : State :=
  let held : Bool := (List.range 4).any fun k =>
    let v := w / 4 * 4 + k
    decide (v ≠ w) && (decide ((s.wline v l).st ≠ 0) || (s.ebOf v l).isSome)
  let gone (s : State) : State := if isDev l then s.loseLine l else s.raise { source := srcId 1 w 3, info0 := 64 * l }
  if (s.ebOf w l).isSome then s
  else if s.transient l then
    (if held then s else gone s).addH { opc := 0x44, src := 0x40, txn := 0, line := l, parked := true, fn := some (s.lineFn l) }
  else
    let f := s.lineFn l
    let r := s.snoopAll l 0x44 (CatEnt.holders (s.ent l))
    match r.2.1 with
    | some d => (r.2.2.putBack f l d).freeEnt l
    | none => if held then r.2.2.freeEnt l else gone r.2.2

/-- A wing's cache is lost with what it held, but for write-backs that have reached their homes (R284): the catalogue is swept by `OWNER`. -/
def State.cacheLost (s : State) (w : Nat) : State :=
  let g := s.wing w
  let s := s.setWing w { g with lines := [], plru := [], eb := g.eb.filter (·.sent) }
  let s := (g.eb.filter fun e => !e.sent).foldl (fun s e =>
    (s.unsend 0x08 w (0x40 + homeOf e.line) 0 e.line).unsend 0x09 w (0x40 + homeOf e.line) 0 e.line) s
  let s := s.p WING_CACHE_STATUS.STATE w 5
  let s := (s.coh.cat.filter fun e => e.2.owned && !e.2.lost && decide (e.2.owner = w / 4)).foldl (fun s e => s.sweepEnt w e.1) s
  (s.settle).nextWalk w

/-- A wing goes out of service (R284, R444): its shelves are withdrawn, its cache walked, or lost (`dead`). While the walk runs its `STATE` shows the walk, then
`OFF` (log entry 96). -/
def State.wingFail (s : State) (w : Nat) (dead : Bool) : State :=
  let s := (List.range 8).foldl (fun s k => s.withdrawShelf (8 * w + k) 5) s
  let s := s.setWing w { s.wing w with rst := 0, l2 := [] }
  let s := (s.p WING_STATUS.STATE w 3).p WING_STATUS.SHELVES w 0
  if dead then s.cacheLost w else if s.wingEmpty w then (s.p WING_CACHE_STATUS.STATE w 5).nextWalk w else s.walkStart w

/-- A class 2 error within 1 s after a WING reset that was taken for class 2 makes the wing fail (R444). -/
def State.cls2Again (s : State) (w : Nat) : Bool :=
  let e := tget (fun _ => 0) s.flt.cls2End w
  decide (e ≠ 0 ∧ s.time < e + 156250000)

/-! ### Carrels (R16, R463, R464) -/

/-- A CARREL reset: store, registers, tiles and translation buffer. -/
def State.carrelReset (s : State) (p : Nat) : State :=
  (s.setMem p []).setCarrel p { inReset := true, failed := (s.carrel p).failed, run := match (s.carrel p).run with | .idle => .idle | _ => .stopped }

/-! ### Partitions (06 R235) -/

/-- Slots of a partition stop: no report, transfers abandoned (R235 steps 1 and 2). -/
def State.abandonSlot (s : State) (n : Nat) : State :=
  let s := s.each (carrelsOf (s.slot n).allot) fun s c =>
    let p := s.phys c
    s.setCarrel p { s.carrel p with run := .stopped, xfers := [] }
  let s : State := { s with rels := s.rels.filter fun r => decide (r.slot ≠ n),
                            cas := { s.cas with il := s.cas.il.filter fun t => decide (t.slot ≠ n) } }
  let s := s.setSlot n { s.slot n with inv := none, ending := none, endMark := false, left := none, latch := none, imgJob := false, clear := [] }
  (s.setQueue n {}).p SLOT_STATUS.STATE n 8

/-- The completion timeout of a request in ticks (06 R236): CXL.io by the function's field, CXL.cache 64 ms. -/
def State.timeoutOf (s : State) (f : Nat) (io : Bool) : Nat :=
  if !io then 10000000 else match (s.fn f).timeout with | 1 => 7813 | 2 => 1250000 | _ => 5000000

/-- Requests of function `f` to the host stop (R235 steps 1 and 2): those that have not reached a home, or wait there unsent, are given up; reads that are
out are orphaned, and what waits for them is given up. -/
def State.fnStop (s : State) (f : Nat) : State :=
  let lone (t : Txn) : Bool := !isDev t.line && decide (s.slotFn t.slot = f) && decide (t.phase ≠ 3)
    && !(s.coh.homes.any fun h => decide (h.src = t.agent) && decide (h.txn = t.txn) && decide (h.line = t.line))
    && !(s.coh.goHeld.any fun e => decide ((t.agent, t.txn) ∈ e.2))
  let s := (s.coh.txns.filter lone).foldl (fun s t => (s.dropTxn t).unsend t.opc t.agent (0x40 + homeOf t.line) t.txn t.line) s
  let s := s.coh.homes.foldl (fun s h =>
    match h.host with
    | some opc =>
      if h.done ∨ s.hFn h ≠ f then s
      else if !h.hostSent then s.giveUp h opc
      else if opc < 5 then s.cancelTxn h
      else s
    | none => s) s
  let stays (r : HReq) : Bool := match r.owner with
    | .home l => s.coh.homes.any fun h => decide (h.line = l) && h.hostSent && !h.done
    | _ => false
  let s : State := { s with link := { s.link with reqs := s.link.reqs.map fun (r : HReq) =>
    if r.fn = f ∧ !r.orphan ∧ r.quar = none ∧ stays r = false then { r with orphan := true, quar := some (s.time + 2 * s.timeoutOf f r.io) } else r } }
  s.settle

/-- `FUNCTION_LEVEL_RESET` (R235 steps 1 and 2); invalidations of the function that are in progress complete (09 R343), accesses to its windows are refused
(10 R387). -/
def State.flrStart (s : State) (f : Nat) : State :=
  let p := f - 1
  if f = 0 ∨ s.partCount < f ∨ (s.fn f).flr ∨ (s.g DEV_STATUS.STATE ≠ 4 ∧ s.g DEV_STATUS.STATE ≠ 5) then s
  else
    let s := s.setFn f { s.fn f with flr := true, held := [], pba := 0, irqs := [] }
    -- the delivery line is written back as it stands
    let s := (s.slotsOf p).foldl (fun s n =>
      (((((s.dropSlip n true).dropDlv n true).engForget n 1).engForget n 2).setCs n {}).abandonSlot n) s
    let s := s.fnStop f
    let s := ((s.xlOf p).invs ++ (s.xlOf p).invQ).foldl (fun s i => (s.emit (.invCpl f i.itag)).wrap XL_COUNTS.INVALS p) s
    (((s.setXl p {}).p PART_STATUS.READY p 0).p PART_STATUS.HELD_WRITES p 0).winAll

/-- A function's requests for host lines are still under way. -/
def State.fnBusy (s : State) (f : Nat) : Bool :=
  (s.coh.homes.any fun h => !isDev h.line && !h.done && decide (s.hFn h = f)) || (s.coh.txns.any fun t => !isDev t.line && decide (s.slotFn t.slot = f))

/-- A transaction, a write-back or a reservation of a device line in the frames that satisfy `own` is under way. -/
def State.framesInUse (s : State) (own : Nat → Bool) : Bool :=
  let inF (l : Nat) : Bool := isDev l && own (dpaOf l / 2 ^ 21)
  (s.coh.homes.any fun h => inF h.line && !h.done) || (s.coh.txns.any fun t => inF t.line) || (s.coh.wbs.any fun x => inF x.2)

/-- The copies of device lines in the frames that satisfy `own` are gone with their data: the frames are wiped (R462). -/
def State.dropLines (s : State) (own : Nat → Bool) : State :=
  let inF (l : Nat) : Bool := isDev l && own (dpaOf l / 2 ^ 21)
  let s := (List.range 32).foldl (fun s w =>
    let g := s.wing w
    ((g.eb.filter fun e => inF e.line).foldl (fun s e => s.ebCancel w e.line) s).dropWLines w inF) s
  { s with coh := { s.coh with cat := s.coh.cat.filter fun e => !inF e.1 } }

/-- The registers and the configuration space of a partition function take their reset values (R235 step 5); its slots are `UNCONFIGURED`. A group barrier's
master hears of a slot that takes part no longer (10 R381). -/
def State.flrRegs (s : State) (f : Nat) : State :=
  let p := f - 1
  let old := (s.slotsOf p).map fun n => (n, s.takesOf n)
  let s := s.restoreRegs kPart (s.ofPart p)
  let s := s.setFn f {}
  let s := (s.p PART_STATUS.PAUSED p 1).p PART_STATUS.READY p (b2n s.inService)
  old.foldl (fun s e => s.tellTakes e.1 e.2) s

/-- `FLR_COMPLETE` (R235 steps 3 to 5, R389, R353), once none of the function's requests for host lines and of the transactions in its frames is under way. In
the safe state it completes the registers' reset alone (12 R447). Registers, tiles and translations of its carrels stay, as the PARTITION row of 13 R463 has
it; translations of lent granules go with the lending table. -/
def State.flrDone (s : State) (f : Nat) : State :=
  let p := f - 1
  if f = 0 ∨ !(s.fn f).flr then s
  else if s.gb DEV_STATUS.SAFE then s.flrRegs f
  else if s.fnBusy f ∨ s.framesInUse (fun fr => decide (s.frameOwner fr = p + 1)) then s
  else
    let r := s.part p
    let s := ((s.hostLines fun st g => decide (3 ≤ st ∧ g = f)).foldl (fun s l => if s.transient l then s else s.flushLine l) s).flushOwed
      fun g => decide (g = f)
    let s := s.wipeShelves (r.shelves.filter fun h => decide (h ∉ s.flt.withdrawn))
    let s := s.each (carrelsOf r.shelves) fun s c =>
      let q := s.phys c
      s.setCarrel q { s.carrel q with run := .idle, xfers := [] }
    let own (fr : Nat) : Bool := decide (s.frameOwner fr = p + 1)
    let s := (s.dropLines own).wipeFrames own false
    let table := 2 ^ s.g LT_PART.LOG2_B p / 32768
    let base := s.g LT_PART.BASE_FRAME p
    let stays (e : Nat × Nat) : Bool := decide (e.2 ≠ p + 1) || (decide (base ≤ e.1) && decide (e.1 < base + table))
    let s : State := { s with dmem := { s.dmem with owner := s.dmem.owner.filter stays } }
    let s := s.setLend p []
    let s := s.ddFree fun i => decide (r.ddBase ≤ i ∧ i < r.ddBase + r.ddCount)
    let s := (s.netPartReset p).purgeLent f
    let s := (s.slotsOf p).foldl (fun s n => ((s.setSlot n {}).setCs n {}).setQueue n {}) s
    ((s.setSlip p {}).setXl p {}).flrRegs f

/-! ### LINK-LOSS and DEVICE resets (06 R240, 13 R463, R465) -/

/-- A map-out that a reset meets takes effect at once (08 R315): the capacity falls, the column is out. -/
def State.mapoutReset (s : State) : State :=
  match s.dmem.mapout with
  | none => s
  | some col =>
    let d := s.dmem
    let fell := decide (s.g MEM_MAPOUT.STATE = 3)
    let s := if fell then s else (List.range 8).foldl (fun s p => (s.p MEM_PART.TOTAL p (s.g MEM_PART.TOTAL p - s.g MEM_PART.CUT p)).p MEM_PART.CUT p 0) s
    let cap := if fell then d.cap else d.cap - 1024
    let k := 384 + d.mapped
    let s := (((s.p CMAP.STATE col 2).p CMAP.VALID k 1).p CMAP.BASE_FRAME k cap).p CMAP.CHANNEL k col
    let q := s.g CMAP.CHANNEL col
    let s := (s.setCap cap)
    let d := s.dmem
    let s := ({ s with dmem := { d with mapped := d.mapped + 1, mapout := none, down := d.down.filter fun x => decide (x ≠ q) } }).tally
      fun t => { t with mapouts := t.mapouts + 1 }
    s.raise { source := srcId 4 (q / 32) (q % 32), info0 := col }

/-- Work ends without a report, caches and links lose what they hold (R465 step 2). -/
def State.endWork (s : State) : State :=
  { s with
    slots := [], rels := [], cs := [], slipFr := [], q := [], xl := [], hubBuf := [], wings := [], coh := {}, net := [],
    car := tmap carDef (fun _ x => { x with xfers := [], run := .idle }) s.car,
    cas := {}, nic := {}, fns := [], link := { s.link with up := false, intx := false, reqs := [] },
    cages := tmap (fun _ => {}) (fun _ x => { x with sent := none, held := none, out := 0x1E, powered := false }) s.cages,
    stamp := { s.stamp with latchHi := none, actAt := [], acts := [] },
    flt := { s.flt with trap := false, chip := none },
    fw := { s.fw with hdr := [], payload := [], win := [], auth := none, deskMem := [], refused := [], spoiled := false },
    led := { s.led with busyRead := false, busyCal := false } }

/-- A desk that was kept in reset is no longer: a DEVICE or COLD reset (12 R445). -/
def State.deskFree (s : State) : State := { s with flt := { s.flt with deskTimes := [], deskHeld := false } }

/-- The SRAMs of R34 wiped (R462): local stores, registers and tiles, translation buffers, wing caches and eviction buffers, the catalogue, the
reserve, the write-combining buffers, the due-date table, desk memory and the Archivist SRAM beyond the configuration shadow. -/
def State.wipeSram (s : State) : State :=
  { s with
    car := tmap carDef (fun _ x => { failed := x.failed, inReset := x.inReset }) s.car,
    store := [], dd := [], hubBuf := [], archSram := [],
    wings := tmap (fun _ => {}) (fun _ x => { x with l2 := [], lines := [], plru := [], eb := [] }) s.wings,
    coh := { s.coh with cat := [] }, fw := { s.fw with deskMem := [] },
    dmem := { s.dmem with wcb := [], res := [], resPlru := [], resUse := 0 } }

/-- The stores of R34 wiped (R462, R463): the SRAMs and the stacks, with the lending tables that lie in them. -/
def State.wipeStores (s : State) : State :=
  let s := s.wipeSram
  { s with
    lend := [],
    dmem := { s.dmem with dram := [], bad := [], lost := [], healed := [], healedF := [], bucket := [], passed := [],
                          owner := s.dmem.owner.filter fun e => (List.range 8).any fun p =>
                            decide (e.2 = p + 1) && decide (s.g LT_PART.BASE_FRAME p ≤ e.1)
                              && decide (e.1 < s.g LT_PART.BASE_FRAME p + 2 ^ s.g LT_PART.LOG2_B p / 32768) } }

/-- The wings' states while a reset covers them: `IN_RESET`, and their caches `INVALIDATING`; a failed wing stays so (R26, R289). The reserve is
`INVALIDATING` too (08 R321). -/
def State.coverWings (s : State) : State :=
  ((List.range 32).foldl (fun s w =>
    if s.g WING_STATUS.STATE w = 3 then s.p WING_CACHE_STATUS.STATE w 5 else (s.p WING_STATUS.STATE w 1).p WING_CACHE_STATUS.STATE w 0) s).p RES_STATUS.STATE 0 0

/-- Wings that no reset covers any longer run, and so does the reserve. -/
def State.uncoverWings (s : State) : State :=
  ((List.range 32).foldl (fun s w =>
    if s.g WING_STATUS.STATE w = 3 then s else (s.p WING_STATUS.STATE w (s.wingRuns w)).p WING_CACHE_STATUS.STATE w 1) s).p RES_STATUS.STATE 0 1

/-- `RESET_CAUSE` written (R479). -/
def State.resetCause (s : State) (cause src : Nat) (safe : Bool) : State :=
  ((s.p RESET_CAUSE.CAUSE 0 cause).p RESET_CAUSE.SOURCE 0 src).p RESET_CAUSE.WAS_SAFE 0 (b2n safe)



/-- Before the wipe of a start the TAP offers IDCODE and BYPASS alone (R468): another instruction gives way to IDCODE. -/
def State.tapShut (s : State) : State := if s.port.ir = 0xFF then s else { s with port := { s.port with ir := 2 } }

/-- Steps 1 and 2 of R465 with a cause; `kind` is the reset kind whose fields are restored. -/
def State.recover (s : State) (cause src kind : Nat) : State :=
  let safe := s.gb DEV_STATUS.SAFE
  let staging := s.g UPD_STATUS.STATE = 1 ∨ s.g UPD_STATUS.STATE = 2
  let s := s.mapoutReset.debugEnd.endWork
  let s := ((if kind = kDevice then s.deskFree else s).restoreRegs kind fun _ _ => true).loadSoft
  let s := (s.resetCause cause src safe).p DEV_STATUS.STATE 0 6
  let s := if staging then s.p UPD_STATUS.RESULT 0 0xE else s
  let s : State := { s with dev := { s.dev with archRun := false, deskRun := false, intakePause := false, ready := false, resetRun := true,
                                                pendSafe := none, safeN := true, wiped := false, lcStep := 0, safeRec := false } }
  s.tapShut.coverWings

/-- The cold-start sequence from step 2 of R457: the record is read afresh. -/
def State.fromRom (s : State) : State :=
  let s : State := { s with dev := { s.dev with held := false, archRun := false, deskRun := false, started := false, wiped := false, resetRun := false } }
  ((s.tapShut.p DEV_STATUS.STATE 0 1).p DEV_STATUS.ACCESSION_FAIL 0 0).p DEV_STATUS.FW_FAIL 0 0

/-- Step 4 of a life-cycle change (R471): the fuse group of the new state. -/
def State.lcProgram (s : State) : State :=
  if s.dev.lcStep ≠ 5 then s
  else
    let tgt := s.dev.lcTarget
    { s with fuses := { s.fuses with lc := tgt, debugLeft := if tgt = 4 then s.fuses.debugLeft - 1 else s.fuses.debugLeft },
             dev := { s.dev with lcStep := 6 } }

/-- Steps 5 and 6 of a life-cycle change: the Archivist SRAM is wiped and the device starts from its mask ROM. -/
def State.lcRestart (s : State) : State :=
  let s : State := { s with archSram := [], dev := { s.dev with lcStep := 0 }, fw := { s.fw with auth := none } }
  (s.p LIFECYCLE.RESULT 0 2).fromRom

/-- A LINK-LOSS or DEVICE reset as the device's state admits it (R455, R461, R466, R473, R474). `device` tells a DEVICE reset by `RESET_CTL`
or CHIP_RST from the causes of the link. A life-cycle change is abandoned before its step 4 and goes on with step 5 from there on. A DEVICE reset is
taken in every state; it is merged into one that runs, and before the maps are built it starts the mask ROM again (log entry 31). -/
def State.takeReset (s : State) (cause src : Nat) (device : Bool) : State :=
  let st := s.g DEV_STATUS.STATE
  let kind := if device then kDevice else kLink
  let n := if device then 2 else 1
  if 5 ≤ s.dev.lcStep then ((s.lcProgram.recover cause src kind).lcRestart).tallyReset n
  else if s.dev.lcStep ≠ 0 then ((s.recover cause src kind).p LIFECYCLE.RESULT 0 5).tallyReset n
  else if s.dev.held ∧ device ∧ cause = 6 then ((s.recover cause src kind).fromRom).tallyReset 2
  else if s.dev.held ∧ st = 7 then
    let t := (s.recover cause src kind).p DEV_STATUS.STATE 0 1
    ({ t with dev := { t.dev with resetRun := false } } : State).tallyReset n
  else if st = 4 ∨ st = 5 ∨ st = 7 then (s.recover cause src kind).tallyReset n
  else if s.dev.resetRun then (if device then s else { s with link := { s.link with up := false } })
  else if device ∧ st = 1 then (if s.dev.held then s else ((s.recover cause src kind).fromRom).tallyReset 2)
  else if device then (s.recover cause src kind).tallyReset 2
  else { s with link := { s.link with up := false } }

/-! ### MANAGEMENT reset (R445, R466) -/

/-- A MANAGEMENT reset: the desk restarts, the intake pauses; after four for desk faults within 600 s the desk is held, with a UC event of
class 10 whose desk core and sub-source the manual leaves open. `cause` 0 is a
request, 1 a desk fault, 2 an update's activation. -/
def State.mgmtReset (s : State) (cause : Nat) : State :=
  if !s.inService ∨ s.gb RESET_CTL.BUSY ∨ !s.dev.archRun ∨ s.flt.deskHeld then s
  else
    let times := (s.flt.deskTimes.filter fun t => decide (s.time < t + 93750000000)) ++ (if cause = 1 then [s.time] else [])
    let hold := decide (cause = 1 ∧ 4 ≤ times.length)
    let s : State := { s with flt := { s.flt with deskTimes := times, deskHeld := hold },
                              dev := { s.dev with deskRun := false, intakePause := true }, fw := { s.fw with deskMem := [], refused := [] } }
    let v := Config.freeValue s.free
    let s := if hold then ({ s with free := s.free + 1 } : State).raise { source := srcId 10 (1 + v % 8) (1 + v / 8 % 3), sev := some 1 }
      else s.p RESET_CTL.BUSY 0 1
    s.tallyReset 3

/-- `DESK_RESTART_COMPLETE`: the desk runs again, the intake goes on. -/
def State.deskRestarted (s : State) : State :=
  if !s.gb RESET_CTL.BUSY then s
  else
    let s : State := { s with dev := { s.dev with deskRun := true, intakePause := false } }
    let s := s.p RESET_CTL.BUSY 0 0
    (s.intakeOrder (List.range 65)).foldl (fun s q => if s.g Q_STATUS.STATE q = 1 then s.queueGo q else s) s

/-! ### Substitution (01 R17, R20; 12 R443) -/

/-- The lowest spare of a wing that is free: not in the map, not failed. -/
def State.freeSpare (s : State) (w : Nat) : Option Nat :=
  ((List.range 16).map (· + 128)).find? fun i =>
    !(s.carrel (w * 144 + i)).failed && (List.range 128).all fun l => decide (s.phys (w * 128 + l) ≠ w * 144 + i)

/-- The substitution of a physical carrel is owed no longer. -/
def State.dropOwed (s : State) (p : Nat) : State :=
  { s with flt := { s.flt with subst := s.flt.subst.filter (fun q => decide (q ≠ p)), repairs := s.flt.repairs.filter fun q => decide (q ≠ p) } }

/-- A wing whose last substitution is done runs again. -/
def State.repairOver (s : State) (w : Nat) : State :=
  if (s.flt.subst.any fun x => decide (x / 144 = w)) ∨ (s.slotsInWing w).any (fun n => (s.slot n).repair) ∨ s.g WING_STATUS.STATE w ≠ 2 then s
  else s.p WING_STATUS.STATE w 0

/-- No spare is free for the carrel at device place `c` (R20): its shelf is withdrawn, and the ledger keeps it as failed with no spare. -/
def State.withdrawCarrel (s : State) (p c : Nat) : State :=
  let h := shelfOf c
  let s := (s.dropOwed p).setCarrel p { s.carrel p with failed := true }
  let s := s.withdrawShelf h (if ((s.slotOfShelf h).bind fun n => (s.slot n).ending).isSome then 5 else 6)
  (s.ledger 5 (natLe 1 (p / 144) ++ natLe 1 (c % 128) ++ natLe 1 (p % 144) ++ natLe 1 0xFF)).repairOver (p / 144)

/-- The repair of a physical carrel starts (R17): its shelf is quiesced, or withdrawn where no spare is free (R20). -/
def State.repairStart (s : State) (p : Nat) : State :=
  let w := p / 144
  match s.deviceOf p with
  | none => s.dropOwed p
  | some c =>
    let h := shelfOf c
    if s.g WING_STATUS.STATE w = 3 then s.dropOwed p
    else if h ∈ s.flt.withdrawn then s.withdrawCarrel p c
    else match s.freeSpare w with
      | none => s.withdrawCarrel p c
      | some _ =>
        let s : State := { s with flt := { s.flt with repairs := s.flt.repairs.filter (fun q => decide (q ≠ p)) ++ [p] } }
        let s := if s.g WING_STATUS.STATE w = 0 then s.p WING_STATUS.STATE w 2 else s
        match s.slotOfShelf h with
        | none => s
        | some n =>
          let x := s.slot n
          let s := s.setSlot n { x with repair := true }
          if x.inv.isSome then s.endSlot n { status := 6 }
          else if s.g SLOT_STATUS.STATE n = 2 then s.p SLOT_STATUS.STATE n 7 else s

/-- `ARCHIVIST_TRAP`: with a trap pending, the Archivist starts the substitutions owed (R443). In the safe state none starts (R440). -/
def State.archTrap (s : State) : State :=
  if !s.flt.trap ∨ !s.dev.archRun ∨ s.gb DEV_STATUS.SAFE then s
  else s.flt.subst.foldl (fun s p => s.repairStart p) { s with flt := { s.flt with trap := false } }

/-- A logical place of the carrel map takes a physical index. -/
def State.mapSet (s : State) (c i : Nat) : State :=
  let k := c / 128 * 64 + c % 128 / 2
  if c % 2 = 0 then (s.p WING_CMAP.PHYS_LO k i).p WING_CMAP.SUBST_LO k 1 else (s.p WING_CMAP.PHYS_HI k i).p WING_CMAP.SUBST_HI k 1

/-- Carrels under repair in a wing that has no spare left: their shelves are withdrawn (R20). -/
def State.withdrawRest (s : State) (w : Nat) : State :=
  if (s.freeSpare w).isSome then s
  else (s.flt.repairs.filter fun p => decide (p / 144 = w)).foldl (fun s p =>
    match s.deviceOf p with | some c => s.withdrawCarrel p c | none => s.dropOwed p) s

/-- `SUBSTITUTION_COMMIT` (R17, R76): the first carrel owed in the wing whose shelf is quiesced gives its place to the lowest free spare. Where that
was the last spare, the shelves of the other carrels under repair are withdrawn (R20). -/
def State.substCommit (s : State) (w : Nat) : State :=
  let quiet (p : Nat) : Bool := match s.deviceOf p with
    | some c => (match s.slotOfShelf (shelfOf c) with | some n => decide (s.g SLOT_STATUS.STATE n = 7) | none => true)
    | none => false
  if (s.wing w).rst ≠ 0 ∨ s.flt.trap then s
  else match s.flt.subst.find? fun p => decide (p / 144 = w) && quiet p, s.freeSpare w with
    | some p, some i =>
      match s.deviceOf p with
      | none => s
      | some c =>
        let q := w * 144 + i
        let s := (s.setMem q []).setCarrel q {}
        let s := s.setCarrel p { s.carrel p with failed := true, inReset := true, run := .idle, xfers := [] }
        let s := (s.mapSet c i).wrap WING_STATUS.MAP_GEN w
        let s := s.p WING_STATUS.SPARES_FREE w (s.g WING_STATUS.SPARES_FREE w - 1)
        let s := s.dropOwed p
        let s := (s.ledger 5 (natLe 1 w ++ natLe 1 (c % 128) ++ natLe 1 (p % 144) ++ natLe 1 i)).tally fun t => { t with substs := t.substs + 1 }
        let s := match s.slotOfShelf (shelfOf c) with | some n => s.restoreImages n c | none => s
        (s.withdrawRest w).repairOver w
    | _, _ => s

/-- `REPAIR_COMPLETE`: the slot returns to `IDLE` once no carrel of its shelves is owed a substitution. -/
def State.repairDone (s : State) (n : Nat) : State :=
  let x := s.slot n
  let owed (p : Nat) : Bool := match s.deviceOf p with | some c => decide (shelfOf c ∈ x.allot) | none => false
  if s.g SLOT_STATUS.STATE n ≠ 7 ∨ s.flt.subst.any owed then s
  else
    let s := (s.setSlot n { x with repair := false }).p SLOT_STATUS.STATE n 2
    let s := (wingsOf x.allot).foldl (fun s w => s.repairOver w) s
    s.queueGo n

end Sys2Proof.Machine
end

