-- ==== Sys2Proof/Machine/Link.lean ====
section
/-!
DEFINITION. The host link (06 R199 to R204), Bus Master Enable and power states (R231 to R234), Cache_Enable (R211, R212), the port cages
(R215 to R217, 16 R544, R545) and completion timeouts (R236 to R238).
-/
namespace Sys2Proof.Machine

/-! ### Training and width (R201 to R203) -/

/-- The modules that a training uses (R201): the widest of 4, 2 and 1 that `lim` allows among those that train. -/
def modulesFor (lim good : Nat) : List Nat :=
  let ok (l : List Nat) : Bool := l.all fun m => bit good m
  if 4 ≤ lim ∧ ok [0, 1, 2, 3] then [0, 1, 2, 3]
  else if 2 ≤ lim ∧ ok [0, 1] then [0, 1]
  else if 2 ≤ lim ∧ ok [2, 3] then [2, 3]
  else ((List.range 4).find? fun m => bit good m).toList

/-- The modules in use set, and shown in `IDV_LINK`. -/
def State.setModules (s : State) (ms : List Nat) : State :=
  let s : State := { s with link := { s.link with modules := ms } }
  (s.p IDV_LINK.ACTIVE 0 (ofBits 4 fun m => decide (m ∈ ms))).p IDV_LINK.WIDTH 0 ms.length

/-- The link may train: the UCIe modules are calibrated (13 R457 step 4, R460, R465 step 4). -/
def State.mayTrain (s : State) : Bool :=
  !s.link.up && (decide (s.g DEV_STATUS.STATE ≠ 1) || s.dev.held)

/-- `LINK_TRAINING`: the modules of the mask `good` train, `repaired` lanes in all by redundant ones (log entry 67). -/
def State.linkTrain (s : State) (good repaired : Nat) : State :=
  if !s.mayTrain then s
  else
    let ms := modulesFor (if s.dev.held then 4 else s.arec.maxModules) good
    if ms = [] then { s with link := { s.link with failed := true } }
    else
      let s := (s.setModules ms).p IDV_LINK.REPAIRED 0 repaired
      { s with link := { s.link with up := true, failed := false, intx := false } }

/-- `LINK_TRAIN_RETRY`: every 10 ms after a training in which no module trained. -/
def State.linkRetry (s : State) (good repaired : Nat) : State := if s.link.failed then s.linkTrain good repaired else s

/-- A retrain counted (R203; 15 R521). -/
def State.countRetrain (s : State) : State := (s.bump IDV_LINK.RETRAINS 0).tally fun t => { t with retrains := t.retrains + 1 }

/-- An error of the link's physical layer: Receiver Error in the AER of every function, Physical Layer Error in the RAS capability, one ERR_COR (R213,
R239; log entry 21). -/
def State.linkErr (s : State) : State :=
  let s := (List.range (s.partCount + 1)).foldl (fun s f => s.setFn f { s.fn f with aerCor := setBit (s.fn f).aerCor 0 true }) s
  let r := s.link.ras
  let s : State := { s with link := { s.link with ras := r.write 0x110C (natLe 4 (setBit (r.le 0x110C 4) 6 true)) } }
  if s.link.up ∧ !s.gb DEV_STATUS.SAFE ∧ !bit (s.fn 0).aerCorMask 0 then s.emit (.errMsg 0 0) else s

/-- `LINK_RETRAIN`: nothing is lost. -/
def State.linkRetrain (s : State) : State := if s.link.up then s.countRetrain.linkErr else s

/-- `LINK_WIDTH_NARROW`: a module in use cannot be recovered; the next narrower width without it. A link of one module has none. -/
def State.linkNarrow (s : State) (m : Nat) : State :=
  let ms := s.link.modules
  if !s.link.up ∨ m ∉ ms ∨ ms.length = 1 then s
  else
    let good := ofBits 4 fun k => decide (k ∈ ms) && decide (k ≠ m)
    ((s.setModules (modulesFor (ms.length / 2) good)).countRetrain.linkErr).raise { source := srcId 5 m 1 }

/-! ### Bus Master Enable and D3hot (R231 to R234) -/

/-- A function stops requesting: its slots pause; a copy to the host holds its writes (09 R353). -/
def State.pauseFn (s : State) (f : Nat) : State :=
  if f = 0 ∨ s.partCount < f then s
  else
    let s := (s.slotsOf (f - 1)).foldl (fun s n =>
      let st := s.g SLOT_STATUS.STATE n
      if st = 3 ∨ st = 4 ∨ st = 6 then (s.setSlot n { s.slot n with left := some st }).p SLOT_STATUS.STATE n 5 else s) s
    let s := s.p PART_STATUS.PAUSED (f - 1) 1
    let copy : Bool := s.q.any fun e => match e.2.accs with
      | d :: _ => decide (s.lendPart e.1 d.bytes = f - 1) && s.copyHeld e.1 d
      | [] => false
    if (s.fn f).held = [] ∧ copy = false then s else s.heldMark f

/-- A paused slot returns to the state it left; one whose end was marked ends (04 R148). -/
def State.unpause (s : State) (n : Nat) : State :=
  if s.g SLOT_STATUS.STATE n ≠ 5 then s
  else
    let x := s.slot n
    let s := s.setSlot n { x with left := none, endMark := false }
    if x.endMark then
      let s := s.stopCarrels n
      ({ s with rels := s.rels.filter fun r => decide (r.slot ≠ n) }).p SLOT_STATUS.STATE n 6
    else s.p SLOT_STATUS.STATE n (x.left.getD 3)

/-- Pending vectors that can send now, send, behind the function's writes (R228). -/
def State.msixFlush (s : State) (f : Nat) : State :=
  (setBitsOf 256 (s.fn f).pba).foldl (fun s v =>
    if s.canSend f v then (s.setFn f { s.fn f with pba := setBit (s.fn f).pba v false }).vec f v else s) s

/-- A function may request again: its slots go on, held writes and requests leave, its work goes on, then its interrupts. -/
def State.resumeFn (s : State) (f : Nat) : State :=
  if f = 0 then ((s.heldGo (2 * (s.fn 0).held.length + 2) 0).resendHomes).goOn
  else
    let s := (s.slotsOf (f - 1)).foldl (fun s n => s.unpause n) s
    let s := s.p PART_STATUS.PAUSED (f - 1) 0
    ((((s.heldGo (2 * (s.fn f).held.length + 2) f).resendHomes).wake (f - 1)).msixFlush f).goOn

/-- Functions whose right to request has changed since `old` pause or go on. -/
def State.regate (s old : State) : State :=
  (List.range (s.partCount + 1)).foldl (fun s f =>
    if old.mayRequest f ∧ !s.mayRequest f then s.pauseFn f
    else if !old.mayRequest f ∧ s.mayRequest f then s.resumeFn f
    else s) s

/-- A function that is present. -/
def State.hasFn (s : State) (f : Nat) : Bool := decide (f ≤ s.partCount)

/-- `BUS_MASTER_ENABLE` and `BUS_MASTER_DISABLE`. -/
def State.setBme (s : State) (f : Nat) (v : Bool) : State :=
  if s.hasFn f then (s.setFn f { s.fn f with bme := v }).regate s else s

/-- `D3HOT_ENTRY` and `D0_RETURN`. -/
def State.setD3 (s : State) (f : Nat) (v : Bool) : State :=
  if s.hasFn f then (s.setFn f { s.fn f with d3 := v }).regate s else s

/-! ### Cache_Enable (R211, R212) -/

/-- `CACHE_ENABLE_CLEAR`: honoured while Bus Master Enable is 0 on every function; the bit reads 0 once every host line is written back or dropped. -/
def State.cacheClear (s : State) : State :=
  if !s.cacheEn ∨ (List.range (s.partCount + 1)).any (fun f => (s.fn f).bme) then s
  else ({ s with link := { s.link with clearing := true } } : State).clearGo

/-- `CACHE_ENABLE_SET`: a clear that is under way is over. -/
def State.cacheSet (s : State) : State := ({ s with link := { s.link with clearing := false } } : State).setFn 0 { s.fn 0 with cacheEn := true }

/-! ### Cages (R215 to R217, 16 R544, R545) -/

/-- A cage's ports go down. -/
def State.cagePortsDown (s : State) (c : Nat) : State :=
  if c < 8 then (List.range 4).foldl (fun s i => s.portDown (4 * c + i)) s else s.ploliDown (c - 8)

/-- Power is removed from a cage. -/
def State.cageOff (s : State) (c : Nat) : State :=
  s.setCage c { s.cage c with out := setBit (s.cage c).out 0 false, powered := false }

/-- `CAGE_CTL_WRITE`: the fields take their values; the write goes to the expander, or is held behind one that is on its way. -/
def State.cageCtl (s : State) (c v : Nat) : State :=
  if 12 ≤ c then s
  else
    let off := c < 8 ∧ s.arec.cages.getD c 0 = 0
    let s := if off ∧ bit v 10 then s else s.p CAGE_CTL.POWER_ON c (bits v 10 10)
    let s := if bits v 9 8 = 0 then s else s.p CAGE_CTL.ATTN_IND c (bits v 9 8)
    let s := if bits v 7 6 = 0 then s else s.p CAGE_CTL.PWR_IND c (bits v 7 6)
    let s := (((s.p CAGE_CTL.PRES_IE c (bits v 3 3)).p CAGE_CTL.BTN_IE c (bits v 2 2)).p CAGE_CTL.FAULT_IE c (bits v 1 1)).p
      CAGE_CTL.DONE_IE c (bits v 0 0)
    let w := (s.reg .CAGE_CTL c).toNat
    let x := s.cage c
    s.setCage c (if x.sent = none then { x with sent := some w } else { x with held := some w })

/-- `CAGE_CMD_DONE`: the write has reached the expander (R217). Power goes on only with a module present; the ports of a cage that is to
lose its power go down first. -/
def State.cageDone (s : State) (c : Nat) : State :=
  let x := s.cage c
  match x.sent with
  | none => s
  | some w =>
    let on := bit w 10 && x.present
    let s := if bit x.out 0 ∧ !on then (s.cagePortsDown c).cageOff c else s
    let x := s.cage c
    let s := s.setCage c { x with sent := x.held, held := none, out := b2n on + 2 * bits w 9 8 + 8 * bits w 7 6 }
    s.p CAGE_STATUS.CMD_DONE c 1

/-- One cage's inputs in a poll (R545): a fault acts first and at once, presence and the button when two polls agree. -/
def State.cageIn (s : State) (c v : Nat) : State :=
  let x := s.cage c
  let fault := !bit v 3 && (bit x.inputs 3 || bit x.out 0)
  let s := if fault then ((s.cageOff c).p CAGE_STATUS.PWR_FAULT c 1).cagePortsDown c else s
  let x := s.cage c
  let pres := !bit v 0
  let s :=
    if bit v 0 = bit x.inputs 0 ∧ pres ≠ x.present then
      let s := (s.setCage c { x with present := pres }).p CAGE_STATUS.PRES_CHANGED c 1
      if !pres ∧ bit x.out 0 then (s.cageOff c).cagePortsDown c else s
    else s
  let x := s.cage c
  let down := !bit v 1
  let s :=
    if bit v 1 = bit x.inputs 1 ∧ down ≠ x.button then
      let s := s.setCage c { x with button := down }
      if down then s.p CAGE_STATUS.BTN_PRESSED c 1 else s
    else s
  let x := s.cage c
  s.setCage c { x with inputs := v % 16, powered := bit v 2 && bit v 3 && bit x.out 0 }

/-- `CAGE_POLL`: the twelve input registers. -/
def State.cagePoll (s : State) (vs : List Nat) : State :=
  if vs.length ≠ 12 then s else (List.range 12).foldl (fun s c => s.cageIn c (vs.getD c 0)) s

/-! ### Completion timeouts (R236 to R238) -/

/-- A function's own error is counted and signalled (R224, R225). -/
def State.cplCount (s : State) (fl : Fld) (f : Nat) : State := if f = 0 then s else (s.bump fl (f - 1)).fnError (f - 1)

/-- What a read that timed out belonged to fails (R237); in the safe state nothing ends (12 R440). -/
def State.readFails (s : State) (r : HReq) : State :=
  if s.gb DEV_STATUS.SAFE then s.raise { source := srcId 5 4 2, part := if r.fn = 0 then 0xF else r.fn - 1 }
  else match r.owner with
  | .ring q => (s.ringFault q).raise { source := srcId 5 4 2, part := (s.partOf q).getD 0xF }
  | .list q =>
    let s : State := match (s.queue q).cur with
      | some b => s.accede q { bytes := b, fail := some { status := 3 } }
      | none => s.queueGo q
    s.raise { source := srcId 5 4 2, slot := q, part := (s.partOf q).getD 0xF }
  | .image q =>
    let s := s.setSlot q { s.slot q with imgJob := false }
    ((s.endDesc q { status := 3 }).queueGo q).raise { source := srcId 5 4 2, slot := q, part := (s.partOf q).getD 0xF }
  | .wqe q => (s.qpError q).raise { source := srcId 5 4 2 }
  | .rqe q => (s.setQp q { s.qpOf q with ravail := 0 }).raise { source := srcId 5 4 2 }
  | .nobody _ => s.raise { source := srcId 5 4 2, part := if r.fn = 0 then 0xF else r.fn - 1 }
  | .home l =>
    match s.coh.homes.find? fun h => decide (h.line = l) && h.hostSent with
    | none => s
    | some h =>
      let s := if h.src < 32 then s.failLine h.src l 3 ((s.txnFor h).bind (·.who)) else s
      let s := if h.slot < 64 ∧ h.src < 32 then s.endSlot h.slot { status := 3 } else s
      ((s.hostReturn h (zeros 64) true).goOn).raise
        { source := srcId 5 4 2, slot := h.slot, part := (s.partOf h.slot).getD 0xF }

/-- `COMPLETION_TIMEOUT`: the read fails and its tag is quarantined for twice the timeout. -/
def State.cplTimeout (s : State) (tag : Nat) : State :=
  match s.link.reqs.find? fun r => decide (r.tag = tag) && !r.orphan && r.quar.isNone with
  | none => s
  | some r =>
    let t := s.timeoutOf r.fn r.io
    if s.time < r.issued + t then s
    else
      let s : State := { s with link := { s.link with reqs := s.link.reqs.map fun (x : HReq) =>
        if x.tag = tag then { x with quar := some (s.time + 2 * t) } else x } }
      ((s.cplCount PART_CPL.TIMEOUTS r.fn).aer r.fn 14).readFails r

/-- `LATE_COMPLETION`: discarded and counted. -/
def State.lateCpl (s : State) (tag : Nat) : State :=
  match s.link.reqs.find? fun r => decide (r.tag = tag) && !r.orphan && r.quar.isSome with
  | none => s
  | some r => ((s.cplCount PART_CPL.LATE_CPL r.fn).aer r.fn 16).raise { source := srcId 5 4 3, part := if r.fn = 0 then 0xF else r.fn - 1 }

/-- `ORPHANED_COMPLETION` (R235 step 2): discarded and counted; its tag is free. -/
def State.orphanCpl (s : State) (f tag : Nat) : State :=
  match s.link.reqs.find? fun r => decide (r.tag = tag) && decide (r.fn = f) && r.orphan with
  | none => s
  | some _ => (s.cplCount PART_CPL.ORPHANED f).dropReq tag

/-- `TAG_QUARANTINE_END`. -/
def State.quarEnd (s : State) (tag : Nat) : State :=
  match (s.link.reqs.find? fun r => decide (r.tag = tag)).bind (·.quar) with
  | some t => if s.time < t then s else s.dropReq tag
  | none => s

/-- The data of a read goes to whom it was read for. -/
def State.hostGave (s : State) (r : HReq) (data : Bytes) : State :=
  match r.owner with
  | .ring q => if (s.queue q).stale = 0 then s.descFetch q data else s.descRefetch q data
  | .list q => s.accession q data
  | .image q => s.installRow q data
  | .wqe q => if (s.qpOf q).stale = 0 then s.wqeFetch q (data.take 64) (data.drop 64) else s.wqeRefetch q (data.take 64) (data.drop 64)
  | .rqe q => s.rqeCame q data
  | .nobody _ => s.dropReq r.tag
  | .home l =>
    let s := s.dropReq r.tag
    match s.coh.homes.find? fun h => decide (h.line = l) && h.hostSent && !h.done with
    | some h => (s.hostReturn h data false).goOn
    | none => s

/-- `HOST_READ_COMPLETION`: the data of a CXL.io read goes to whom it was read for; a discarded one is counted. One under a tag that is not out is an
Unexpected Completion in function 0's AER (R239; log entry 109). -/
def State.hostReadDone (s : State) (tag : Nat) (data : Bytes) : State :=
  match s.link.reqs.find? fun r => decide (r.tag = tag) with
  | none => s.aer 0 16
  | some r =>
    if !r.io then s
    else if r.orphan then s.orphanCpl r.fn tag
    else if r.quar.isSome then s.lateCpl tag
    else s.hostGave r data

/-- A read waits for the host's answer about a line. -/
def HReq.awaits (r : HReq) (l : Nat) : Bool := !r.io && (decide (r.owner = .home l) || decide (l ∈ r.want))

/-- One line of a read has been answered. -/
def State.lineCame (s : State) (r : HReq) (l : Nat) (data : Bytes) : HReq × State :=
  let x := { r with want := r.want.erase l, got := r.got.write (l * 64) (slice data 0 64) }
  (x, { s with link := { s.link with reqs := s.link.reqs.map fun y => if y.tag = r.tag then x else y } })

/-- `HOST_CACHE_RESPONSE`: the host's answer, under its tag, to a CXL.cache request for an address, with the data of a read (log entry 87). One for a read
that is orphaned or timed out is counted and discarded (R235, R237). -/
def State.hostCacheRsp (s : State) (tag ca : Nat) (data : Bytes) : State :=
  let l := ca / 64
  match s.link.reqs.find? fun r => decide (r.tag = tag) with
  | none => s
  | some r =>
    if !HReq.awaits r l then s
    else if r.orphan then (if 1 < r.want.length then (s.lineCame r l []).2.cplCount PART_CPL.ORPHANED r.fn else s.orphanCpl r.fn r.tag)
    else if r.quar.isSome then (s.lineCame r l []).2.lateCpl r.tag
    else if r.owner = .home l then s.hostGave r data
    else
      let t := s.lineCame r l data
      if t.1.want = [] then t.2.hostGave t.1 (t.1.parts.flatMap fun p => t.1.got.read p.1 p.2) else t.2

/-- `MSIX_PENDING_SEND`. -/
def State.msixPend (s : State) (f v : Nat) : State :=
  if 256 ≤ v ∨ !bit (s.fn f).pba v ∨ !s.canSend f v ∨ !s.ordered f then s
  else (s.setFn f { s.fn f with pba := setBit (s.fn f).pba v false }).sendVec f v

/-- An access to BAR0 of a size, alignment and place that R220 admits: 4 or 8 bytes, or up to 64 within a line in the three regions. -/
def bar0Ok (f off len : Nat) : Bool :=
  let wide := if f = 0 then decide (0x80000 ≤ off) else
    (decide (0x5040 ≤ off) && decide (off < 0x50C0)) || (decide (0x8000 ≤ off) && decide (off < 0x9000))
  decide (off % len = 0) && (decide (len = 4 ∨ len = 8) || (wide && decide (len = 1 ∨ len = 2 ∨ len = 16 ∨ len = 32 ∨ len = 64)))

/-- `BAR_ACCESS_UNSUPPORTED` (R220, R221, R239): a read completes with UR, a write is dropped and counted; AER has an Unsupported Request. The safe state completes reads of management BAR0
alone (R241). -/
def State.barBad (s : State) (f bar off len : Nat) (w : Bool) : State :=
  let x := s.fn f
  let open_ := x.mse && !x.d3
  if !s.hasFn f ∨ !s.link.up ∨ (s.gb DEV_STATUS.SAFE ∧ (f ≠ 0 ∨ bar ≠ 0)) then s
  else if !open_ then (let t := s.aer f 20; if w then t else t.emit (.cpl f 1 0))
  else if bar = 0 ∧ bar0Ok f off len then s
  else if bar = 4 ∧ f ≠ 0 ∧ w then s
  else if !w then (s.aer f 20).emit (.cpl f 1 0)
  else
    let s := if f = 0 then s.raise { source := srcId 5 4 5, info0 := off } else s.cplCount PART_ACCESS.BAD_MMIO f
    s.aer f 20

end Sys2Proof.Machine
end

