-- ==== Sys2Proof/Machine/Cfg.lean ====
section
/-!
DEFINITION. The functions' configuration space (06 R205 to R218, R239): every dword of the header and of the capability lists read and
written. The layout of the capabilities that PCI Express and CXL define is those specifications' own (log entry 20).
-/
namespace Sys2Proof.Machine

/-- An extended capability's header: identifier, version, next. -/
def extHdr (id ver next : Nat) : Nat := id + ver * 2 ^ 16 + next * 2 ^ 20

/-- A BAR's fixed bits and the mask of its writable ones, by dword offset (R206). -/
def barShape (f off : Nat) : Option (Nat × Nat) :=
  match off with
  | 0x10 => some (if f = 0 then (4, 0xFFF00000) else (4, 0xFFFF0000))
  | 0x14 => some (0, 0xFFFFFFFF)
  | 0x20 => if f = 0 then none else some (0xC, 0xFC000000)
  | 0x24 => if f = 0 then none else some (0, 0xFFFFFFFF)
  | _ => none

/-- `CAGE_STATUS` as it reads (R215). -/
def State.cageStatus (s : State) (c : Nat) : Nat :=
  (s.reg .CAGE_STATUS c).toNat + 64 * b2n (s.cage c).present + 32 * b2n (s.cage c).powered

/-- `IDV_LINK` as it reads (R214). -/
def State.idvLink (s : State) (f : Nat) : Nat :=
  if f = 0 then setBits (s.reg .IDV_LINK 0).toNat 31 28 s.arec.maxModules else 0

/-- `CSD_STATE` of a partition function (R218). -/
def State.csdState (s : State) (f : Nat) : Nat :=
  (s.part (f - 1)).slotCount * 2 ^ 16 + (s.part (f - 1)).slotFirst * 2 ^ 8 + b2n s.cacheEn

/-- A dword of a function's header (R206). -/
def State.cfgHeader (s : State) (f off : Nat) : Nat :=
  let x := s.fn f
  let id (k : Nat) : Nat := s.arec.ids.getD k 0
  match off with
  | 0x00 => id 0 + 2 ^ 16 * (if f = 0 then id 1 else id 2)
  | 0x04 => 2 * b2n x.mse + 4 * b2n x.bme + 2 ^ 8 * b2n x.serr + 2 ^ 10 * b2n x.intDis
            + 2 ^ 19 * b2n (decide (f = 0) && s.intLevel) + 2 ^ 20
  | 0x08 => 0x12000030
  | 0x0C => x.misc.le 0x0C 2 + (if f = 0 then 0x800000 else 0)
  | 0x2C => id 3 + 2 ^ 16 * id 4
  | 0x34 => 0x40
  | 0x3C => x.misc.le 0x3C 1 + (if f = 0 then 0x100 else 0)
  | _ => match barShape f off with
    | some (fixed, _) => x.bars.le off 4 + fixed
    | none => 0

/-- A dword of the capabilities below 0x100 (R207 to R209). -/
def State.cfgCaps (s : State) (f off : Nat) : Nat :=
  let x := s.fn f
  match off with
  | 0x40 => 0x00035001
  | 0x44 => 8 + (if x.d3 then 3 else 0)
  | 0x50 => 0x00020010 + (if f = 0 then 0 else 0x9000)
  | 0x54 => 0x8022 + (if f = 0 then 0 else 2 ^ 28)
  | 0x58 => x.devCtl
  | 0x74 => 0x30001
  | 0x78 => x.timeout + x.misc.le 0x78 2 / 16 * 16
  | _ =>
    if f = 0 then 0
    else match off with
      | 0x90 => 0x00FF0011 + 2 ^ 30 * b2n x.fmask + 2 ^ 31 * b2n x.msixEn
      | 0x94 => 0x8000
      | 0x98 => 0x9000
      | _ => 0

/-- A dword of the extended capabilities that both kinds of function have (R205, R214, R239). -/
def State.cfgExt (s : State) (f off : Nat) : Nat :=
  let x := s.fn f
  match off with
  | 0x100 => extHdr 1 2 0x148
  | 0x104 => x.aerUnc
  | 0x108 => x.aerUncMask
  | 0x10C => x.aerUncSev
  | 0x110 => x.aerCor
  | 0x114 => x.aerCorMask
  | 0x148 => extHdr 0xE 1 (if f = 0 then 0x200 else 0x150)
  | 0x14C => 2 ^ 8 * (if f < s.partCount then f + 1 else 0)
  | 0x300 => extHdr 0x23 1 (if f = 0 then 0x340 else 0x380)
  | 0x304 => 0x1D5C + 2 ^ 20 * 0x1C
  | 0x308 => 1
  | 0x30C => 0x00030000
  | 0x310 => s.partCount * 2 ^ 20 + (f - 1) * 2 ^ 16 + (if f = 0 then 0 else 1)
  | 0x314 => s.idvLink f
  | _ => 0

/-- A dword of function 0's own structures (R208, R210, R213, R215). -/
def State.cfgMgmt (s : State) (off : Nat) : Nat :=
  match off with
  | 0x200 => extHdr 0x23 1 0x280
  | 0x204 => 0x1E98 + 2 ^ 16 * 3 + 2 ^ 20 * 0x3C
  | 0x208 => 2 ^ 16 * 3
  | 0x20C => b2n s.cacheEn + 2
  | 0x214 => 2 ^ 16 * 0x8002
  | 0x280 => extHdr 0x23 1 0x300
  | 0x284 => 0x1E98 + 2 ^ 20 * 0x14
  | 0x288 => 8
  | 0x28C => 0x00060100
  | 0x340 => extHdr 0x23 1 0
  | 0x344 => 0x1D5C + 2 ^ 20 * 0x70
  | 0x348 => 2
  | 0x34C => s.cagePending
  | _ =>
    if 0x350 ≤ off ∧ off < 0x3B0 then
      (if off % 8 = 0 then (s.reg .CAGE_CTL ((off - 0x350) / 8)).toNat else s.cageStatus ((off - 0x350) / 8))
    else 0

/-- A dword of a partition function's own structures (R209, R218). -/
def State.cfgPart (s : State) (f off : Nat) : Nat :=
  let x := s.fn f
  match off with
  | 0x150 => extHdr 0x1B 1 0x158
  | 0x154 => 20 * 2 ^ 8 + 2 ^ 16 * b2n x.pasidEn
  | 0x158 => extHdr 0xF 1 0x160
  | 0x15C => 0x60 + 2 ^ 16 * (x.misc.le 0x15E 1 % 32) + 2 ^ 31 * b2n x.atsEn
  | 0x160 => extHdr 0x13 1 0x300
  | 0x164 => b2n x.priEn + 2 ^ 16 * b2n x.prFail + 2 ^ 24 * b2n (!x.priEn && decide ((s.xlOf (f - 1)).prs = [])) + 2 ^ 31
  | 0x168 => 512
  | 0x16C => x.prAlloc
  | 0x380 => extHdr 0x23 1 0
  | 0x384 => 0x1D5C + 2 ^ 20 * 0x14
  | 0x388 => 3
  | 0x38C => 0x50004000
  | 0x390 => s.csdState f
  | _ => 0

/-- A dword of configuration space; what no structure holds reads 0 (R209). -/
def State.cfgRead (s : State) (f off : Nat) : Nat :=
  if off < 0x40 then s.cfgHeader f off
  else if off < 0x100 then s.cfgCaps f off
  else if off < 0x150 ∨ (0x300 ≤ off ∧ off < 0x31C) then s.cfgExt f off
  else if f = 0 then s.cfgMgmt off
  else s.cfgPart f off

/-- The bits of a dword whose bytes are enabled. -/
def beMask (be : Nat) : Nat := (List.range 4).foldl (fun a i => if bit be i then a + 255 * 256 ^ i else a) 0

/-- `old` with the enabled bytes of `v`. -/
def beMerge (old be v : Nat) : Nat :=
  (List.range 4).foldl (fun a i => if bit be i then setBits a (8 * i + 7) (8 * i) (v / 256 ^ i) else a) (old % 2 ^ 32)

/-- The bits of AER's uncorrectable registers and of its correctable ones that are defined here; the others are reserved (log entry 20). -/
def aerUncBits : Nat := 0x57F030
def aerCorBits : Nat := 0x31C1

/-- A 1 written to a status bit clears it. -/
def w1c (x v : Nat) : Nat := ofBits 32 fun i => bit x i && !bit v i

/-- Function `f`'s Command register written (R206, R230 to R232). -/
def State.cfgCommand (s : State) (f v : Nat) : State :=
  let s := s.setFn f { s.fn f with mse := bit v 1, serr := bit v 8, intDis := bit v 10 }
  s.setBme f (bit v 2)

/-- Device Control written (R207); Initiate Function Level Reset acts on partition functions (R235). -/
def State.cfgDevCtl (s : State) (f v : Nat) : State :=
  let old := (s.fn f).devCtl
  -- Phantom functions and auxiliary power are not supported; a reserved size leaves its field (00 R10)
  let new := v &&& 0x79FF
  let new := if 6 ≤ bits v 7 5 then setBits new 7 5 (bits old 7 5) else new
  let new := if 6 ≤ bits v 14 12 then setBits new 14 12 (bits old 14 12) else new
  let s := s.setFn f { s.fn f with devCtl := new }
  if bit v 15 then s.flrStart f else s

/-- The MSI-X control word written (R227, R228): what the masks let go now is sent. -/
def State.cfgMsix (s : State) (f v : Nat) : State := (s.setFn f { s.fn f with fmask := bit v 30, msixEn := bit v 31 }).msixFlush f

/-- Page Request control and status written (R209, 09 R335, R356). -/
def State.cfgPri (s : State) (f w m : Nat) : State :=
  let x := s.fn f
  let s := s.setFn f { x with priEn := bit w 0, prFail := x.prFail && !bit m 16 }
  if bit m 1 then s.priReset f else s

/-- A write of a dword: `w` has the enabled bytes over what it reads, `m` the enabled bytes over 0. -/
def State.cfgPut (s : State) (f off w m be : Nat) : State :=
  let x := s.fn f
  let keep (a n : Nat) : State := s.setFn f { x with misc := x.misc.write a (natLe n (w / 256 ^ (a - off))) }
  match off with
  | 0x04 => s.cfgCommand f w
  | 0x0C => keep 0x0C 2
  | 0x3C => keep 0x3C 1
  | 0x44 => if w % 4 = 0 then s.setD3 f false else if w % 4 = 3 then s.setD3 f true else s
  | 0x58 => s.cfgDevCtl f w
  | 0x78 => s.setFn f { x with timeout := w % 16, misc := x.misc.write 0x78 (natLe 2 (w &&& 0x1000)) }
  | 0x104 => s.setFn f { x with aerUnc := w1c x.aerUnc m }
  | 0x108 => s.setFn f { x with aerUncMask := w &&& aerUncBits }
  | 0x10C => s.setFn f { x with aerUncSev := w &&& aerUncBits }
  | 0x110 => s.setFn f { x with aerCor := w1c x.aerCor m }
  | 0x114 => s.setFn f { x with aerCorMask := w &&& aerCorBits }
  | _ =>
    match barShape f off with
    | some (_, mask) => s.setFn f { x with bars := x.bars.write off (natLe 4 (w &&& mask)) }
    | none =>
      if f = 0 then
        if off = 0x20C then (if !bit be 0 then s else if bit m 0 then s.cacheSet else s.cacheClear)
        else if 0x350 ≤ off ∧ off < 0x3B0 then
          let c := (off - 0x350) / 8
          if off % 8 = 0 then s.cageCtl c w else s.setReg .CAGE_STATUS c (BitVec.ofNat 64 (w1c (s.reg .CAGE_STATUS c).toNat m))
        else s
      else match off with
        | 0x90 => s.cfgMsix f w
        | 0x154 => s.setFn f { x with pasidEn := bit w 16 }
        | 0x15C =>
          let t := s.setFn f { x with atsEn := bit w 31, misc := x.misc.write 0x15E (natLe 1 (w / 2 ^ 16 % 32)) }
          if x.atsEn && !bit w 31 then t.purgeAts f else t
        | 0x164 => s.cfgPri f w m
        | 0x16C => s.setFn f { x with prAlloc := w }
        | _ => s

/-- `CONFIGURATION_REQUEST`: an access of the dword at `off` with byte enables. A function above P, or any but function 0 of a device that is
held, answers UR (R205, 13 R460), an Unsupported Request in function 0's AER (R239; log entry 109); a function in its FLR, and every function until a LINK-LOSS or DEVICE reset is over, answers Retry
Status (R235, R240). -/
def State.cfgReq (s : State) (f off : Nat) (w : Bool) (be v : Nat) : State :=
  if !s.link.up then s
  else if s.partCount < f ∨ (s.dev.held ∧ f ≠ 0) then (s.aer 0 20).emit (.cpl f 1 0)
  else if (s.fn f).flr ∨ s.dev.resetRun then s.emit (.cpl f 2 0)
  else
    let o := off % 4096 / 4 * 4
    let old := s.cfgRead f o
    if w then (s.cfgPut f o (beMerge old be v) (beMerge 0 be v) be).emit (.cpl f 0 0)
    else s.emit (.cpl f 0 (old % 2 ^ 32))

/-- `INTERRUPT_DISABLE_WRITE` (R230): Interrupt Disable of function 0. -/
def State.setIntDis (s : State) (v : Bool) : State := s.setFn 0 { s.fn 0 with intDis := v }

end Sys2Proof.Machine
end

