-- ==== Sys2Proof/Machine/Fabric.lean ====
section
/-!
DEFINITION. The messages of the coherence fabric as each agent takes them (07 R252 to R272, R277, R278) and the control of the wing caches
(R280). A message that is delivered leaves the fabric; the homes then do what they can, and the wing's transfers go on.
-/
namespace Sys2Proof.Machine

/-- The opcodes that R252 reserves. -/
def reservedOpc (o : Nat) : Bool :=
  decide (o = 0) || (decide (0x0A ≤ o) && decide (o ≤ 0x3F)) || (decide (0x45 ≤ o) && decide (o ≤ 0x7F))
    || (decide (0x8F ≤ o) && decide (o ≤ 0xBF)) || (decide (0xC4 ≤ o) && decide (o ≤ 0xFF))

/-- A message leaves the fabric. -/
def State.taken (s : State) (m : Msg) : State := s.unsend m.opc m.src m.dst m.txn m.ca

/-- A wing's transfers go on; agents without a cache have none. -/
def State.agentGo (s : State) (a : Nat) : State := if a < 32 then s.pumpWing a else s

/-- A request arrives at the home of its line. -/
def State.reqIn (s : State) (m : Msg) : State := ((s.taken m).arrive m).goOn

/-- A write-back that a read in progress waits for is applied when it comes (R259). -/
def State.wbCame (s : State) (w l : Nat) : State :=
  match s.coh.homes.find? fun h => decide (h.line = l) && h.wbWait with
  | some h => let r := s.takeWb { h with wbWait := false } w; r.2.homeReady r.1
  | none => s

/-- A write-back or eviction arrives: the wing's unsent entry is taken into a write-back tracker; while none is free the message waits (R263). -/
def State.wbIn (s : State) (m : Msg) : State :=
  match s.ebOf m.src m.ca with
  | none => s
  | some e =>
    if 32 ≤ m.src ∨ e.sent ∨ decide (e.st = 2) ≠ decide (m.opc = 9) ∨ 32 ≤ s.wbTrackers (homeOf m.ca) then s
    else
      let s := s.taken m
      let g := s.wing m.src
      let s := s.setWing m.src { g with eb := g.eb.map fun (x : EbEnt) => if x.line = m.ca then { x with sent := true } else x }
      (({ s with coh := { s.coh with wbs := s.coh.wbs ++ [(m.src, m.ca)] } } : State).wbCame m.src m.ca).goOn

/-- The home of a line takes `WB_ACK` to the wing: the entry is free. -/
def State.wbAckIn (s : State) (m : Msg) : State :=
  let s := s.taken m
  match s.ebOf m.dst m.ca with
  | some e =>
    if e.sent ∧ m.dst < 32 then
      let s := s.ebDrop m.dst m.ca
      let s := if s.g WING_CACHE_STATUS.STATE m.dst = 3 ∨ (s.wing m.dst).rst ≠ 0 then s.walkWing m.dst else s
      (s.goOn).pumpWing m.dst
    else s
  | none => s

/-- A snoop's answer (R252, R256): to the home, and the data to the agent that is to have it. -/
def State.snoopReply (s : State) (m : Msg) (r : SnRsp) : State :=
  let home := 0x40 + homeOf m.ca
  let rsp : Msg := { opc := 0x8A, src := m.dst, dst := home, txn := m.txn, ca := m.ca }
  match r.kind with
  | 0 => s.send rsp
  | 1 => s.send { rsp with opc := 0x8B }
  | _ =>
    let toHome := decide (m.opc = 0x41 ∨ m.opc = 0x44) || decide (m.opc = 0x42 ∧ 0x40 ≤ m.dataTo)
    let dat : Msg := { opc := if toHome then 0xC2 else 0xC1, src := m.dst, dst := if toHome then home else m.dataTo, txn := m.txn, ca := m.ca,
                       dirty := r.dirty, data := r.data }
    (s.send dat).send { rsp with opc := 0x8C, st := r.st, ebWb := r.ebWb }

/-- A snoop reaches the call-slip engine, or the four wings of a die, whose bridge gives one answer (R254). -/
def State.snoopIn (s : State) (m : Msg) : State :=
  let s := s.taken m
  if m.dst = 0x21 then
    let r := s.snoopEngine m.ca m.opc
    (r.2.snoopReply m r.1).goOn
  else if 0x80 ≤ m.dst ∧ m.dst < 0x88 then
    let r := s.snoopDie (m.dst - 0x80) m.ca m.opc m.wing
    (r.2.snoopReply m r.1).goOn
  else s

/-- A grant, or data, reaches its requester. -/
def State.grantIn (s : State) (m : Msg) : State := (((s.taken m).granted m).goOn).agentGo m.dst

def State.dataIn (s : State) (m : Msg) : State := (((s.taken m).dataCame m).goOn).agentGo m.dst

/-- `CMP_W`; acknowledgements that waited for it leave (10 R371). -/
def State.writtenIn (s : State) (m : Msg) : State := ((((s.taken m).written m).goOn).agentGo m.dst).acksGo

def State.lostIn (s : State) (m : Msg) : State := (((s.taken m).lostData m).goOn).agentGo m.dst

/-- `NACK`: the request is sent again after its back-off; a prefetch is dropped (R265). -/
def State.nackIn (s : State) (m : Msg) : State :=
  let s := s.taken m
  match s.txnOf m with
  | none => s
  | some t =>
    if t.prefetch then ((s.dropTxn t).unwait t.agent t.line).agentGo t.agent
    else s.putTxn { t with nacks := t.nacks + 1, phase := 1 }

/-- A request leaves its agent again. -/
def State.resend (s : State) (t : Txn) : State :=
  let t := { t with phase := 0 }
  (s.putTxn t).send (Txn.msg t)

/-- `NACK_RES`: the request waits for `GO`, or is sent at once where that has already come (R266). -/
def State.nackResIn (s : State) (m : Msg) : State :=
  let s := s.taken m
  match s.txnOf m with
  | some t => if t.phase = 3 then s.resend t else s.putTxn { t with phase := 2 }
  | none => s

/-- `GO`: the reserved request is sent at once, or when its `NACK_RES` has come. -/
def State.goIn (s : State) (m : Msg) : State :=
  let s := s.taken m
  match s.txnOf m with
  | some t => if t.phase = 2 then s.resend t else s.putTxn { t with phase := 3 }
  | none => s

/-- `REQUEST_RESEND`: a back-off ends. -/
def State.backoffEnd (s : State) (agent txn : Nat) : State :=
  match s.coh.txns.find? fun t => decide (t.agent = agent) && decide (t.txn = txn) && decide (t.phase = 1) with
  | some t => s.resend t
  | none => s

/-- `CMP_ACK`: the transaction ends (R245). -/
def State.ackIn (s : State) (m : Msg) : State :=
  let s := s.taken m
  match s.coh.homes.find? fun h => decide (h.line = m.ca) && decide (h.src = m.src) && decide (h.txn = m.txn) && h.ack with
  | some h => (s.endH h).goOn
  | none => s

/-- Answers to snoops, at the home. -/
def State.rsIIn (s : State) (m : Msg) : State := ((s.taken m).rspNone m).goOn
def State.rsSIn (s : State) (m : Msg) : State := ((s.taken m).rspShared m).goOn
def State.rsFwdIn (s : State) (m : Msg) : State := ((s.taken m).rspFwd m).goOn
def State.datHomeIn (s : State) (m : Msg) : State := ((s.taken m).datHome m).goOn
def State.refuseIn (s : State) (m : Msg) : State := ((s.taken m).stashRefused m).goOn

/-- `DAT_STASH` at its wing: installed in M, or refused where the region is not write-back, the cache not `ENABLED` or no way free (R267). -/
def State.stashIn (s : State) (m : Msg) : State :=
  let s := s.taken m
  let w := m.dst
  let home := 0x40 + homeOf m.ca
  let refuse (s : State) : State := s.send { opc := 0x8E, src := w, dst := home, txn := m.txn, ca := m.ca }
  let f := match s.coh.homes.find? fun h => decide (h.line = m.ca) && h.stash with | some h => s.hFn h | none => 0
  let accept (s : State) (k : Nat) : State :=
    (s.wInstall w m.ca 4 k (slice m.data 0 64) f).send { opc := 0x8A, src := w, dst := home, txn := m.txn, ca := m.ca }
  if 32 ≤ w then s
  else if s.policyOf m.ca ≠ 0 ∨ s.g WING_CACHE_STATUS.STATE w ≠ 1 then refuse s
  else match s.pickWay w m.ca with
    | none => refuse s
    | some (k, none) => accept s k
    | some (k, some v) =>
      if 2 ≤ (s.wline w v).st ∧ 32 ≤ (s.wing w).eb.length then refuse s else accept (s.evictLine w v) k

/-- A message with a reserved opcode is discarded and reported by the line's home slice (R252). -/
def State.badOpcode (s : State) (agent opc ca : Nat) : State :=
  let sl := homeOf ca
  if reservedOpc opc then
    s.raise { source := srcId 3 (sl % 32) (4 + 64 * (sl / 32)), info0 := agent % 128 + opc * 2 ^ 8 + ca % 2 ^ 47 * 2 ^ 16 }
  else s

/-- A host snoop arrives (R270). -/
def State.hostSnoopIn (s : State) (kind ca : Nat) : State := (s.hostSnoop kind (ca / 64)).goOn

/-! ### Wing caches switched off and on (R280) -/

/-- `WING_CACHE_CTL` of a wing takes writes: not while a WING reset restores it (01 R23), and a failed wing's cache only walks (R284). -/
def State.cacheHeld (s : State) (w : Nat) : Bool :=
  decide (32 ≤ w) || decide ((s.wing w).rst ≠ 0) || decide (s.g WING_STATUS.STATE w = 3) || decide (s.g WING_CACHE_STATUS.STATE w = 0)
    || decide (s.g WING_CACHE_STATUS.STATE w = 5)

/-- `WING_CACHE_DISABLE`. -/
def State.cacheOff (s : State) (w : Nat) : State :=
  let st := s.g WING_CACHE_STATUS.STATE w
  if s.cacheHeld w then s
  else
    let s := s.p WING_CACHE_CTL.ENABLE w 0
    if st = 1 then s.walkStart w else s.setWing w { s.wing w with reEnable := false }

/-- `WING_CACHE_ENABLE`. -/
def State.cacheOn (s : State) (w : Nat) : State :=
  let st := s.g WING_CACHE_STATUS.STATE w
  if s.cacheHeld w then s
  else
    let s := s.p WING_CACHE_CTL.ENABLE w 1
    match st with
    | 4 => (s.p WING_CACHE_STATUS.STATE w 1).pumpWing w
    | 3 => s.setWing w { s.wing w with reEnable := true }
    | 2 => s.p WING_CACHE_STATUS.STATE w 1
    | _ => s

/-- `WING_CACHE_WALK_END`: with nothing left the walk ends, and the next wing of the die begins its own; in a WING reset the invalidation follows
(R279). -/
def State.walkEnd (s : State) (w : Nat) : State :=
  if 32 ≤ w ∨ s.g WING_CACHE_STATUS.STATE w ≠ 3 then s
  else
    let s := (s.walkWing w).settle
    if !s.wingEmpty w then s
    else if (s.wing w).rst ≠ 0 then s.wingInval w
    else
      let g := s.wing w
      let st := if s.g WING_STATUS.STATE w = 3 then 5 else if g.reEnable then 1 else 4
      let s := (s.setWing w { g with reEnable := false, plru := [] }).p WING_CACHE_STATUS.STATE w st
      (s.pumpWing w).nextWalk w

/-- A write of `WING_CACHE_CTL` (R288). -/
def State.cacheCtl (s : State) (w v : Nat) : State :=
  if s.cacheHeld w then s
  else
    let s := s.p WING_CACHE_CTL.PF_EN w (bits v 1 1)
    if bit v 0 then s.cacheOn w else s.cacheOff w

end Sys2Proof.Machine
end

