-- ==== Sys2Proof/Machine/Devmem.lean ====
section
/-!
DEFINITION. What the memory controllers do of themselves (08 R298 to R301, R308, R310, R312 to R315): read returns, flushes, the reserve's walk,
the regulators' refill, the scrubber, the map-out of a channel.
-/
namespace Sys2Proof.Machine

/-! ### Errors of a channel (R294, R298, R312, R314) -/

/-- The column that a physical channel serves. -/
def State.colOfChan (s : State) (q : Nat) : Option Nat :=
  (List.range 384).find? fun e => decide (s.g CMAP.CHANNEL e = q) && decide (s.g CMAP.STATE e ≠ 2)

/-- A further map-out in a stack is permitted (R312). -/
def State.mapoutRoom (s : State) (st : Nat) : Bool := decide (s.dmem.mapped < 24 ∧ s.outOf st < 2)

/-- A channel becomes a candidate: queued with `AUTO` = 1, only logged with 0 (R312); one that no map-out can take is `FAILING` (R314). -/
def State.candidate (s : State) (q : Nat) : State :=
  match s.colOfChan q with
  | none => s
  | some col =>
    if s.dmem.mapout = some col then s
    else if !s.mapoutRoom (q / 32) then s.p CMAP.STATE col 3
    else if !s.gb MEM_POLICY.AUTO ∨ q ∈ s.dmem.cand then s
    else { s with dmem := { s.dmem with cand := s.dmem.cand ++ [q] } }

/-- A corrected read (R294): counted, logged, and held against `CE_LIMIT` within one second (R312). -/
def State.memCe (s : State) (dpa : Nat) : State :=
  let q := s.chanOf dpa
  let s := (s.bump MC_CHAN.CE q).raise { source := srcId 4 (q / 32) (q % 32), info0 := dpa }
  let win := (s.dmem.ceWin.filter fun e => decide (s.time < e.2 + 156250000)) ++ [(q, s.time)]
  let s : State := { s with dmem := { s.dmem with ceWin := win } }
  if s.g MEM_POLICY.CE_LIMIT ≤ (win.filter fun e => decide (e.1 = q)).length then
    ({ s with dmem := { s.dmem with ceWin := win.filter fun e => decide (e.1 ≠ q) } } : State).candidate q
  else s

/-- A word is stored with a failing pattern: it reads uncorrected from now on (R298). -/
def State.markBad (s : State) (w : Nat) : State :=
  { s with dmem := { s.dmem with bad := if w ∈ s.dmem.bad then s.dmem.bad else s.dmem.bad ++ [w] } }

/-- An uncorrected word: it stays so until it is written whole (R299). -/
def State.memUc (s : State) (dpa : Nat) : State :=
  let q := s.chanOf dpa
  ((s.markBad (dpa / 8)).bump MC_CHAN.UC q).raise { source := srcId 4 (q / 32) (32 + q % 32), info0 := dpa }

/-- A channel that stops responding: every read of it is uncorrected (R314), and it is a candidate (R312). -/
def State.chanDown (s : State) (q : Nat) : State :=
  let s : State := { s with dmem := { s.dmem with down := if q ∈ s.dmem.down then s.dmem.down else s.dmem.down ++ [q] } }
  s.candidate q

/-- A transfer of partition `p` with a stack is admitted (R310): from the guaranteed bucket; or below the ceiling, while neither a transfer that holds
guaranteed tokens nor one of management waits for the stack. What waits are homes' reads and expired write-combining entries
(log entry 89). -/
def State.admits (s : State) (p st : Nat) : Bool :=
  let tokens (q : Nat) : Bool := decide (0 < tget (fun _ => (0 : Int)) s.dmem.bucket (q * 16 + st))
  let ahead (dpa q : Nat) : Bool := decide (s.stackOf dpa = st) && decide (q ≠ p) && (decide (q = 0xF) || tokens q)
  tokens p
    || (decide (tget (fun _ => 0) s.dmem.passed (p * 16 + st) < s.ceil p st * s.stepBytes st)
      && !(s.coh.homes.any fun h => h.memWait && decide ((s.resLine h.line).way = 0) && ahead (dpaOf h.line) (s.chargedTo (dpaOf h.line)))
      && !(s.dmem.wcb.any fun e => decide (e.last + 313 ≤ s.time) && ahead (dpaOf e.line) e.part))

/-- A read of a line needs the stack: neither the reserve nor a whole write-combining entry serves it (R311). -/
def State.needsStack (s : State) (l : Nat) : Bool :=
  decide ((s.resLine l).way = 0) && !(s.dmem.wcb.any fun e => decide (e.line = l) && decide (e.mask = fullMask))

/-- An uncorrected error in a line of the reserve (R307): a clean line is dropped, a corrected error; a dirty one goes to the stack with the failing
pattern. Whether the read that found it is uncorrected. -/
def State.resErr (s : State) (dpa : Nat) : Bool × State :=
  let l := 2 ^ 46 + dpa / 64
  let r := s.resLine l
  let s := s.setRes l (noRes 0)
  if r.dirty then (true, ((s.charge (s.chargedTo dpa) (s.stackOf dpa) 1).stackWrite l fullMask r.data).markBad (dpa / 8))
  else (false, s.raise { source := srcId 4 12 0, info0 := dpa })

/-- `MEMORY_READ_RETURN`: 0 good, 1 corrected, else uncorrected at the DPA. Reader 0 is a home's transaction, which the return completes once its
transfer is admitted (R310); a line at or above CAP is refused (R295). -/
def State.memBack (s : State) (dpa reader err : Nat) : State :=
  if s.dmem.cap * 2 ^ 21 ≤ dpa then s.raise { source := srcId 4 (s.chanOf dpa / 32 % 12) 96, info0 := dpa }
  else
    let l := 2 ^ 46 + dpa / 64
    match (if reader = 0 then s.coh.homes.find? fun h => decide (h.line = l) && h.memWait else none) with
    | some h =>
      if s.needsStack l && !s.admits (s.chargedTo dpa) (s.stackOf dpa) then s
      else
        let s := if err = 1 then s.memCe dpa
          else if err = 0 then s
          else if (s.resLine l).way ≠ 0 then (s.resErr dpa).2
          else s.markBad (dpa / 8)
        (s.memReturn h false).goOn
    | none =>
      if err = 0 then s
      else if err = 1 then s.memCe dpa
      else if (s.resLine l).way = 0 then s.memUc dpa
      else
        let r := s.resErr dpa
        if r.1 then r.2.memUc dpa else r.2

/-! ### Buffers, reserve, regulators, scrubber -/

/-- `WCB_FLUSH`: an entry of a controller leaves, 2 µs after its last write, once admitted (R310). The other causes act where they arise. -/
def State.wcbTimer (s : State) (ctrl line : Nat) : State :=
  match s.dmem.wcb.find? fun e => decide (e.line = line) && decide (s.stackOf (dpaOf e.line) = ctrl) with
  | some e => if s.time < e.last + 313 ∨ !s.admits e.part (s.stackOf (dpaOf e.line)) then s else s.wcbFlush e
  | none => s

/-- `RESERVE_DISABLE`. -/
def State.resOff (s : State) : State :=
  if s.g RES_STATUS.STATE = 1 then (s.p RES_CTL.ENABLE 0 0).p RES_STATUS.STATE 0 2 else s.p RES_CTL.ENABLE 0 0

/-- `RES_CTL.ENABLE` = 1: a disabled reserve, or one whose walk goes on, is enabled again. -/
def State.resOn (s : State) : State :=
  if s.g RES_STATUS.STATE = 2 ∨ s.g RES_STATUS.STATE = 3 then (s.p RES_CTL.ENABLE 0 1).p RES_STATUS.STATE 0 1 else s.p RES_CTL.ENABLE 0 1

/-- `RESERVE_WALK_END`: every line has gone, the dirty ones written back. -/
def State.resWalkEnd (s : State) : State :=
  if s.g RES_STATUS.STATE = 2 then (s.dmem.res.foldl (fun s e => s.resDrop e.1) s).p RES_STATUS.STATE 0 3 else s

/-- `REGULATOR_REFILL`: a µs ends; each bucket takes its guaranteed share, up to twice that. -/
def State.refill (s : State) : State :=
  let ps := List.range s.partCount ++ [0xF]
  let ks := ps.flatMap fun p => (List.range 14).map fun st => (p, st)
  let b := ks.foldl (fun (t : Tab Int) e =>
    let k := e.1 * 16 + e.2
    let u : Int := (s.guar e.1 e.2 * s.stepBytes e.2 : Nat)
    tset (fun _ => (0 : Int)) t k (min (tget (fun _ => (0 : Int)) t k + u) (2 * u))) s.dmem.bucket
  { s with dmem := { s.dmem with bucket := b, passed := [] } }

/-- `SCRUB_STEP`: the next granule is read: 0 good, 1 corrected, else its first word uncorrected; every word that reads uncorrected is logged. The
transfers are management's (R310, R311). A period of 0 stops the scrubber. -/
def State.scrubStep (s : State) (err : Nat) : State :=
  if s.g MEM_POLICY.SCRUB_HOURS = 0 then s
  else
    let dpa := s.dmem.scrub * 256
    let bad := (List.range 32).filter fun i => s.badWord (dpa / 8 + i) || decide (2 ≤ err ∧ i = 0)
    let s := s.charge 0xF (s.stackOf dpa) 4
    let s := bad.foldl (fun s i => s.memUc (dpa + 8 * i)) (if err = 1 then s.memCe dpa else s)
    { s with dmem := { s.dmem with scrub := (s.dmem.scrub + 1) % (s.dmem.cap * 8192) } }

/-! ### Map-out (R312 to R315) -/

/-- `MAPOUT_GO`: a write of `MEM_MAPOUT` with `GO`. -/
def State.mapoutGo (s : State) (v : Nat) : State :=
  let q := v % 512
  if 384 ≤ q then s
  else
    let s := s.p MEM_MAPOUT.CHANNEL 0 q
    let ans (s : State) (r : Nat) : State := s.p MEM_MAPOUT.RESULT 0 r
    if s.dmem.mapout ≠ none then ans s 3
    else if (s.colOfChan q).isNone then ans s 2
    else if !s.mapoutRoom (q / 32) then ans s 1
    else ans { s with dmem := { s.dmem with cand := if (q + 512) ∈ s.dmem.cand then s.dmem.cand else s.dmem.cand ++ [q + 512] } } 0

/-- Frames of no share: not the network frame. -/
def State.spareFrames (s : State) : Nat := s.dmem.cap - 1 - (List.range 8).foldl (fun a p => a + s.g MEM_PART.TOTAL p) 0

/-- Each share's part of a cut of 1,024 frames (R313 step 2). -/
def State.cuts (s : State) : List Nat :=
  let rest := 1024 - min 1024 s.spareFrames
  let tot := (List.range 8).foldl (fun a p => a + s.g MEM_PART.TOTAL p) 0
  let base := (List.range 8).map fun p => if tot = 0 then 0 else rest * s.g MEM_PART.TOTAL p / tot
  let ovr := rest - base.foldl (· + ·) 0
  let ps := max 1 s.partCount
  (List.range 8).map fun p => base.getD p 0 + (if p < ps then ovr / ps + (if p < ovr % ps then 1 else 0) else 0)

/-- Every partition has free frames for its cut. -/
def State.cutFits (s : State) : Bool :=
  (List.range 8).all fun p => decide (s.framesUsed p + s.g MEM_PART.CUT p ≤ s.g MEM_PART.TOTAL p)

/-- `MAPOUT_START`: the next candidate that may go is taken (steps 1 and 2). While a share has no room, management's ERROR interrupt is pending. -/
def State.mapoutStart (s : State) : State :=
  match s.dmem.cand with
  | [] => s
  | c :: rest =>
    if s.dmem.mapout ≠ none ∨ !s.dev.archRun ∨ s.gb DEV_STATUS.SAFE then s
    else
      let q := c % 512
      let s : State := { s with dmem := { s.dmem with cand := rest } }
      match s.colOfChan q with
      | none => s
      | some col =>
        if !s.mapoutRoom (q / 32) then (if c < 512 then s.p CMAP.STATE col 3 else s)
        else
          let s := (s.p CMAP.STATE col 1).ledger 6 (natLe 2 col ++ natLe 2 q ++ natLe 4 (s.dmem.cap - 1024))
          let s : State := { s with dmem := { s.dmem with mapout := some col } }
          let cs := s.cuts
          let s := (List.range 8).foldl (fun s p => s.p MEM_PART.CUT p (cs.getD p 0)) (s.p MEM_MAPOUT.PROGRESS 0 0)
          if s.cutFits then s.p MEM_MAPOUT.STATE 0 2
          else
            let k := 8 + q / 32
            (s.p MEM_MAPOUT.STATE 0 1).setCol k { s.col k with intPend := (s.col k).intPend ||| 1 }

/-- `MAPOUT_ROOM_READY`. -/
def State.mapoutRoomReady (s : State) : State := if s.g MEM_MAPOUT.STATE = 1 ∧ s.cutFits then s.p MEM_MAPOUT.STATE 0 2 else s

/-- A frame's bytes and failing words move to another frame of the same owner, and what names the frame follows. The failing words are logged; the words of
its lost lines fail from now on (R298, R299, 07 R283; log entry 112). -/
def State.moveFrame (s : State) (f g : Nat) : State :=
  let s := (s.recallFrame f true).lostToBad f
  let s := (s.dmem.res.filter fun e => inFrame f e.1).foldl (fun s e => s.resDrop e.1) s
  let s := s.wcbFence fun e => inFrame f e.line
  let s := s.readUcs (s.frameBadWords f)
  let s : State := match s.frameOwner f with
    | 0 => s
    | p + 1 => match (s.lendOf p).find? fun (e : LendEnt) => decide (e.frame = f) with
      | some e =>
        (s.withdrawAll p false e.pasid (e.vpn * 2 ^ 21) (2 ^ 21)).lendSet p { e with frame := g }
      | none => s
  let lo := f * 2 ^ 21
  let mv (a : Nat) : Nat := if lo ≤ a ∧ a < lo + 2 ^ 21 then a - lo + g * 2 ^ 21 else a
  let d := s.dmem
  let inF (a : Nat) : Bool := decide (lo ≤ a) && decide (a < lo + 2 ^ 21)
  let here : Memory := d.dram.filter fun (c : Host.Cell) => inF c.1
  let rest : Memory := d.dram.filter fun (c : Host.Cell) => !inF c.1
  let dram : Memory := here.foldl (fun (m : Memory) (c : Host.Cell) => Memory.write m (mv c.1) [c.2]) (Memory.zero rest (g * 2 ^ 21) (2 ^ 21))
  let bad := d.bad ++ (s.frameBadWords f).filter fun w => !decide (w ∈ d.bad)
  let s : State := { s with dmem := { d with dram := dram, bad := (bad.filter fun w => !decide (w * 8 / 2 ^ 21 = g)).map fun w => mv (8 * w) / 8,
                                             healedF := if d.lost = [] then d.healedF else d.healedF ++ [g] } }
  let o := s.frameOwner f
  let s := (((s.chargeFrame 0xF f).chargeFrame 0xF g).setOwner f 0).setOwner g o
  { s with slots := tmap (fun _ => {}) (fun _ x => { x with folios := x.folios.map fun y => if y.frame = f then { y with frame := g } else y }) s.slots }

/-- A line of a range of frames is in a transaction, in a message, or in a request that waits. -/
def State.framesBusy (s : State) (lo hi : Nat) : Bool :=
  let in_ (l : Nat) : Bool := decide (frameLine lo ≤ l) && decide (l < frameLine hi)
  (s.coh.homes.any fun h => in_ h.line) || (s.coh.txns.any fun t => in_ t.line) || (s.net.any fun m => in_ m.ca)
    || (s.coh.wbs.any fun e => in_ e.2) || (s.coh.hsnp.any fun e => in_ e.2)

/-- `MAPOUT_CLEARING_DONE` (steps 3 and 4): the used frames of the top 1,024 move down, and the capacity falls. An access on its way to one
of them is waited for, and so is a request whose epoch the withdrawals would reach (09 R332). -/
def State.mapoutCleared (s : State) : State :=
  let top := s.dmem.cap - 1024
  let used := (s.dmem.owner.filter fun e => decide (top ≤ e.1)).map (·.1)
  let ours (p : Nat) : Nat := (used.filter fun f => decide (s.frameOwner f = p + 1)).length
  if s.g MEM_MAPOUT.STATE ≠ 2 ∨ s.framesBusy top s.dmem.cap ∨ (List.range 8).any (fun p => decide (ours p ≠ 0) && !s.epochFree p (ours p)) then s
  else
    let s := used.foldl (fun s f =>
      match (List.range (s.dmem.owner.length + 2)).find? fun g => decide (0 < g) && decide (g < top) && decide (s.frameOwner g = 0) with
      | some g => s.moveFrame f g
      | none => s) s
    let s := (List.range 8).foldl (fun s p => (s.p MEM_PART.TOTAL p (s.g MEM_PART.TOTAL p - s.g MEM_PART.CUT p)).p MEM_PART.CUT p 0) s
    let s := s.setCap top
    s.p MEM_MAPOUT.STATE 0 3

/-- `MAPOUT_EVACUATION_DONE` (steps 5 and 6): what the buffers hold of the frames is flushed before their copy (R303), whose reads are charged to
management (R311). The words of a channel that does not respond are lost (R315). -/
def State.mapoutDone (s : State) : State :=
  match s.dmem.mapout with
  | some col =>
    if s.g MEM_MAPOUT.STATE ≠ 3 then s
    else
      let q := s.g CMAP.CHANNEL col
      let s := (s.wcbFence fun _ => true).charge 0xF (q / 32) (4 * (s.dmem.cap * 8192 / 384))
      let dead := decide (q ∈ s.dmem.down)
      let k := 384 + s.dmem.mapped
      let s := (((s.p CMAP.STATE col 2).p CMAP.VALID k 1).p CMAP.BASE_FRAME k s.dmem.cap).p CMAP.CHANNEL k col
      let d := s.dmem
      let s : State := { s with dmem := { d with mapout := none, mapped := d.mapped + 1, down := d.down.filter fun x => decide (x ≠ q),
                                                 lost := if dead then d.lost ++ [col] else d.lost } }
      let s := ((s.p MEM_MAPOUT.STATE 0 0).p MEM_MAPOUT.PROGRESS 0 s.dmem.cap).tally fun t => { t with mapouts := t.mapouts + 1 }
      s.raise { source := srcId 4 (q / 32) (q % 32), info0 := col }
  | none => s

end Sys2Proof.Machine
end

