-- ==== Sys2Proof/Machine/Firmware.lean ====
section
/-!
DEFINITION. Firmware images and their slots, staging, trial and fall-back (15 R506 to R518), the ledger's commands (R523, R525, R530).
-/
namespace Sys2Proof.Machine

/-! ### Slots (R507 to R514) -/

def State.fwSlot (s : State) (k : Nat) : FwSlot := tget (fun _ => {}) s.fw.slots k

def State.setFwSlot (s : State) (k : Nat) (x : FwSlot) : State := { s with fw := { s.fw with slots := tset (fun _ => {}) s.fw.slots k x } }

/-- The payload of the image in a slot, as it is stored. -/
def State.slotPayload (s : State) (k : Nat) : Bytes := s.nvm.read (slotBase k + 0x2000) (le (s.slotHdr k) 0x28 4)

/-- The image in a slot verifies as one of its part (R506, R510, 13 R457): header, key, signature, digest, tag. -/
def State.imgVerifies (s : State) (k : Nat) : Bool :=
  let h := s.slotHdr k
  let p := s.slotPayload k
  decide (le h 0x1FFC 4 = crc32c (h.take 0x1FFC)) && decide (le h 0 4 = 0x5746484D) && decide (le h 5 1 = 1)
    && decide (le h 6 1 = (if k < 2 then 1 else 2)) && decide (le h 7 1 = 1) && decide (Config.sha384 (slice h 0x100 1952) = Config.romDigest)
    && Config.mldsaVerify (slice h 0x100 1952) (slice h 0x8A0 3309) (h.take 0x8A0)
    && decide (le h 0x28 4 ≤ (if k < 2 then 524288 else 25165824)) && decide (Config.sha384 p = le h 0x50 48)
    && (Config.aesGcmOpen Config.fwKey (slice h 0x30 12) [] p (slice h 0x40 16)).isSome

/-- A value that the manual leaves open. -/
def State.freeVal (s : State) : Nat × State := (Config.freeValue s.free, { s with free := s.free + 1 })

/-- A result is posted, with its ledger record (R511, R514, R522). -/
def State.post (s : State) (kind result slotState version : Nat) : State :=
  ((s.p UPD_STATUS.RESULT 0 result).p UPD_STATUS.POSTED 0 1).ledger 8 (natLe 1 kind ++ natLe 1 result ++ natLe 1 slotState ++ zeros 1 ++ natLe 4 version)

/-- A trial fails (R514): the slot is `FAILED` and a result is posted, whose code the manual does not give. -/
def State.trialFail (s : State) (k : Nat) : State :=
  let s := s.setFwSlot k { state := 5 }
  let s : State := { s with fw := { s.fw with trial := if s.fw.trial = some k then none else s.fw.trial } }
  let r := s.freeVal
  r.2.post (if k < 2 then 1 else 2) (r.1 % 256) 5 (le (s.slotHdr k) 8 4)

/-- The slot from which a part starts (R513, R514): `a` is its first slot. A trial that has been booted fails; a pending image starts on trial;
otherwise the active slot, or else the valid one. -/
def State.bootPart (s : State) (a : Nat) : Option Nat × State :=
  let ks := [a, a + 1]
  let s := match ks.find? fun k => decide ((s.fwSlot k).state = 4) && (s.fwSlot k).booted with
    | some k => s.trialFail k
    | none => s
  let start (s : State) : Option Nat × State :=
    match ks.find? fun k => decide ((s.fwSlot k).state = 2) && s.imgVerifies k with
    | some k => (some k, s)
    | none => (ks.find? fun k => decide ((s.fwSlot k).state = 1) && s.imgVerifies k, s)
  match ks.find? fun k => decide ((s.fwSlot k).state = 3 ∨ (s.fwSlot k).state = 4) with
  | some k =>
    if s.imgVerifies k then
      let s := s.setFwSlot k { state := 4, booted := true }
      (some k, { s with fw := { s.fw with trial := some k, trialEnd := s.time + s.g UPD_CFG.CONFIRM_S * 156250000 } })
    else start (s.trialFail k)
  | none => start s

/-- The desk starts from a slot (R506): its resident part is in desk memory, its library's digests are kept. -/
def State.deskStartFrom (s : State) (k : Nat) : State :=
  let h := s.slotHdr k
  let res := le h 0x2C 4
  let p := s.slotPayload k
  let iv := slice h 0x30 12
  let digs := (List.range ((p.length - res + 65535) / 65536)).map fun i =>
    Config.sha384 (Config.ctrOpen Config.fwKey iv (res + 65536 * i) ((p.drop (res + 65536 * i)).take 65536))
  { s with fw := { s.fw with desk := some k, libDig := digs,
                             deskMem := Memory.write [] 0 (Config.ctrOpen Config.fwKey iv 0 (p.take res)) } }

/-- `LIBRARY_BLOCK_REQUEST` (R506): the block goes to the address in desk memory that the desk names, or is refused. -/
def State.libRequest (s : State) (block addr : Nat) : State :=
  match s.fw.desk with
  | none => s
  | some k =>
    if !s.dev.deskRun ∨ !s.dev.archRun then s
    else
      let h := s.slotHdr k
      let o := le h 0x2C 4 + 65536 * block
      let d := Config.ctrOpen Config.fwKey (slice h 0x30 12) o (((s.slotPayload k).drop o).take 65536)
      if s.fw.libDig[block]? = some (Config.sha384 d) then
        if addr + d.length ≤ 2 ^ 24 then { s with fw := { s.fw with deskMem := s.fw.deskMem.write addr d } } else s
      else ({ s with fw := { s.fw with refused := s.fw.refused ++ [block] } }).raise { source := srcId 11 3 1, sev := some 1 }

/-! ### Staging (R509 to R512) -/

/-- The life-cycle changes that R469 permits, with who may authorise them: bit 0 Selken, bit 1 the integrator. -/
def lcSigners (a b : Nat) : Nat :=
  match a, b with
  | 1, 2 => 1 | 2, 3 => 2 | 3, 4 => 2 | 4, 3 => 2 | 3, 5 => 2 | 4, 5 => 2
  | 15, _ => 0
  | _, 15 => 3
  | _, _ => 0

/-- Kind and signer as R510 pairs them; the reserved bytes are 0. -/
def kindOk (h : Bytes) : Bool :=
  let kind := le h 6 1
  let sg := le h 7 1
  let pair := match kind with
    | 1 => decide (sg = 1) | 2 => decide (sg = 1) | 3 => decide (sg = 2)
    | 4 =>
      let who := lcSigners (le h 0x90 1) (le h 0x91 1)
      if who = 0 then decide (sg = 1 ∨ sg = 2) else decide (1 ≤ sg ∧ sg ≤ 2) && bit who (sg - 1)
    | _ => false
  pair && decide (le h 0x3C 4 = 0) && (slice h 0xC2 62).all (fun x => decide (x = 0)) && (slice h 0x158D 2671).all (fun x => decide (x = 0))

/-- A version lies in a range. -/
def inRange (v lo hi : Nat) : Bool := decide (lo ≤ v) && decide (v ≤ hi)

/-- Two formats differ by at most one. -/
def near (a b : Nat) : Bool := decide (a ≤ b + 1) && decide (b ≤ a + 1)

/-- Check 0x08 (R512). -/
def State.compatOk (s : State) (h : Bytes) : Bool :=
  let v := le h 8 4
  let blockOk := inRange 0x30000 (le h 0x10 4) (le h 0x14 4)
  let arch := (s.fw.arch.map s.slotHdr)
  let desk := if s.dev.deskRun then s.fw.desk.map s.slotHdr else none
  let other := match le h 6 1 with
    | 1 => (match desk with | some d => inRange (le d 8 4) (le h 0x20 4) (le h 0x24 4) && inRange v (le d 0x18 4) (le d 0x1C 4) | none => true)
           && (match arch with | some a => near (le h 0xE 1) (le a 0xE 1) && near (le h 0xF 1) (le a 0xF 1) | none => true)
    | 2 => (match arch with | some a => inRange (le a 8 4) (le h 0x18 4) (le h 0x1C 4) && inRange v (le a 0x20 4) (le a 0x24 4) | none => true)
           && (match desk with | some d => near (le h 0xE 1) (le d 0xE 1) | none => true)
    | 4 => decide (le h 0x80 16 = s.fuses.uid) && decide (le h 0x90 1 = s.dev.lifecycle)
    | _ => true
  blockOk && other

/-- A staging or a trial, a life-cycle change or a map-out is in progress (check 0x0A). -/
def State.updBusy (s : State) : Bool :=
  ((List.range 4).any fun k => decide ((s.fwSlot k).state = 3 ∨ (s.fwSlot k).state = 4)) || decide (s.dev.lcStep ≠ 0) || s.dmem.mapout.isSome
    || !decide (s.g DEV_STATUS.STATE = 4 ∨ s.g DEV_STATUS.STATE = 5)

/-- The first header check that fails, 0x02 to 0x0A (R512); 1 when none does. -/
def State.hdrCheck (s : State) (h : Bytes) : Nat :=
  let kind := le h 6 1
  let key := Config.sha384 (slice h 0x100 1952)
  let keyOk := if le h 7 1 = 1 then decide (key = Config.romDigest) else decide (s.fuses.digest ≠ 0 ∧ s.dev.lifecycle ≠ 1 ∧ key = s.fuses.digest)
  let limit := match kind with | 1 => 524288 | 2 => 25165824 | 3 => 57344 | _ => 0
  if le h 0x1FFC 4 ≠ crc32c (h.take 0x1FFC) then 2
  else if le h 0 4 ≠ 0x5746484D ∨ le h 5 1 ≠ 1 then 3
  else if !kindOk h then 4
  else if !keyOk then 5
  else if !Config.mldsaVerify (slice h 0x100 1952) (slice h 0x8A0 3309) (h.take 0x8A0) then 6
  else if kind ≤ 2 ∧ le h 0xC 1 < s.fuses.svn then 7
  else if !s.compatOk h then 8
  else if limit < le h 0x28 4 ∨ (kind = 2 ∧ 12582912 < le h 0x2C 4) then 9
  else if s.updBusy then 0xA
  else 1

/-- A check fails: the result is posted and the staging is `IDLE`. -/
def State.updFail (s : State) (code : Nat) : State :=
  let s := ((s.p UPD_STATUS.STATE 0 0).p UPD_STATUS.RESULT 0 code).p UPD_STATUS.POSTED 0 1
  { s with fw := { s.fw with payload := [], spoiled := false } }

/-- `UPD_BEGIN`: ignored while a staging is under way (R518). -/
def State.updBegin (s : State) : State :=
  if s.g UPD_STATUS.STATE ≠ 0 ∨ !s.dev.archRun then s
  else
    let h := s.fw.win.read 0 0x2000
    let s : State := { s with fw := { s.fw with hdr := h, payload := [], spoiled := false, auth := none } }
    let s := (s.p UPD_STATUS.STAGED 0 0).p UPD_STATUS.DETAIL 0 0
    let c := s.hdrCheck h
    if c ≠ 1 then s.updFail c
    else
      let s := s.p UPD_STATUS.STATE 0 1
      if le h 6 1 = 4 then { s with fw := { s.fw with auth := some h } } else s

/-- The slot into which an image is staged: the one of its part that does not run. -/
def State.stageSlot (s : State) (kind : Nat) : Nat :=
  if kind = 1 then (match s.fw.arch with | some 0 => 1 | _ => 0)
  else (match s.fw.desk with | some 2 => 3 | some _ => 2 | none => if (s.fwSlot 2).state = 2 then 3 else 2)

/-- `UPD_CHUNK`. -/
def State.updChunk (s : State) : State :=
  let h := s.fw.hdr
  let kind := le h 6 1
  let n := s.g UPD_LEN.BYTES
  if s.g UPD_STATUS.STATE ≠ 1 ∨ kind = 4 ∨ !s.dev.archRun then s
  else if n = 0 ∨ 524288 < n ∨ le h 0x28 4 < s.fw.payload.length + n then s.updFail 9
  else
    let d := s.fw.win.read 0 n
    let o := s.fw.payload.length
    let s : State := { s with fw := { s.fw with payload := s.fw.payload ++ d },
                              nvm := if kind = 3 then s.nvm else s.nvm.write (slotBase (s.stageSlot kind) + 0x2000 + o) d }
    (s.p UPD_STATUS.STAGED 0 (o + n)).p UPD_STATUS.STATE 0 2

/-- `UPD_CHUNK_WRITTEN`. -/
def State.updChunkDone (s : State) : State := if s.g UPD_STATUS.STATE = 2 then s.p UPD_STATUS.STATE 0 1 else s

/-- `UPD_FINISH`: checks 0x0B and 0x0C; then the slot is `PENDING`, or the two copies are written (R497, R511). -/
def State.updFinish (s : State) : State :=
  let h := s.fw.hdr
  let kind := le h 6 1
  let p := s.fw.payload
  let v := le h 8 4
  if s.g UPD_STATUS.STATE ≠ 1 ∨ kind = 4 ∨ !s.dev.archRun then s
  else if s.fw.spoiled ∨ Config.sha384 p ≠ le h 0x50 48 then s.updFail 0xB
  else if kind = 3 then
    match copyCheck (slice p) s.fuses.digest with
    | some f => (s.updFail 0xC).p UPD_STATUS.DETAIL 0 f.code
    | none => (({ s with nvm := (s.nvm.write 0x10000 p).write 0 p }).p UPD_STATUS.STATE 0 3).post 3 1 0 v
  else if (Config.aesGcmOpen Config.fwKey (slice h 0x30 12) [] p (slice h 0x40 16)).isNone then s.updFail 0xC
  else
    let k := s.stageSlot kind
    let s : State := { s with nvm := s.nvm.write (slotBase k) h }
    ((s.setFwSlot k { state := 3 }).p UPD_STATUS.STATE 0 3).post kind 1 3 v

/-- `UPD_ACTIVATE`: a pending desk image is started by a MANAGEMENT reset (R513). -/
def State.updActivate (s : State) : State :=
  if (s.fwSlot 2).state = 3 ∨ (s.fwSlot 3).state = 3 then s.mgmtReset 2 else s

/-- `UPD_ABORT`. -/
def State.updAbort (s : State) : State :=
  let st := s.g UPD_STATUS.STATE
  if st = 1 ∨ st = 2 then ({ s with fw := { s.fw with auth := none } }).updFail 0xE
  else s.p UPD_STATUS.STATE 0 0

/-- A write of `UPD_CTL` (R528). -/
def State.updCtl (s : State) (v : Nat) : State :=
  match v % 16 with
  | 1 => s.updBegin
  | 2 => s.updChunk
  | 3 => s.updFinish
  | 4 => s.updActivate
  | 5 => s.updAbort
  | _ => s

/-! ### Trial (R514, R515) -/

/-- The security version rises to the lower of the two parts' once both run confirmed images (R515). -/
def State.svnRise (s : State) : State :=
  match s.fw.arch, s.fw.desk with
  | some a, some d =>
    if (s.fwSlot a).state = 2 ∧ (s.fwSlot d).state = 2 ∧ s.dev.deskRun then
      { s with fuses := { s.fuses with svn := min 64 (max s.fuses.svn (min (le (s.slotHdr a) 0xC 1) (le (s.slotHdr d) 0xC 1))) } }
    else s
  | _, _ => s

/-- `TRIAL_CONFIRM`: within the window. -/
def State.trialConfirm (s : State) : State :=
  match s.fw.trial with
  | none => s
  | some k =>
    if s.fw.trialEnd ≤ s.time ∨ !s.dev.archRun ∨ (2 ≤ k ∧ !s.dev.deskRun) then s
    else
      let o := if k % 2 = 0 then k + 1 else k - 1
      let s := s.setFwSlot k { state := 2 }
      let s := if (s.fwSlot o).state = 2 then s.setFwSlot o { state := 1 } else s
      let s : State := { s with fw := { s.fw with trial := none } }
      let s := (s.tally fun t => { t with updates := t.updates + 1 }).svnRise
      s.post (if k < 2 then 1 else 2) 1 2 (le (s.slotHdr k) 8 4)

/-- `TRIAL_TIMEOUT`: the desk falls back at once, the Archivist at its next reset. -/
def State.trialTimeout (s : State) : State :=
  match s.fw.trial with
  | none => s
  | some k =>
    if s.time < s.fw.trialEnd ∨ !s.dev.archRun then s
    else
      let s := s.trialFail k
      if k < 2 then s else s.mgmtReset 2

/-- `DESK_RESTART_COMPLETE` (12 R445): the desk starts from its slot; with none that verifies it is held (R518). -/
def State.deskBack (s : State) : State :=
  if !s.gb RESET_CTL.BUSY then s
  else
    let r := s.bootPart 2
    match r.1 with
    | some k => (r.2.deskStartFrom k).deskRestarted
    | none =>
      let s : State := { r.2 with flt := { r.2.flt with deskHeld := true }, fw := { r.2.fw with desk := none } }
      s.p RESET_CTL.BUSY 0 0

/-! ### The ledger's commands (R523, R525, R530) -/

/-- `LEDGER_PERIODIC`. -/
def State.ledgerPeriodic (s : State) : State := s.ledgerCounter 1

/-- `LEDGER_CALENDAR`: the staged pair is taken. -/
def State.ledgerCalendar (s : State) : State :=
  if s.gb LEDGER_FLAGS.BUSY ∨ !s.dev.archRun then s
  else
    let pair := (s.g LEDGER_CAL_UTC.VALUE, s.g LEDGER_CAL_STAMP.VALUE)
    ({ s with led := { s.led with busyCal := true, calNext := some pair } }).p LEDGER_FLAGS.BUSY 0 1

/-- `LEDGER_CALENDAR_DONE`: the pair is in the settings and the record committed. -/
def State.ledgerCalendarDone (s : State) : State :=
  match s.led.calNext with
  | none => s
  | some (u, c) =>
    if !s.led.busyCal then s
    else
      let s : State := { s with led := { s.led with busyCal := false, calNext := none, pair := some (u, c) } }
      (s.ledger 0xD (natLe 8 u ++ natLe 8 c)).p LEDGER_FLAGS.BUSY 0 0

/-- `LEDGER_READ`. -/
def State.ledgerReadGo (s : State) : State :=
  if s.gb LEDGER_FLAGS.BUSY ∨ !s.dev.archRun then s
  else (({ s with led := { s.led with busyRead := true } }).p LEDGER_FLAGS.DATA_VALID 0 0).p LEDGER_FLAGS.BUSY 0 1

/-- `LEDGER_READ_DONE`: the record named is in `LEDGER_DATA`; a number outside the ring leaves `DATA_VALID` 0. -/
def State.ledgerReadDone (s : State) : State :=
  if !s.led.busyRead then s
  else
    let q := s.g LEDGER_READ.SEQ
    let s : State := { s with led := { s.led with busyRead := false } }
    let s := s.p LEDGER_FLAGS.BUSY 0 0
    match s.led.recs.find? fun r => decide (r.seq = q) with
    | some r => ({ s with led := { s.led with data := recImage r } }).p LEDGER_FLAGS.DATA_VALID 0 1
    | none => s

/-- A write of `LEDGER_CMD` (R530). -/
def State.ledgerCmd (s : State) (v : Nat) : State :=
  match v % 4 with
  | 1 => s.ledgerCalendar
  | 2 => s.ledgerReadGo
  | _ => s

/-- `SHUTDOWN` (13 R477): the record is owed. -/
def State.shutdownReq (s : State) : State := ({ s with led := { s.led with shutOwed := true } }).p DEV_CONTROL.SHUT_DONE 0 0

/-- `SHUTDOWN_RECORD_COMMITTED`. -/
def State.shutdownDone (s : State) : State :=
  if !s.led.shutOwed ∨ !s.dev.archRun then s
  else (({ s with led := { s.led with shutOwed := false } }).ledgerCounter 3).p DEV_CONTROL.SHUT_DONE 0 1

end Sys2Proof.Machine
end

