-- ==== Sys2Proof/Machine/Start.lean ====
section
/-!
DEFINITION. Cold start, recovery and life cycle (13 R454 to R474), the maps that ACCESSION builds (01 R21, 08 R297), the entry into SERVICE.
-/
namespace Sys2Proof.Machine

/-! ### The mask ROM (R457, R458, R460) -/

/-- The registers that ACCESSION builds afresh. -/
def builtReg (k : RegKind) : Bool :=
  decide (k ∈ [RegKind.CMAP, .WING_CMAP, .WING_STATUS, .MEM_PART, .LT_PART, .RAT_BASE, .RAT_LIMIT, .RAT_ATTR, .RES_CLASS, .COL_REACT, .COL_REACT_W1, .COL_REACT_W2])

/-- Those registers at their COLD values. `MAP_GEN` counts on, and a wing in `FAILED` stays so, where no COLD reset came between (01 R25, R26). -/
def State.freshBuilt (s : State) : State :=
  let old := s
  let s := s.restoreRegs kCold fun k _ => builtReg k
  (List.range 32).foldl (fun s w =>
    let s := s.p WING_STATUS.MAP_GEN w (old.g WING_STATUS.MAP_GEN w)
    if old.g WING_STATUS.STATE w = 3 then (s.p WING_STATUS.STATE w 3).p WING_STATUS.SHELVES w 0 else s) s

/-- The device is held (R460): every SRAM is wiped, no path reads the stacks; no record is read, and what one gives has its default (14 R500). -/
def State.hold (s : State) : State :=
  let s := s.wipeSram
  let s : State := { s with dev := { s.dev with held := true, started := true, archRun := false, deskRun := false, lifecycle := s.fuses.lc, debugLeft := s.fuses.debugLeft },
                            arec := {} }
  (s.freshBuilt.coverWings.loadSoft).p PWR_CAP.EMERG_W 0 1200

/-- A copy's failure as an event of class 11 (R458, R460). -/
def State.copyEvent (s : State) (inst sev : Nat) (f : CopyFail) : State :=
  let r := s.freeVal
  r.2.raise { source := srcId 11 inst 1, info0 := copyInfo f r.1, sev := some sev }

/-- A copy is accepted. -/
def State.useCopy (s : State) (copy base : Nat) : State :=
  let n := s.nvm.le (base + 0x10) 4
  ({ s with arec := { ({} : Record) with bytes := s.nvm.read (base + 0x2000) n } }).p DEV_STATUS.RECORD_COPY 0 copy

/-- Step 2 of the cold start: life cycle from the fuses, the record from copy A or else copy B. BLANK reads none, SCRAPPED is held. -/
def State.romStart (s : State) : State :=
  let s : State := { s with arec := {}, dev := { s.dev with started := true, lifecycle := s.fuses.lc, debugLeft := s.fuses.debugLeft } }
  let s := s.p DEV_STATUS.RECORD_COPY 0 0
  if s.fuses.lc = 15 then s.hold
  else if s.fuses.lc = 1 then s
  else match copyCheck (s.nvm.read ·) s.fuses.digest with
    | none => s.useCopy 1 0
    | some a =>
      match copyCheck (fun o n => s.nvm.read (0x10000 + o) n) s.fuses.digest with
      | none => (s.copyEvent 1 0 a).useCopy 2 0x10000
      | some b => (((s.copyEvent 1 1 a).copyEvent 2 1 b).p DEV_STATUS.ACCESSION_FAIL 0 1).hold

/-- A device that has gone back to step 2 starts from its mask ROM. -/
def State.romGo (s : State) : State := if s.dev.started then s else s.romStart

/-- `COLD_RESET_ASSERT`: any sequence is abandoned; only the NVM, the fuses and what is to be reported of a trip, of the safe state (R479) and of a
period in FIELD_DEBUG (R467) keep what they hold; the levels of the input pins stand. -/
def State.coldAssert (s : State) : State :=
  { dev := { cold := true, wasSafe := !s.pwr.off && (s.dev.wasSafe || s.gb DEV_STATUS.SAFE) }, nvm := s.nvm, fuses := s.fuses, time := s.time, free := s.free, out := s.out, pending := s.pending,
    pwr := { off := s.pwr.noVin, noVin := s.pwr.noVin, tripped := s.pwr.tripped, tripCause := s.pwr.tripCause, capIn := s.pwr.capIn },
    port := { serdesLost := s.port.serdesLost },
    fw := { slots := s.fw.slots },
    led := { recs := s.led.recs, next := s.led.next, t0 := s.time, cur := s.led.saved, saved := s.led.saved, snapAt := s.led.snapAt,
             debugOwed := s.debugEnd.led.debugOwed, pair := s.led.pair, confirmS := s.led.confirmS, periodS := s.led.periodS } }

/-- What a board programmer has put into the NVM while the device did not drive it (14 R499). -/
def State.programmed (s : State) (x : NvmContents) : State :=
  let s : State := { s with nvm := x.writes.foldl (fun (m : Memory) (e : Nat × Bytes) => Memory.write m e.1 e.2) s.nvm }
  if x.dir = [] then s
  else { s with fw := { s.fw with slots := (List.range 4).foldl (fun (t : Tab FwSlot) k => tset (fun _ => {}) t k { state := min 5 (x.dir.getD k 0) }) [] } }

/-- `COLD_RESET_RELEASE` (R457 steps 1 and 2). Where COLD_RST_N is released already the row carries what a programmer wrote while the held device
left its xSPI pins released (14 R499; log entry 97). -/
def State.coldRelease (s : State) (x : NvmContents) : State :=
  if s.pwr.off then s
  else if !s.dev.cold then (if s.dev.held then s.programmed x else s)
  else
    let safe := s.dev.wasSafe
    let s := s.programmed x
    let s : State := { s with dev := { s.dev with cold := false, wasSafe := false }, led := { s.led with t0 := s.time } }
    let s := (s.p UPD_CFG.CONFIRM_S 0 s.led.confirmS).p LEDGER_CTL.PERIOD_S 0 s.led.periodS
    let s := (s.resetCause (if s.pwr.tripCause then 2 else 1) 0 safe).tallyReset 0
    let s : State := { s with pwr := { s.pwr with tripCause := false } }
    s.coverWings.romStart

/-! ### The maps (01 R21, 08 R297) -/

/-- A carrel that does not work. -/
def State.carFail (s : State) (p : Nat) : State := s.setCarrel p { s.carrel p with failed := true, inReset := true }

/-- A substitution of a record (R21 step 3): skipped where the spare it names is in the map for another carrel or has failed
(log entry 69). -/
def State.applySubst (s : State) (w lg fl sp : Nat) : State :=
  let c := w * 128 + lg
  let s := s.carFail (w * 144 + fl)
  if sp = 0xFF then s
  else
    let used := (List.range 128).any fun k => decide (k ≠ lg) && decide (s.phys (w * 128 + k) = w * 144 + sp)
    if used ∨ (s.carrel (w * 144 + sp)).failed then s.raise { source := srcId 11 4 1, sev := some 0 }
    else
      let old := s.phys c
      let s := if 128 ≤ old % 144 ∧ old ≠ w * 144 + sp then s.carFail old else s
      (s.mapSet c sp).setCarrel (w * 144 + sp) {}

/-- Step 4 for one carrel: the lowest free spare takes the place of a failed carrel. -/
def State.spareFor (s : State) (c : Nat) : State :=
  let p := s.phys c
  let w := c / 128
  if !(s.carrel p).failed then s
  else match s.freeSpare w with
    | none => s
    | some i => ((s.mapSet c i).setCarrel (w * 144 + i) {}).ledger 5 (natLe 1 w ++ natLe 1 (c % 128) ++ natLe 1 (p % 144) ++ natLe 1 i)

/-- The device carrels that fail with no spare, from the physical carrels marked. -/
def State.unserved (s : State) : List Nat :=
  (s.car.filter fun e => e.2.failed).filterMap fun e => s.deviceOf e.1

/-- The shelves, spares and shelf counts that the maps leave. -/
def State.countShelves (s : State) : State :=
  let bad := (s.unserved.map shelfOf ++ (List.range 256).filter fun h => decide (s.g WING_STATUS.STATE (h / 8) = 3)).eraseDups
  let s : State := { s with flt := { s.flt with withdrawn := bad, subst := [], repairs := [] } }
  (List.range 32).foldl (fun s w =>
    let free := ((List.range 16).filter fun i =>
      !(s.carrel (w * 144 + 128 + i)).failed && (List.range 128).all fun l => decide (s.phys (w * 128 + l) ≠ w * 144 + 128 + i)).length
    (s.p WING_STATUS.SHELVES w (8 - (bad.filter fun h => decide (h / 8 = w)).length)).p WING_STATUS.SPARES_FREE w free) s

/-- A map-out that the ledger records; a channel recorded without a base failed calibration and stays `FAILING` (R459; log entry 98). -/
def State.applyMapout (s : State) (col base : Nat) : State :=
  if 384 ≤ col ∨ s.g CMAP.STATE col = 2 then s
  else if base = 2 ^ 32 - 1 then s.p CMAP.STATE col 3
  else
    let k := 384 + s.dmem.mapped
    let s := (((s.p CMAP.STATE col 2).p CMAP.VALID k 1).p CMAP.BASE_FRAME k base).p CMAP.CHANNEL k col
    { s with dmem := { s.dmem with mapped := s.dmem.mapped + 1, cap := s.dmem.cap - 1024 } }

/-- The carrel and channel maps built from the identity, the fuses and the ledger. -/
def State.buildMaps (s : State) : State :=
  let s := s.freshBuilt
  let s : State := { s with car := [], dmem := { s.dmem with cap := 393216, mapped := 0, mapout := none, owner := [] } }
  let s := s.coverWings
  let s := s.fuses.subst.foldl (fun s e =>
    ((s.carFail (s.phys (e.1 * 128 + e.2.1))).mapSet (e.1 * 128 + e.2.1) e.2.2).setCarrel (e.1 * 144 + e.2.2) {}) s
  let s := (s.led.recs.filter fun r => decide (r.typ = 5)).foldl (fun s r =>
    s.applySubst (le r.body 0 1 % 32) (le r.body 1 1 % 128) (le r.body 2 1 % 144) (le r.body 3 1)) s
  let s := s.unserved.foldl (fun s c => s.spareFor c) s
  let s := s.countShelves
  (s.led.recs.filter fun r => decide (r.typ = 6)).foldl (fun s r => s.applyMapout (le r.body 0 2) (le r.body 4 4)) s

/-! ### The Archivist's start (R457 step 3, R465 step 3) -/

/-- The record of a period in FIELD_DEBUG that is owed (R467). -/
def State.debugRecord (s : State) : State :=
  match s.led.debugOwed with
  | some n => ({ s with led := { s.led with debugOwed := none } }).ledger 0xC (natLe 4 n)
  | none => s

/-- What the Archivist commits as it starts: the reset, a trip, a period in FIELD_DEBUG. -/
def State.archRecords (s : State) : State :=
  let s := s.ledger 4 (natLe 4 (s.reg .RESET_CAUSE 0).toNat)
  let s := match s.pwr.tripped with
    | some (k, t) => ({ s with pwr := { s.pwr with tripped := none } }).ledger 0xA (natLe 1 k ++ natLe 1 t)
    | none => s
  s.debugRecord

/-- The Archivist's firmware starts from a slot, or none verifies and the device is held (R460). -/
def State.archBoot (s : State) : State :=
  let r := s.bootPart 0
  match r.1 with
  | some k => { r.2 with fw := { r.2.fw with arch := some k }, dev := { r.2.dev with archRun := true } }
  | none =>
    let s := (r.2.raise { source := srcId 11 3 1, sev := some 1 }).p DEV_STATUS.STATE 0 1
    ({ s with dev := { s.dev with resetRun := false } }).p DEV_STATUS.FW_FAIL 0 1 |>.hold

/-- `ACCESSION_COMPLETE`. -/
def State.accessionDone (s : State) : State :=
  if s.g DEV_STATUS.STATE ≠ 1 ∨ s.dev.held ∨ s.dev.archRun then s
  else
    let s := s.archBoot
    if s.dev.held then s
    else
      let s := s.buildMaps
      let avail := (List.range 256).filter fun h => !decide (h ∈ s.flt.withdrawn)
      let b := s.arec.bytes
      let s : State := if s.g DEV_STATUS.RECORD_COPY = 0 then s else { s with arec := recordOf b (b.length / 8) avail }
      let s := s.loadHard.archRecords
      ({ s with dev := { s.dev with rwlOff := true } } : State).p DEV_STATUS.STATE 0 2

/-! ### Calibration, wipe, service (R457, R459, R465) -/

/-- A channel that fails calibration (R459): out at once, or `FAILING`. -/
def State.calChannel (s : State) (q : Nat) : State :=
  match s.colOfChan q with
  | none => s
  | some col =>
    if !s.mapoutRoom (q / 32) then (s.p CMAP.STATE col 3).ledger 6 (natLe 2 col ++ natLe 2 q ++ natLe 4 (2 ^ 32 - 1))
    else
      let cs := s.cuts
      let s := (List.range 8).foldl (fun s p => s.p MEM_PART.TOTAL p (s.g MEM_PART.TOTAL p - cs.getD p 0)) s
      let base := s.dmem.cap - 1024
      (((s.applyMapout col base).ledger 6 (natLe 2 col ++ natLe 2 q ++ natLe 4 base)).tally fun t => { t with mapouts := t.mapouts + 1 }).raise
        { source := srcId 4 (q / 32) (q % 32), info0 := col }

/-- A carrel or spare that fails its self-test (R459), an event of class 0 (12 R426). A spare in nobody's place is recorded with the logical index 0xFF (log
entry 98). -/
def State.calCarrel (s : State) (p : Nat) : State :=
  let s := s.raise { source := srcId 0 (p / 144) 4, info0 := p % 144 }
  match s.deviceOf p with
  | none =>
    if (s.carrel p).failed then s
    else ((s.carFail p).p WING_STATUS.SPARES_FREE (p / 144) (s.g WING_STATUS.SPARES_FREE (p / 144) - 1)).ledger 5
      (natLe 1 (p / 144) ++ natLe 1 0xFF ++ natLe 1 (p % 144) ++ natLe 1 0xFF)
  | some _ =>
    let s : State := { s with flt := { s.flt with subst := s.flt.subst ++ [p] } }
    (s.repairStart p).substCommit (p / 144)

/-- A failure found in calibration. `x` / 65536 is 0 for a channel, 1 a physical carrel, 2 an Ethernet port, 3 a Ploli link, 4 a sensor; the
rest is its number. -/
def State.calFail (s : State) (x : Nat) : State :=
  let n := x % 65536
  match x / 65536 with
  | 0 => if n < 384 then s.calChannel n else s
  | 1 => if n < 4608 then s.calCarrel n else s
  | 2 => ({ s with nic := { s.nic with bad := s.nic.bad ++ [n % 32] } } : State).raise { source := srcId 6 (n % 32) 2 }
  | 3 => ({ s with cas := { s.cas with bad := s.cas.bad ++ [n % 4] } } : State).raise { source := srcId 7 (n % 4) 2 }
  | 4 => if n < 56 then s.sensor n 65536 else s
  | _ => s

/-- `CALIBRATION_COMPLETE`: of a cold start, or of a recovery, which keeps the calibration of stacks and carrels where they have one (R465). -/
def State.calibrated (s : State) (fails : List Nat) : State :=
  let st := s.g DEV_STATUS.STATE
  let done (s : State) : State := ({ s with dev := { s.dev with calDone := true } } : State).p DEV_STATUS.STATE 0 3
  if !s.dev.archRun then s
  else if st = 2 then done (fails.foldl (fun s x => s.calFail x) s)
  else if st = 6 ∧ s.dev.lcStep = 0 then
    done ((fails.filter fun x => !s.dev.calDone || decide (2 ≤ x / 65536)).foldl (fun s x => s.calFail x) s)
  else s



/-- The device enters SERVICE or, in BLANK and RETURN, TEST. An entry into the safe state that waited for the end of a reset is made now, unless the
reset has cleared its cause (12 R447; log entry 99). -/
def State.enterService (s : State) : State :=
  let test := s.dev.lifecycle = 1 ∨ s.dev.lifecycle = 5
  let s := s.uncoverWings
  let s := if test then s else s.restoreRegs kService fun _ _ => true
  let s : State := { s with dev := { s.dev with resetRun := false, ready := !test },
                            led := { s.led with debugFrom := if s.dev.lifecycle = 4 ∧ !test then some s.time else none } }
  let s := (s.p DEV_STATUS.STATE 0 (if test then 5 else 4)).p DEV_STATUS.READY 0 (b2n !test)
  let s := if test then s else (List.range s.partCount).foldl (fun s p => s.p PART_STATUS.READY p 1) s
  let s := (List.range s.partCount).foldl (fun s p => if s.mayRequest (p + 1) then s else s.p PART_STATUS.PAUSED p 1) s
  match s.dev.pendSafe with
  | some (c, x) =>
    let s : State := { s with dev := { s.dev with pendSafe := none } }
    -- the reset has restarted an Archivist that had failed: that cause is cleared
    if (c = 3 ∨ c = 4) ∧ s.dev.archRun then s else s.enterSafe c x
  | none => s

/-- `WIPE_COMPLETE` of a cold start or a recovery; in BLANK and RETURN the device is then in TEST (R455). -/
def State.wiped (s : State) : State :=
  if s.g DEV_STATUS.STATE ≠ 3 ∨ s.dev.lcStep ≠ 0 then s
  else
    let s := s.wipeStores
    let s : State := { s with dev := { s.dev with wiped := true } }
    if s.dev.lifecycle = 1 ∨ s.dev.lifecycle = 5 then s.enterService else s

/-- `DESK_START_COMPLETE`: the desk starts, or is held where no slot verifies (15 R518). A desk that R445 holds stays held, and the intake takes no
descriptor. -/
def State.deskStarted (s : State) : State :=
  if s.g DEV_STATUS.STATE ≠ 3 ∨ !s.dev.wiped ∨ s.dev.lcStep ≠ 0 then s
  else if s.flt.deskHeld then ({ s with dev := { s.dev with intakePause := true } } : State).enterService
  else
    let r := s.bootPart 2
    let s : State := match r.1 with
      | some k =>
        let s := r.2.deskStartFrom k
        { s with dev := { s.dev with deskRun := true, intakePause := false } }
      | none => { r.2 with flt := { r.2.flt with deskHeld := true }, fw := { r.2.fw with desk := none }, dev := { r.2.dev with intakePause := true } }
    s.enterService

/-- `RECOVERY_RESTART` (R465 step 3): `shadow` says that the configuration shadow's CRC is right. -/
def State.recoveryRestart (s : State) (shadow : Bool) : State :=
  if s.g DEV_STATUS.STATE ≠ 6 ∨ s.dev.archRun ∨ s.dev.lcStep ≠ 0 then s
  else if shadow then
    let s := s.archBoot
    if s.dev.held then s else s.archRecords
  else s.fromRom.romGo

/-! ### Reset requests (R455, R466, R477) -/

/-- A LINK-LOSS or DEVICE reset, and the mask ROM's start where it goes back to it. -/
def State.resetNow (s : State) (cause src : Nat) (device : Bool) : State := (s.takeReset cause src device).romGo

/-- A write of `RESET_CTL` (R466). -/
def State.resetCtl (s : State) (v : Nat) : State :=
  if bits v 15 8 ≠ 0xD5 then s
  else match v % 8 with
    | 1 => s.resetNow 6 0 true
    | 2 => s.mgmtReset 0
    | _ => s

/-- `TEST_REQ` (R455): no work runs in TEST, and the network links go down. -/
def State.testReq (s : State) : State :=
  if !s.inService ∨ !(s.dev.lifecycle = 2 ∨ s.dev.lifecycle = 4) then s
  else
    let s := (s.stopAll.p DEV_STATUS.STATE 0 5).p DEV_STATUS.READY 0 0
    let s := (List.range s.partCount).foldl (fun s p => s.p PART_STATUS.READY p 0) s
    let s := (List.range 32).foldl (fun s n => s.portDown n) s
    let s := (List.range 4).foldl (fun s k => s.ploliDown k) s
    let s : State := { s with dev := { s.dev with ready := false } }
    s.debugEnd.debugRecord

/-- A write of `DEV_CONTROL` (R477). -/
def State.devControl (s : State) (v : Nat) : State :=
  let s := if bit v 0 then s.shutdownReq else s
  if bit v 1 then s.testReq else s

/-! ### Life cycle (R469 to R473) -/

/-- An update that a life-cycle change waits for (R470, 15 R518). -/
def State.lcBusy (s : State) : Bool :=
  let st := s.g UPD_STATUS.STATE
  !decide (s.g DEV_STATUS.STATE = 4 ∨ s.g DEV_STATUS.STATE = 5) || s.dmem.mapout.isSome || (List.range 9).any (fun f => (s.fn f).flr)
    || (decide (st ≠ 0) && !(decide (st = 1) && decide (le s.fw.hdr 6 1 = 4)))
    || (List.range 4).any (fun k => decide ((s.fwSlot k).state = 3 ∨ (s.fwSlot k).state = 4))

/-- The staged authorisation is one for this change (R469, R472). -/
def State.lcAuthOk (s : State) (frm tgt : Nat) : Bool :=
  match s.fw.auth with
  | none => false
  | some h =>
    let dig := le h 0x92 48
    decide (le h 0x90 1 = frm) && decide (le h 0x91 1 = tgt) && bit (lcSigners frm tgt) (le h 7 1 - 1)
      && (if frm = 1 ∧ tgt = 2 then decide (dig ≠ 0) && (decide (s.fuses.digest = 0) || decide (s.fuses.digest = dig)) else decide (dig = 0))

/-- `LC_REQUEST` (R470, R471 step 1). -/
def State.lcRequest (s : State) (v : Nat) : State :=
  let frm := s.dev.lifecycle
  let tgt := v % 16
  let ans (r : Nat) : State := s.p LIFECYCLE.RESULT 0 r
  if !bit v 31 then s
  else if s.lcBusy then ans 7
  else if !s.dev.archRun then s
  else if lcSigners frm tgt = 0 then ans 3
  else if frm = 3 ∧ tgt = 4 ∧ s.dev.debugLeft = 0 then ans 6
  else if !s.lcAuthOk frm tgt then ans 4
  else
    let dig := (s.fw.auth.map fun h => le h 0x92 48).getD 0
    let s := s.debugEnd.endWork.deskFree.restoreRegs kDevice fun _ _ => true
    let s := (((s.loadSoft.resetCause 8 0 false).p LIFECYCLE.RESULT 0 1).p DEV_STATUS.STATE 0 6).coverWings
    { s with dev := { s.dev with lcStep := 1, lcTarget := tgt, deskRun := false, ready := false },
             fw := { s.fw with auth := some (natLe 48 dig) } }

/-- The next step of a life-cycle change (R471, R472): the wipe begins; the stores are wiped but for the Archivist SRAM; the record is committed; for BLANK
to PROVISIONED the key digest is programmed; the fuse group of the new state is. None in the safe state. -/
def State.lcAdvance (s : State) : State :=
  let x := s.dev
  let setStep (s : State) (k : Nat) : State := { s with dev := { s.dev with lcStep := k } }
  if s.gb DEV_STATUS.SAFE then s
  else match x.lcStep with
  | 1 => setStep (s.p DEV_STATUS.STATE 0 3) 2
  | 2 => setStep { s.wipeStores with archSram := s.archSram } 3
  | 3 => setStep (((s.debugRecord).ledger 9 (natLe 1 x.lifecycle ++ natLe 1 x.lcTarget)).tally fun t => { t with changes := t.changes + 1 }) 4
  | 4 =>
    let dig := (s.fw.auth.map leNat).getD 0
    setStep { s with fuses := { s.fuses with digest := if x.lifecycle = 1 ∧ x.lcTarget = 2 then dig else s.fuses.digest } } 5
  | _ => s.lcProgram

/-- `LIFECYCLE_WIPE_COMPLETE` (R471 steps 2 to 6): the steps that are left are taken, and the device starts from its mask ROM. -/
def State.lcWiped (s : State) : State :=
  if s.dev.lcStep = 0 ∨ s.gb DEV_STATUS.SAFE then s
  else s.lcAdvance.lcAdvance.lcAdvance.lcAdvance.lcAdvance.lcRestart.romGo

end Sys2Proof.Machine
end

