-- ==== Sys2Proof/Machine/Clock.lean ====
section
/-!
DEFINITION. What a cycle of the carrel clock does whatever is commanded (02 R57), and the steps that a life-cycle change takes of itself (13 R471).
-/
namespace Sys2Proof.Machine

/-- `CYCLES` counts from the carrel's release wave until it has completed `HALT`, gated or stalled alike (R57, R79). -/
def cycleOn (x : Carrel) : Carrel :=
  match x.run with
  | .active | .gated _ | .released _ | .halting => { x with cycles := x.cycles + 1 }
  | _ => x

/-- One cycle of the carrel clock in every carrel; nothing while the device has no clock (13 R460). A count makes no carrel's record the default,
so the table stays in canonical form. A life-cycle change under way takes its next step (log entry 32). -/
def State.idleCycle (s : State) : State :=
  if s.dev.cold || s.pwr.off then s
  else
    let s : State := { s with car := s.car.map fun e => (e.1, cycleOn e.2) }
    if s.dev.lcStep = 0 then s else s.lcAdvance

end Sys2Proof.Machine
end

