-- ==== Sys2Proof/Machine/RegRead.lean ====
section
/-!
DEFINITION. What the register space reads as (00 R9, R10; the register tables of every chapter): stored fields, live fields, and the buffers of
the frames.
-/
namespace Sys2Proof.Machine

/-- The stored part of a register as it reads: write-only fields read 0 (R9). -/
def State.stored (s : State) (k : RegKind) (i : Nat) : Nat :=
  k.fields.foldl (fun a f => if f.acc = .WO then a else a + s.g f i * 2 ^ f.lo) 0

/-- The device works in a degraded state (13 R476). -/
def State.degraded (s : State) : Bool :=
  decide (s.flt.withdrawn ≠ []) || s.flt.deskHeld
    || ((List.range 384).any fun e => decide (s.g CMAP.STATE e = 3)) || ((List.range 32).any fun w => decide (s.g WING_STATUS.STATE w = 3))

/-- The lines of a wing cache in M or O (07 R289). -/
def State.dirtyLines (s : State) (w : Nat) : Nat := ((s.wing w).lines.filter fun e => decide (3 ≤ e.2.st)).length

/-- The state of a physical channel (08 R320): its column's, or `DOWN`, which wins over it (log entry 122). -/
def State.chanState (s : State) (q : Nat) : Nat :=
  if q ∈ s.dmem.down then 4
  else match (List.range 384).find? fun e => decide (s.g CMAP.CHANNEL e = q) with
    | some e => s.g CMAP.STATE e
    | none => 0

/-- Granules of a partition's lending table in one of the states `xs` (09 R360). -/
def State.lentIn (s : State) (p : Nat) (xs : List Nat) : Nat := ((s.lendOf p).filter fun e => decide (e.state ∈ xs)).length

/-- The live fields of a register, in their places; 0 where it has none. -/
def State.live (s : State) (k : RegKind) (i : Nat) : Nat :=
  match k with
  | .DEV_STATUS => s.dev.lifecycle * 2 ^ 4 + b2n s.stamp.holdover * 2 ^ 3 + b2n s.degraded * 2 ^ 2
  | .MGMT_INT_STATUS => s.mgmtStatus
  | .LIFECYCLE => s.dev.debugLeft * 2 ^ 20 + s.dev.lifecycle
  | .STAMP_STATUS => b2n s.stamp.refPresent * 2 ^ 4 + b2n s.stamp.holdover * 2 ^ 3
  | .DD_ARMED_COUNT => (s.dd.filter fun e => decide (e.2.state = 1 ∨ e.2.state = 3)).length
  | .WBAR_STATUS =>
    ((List.range 144).filter fun p => match (s.carrel (i * 144 + p)).run with | .gated _ | .released _ => true | _ => false).length * 2 ^ 16
      + ((List.range 64).filter fun n => decide (i ∈ wingsOf (s.slot n).allot)).length
  | .PWR_STATUS =>
    s.densityMax * 2 ^ 20 + s.pwr.capD * 2 ^ 16 + s.pwr.cur * 2 ^ 8 + b2n s.pwr.capIn * 2 ^ 5 + b2n s.throttling * 2 ^ 4
      + b2n s.pwr.ceiling * 2 ^ 2
  | .PWR_OP => s.pwr.cur * 2 ^ 8
  | .WING_PWR_STATUS => s.wingPwrReg i % 65536
  | .LEDGER_FLAGS => b2n s.led.pair.isSome * 4
  | .WING_CACHE_STATUS => s.dirtyLines i * 2 ^ 15 + (s.wing i).eb.length * 2 ^ 8
  | .MEM_PART => s.framesUsed i * 2 ^ 24
  | .MC_CHAN => s.chanState i
  | .RES_STATUS => (s.dmem.res.filter (·.2.dirty)).length * 2 ^ 43 + (s.dmem.res.filter (·.2.prot.isSome)).length * 2 ^ 22
  | .PORT_STATUS => s.portLanes i * 2 ^ 4
  | .CAS_STATUS =>
    let a := s.arec
    a.groupId * 2 ^ 48 + s.ploliMajor * 2 ^ 40 + a.topo * 2 ^ 20 + a.count * 2 ^ 16 + a.master * 2 ^ 12 + a.member * 2 ^ 8 + a.kind * 2 ^ 6
      + a.role * 2 ^ 4
  | .PART_STATUS => 2 * b2n s.cacheEn
  | .XL_STATUS =>
    let x := s.xlOf i
    x.invs.length * 2 ^ 32 + x.prs.length * 2 ^ 16 + ((s.slotsOf i).filter fun n => decide (s.g SLOT_STATUS.STATE n = 4)).length
  | .LT_PART => s.lentIn i [1, 2, 4] * 2 ^ 20 + s.lentIn i [3, 5]
  | _ => 0

/-- Fields of a register that `live` gives although a stored field lies there are not read from the store: `WBAR_STATUS`, `DD_ARMED_COUNT`,
`PORT_STATUS.LANES`, `MC_CHAN.STATE` and the levels of `MGMT_INT_STATUS`. -/
def liveMask (k : RegKind) : Nat :=
  match k with
  | .MGMT_INT_STATUS => 0x1F
  | .DD_ARMED_COUNT => 0x1FF
  | .WBAR_STATUS => 0xFF000F
  | .PORT_STATUS => 0xF0
  | .MC_CHAN => 0xF
  | _ => 0

/-- The registers of a partition that is not present read 0 (08 R318, R322; 09 R360). -/
def State.absent (s : State) (k : RegKind) (i : Nat) : Bool :=
  match k with
  | .MEM_PART | .LT_PART | .REG_LINK => decide (s.partCount ≤ i)
  | .REG_STACK => decide (s.partCount ≤ i / 12)
  | .PORT_STATUS | .PORT_MAC | .PORT_IP_LO | .PORT_IP_HI | .PORT_PFC | .PORT_COUNTS => decide (s.portLanes i = 0)
  | _ => false

/-- Whether the register's frame answers while its wing is not running (01 R23): the power and barrier registers read 0 and ignore writes in
`IN_RESET` and `FAILED`. -/
def State.dark (s : State) (k : RegKind) (i : Nat) : Bool :=
  match k with
  | .WING_PWR_STATUS | .WING_DROOP | .WING_BUB_FORCE | .WBAR_STATUS | .WBAR_LAST =>
    decide (s.g WING_STATUS.STATE i = 1 ∨ s.g WING_STATUS.STATE i = 3)
  | _ => false

/-- Whether a WING reset is under way that restores field `f` of wing `i` (01 R23). -/
def State.wingHeld (s : State) (f : Fld) (i : Nat) : Bool :=
  decide (f.reg.dom = .wing) && bit f.kinds 5 && decide (s.g WING_STATUS.STATE i = 1) && decide ((s.wing i).rst ≠ 0)

/-- What a register reads as, whole. -/
def State.readReg (s : State) (k : RegKind) (i : Nat) : Nat :=
  if s.absent k i ∨ s.dark k i then 0
  else
    let v := if k.dom = .wing ∧ s.g WING_STATUS.STATE i = 1 ∧ (s.wing i).rst ≠ 0 then
        k.fields.foldl (fun a f => a + (if s.wingHeld f i then f.resetAt i else s.g f i) * 2 ^ f.lo) 0
      else s.stored k i
    let m := liveMask k
    (v - (v &&& m)) + s.live k i

/-- `PART_SCHED` (04 R152). -/
def State.partSched (s : State) (p : Nat) : Nat :=
  if p < s.partCount then
    let x := s.part p
    x.ddBase * 2 ^ 56 + x.ddCount * 2 ^ 48 + x.shelves.length * 2 ^ 39 + (s.idleShelves p).length * 2 ^ 30 + x.slotCount * 2 ^ 23
      + x.slotFirst * 2 ^ 16
  else 0

/-- `FW_SLOTS` (15 R529). -/
def State.fwSlotsReg (s : State) : Nat :=
  let run (o : Option Nat) : Nat := match o with | some k => k % 2 | none => 0
  (if s.fw.trial = none then 0 else (s.fw.trialEnd - s.time) / 156250000) * 2 ^ 48 + run s.fw.desk * 2 ^ 17 + run s.fw.arch * 2 ^ 16
    + (List.range 4).foldl (fun a k => a + (s.fwSlot k).state * 16 ^ k) 0

/-- `VERSION` of a running image (15 R509, R529); 0 where none runs, as while the desk is in reset. -/
def State.runVersion (s : State) (o : Option Nat) : Nat := match o with | some k => le (s.slotHdr k) 8 4 | none => 0

/-- The error summary (12 R453): which hub frames, or which wing collectors, have a pending bit set. -/
def State.errSummary (s : State) (wings : Bool) : Nat :=
  ofBits (if wings then 32 else 38) fun f =>
    let c := if wings then f + 38 else f
    s.gb COL_STATUS.CE_PEND c || s.gb COL_STATUS.UC_PEND c || s.gb COL_STATUS.FATAL_PEND c

/-- `COL_HIST_DATA` (12 R427, R452): the entry shown, in the layout of an error record; zeros where no such entry is held. -/
def State.histData (s : State) (c : Nat) : Bytes :=
  match (s.col c).hist[s.g COL_HIST.INDEX c]? with
  | none => zeros 32
  | some r =>
    natLe 2 r.source ++ natLe 1 (r.sev + 4 * b2n r.forced + 8 * b2n r.overridden) ++ natLe 1 r.react ++ natLe 4 r.count ++ natLe 8 r.stamp
      ++ natLe 8 r.info0 ++ natLe 8 r.info1

/-- `HOME_STATUS` of a slice (07 R286). -/
def State.homeStatus (s : State) (sl : Nat) : Nat :=
  (s.coh.cat.filter fun e => e.2.lost && decide (homeOf e.1 = sl)).length * 2 ^ 40 + (tget (fun _ => []) s.coh.resq sl).length * 2 ^ 32
    + (s.hsnpTracked.filter fun e => decide (homeOf e.2 = sl)).length * 2 ^ 24 + s.wbTrackers sl * 2 ^ 16 + s.trackers sl * 2 ^ 8

/-- The capability array and the RAS capability of the CXL component registers (06 R213; the layout of CXL's is log entry 20): the masks and
the severity are stored. -/
def State.rasByte (s : State) (o : Nat) : Byte :=
  if o < 0x1008 ∧ 0x1000 ≤ o then (natLe 8 (0x01110001 + 2 ^ 32 * (2 + 0x100 * 2 ^ 20))).getD (o - 0x1000) 0
  else if 0x1100 ≤ o ∧ o < 0x1158 then s.link.ras.byte o
  else 0

/-- The bits of a queue pair's context that hold a field, by byte (10 R366); the others are reserved (00 R10). -/
def qpMask : List Nat :=
  [0xFF, 0x0F, 0x1F, 0xFF, 0xFF, 0xFF, 0x0F, 0, 0xFF, 0xFF, 0xFF, 0, 0xFF, 0xFF, 0xFF, 0, 0xFF, 0xFF, 0xFF, 0]
    ++ [0xFF, 0xFF, 0xFF, 0xFF, 0xFF, 0x07, 0xFF, 0x8F, 0xFF, 0xFF, 0x0F, 0] ++ List.replicate 6 0xFF ++ [0, 0] ++ List.replicate 18 0xFF
    ++ List.replicate 6 0 ++ List.replicate 36 0xFF ++ List.replicate 28 0

/-- The bits of a memory-region entry that hold a field, by byte (10 R389). -/
def mrMask : List Nat :=
  [0, 0xF0, 0xFF, 0xFF, 0xFF, 0xFF, 0xFF, 0x01, 0xFF, 0xFF, 0xFF, 0xFF, 0xFF, 0xFF, 0, 0, 0xFF, 0, 0xFF, 0x8F, 0, 0, 0, 0, 0xFF, 0xFF, 0x0F]

/-- Bytes for offset `o` on, without the bits that `m` calls reserved. -/
def maskBytes (m : List Nat) (o : Nat) (d : Bytes) : Bytes :=
  (List.range d.length).map fun i => d.getD i 0 &&& BitVec.ofNat 8 (m.getD (o + i) 0)

/-- A byte of management BAR0. -/
def State.mgmtByte (s : State) (off : Nat) : Byte :=
  let of (v b : Nat) : Byte := BitVec.ofNat 8 (v / 256 ^ b)
  if 0x80000 ≤ off then s.fw.win.byte (off - 0x80000)
  else if 0x60000 ≤ off then (if off < 0x70000 then s.rasByte (off - 0x60000) else 0)
  else if 0x7200 ≤ off ∧ off < 0x7300 then s.led.data.getD (off - 0x7200) 0
  else if 0x7018 ≤ off ∧ off < 0x7020 then of s.fwSlotsReg (off - 0x7018)
  else if 0x7020 ≤ off ∧ off < 0x7028 then of (s.runVersion s.fw.arch + s.runVersion (if s.dev.deskRun then s.fw.desk else none) * 2 ^ 32) (off - 0x7020)
  else if 0x7028 ≤ off ∧ off < 0x702C then of s.fuses.svn (off - 0x7028)
  else if 0x7040 ≤ off ∧ off < 0x7050 then of s.fuses.uid (off - 0x7040)
  else if 0x7108 ≤ off ∧ off < 0x7110 then
    of ((match s.led.recs.head? with | some r => r.seq | none => 0) + (match s.led.recs.getLast? with | some r => r.seq | none => 0) * 2 ^ 32)
      (off - 0x7108)
  else if 0x6018 ≤ off ∧ off < 0x6020 then of s.pwrSampleReg (off - 0x6018)
  else if 0x4F00 ≤ off ∧ off < 0x4F10 then of (s.errSummary (decide (0x4F08 ≤ off))) (off % 8)
  else if 0x2000 ≤ off ∧ off < 0x4600 ∧ 0x40 ≤ off % 256 ∧ off % 256 < 0x60 then (s.histData ((off - 0x2000) / 256)).getD (off % 256 - 0x40) 0
  else if 0x8000 ≤ off ∧ off < 0x10000 ∧ 0x280 ≤ off % 1024 ∧ off % 1024 < 0x2A0 then
    (s.histData (38 + (off - 0x8000) / 1024)).getD (off % 1024 - 0x280) 0
  else if 0x10000 ≤ off ∧ off < 0x14000 ∧ off % 256 < 8 then of (s.homeStatus ((off - 0x10000) / 256)) (off % 256)
  else if 0x20000 ≤ off ∧ off < 0x20008 then of (s.dmem.mapped * 2 ^ 32 + s.dmem.cap) (off - 0x20000)
  else if 0x22000 ≤ off ∧ off < 0x23800 ∧ off % 512 < 8 then
    let st := (off - 0x22000) / 512
    of ((s.dmem.wcb.filter fun e => decide (s.stackOf (dpaOf e.line) = st)).length * 2 ^ 8 + s.outOf st) (off % 512)
  else if 0x31080 ≤ off ∧ off < 0x31100 then s.nic.qpStage.byte (off - 0x31080) &&& BitVec.ofNat 8 (qpMask.getD (off - 0x31080) 0)
  else if 0x32040 ≤ off ∧ off < 0x32060 then s.nic.mrStage.byte (off - 0x32040) &&& BitVec.ofNat 8 (mrMask.getD (off - 0x32040) 0)
  else match regAt 0 off with
    | some (k, i, b) => of (s.readReg k i) b
    | none => 0

/-- A byte of a partition's BAR0. A register of a slot or queue that is not the partition's reads 0 (R150, R177, R182, R194). -/
def State.partByte (s : State) (p off : Nat) : Byte :=
  let of (v b : Nat) : Byte := BitVec.ofNat 8 (v / 256 ^ b)
  let n := s.g SLIP_SEL.SLOT p
  if 0x800 ≤ off ∧ off < 0x808 then of (s.partSched p) (off - 0x800)
  else if 0x5010 ≤ off ∧ off < 0x5020 then of (s.slipResult p) (off % 8)
  else if 0x5040 ≤ off ∧ off < 0x5080 then (s.slipOf p).callBytes.getD (off - 0x5040) 0
  else if 0x5080 ≤ off ∧ off < 0x50C0 then (if s.owns p n then (s.csOf n).line.getD (off - 0x5080) 0 else 0)
  else if 0x8000 ≤ off ∧ off < 0x9000 then
    (if off % 16 = 12 then BitVec.ofNat 8 (b2n (vecMasked (s.fn (p + 1)) ((off - 0x8000) / 16))) else (s.fn (p + 1)).vecs.byte (off - 0x8000))
  else if 0x9000 ≤ off ∧ off < 0x9020 then of (s.fn (p + 1)).pba (off - 0x9000)
  else match regAt (p + 1) off with
    | some (k, i, b) =>
      if (k.dom = .slot ∨ k.dom = .queue) ∧ !s.owns p i then 0 else of (s.readReg k i) b
    | none => 0

/-- The frames that a device held under 13 R460 serves: identity and status, reset and life cycle, the hub collectors, the summary. -/
def heldServes (off : Nat) : Bool := decide (off < 0x4600) || (decide (0x4F00 ≤ off) && decide (off < 0x5000))

/-- `n` bytes of function `f`'s BAR0 from `off` on, byte by byte. -/
def State.peekLive (s : State) (f off n : Nat) : Bytes :=
  (List.range n).map fun i =>
    if s.dev.held ∧ (f ≠ 0 ∨ !heldServes (off + i)) then 0
    else if f = 0 then s.mgmtByte (off + i) else s.partByte (f - 1) (off + i)

/-- `n` bytes of function `f`'s BAR0 from `off` on, as they read without an effect of the read. A 32-bit read of the high half of `STAMP_NOW` gives
the latched value where one is held (04 R122). -/
def State.peek (s : State) (f off n : Nat) : Bytes :=
  match s.stamp.latchHi with
  | some v => if f = 0 ∧ off = 0x5004 ∧ n = 4 ∧ !s.dev.held then natLe 4 v else s.peekLive f off n
  | none => s.peekLive f off n

end Sys2Proof.Machine
end

