-- ==== Sys2Proof/Machine/RegWrite.lean ====
section
/-!
DEFINITION. Writes to the register space (00 R9, R10; 06 R220; 12 R432, R440, R449 to R453; 13 R460; 15 R505): fields by their access codes, and the
registers whose write acts.
-/
namespace Sys2Proof.Machine

/-! ### Collectors (12 R432, R433, R450 to R453) -/

/-- The highest instance of a class (R426). -/
def maxInst (cls : Nat) : Nat := [31, 31, 31, 31, 12, 6, 31, 4, 8, 2, 8, 4, 1, 1].getD cls 0

/-- `COL_FORCE` of a collector (R432): an event that it covers, as forced. -/
def State.colForce (s : State) (c v : Nat) : State :=
  let src := srcId (bits v 27 24) (bits v 16 12) (bits v 6 0)
  let sev := bits v 21 20
  if !bit v 31 ∨ sev = 3 ∨ 13 < src / 4096 ∨ maxInst (src / 4096) < bits v 16 12 ∨ colOf src ≠ c ∨ 70 ≤ c then s
  else s.raise { source := src, forced := some sev }

/-- `COL_HIST.CLEAR` (R452). -/
def State.histClear (s : State) (c : Nat) : State :=
  if 70 ≤ c then s
  else ((s.setCol c { s.col c with hist := [] }).p COL_STATUS.OVERFLOW c 0).p COL_STATUS.DEPTH c 0

/-- The RW1C bits of `COL_STATUS`: a bit that is cleared no longer reaches `ERROR` (R433). -/
def State.colClear (s : State) (c v : Nat) : State :=
  let f (s : State) (b : Nat) (x : Fld) : State := if bit v b then s.p x c 0 else s
  let s := f (f (f s 0 COL_STATUS.CE_PEND) 1 COL_STATUS.UC_PEND) 2 COL_STATUS.FATAL_PEND
  let x := s.col c
  s.setCol c { x with intPend := ofBits 3 fun b => bit x.intPend b && !bit v b }

/-- `ERR_PIN.CLEAR` (R453). -/
def State.errPinClear (s : State) : State := s.p ERR_PIN.HELD 0 0

/-! ### Fields (R9, R10) -/

/-- Whether a field may take a value beyond its range: the cap is a multiple of 10 W (11 R417), class masks leave bits 14 and 15 clear and do not
overlap (08 R321), `CS_CTL.MODE` is not 3. -/
def State.valueOk (s : State) (f : Fld) (i x : Nat) : Bool :=
  decide (f.vmin ≤ x ∧ x ≤ f.vmax) &&
    (match f.reg, f.lo with
     | .PWR_CAP, 0 => decide (x % 10 = 0)
     | .RES_CLASS, 32 => decide (x < 2 ^ 14) && (List.range 8).all fun k => decide (k = i) || decide (x &&& s.g RES_CLASS.MASK k = 0)
     | .RES_CLASS, 63 => decide (4 ≤ i)
     | .RES_CLASS, 56 => decide (4 ≤ i)
     | .REG_STACK, _ => decide (x ≤ 256)
     | .REG_LINK, _ => decide (x ≤ 256)
     | _, _ => true)

/-- One field under a write: `v` the value, `m` the register's bits that the write covers. -/
def State.putField (s : State) (i v m : Nat) (f : Fld) : State :=
  let fm := bits m f.hi f.lo
  let old := s.g f i
  let new := bits v f.hi f.lo
  let x := (old - (old &&& fm)) + (new &&& fm)
  if fm = 0 ∨ s.wingHeld f i then s
  else match f.acc with
    | .RW => if s.valueOk f i x then s.p f i x else s
    | .RWL => if s.g DEV_STATUS.STATE = 1 ∧ !s.dev.rwlOff ∧ s.valueOk f i x then s.p f i x else s
    | .RW1C => s.p f i (old - (old &&& (new &&& fm)))
    | .RW1S => s.p f i (old ||| (new &&& fm))
    | _ => s

/-- Every field of a register under a write. -/
def State.putFields (s : State) (k : RegKind) (i v m : Nat) : State := k.fields.foldl (fun s f => s.putField i v m f) s

/-- The shares of a regulator register under a write (08 R310): ignored as a whole outside its limits. -/
def State.putShare (s : State) (k : RegKind) (i v m : Nat) : State :=
  let t := s.putFields k i v m
  let guarF := if k = .REG_LINK then REG_LINK.GUAR else REG_STACK.GUAR
  let ceilF := if k = .REG_LINK then REG_LINK.CEIL else REG_STACK.CEIL
  let ps := List.range s.partCount
  let idx (p : Nat) : Nat := if k = .REG_LINK then p else p * 12 + i % 12
  let both := decide (bits v 8 0 ≤ 256 ∨ bits m 8 0 = 0) && decide (bits v 24 16 ≤ 256 ∨ bits m 24 16 = 0)
  if both && decide (t.g guarF i ≤ t.g ceilF i) && decide (ps.foldl (fun a p => a + t.g guarF (idx p)) 0 ≤ 248) then t else s

/-! ### Registers whose write acts -/

/-- A command field's value of a write: 0 where the write does not cover it. -/
def cmdOf (v m : Nat) (f : Fld) : Nat := bits (v &&& m) f.hi f.lo

/-- A write of a register of management BAR0: `w` is what it holds with the covered bits written, `v` the value, `m` the covered bits. -/
def State.mgmtPut (s : State) (arch : Bool) (k : RegKind) (i w v m : Nat) : State :=
  let c := v &&& m
  match k with
  | .RESET_CTL => s.resetCtl c
  | .DEV_CONTROL => s.devControl c
  | .LC_REQUEST => s.lcRequest c
  | .COL_STATUS => s.colClear i c
  | .COL_FORCE => s.colForce i c
  | .COL_HIST =>
    let s := s.putFields k i v m
    if bit c 31 then s.histClear i else s
  | .COL_SEV =>
    let st := s.g DEV_STATUS.STATE
    if arch ∧ st ≠ 4 ∧ st ≠ 7 then s.setReg k i (BitVec.ofNat 64 (w &&& 0x13F)) else s
  | .ERR_PIN => if bit c 0 then s.errPinClear else s
  | .DD_CMD => s.ddCmd (c % 4)
  | .UPD_CTL => s.updCtl c
  | .UPD_CFG =>
    let s := s.putFields k i v m
    { s with led := { s.led with confirmS := s.g UPD_CFG.CONFIRM_S } }
  | .LEDGER_CTL =>
    let s := s.putFields k i v m
    { s with led := { s.led with periodS := s.g LEDGER_CTL.PERIOD_S } }
  | .LEDGER_CMD => s.ledgerCmd c
  | .WING_CACHE_CTL => if (s.wing i).rst ≠ 0 ∨ m % 4 = 0 then s else s.cacheCtl i w
  | .MEM_MAPOUT => if bit c 63 then s.mapoutGo w else s.putFields k i v m
  | .RES_CTL =>
    if m % 4 = 0 then s
    else
      let s := if bit w 0 then s.resOn else s.resOff
      if bit c 1 then s.resFlush else s
  | .REG_STACK | .REG_LINK => s.putShare k i v m
  | .QP_CMD => (match c % 4 with | 1 => s.qpWrite | 2 => s.qpReset | 3 => s.qpRead | _ => s)
  | .MR_CMD => (match c % 4 with | 1 => s.mrWrite | 2 => s.mrInvalidate | 3 => s.mrRead | _ => s)
  | .IL_CMD =>
    let s := s.putFields k i v m
    (match c % 4 with | 1 => s.ilBind | 2 => s.ilUnbind | 3 => s.ilRead | _ => s)
  | .WIN_BASE => if s.gb WIN_CFG.ENABLE i then s else s.putFields k i v m
  | .WIN_CFG => s.winCfg i w
  | .WIN_CTL => if bit c 0 then s.winSync i else s
  | .SQ_BASE | .CQ_BASE => if s.gb Q_CFG.ENABLE i then s else s.putFields k i v m
  | .Q_CFG => s.qCfgWrite 8 i w
  | .Q_CTL => if bit c 0 then s.queueResume 8 i else s
  | .DB_SQ => s.dbSq 8 i c
  | .DB_CQ => s.dbCq 8 i c
  | _ => s.putFields k i v m

/-- A write of a register of partition `p`'s BAR0. -/
def State.partPut (s : State) (p : Nat) (k : RegKind) (i w v m : Nat) : State :=
  let c := v &&& m
  match k with
  | .SLOT_CFG => s.slotCfgWrite p i w
  | .SLOT_CTL =>
    let s := if bit c 1 then s.clrFlags p i else s
    if bit c 0 then s.slotEnd p i else s
  | .SQ_BASE | .CQ_BASE => if s.gb Q_CFG.ENABLE i then s else s.putFields k i v m
  | .Q_CFG => s.qCfgWrite p i w
  | .Q_CTL => if bit c 0 then s.queueResume p i else s
  | .DB_SQ => s.dbSq p i c
  | .DB_CQ => s.dbCq p i c
  | .CS_SLIP_ADDR | .CS_DLV_ADDR => if s.g CS_STATUS.STATE i = 0 then s.putFields k i v m else s
  | .CS_CTL =>
    let s := (s.p CS_CTL.EXC_VEC i (bits w 23 16)).p CS_CTL.EXC_IRQ i (bits w 8 8)
    if m % 4 = 0 then s
    else (match c % 4 with | 0 => s.csOff p i | 1 => s.csCoherent p i | 2 => s.csSlipRegs p i | _ => s)
  | .SLIP_GO => if bit c 0 then s.slipGo p else s
  | .FLOG_BASE => if s.gb FLOG_CFG.ENABLE p then s else s.putFields k i v m
  | .FLOG_CFG => s.flogCfg p w
  | .FLOG_HEAD => s.flogHead p w
  | .XL_PROBE_PASID => s.probeStart p w
  | .TRB_CLEAR => s.trbClear p c
  | _ => s.putFields k i v m

/-- A write of one register: what does not answer, or belongs to another partition, ignores it. -/
def State.regPut (s : State) (fn : Nat) (arch : Bool) (k : RegKind) (i v m : Nat) : State :=
  let old := s.stored k i
  let w := (old - (old &&& m)) + (v &&& m)
  if s.absent k i ∨ s.dark k i ∨ (fn ≠ 0 ∧ (k.dom = .slot ∨ k.dom = .queue) ∧ !s.owns (fn - 1) i) then s
  else if fn = 0 then s.mgmtPut arch k i w v m else s.partPut (fn - 1) k i w v m

/-- A write of 4 or 8 bytes at an offset where registers lie. -/
def State.wordsPut (s : State) (fn off : Nat) (arch : Bool) (data : Bytes) : State :=
  let one (s : State) (o : Nat) (bs : Bytes) : State :=
    match regAt fn o with
    | some (k, i, b) => s.regPut fn arch k i (leNat bs * 256 ^ b) ((256 ^ bs.length - 1) * 256 ^ b)
    | none => s
  match regAt fn off, regAt fn (off + 4) with
  | some (k, i, 0), some (k', i', 4) => if data.length = 8 ∧ k = k' ∧ i = i' then one s off data else if data.length = 8 then one (one s off (data.take 4)) (off + 4) (data.drop 4) else one s off data
  | _, _ => if data.length = 8 then one (one s off (data.take 4)) (off + 4) (data.drop 4) else one s off data

/-! ### Buffers of the frames -/

/-- A write into partition function `f`'s MSI-X table (06 R227, R228): a vector that is unmasked sends what pends. -/
def State.vecsPut (s : State) (f o : Nat) (data : Bytes) : State :=
  let x := s.fn f
  let raw := (x.vecs.write o data)
  let ctl := (List.range 256).filter fun k => decide (o ≤ 16 * k + 12) && decide (16 * k + 12 < o + data.length)
  let um := ctl.foldl (fun u k => setBit u k (!bit ((data.getD (16 * k + 12 - o) 0).toNat) 0)) x.unmasked
  let vecs := ctl.foldl (fun (m : Memory) k => Memory.zero m (16 * k + 12) 4) raw
  (s.setFn f { x with vecs := vecs, unmasked := um }).msixFlush f

/-- The registers of the CXL RAS capability (06 R213): status bits clear on a 1, masks and severity are stored. -/
def State.rasPut (s : State) (o : Nat) (data : Bytes) : State :=
  let r := s.link.ras
  let put (m : Memory) : State := { s with link := { s.link with ras := m } }
  if o = 0x1100 ∨ o = 0x110C then put (r.write o (natLe 4 (w1c (r.le o 4) (leNat (data.take 4)))))
  else if o = 0x1104 ∨ o = 0x1108 then put (r.write o (natLe 4 (leNat (data.take 4) &&& 0x1CFFF)))
  else if o = 0x1110 then put (r.write o (natLe 4 (leNat (data.take 4) &&& 0x7F)))
  else s

/-- A write of the staging window (R511): bytes written while `STATE` is `WRITING` are undefined, free values here. -/
def State.winPut (s : State) (o : Nat) (data : Bytes) : State :=
  if s.g UPD_STATUS.STATE = 2 then
    let f := s.freeBytes data.length
    { f.2 with fw := { f.2.fw with win := f.2.fw.win.write o f.1, spoiled := true } }
  else { s with fw := { s.fw with win := s.fw.win.write o data } }

/-- A write into BAR0 of function `fn` that the register network passes on. -/
def State.barPut (s : State) (fn off : Nat) (arch : Bool) (data : Bytes) : State :=
  if fn = 0 then
    if 0x80000 ≤ off then s.winPut (off - 0x80000) data
    else if 0x60000 ≤ off then (if off < 0x70000 then s.rasPut (off - 0x60000) data else s)
    else if 0x31080 ≤ off ∧ off < 0x31100 then
      { s with nic := { s.nic with qpStage := s.nic.qpStage.write (off - 0x31080) (maskBytes qpMask (off - 0x31080) data) } }
    else if 0x32040 ≤ off ∧ off < 0x32060 then
      { s with nic := { s.nic with mrStage := s.nic.mrStage.write (off - 0x32040) (maskBytes mrMask (off - 0x32040) data) } }
    else s.wordsPut 0 off arch data
  else if 0x8000 ≤ off ∧ off < 0x9000 then s.vecsPut fn (off - 0x8000) data
  else if 0x5040 ≤ off ∧ off < 0x5080 then
    let p := fn - 1
    s.setSlip p { s.slipOf p with callBytes := patch (slice (s.slipOf p).callBytes 0 64) (off - 0x5040) data }
  else s.wordsPut fn off arch data

/-! ### The register network (01 R30, R32; 12 R440; 13 R460; 15 R505) -/

/-- The registers that the desk may write in a collector's frame (R505). -/
def deskCol (off : Nat) : Bool :=
  match regAt 0 off with
  | some (.COL_STATUS, _, _) | some (.WCOL_PINS, _, _) | some (.COL_HIST, _, _) => true
  | _ => false

/-- Whether the desk may make an access (R505). -/
def deskMay (fn off : Nat) (w : Bool) : Bool :=
  if fn ≠ 0 then !w
  else
    let none_ := (decide (0x1000 ≤ off) && decide (off < 0x2000)) || (decide (0x7000 ≤ off) && decide (off < 0x8000)) || decide (0x80000 ≤ off)
    let rw := (decide (0x5000 ≤ off) && decide (off < 0x6000)) || (decide (0x30000 ≤ off) && decide (off < 0x60000)) || deskCol off
    !none_ && (!w || rw)

/-- A desk access that the table does not admit (R32, R505): it reads 0 and is a breach. -/
def State.deskBreach (s : State) (core off : Nat) (w : Bool) : State :=
  let s := s.raise { source := srcId 10 (1 + core % 8) 3, info0 := off }
  if w then s else s.emit (.deskRead 0)

/-- `DESK_FORBIDDEN_ACCESS`. -/
def State.deskForbidden (s : State) (core fn off : Nat) (w : Bool) : State :=
  if !s.dev.deskRun ∨ deskMay fn off w then s else s.deskBreach core off w

/-- Writes that act in the safe state (R440): `RESET_CTL`, `ERR_PIN.CLEAR`, the collectors' RW1C bits. -/
def safeServes (off : Nat) : Bool :=
  match regAt 0 off with
  | some (.RESET_CTL, _, _) | some (.ERR_PIN, _, _) | some (.COL_STATUS, _, _) | some (.WCOL_PINS, _, _) => true
  | _ => false

/-- Whether the device's state lets a register write act: in the safe state management BAR0 is shut but for those, while a partition's registers take
writes (R440; 13 R456). -/
def State.bar0Open (s : State) (fn off : Nat) : Bool :=
  !(s.dev.held && (decide (fn ≠ 0) || !heldServes off)) && !(s.gb DEV_STATUS.SAFE && decide (fn = 0) && !safeServes off)

/-- Bit 31 of a desk write of `COL_HIST`, its `CLEAR`, does not act (R505). -/
def deskData (off : Nat) (data : Bytes) : Bytes :=
  match regAt 0 off with
  | some (.COL_HIST, _, _) => data.take 1 ++ zeros (data.length - 1)
  | _ => data

/-- `REGISTER_WRITE`: a write of BAR0 by a requester. The Archivist asks for the safe state by writing its cause, 5, to `SAFE_CAUSE` (12 R439, R453; log entry
100). -/
def State.regWrite (s : State) (who : Requester) (fn off : Nat) (data : Bytes) : State :=
  let n := data.length
  let x := s.fn fn
  if !s.hasFn fn ∨ n = 0 then s
  else match who with
    | .host =>
      if !x.mse ∨ x.d3 ∨ !bar0Ok fn off n then s.barBad fn 0 off n true
      else if s.bar0Open fn off then s.barPut fn off false data else s
    | .desk core =>
      if !s.dev.deskRun then s
      else if !deskMay fn off true then s.deskBreach core off true
      else if bar0Ok fn off n && s.bar0Open fn off then s.barPut fn off false (deskData off data) else s
    | .archivist =>
      if fn = 0 ∧ off = 0x4F10 then (if s.dev.archRun ∧ leNat data % 16 = 5 then s.enterSafe 5 0 else s)
      else if s.dev.archRun && bar0Ok fn off n && s.bar0Open fn off then s.barPut fn off true data else s
    | .i3c => if fn = 0 ∧ off = 0x6008 ∧ n = 4 ∧ s.bar0Open 0 off then s.barPut 0 off false data else s

end Sys2Proof.Machine
end

