-- ==== Sys2Proof/Machine/Ports.lean ====
section
/-!
DEFINITION. The supply, the serial reference, the I3C target and the TAP (11 R395; 15 R526; 16 R533, R535, R540 to R543, R546, R547).
-/
namespace Sys2Proof.Machine

/-! ### Supply (11 R395, 15 R526, 16 R533) -/

/-- VIN44 is lost, or leaves the range in which the first tier runs: every domain loses its supply and the device stops. The trip latch, which VIN44
powers, is lost too, and what RESET_CAUSE would say of it (11 R413). -/
def State.vinLoss (s : State) : State := { s with pwr := { s.pwr with off := true, noVin := true, tripped := none, tripCause := false } }

/-- `VIN44_POWER_UP`: the first tier and the I/O rail come up with COLD_RST_N low. -/
def State.vinUp (s : State) : State :=
  if s.pwr.noVin then ({ s with pwr := { s.pwr with noVin := false, tripped := none, tripCause := false } }).coldAssert else s

/-! ### Output pins (16 R538 to R540; `ERROR_OUT_N` is `State.errorOut`) -/

/-- The device drives its pins: it has its supply, and COLD_RST_N is released. -/
def State.driven (s : State) : Bool := !s.dev.cold && !s.pwr.off

/-- READY is high. -/
def State.readyPin (s : State) : Bool := s.driven && s.dev.ready

/-- SAFE_N is low. -/
def State.safePin (s : State) : Bool := s.driven && !s.dev.safeN

/-- THERMTRIP_N is low (11 R413): the first tier's latch holds, which VIN44 powers. -/
def State.thermTripPin (s : State) : Bool := s.pwr.tripped.isSome && s.pwr.off && !s.pwr.noVin

/-- The NVM's pins are released, so that a board programmer may drive them (14 R499): while the device is held. -/
def State.xspiReleased (s : State) : Bool := s.driven && s.dev.held

/-! ### Serial reference (16 R535) -/

/-- The serial reference, lost or within its limits. -/
def State.refPin (s : State) (lost : Bool) : State := { s with port := { s.port with serdesLost := lost } }

/-- `SERDES_REFCLK_LOSS`: the clocks go on from the internal oscillator; every Ethernet port and Ploli link goes down. -/
def State.refclkLoss (s : State) : State :=
  let s := s.refPin true
  let s := (List.range 32).foldl (fun s n => s.portDown n) s
  (List.range 4).foldl (fun s l => s.ploliDown l) s

/-- `SERDES_REFCLK_RETURN`: ports and links may train again (`ETH_PORT_UP`, `PLOLI_LINK_TRAIN`). -/
def State.refclkReturn (s : State) : State := s.refPin false

/-- `CALIBRATION_COMPLETE` without the reference: every Ethernet and Ploli lane counts as failed (R535). -/
def State.calibrationDone (s : State) (fails : List Nat) : State :=
  let lanes := ((List.range 32).filter fun n => decide (s.portLanes n ≠ 0)).map (131072 + ·) ++ (List.range 4).map (196608 + ·)
  s.calibrated (if s.port.serdesLost then fails.filter (fun x => decide (x / 65536 ≠ 2 ∧ x / 65536 ≠ 3)) ++ lanes else fails)

/-! ### I3C (16 R542, R543) -/

/-- The static address, which SETDASA names. -/
def State.i3cStatic (s : State) : Nat := s.arec.i3c

/-- The provisional identifier. -/
def State.i3cPid (s : State) : Nat := 0x1D5C * 2 ^ 33 + 0x0320 * 2 ^ 16 + s.fuses.uid % 2 ^ 12

/-- The target answers: from 10 ms after the release of COLD_RST_N. -/
def State.i3cUp (s : State) : Bool := decide (s.led.t0 + 1562500 ≤ s.time)

/-- `I3C_ADDRESS_ASSIGN`. -/
def State.i3cAssign (s : State) (a : Nat) : State :=
  if s.i3cUp then { s with port := { s.port with dyn := some (a % 128) } } else s

/-- `I3C_PRIVATE_WRITE`: three bytes of offset, then data; only a 4-byte write of `PWR_CAP` acts. -/
def State.i3cWrite (s : State) (data : Bytes) : State :=
  let off := leNat (data.take 3)
  if !s.i3cUp ∨ s.port.dyn = none ∨ data.length < 3 ∨ off / 2 ^ 20 ≠ 0 then s
  else
    let s : State := { s with port := { s.port with off := off, fetchTo := s.time + 156250 } }
    if data.length = 7 then s.regWrite .i3c 0 off (data.drop 3) else s

/-- The ranges that a private read shows (R543). -/
def i3cShows (o : Nat) : Bool :=
  decide (o < 0x2000) || (decide (0x4F00 ≤ o) && decide (o < 0x5000)) || (decide (0x6000 ≤ o) && decide (o < 0x6600))

/-- `I3C_PRIVATE_READ`: up to 256 bytes from the last offset. For 1 ms after an offset write the target may decline; whether it does is open. -/
def State.i3cRead (s : State) (len : Nat) : State :=
  if !s.i3cUp ∨ s.port.dyn = none then s
  else
    let read (s : State) : State :=
      let n := min len 256
      let bs := (List.range n).flatMap fun i => if i3cShows (s.port.off + i) then s.peek 0 (s.port.off + i) 1 else [0]
      ({ s with port := { s.port with off := s.port.off + n } }).emit (.i3cRead bs)
    if s.time < s.port.fetchTo then
      let r := s.freeVal
      if r.1 % 2 = 1 then r.2.emit .i3cNack else read r.2
    else read s

/-- `I3C_DISEC`: bit 0 of the event byte disables in-band interrupts. -/
def State.i3cDisec (s : State) (mask : Nat) : State :=
  if s.i3cUp ∧ bit mask 0 then { s with port := { s.port with ibi := false } } else s

/-- The in-band interrupt (R543): as the enabled management status becomes non-zero, at most once per 1 ms. -/
def State.ibiSync (s : State) : State :=
  if !s.intLevel then { s with port := { s.port with raised := false } }
  else if s.port.raised || !s.port.ibi || s.port.dyn.isNone || !s.i3cUp
      || (match s.port.lastIbi with | some t => decide (s.time < t + 156250) | none => false) then s
  else ({ s with port := { s.port with raised := true, lastIbi := some s.time } }).emit (.ibi (s.mgmtStatus % 256))

/-! ### TAP (16 R546, R547; 13 R468) -/

/-- What IDCODE reads (R546). -/
def tapIdcode : Nat := 0x34D209CB

/-- What the instruction register captures (R547). -/
def tapCapture : Nat := 1

/-- Whether the life cycle, the device state and the wipe admit an instruction. -/
def State.tapMay (s : State) (code : Nat) : Bool :=
  let lc := s.dev.lifecycle
  let test := decide (s.g DEV_STATUS.STATE = 5)
  let open_ := decide (lc = 1 ∨ lc = 2 ∨ lc = 4 ∨ lc = 5)
  match code with
  | 0x02 | 0xFF => true
  | 0x00 | 0x03 | 0x04 => open_ && test && s.dev.wiped
  | 0x01 => open_ && s.dev.wiped
  | 0x10 => decide (lc = 1 ∨ lc = 5) && s.dev.wiped
  | 0x11 => decide (lc = 1 ∨ lc = 4 ∨ lc = 5) && s.dev.wiped
  | _ => false

/-- `TAP_INSTRUCTION_LOAD`: the instruction, or bypass where it is withheld. -/
def State.tapLoad (s : State) (code : Nat) : State :=
  { s with port := { s.port with ir := if s.tapMay code then code else 0xFF, tapReset := false } }

/-- `TAP_RESET`: Test-Logic-Reset, with IDCODE selected. -/
def State.tapRst (s : State) : State := { s with port := { s.port with ir := 2, tapReset := true } }

end Sys2Proof.Machine
end

