-- ==== Sys2Proof/Machine/Fin.lean ====
section
/-!
DEFINITION. How a command ends: the events that it raised are collected and act (12 R428 to R445, R552), and the interrupt levels follow. Also the
reports of the hardware (R426, R282, R250, R441), the error pin and the timer of CHIP_RST.
-/
namespace Sys2Proof.Machine

/-! ### Containment and reactions (12 R433, R438, R444, R552) -/

/-- The wings that an event of class 1 or 2 concerns: its own, or for the ring of a die all four. -/
def wingsHit (src : Nat) : List Nat :=
  let w := src / 128 % 32
  if src / 4096 = 2 ∧ src % 128 = 0x40 then (List.range 4).map (· + w / 4 * 4) else [w]

/-- Containment of an uncorrected error (R438) where the event itself names the work; what consumes bad data ends where it reads them. -/
def State.contain (s : State) (e : Event) : State :=
  match e.source / 4096 with
  | 0 => if e.slot < 64 then s.endSlot e.slot { status := 5 } else s
  | 2 => (wingsHit e.source).foldl (fun s w => (s.slotsInWing w).foldl (fun s n => s.endSlot n { status := 5 }) s) s
  | 8 => if e.source % 128 = 1 ∧ e.slot < 64 then s.endSlot e.slot { status := 4 } else s
  | _ => s

/-- A carrel is owed a substitution (R443); a spare that reports an error of its own is free no longer (R444). -/
def State.oweSubst (s : State) (p : Nat) : State :=
  match s.deviceOf p with
  | none =>
    let w := p / 144
    let x := s.carrel p
    if x.failed ∨ p % 144 < 128 then s
    else (s.setCarrel p { x with failed := true }).p WING_STATUS.SPARES_FREE w (s.g WING_STATUS.SPARES_FREE w - 1)
  | some _ => if p ∈ s.flt.subst then s else { s with flt := { s.flt with subst := s.flt.subst ++ [p] } }

/-- The trap of the Archivist. -/
def State.nmt (s : State) : State := if s.dev.archRun then { s with flt := { s.flt with trap := true } } else s

/-- R552: the 64th corrected error of a carrel within 1 s owes a substitution and traps, whatever the mask. -/
def State.ceCount (s : State) (p : Nat) : State :=
  let win := (s.flt.ceTimes.filter fun e => decide (s.time < e.2 + 156250000)) ++ [(p, s.time)]
  let own := win.filter fun e => decide (e.1 = p)
  if 64 ≤ own.length then
    (({ s with flt := { s.flt with ceTimes := win.filter fun e => decide (e.1 ≠ p) } } : State).oweSubst p).nmt
  else { s with flt := { s.flt with ceTimes := win } }

/-- BLK_RST (R433). A WING reset that a class 2 UC takes starts the 1 s of R444. A port that is down already comes up by `ETH_PORT_UP`, once its lanes have
trained (log entry 91). -/
def State.blkRst (s : State) (e : Event) (sev : Nat) : State :=
  let inst := e.source / 128 % 32
  match e.source / 4096 with
  | 0 => if e.forced.isSome then s else s.carrelReset (inst * 144 + e.info0 % 256)
  | 1 => s.wingReset inst 1
  | 2 => (wingsHit e.source).foldl (fun s w => s.wingReset w (if sev = 1 then 2 else 1)) s
  | 6 => if e.source % 128 = 2 ∧ e.forced.isNone then s else (s.portDown inst).portUpRow inst
  | 7 => s.ploliRetrain inst
  | 10 => if inst = 0 then s else s.mgmtReset 1
  | _ => s

/-- BLK_RST is ignored for every class but these (R433). -/
def blkClass (src : Nat) : Bool :=
  match src / 4096 with
  | 0 | 1 | 2 | 6 => true
  | 7 => decide (src / 128 % 32 < 4)
  | 10 => decide (src / 128 % 32 ≠ 0)
  | _ => false

/-- The uncorrected error of frame 37's own registers, not forced (R442). -/
def ownFault (e : Event) : Bool := e.source == srcId 13 1 0x65 && e.forced.isNone

/-- One event is collected: recorded, contained, and its reactions taken. A FATAL event enters the safe state (R434), in which a further one only
records (R440). Frame 37 records no uncorrected error of its own registers, which are not sound (R442). -/
def State.collect (s : State) (e : Event) : State :=
  let r := s.effSev e
  let sev := r.1
  let cls := e.source / 4096
  let safe := s.gb DEV_STATUS.SAFE
  let m := if sev = 3 then 0 else reactTaken (s.maskOf e.source sev) sev safe
  let m := if blkClass e.source then m else m &&& 0x1B
  let s := if ownFault e then s else s.record e sev r.2 m
  let real := e.forced.isNone
  let s := if bit m 1 then s.nmt else s
  let s := if bit m 4 then s.pinPulse else s
  let s : State := if bit m 3 ∧ s.flt.chip.isNone then { s with flt := { s.flt with chip := some (s.time + 1563, e.source) } } else s
  let s := if cls = 0 ∧ sev = 0 ∧ real ∧ !safe then s.ceCount (e.source / 128 % 32 * 144 + e.info0 % 256) else s
  let s :=
    if sev = 1 ∧ !safe then
      let s := if real then s.contain e else s
      let s := if cls = 0 ∧ real then s.oweSubst (e.source / 128 % 32 * 144 + e.info0 % 256) else s
      if cls = 2 then (wingsHit e.source).foldl (fun s w => if s.cls2Again w ∧ s.g WING_STATUS.STATE w ≠ 3 then s.wingFail w (decide (e.source % 128 = 4)) else s) s else s
    else s
  let s := if bit m 2 then s.blkRst e sev else s
  if sev = 2 then
    let s : State := if cls = 10 ∧ e.source / 128 % 32 = 0 ∧ 1 ≤ e.source % 128 ∧ e.source % 128 ≤ 2 then
        { s with dev := { s.dev with archRun := false } } else s
    s.enterSafe (safeCause e.source) e.source
  else s

/-- The events raised are collected, those too that their reactions raise; `fin` allows for more than reactions raise, so that none is left. -/
def State.collectN : Nat → State → State
  | 0, s => { s with evq := [] }
  | n + 1, s =>
    match s.evq with
    | [] => s
    | e :: t => State.collectN n (({ s with evq := t } : State).collect e)

/-- The record of an entry into the safe state, which a running Archivist commits (R440). -/
def State.safeLedger (s : State) : State :=
  if s.dev.safeRec then
    let s : State := { s with dev := { s.dev with safeRec := false } }
    s.ledger 0xB (natLe 8 (s.reg .SAFE_CAUSE 0).toNat)
  else s

/-- The interrupt outputs follow their sources (06 R230, 16 R543). -/
def State.lines (s : State) : State := s.intxSync.ibiSync

/-- An event takes its place among those that one command raises: ahead of the first of its collector with a higher source, so that each collector
takes them in ascending order (R428, R447). -/
def evInsert (e : Event) : List Event → List Event
  | [] => [e]
  | x :: t => if colOf x.source = colOf e.source ∧ e.source < x.source then e :: x :: t else x :: evInsert e t

/-- The events that a command raised, in the order in which the collectors take them. -/
def State.evSort (s : State) : State := { s with evq := s.evq.foldl (fun a e => evInsert e a) [] }

/-- The end of every command. -/
def State.fin (s : State) : State := ((s.evSort.collectN (64 + 8 * s.evq.length)).safeLedger).lines

/-! ### The forms of the meanings -/

/-- What a command leaves to the outside: the queue of commands and COLD_RST_N are inputs, which only their own rows drive. -/
def State.inputsOf (t s : State) : State := { t with pending := s.pending, dev := { t.dev with cold := s.dev.cold } }

/-- A command of a device that has supply and whose COLD_RST_N is released; otherwise nothing happens (13 R460, R533). -/
def act (s : State) (f : State → State) : Host.Outcome State Fault Refusal :=
  .next (if s.dev.cold || s.pwr.off then s else ((f s).fin).inputsOf s)

/-- A row that is a change of an input pin: the pin has its level also while COLD_RST_N is asserted or the supply is off (16 R531, R550). -/
def pinRow (s : State) (level f : State → State) : Host.Outcome State Fault Refusal :=
  if s.dev.cold || s.pwr.off then .next (level s) else act s f

/-- The host's accesses of BAR0 of function `fn` at `off` act (06 R208, R234; 12 R440; 13 R460). -/
def State.hostMay (s : State) (fn off : Nat) : Bool :=
  s.hasFn fn && (s.fn fn).mse && !(s.fn fn).d3 && s.bar0Open fn off

/-- A row that is the host's write of one register. -/
def hostReg (s : State) (fn off : Nat) (f : State → State) : Host.Outcome State Fault Refusal :=
  act s fun s => if s.hostMay fn off then f s else s

/-- A row that is the host's read of one register: the safe state admits those of the management function (06 R241). -/
def hostGet (s : State) (fn off : Nat) (f : State → State) : Host.Outcome State Fault Refusal :=
  act s fun s =>
    if s.hasFn fn && (s.fn fn).mse && !(s.fn fn).d3 && !(s.dev.held && (decide (fn ≠ 0) || !heldServes off))
        && !(decide (fn ≠ 0) && s.gb DEV_STATUS.SAFE) then f s else s

/-- A row that is the host's write of one field of function `fn`'s configuration space: a function that answers the request (06 R205, R235;
13 R460). -/
def cfgRow (s : State) (fn : Nat) (f : State → State) : Host.Outcome State Fault Refusal :=
  act s fun s => if s.link.up && s.hasFn fn && !(s.dev.held && decide (fn ≠ 0)) && !(s.fn fn).flr && !s.dev.resetRun then f s else s

/-! ### Reports of the hardware -/

/-- The sub-sources that R426 assigns. -/
def subOk (cls inst sub : Nat) : Bool :=
  match cls with
  | 0 => decide (sub ≤ 4)
  | 1 => decide (sub ≤ 5)
  | 2 => decide (sub ≤ 4) || decide (sub = 0x40) || decide (sub = 0x41 ∧ inst % 4 = 0)
  | 3 => decide (sub % 64 ≤ 5)
  | 4 => decide (inst < 12) || decide (sub ≤ 2)
  | 5 => decide (sub ≤ 5)
  | 6 => decide (sub ≤ 3)
  | 7 => decide (sub ≤ 6)
  | 8 => decide (sub ≤ 2)
  | 9 => decide (sub < (if inst = 2 then 56 else 1))
  | 10 => decide (sub ≤ 3)
  | 11 => decide (sub ≤ 2)
  | 12 => decide (sub ≤ 4)
  | _ => decide (sub % 64 < (if inst = 0 then 32 else 38))

/-- A line of a wing is dropped and read again from its home (R282). -/
def State.reread (s : State) (w l : Nat) : State :=
  let f := (s.wline w l).fn
  let s := s.setWline w l (noWLine l)
  if s.filling w l then s
  else s.fillMiss w l 0x01 (((s.slotsOf (f - 1)).head?).getD noSlot) (s.g XL_STATUS.EPOCH (f - 1)) false

/-- An uncorrected error in a wing's line (R282): one in S or E is read again; one in M or O, or in the eviction buffer, is gone, and a device line is
lost. -/
def State.wingLoses (s : State) (w sub l : Nat) : State :=
  let st := (s.wline w l).st
  let gone (s : State) : State := if isDev l then s.loseLine l else s
  if sub = 1 ∧ 1 ≤ st ∧ st ≤ 2 then s.reread w l
  else if sub = 2 ∧ isDev l ∧ 3 ≤ st then gone (s.setWline w l (noWLine l))
  else if sub = 3 ∧ !isDev l ∧ 3 ≤ st then s.setWline w l (noWLine l)
  else if sub = 5 then
    match s.ebOf w l with
    | some e =>
      let s : State := { s.ebCancel w l with coh := { s.coh with wbs := s.coh.wbs.filter fun x => decide (x ≠ (w, l)) } }
      if e.st = 2 then s else gone s
    | none => s
  else s

/-- A catalogue entry read with an uncorrected error (R250): every holder is snooped, dirty data are written back, the entry is freed; a transaction
that has read it and waits for its snoops goes on as if no entry had existed, in the entry's way. Once it has gone further, the entry is its own
(log entry 82). -/
def State.rebuild (s : State) (l : Nat) : State :=
  let e := s.ent l
  let late : Bool := match s.runsOn l with
    | some h => decide (h.dies = 0)
    | none => false
  if e = {} then s
  else if late then s.bump HOME_COUNTS.REBUILDS (homeOf l)
  else
    let f := s.lineFn l
    let r := s.snoopAll l 0x44 0x1FF
    let s := match r.2.1 with
      | some d => r.2.2.putBack f l d
      | none => r.2.2
    ((if s.transient l then s.setEnt l { way := e.way } else s.freeEnt l)).bump HOME_COUNTS.REBUILDS (homeOf l)

/-- `HARDWARE_ERROR_EVENT`: a block reports an error. `info0` is the record's detail: the physical index (class 0), the line's CA (classes 1 and
3), the DPA (class 4), the slot served (class 8). A source that the manual does not assign reports nothing. In a wipe an uncorrected word is the second failure of the write check (13 R474), and its channel
is treated as one that fails calibration (R459). -/
def State.hwError (s : State) (src info0 : Nat) : State :=
  let cls := src / 4096
  let inst := src / 128 % 32
  let sub := src % 128
  let l := info0 / 64
  let e : Event := { source := src, info0 := info0 }
  if 13 < cls ∨ maxInst cls < inst ∨ !subOk cls inst sub then s
  else match cls with
    | 0 =>
      if 144 ≤ info0 % 256 then s
      else match (s.deviceOf (inst * 144 + info0 % 256)).bind fun c => s.slotOfShelf (shelfOf c) with
        | some n => s.raise { e with slot := n, part := (s.partOf n).getD 0xF }
        | none => s.raise e
    | 1 => ((s.wingLoses inst sub l).raise e).goOn
    | 3 => (if sub % 64 = 1 ∧ homeOf l = inst + 32 * (sub / 64) then (s.rebuild l).goOn else s).raise e
    | 5 => (if inst < 4 ∧ sub = 0 then s.linkErr else s).raise e
    | 4 =>
      let q := inst * 32 + sub % 32
      if inst = 12 then
        (if sub = 1 ∧ (s.resLine (2 ^ 46 + info0 / 64)).way ≠ 0 then (let r := s.resErr info0; if r.1 then r.2.raise e else r.2) else s.raise e)
      else match sub / 32 with
        | 0 => if s.chanOf info0 = q then s.memCe info0 else s.raise e
        | 1 =>
          if s.g DEV_STATUS.STATE = 3 then s.calChannel q
          else if s.chanOf info0 = q then s.memUc info0 else s.raise e
        | 2 => (s.raise e).chanDown q
        | _ => s.raise e
    | 6 => if sub = 2 then s.portDown inst else s.raise e
    | 7 => if sub = 2 ∧ inst < 4 then s.ploliDown inst else s.raise e
    | 9 => (s.sensorErr inst sub).raise e
    | 8 =>
      let n := info0 % 256
      if sub = 1 ∧ n < 64 then s.raise { e with slot := n, part := (s.partOf n).getD 0xF } else s.raise e
    | _ => s.raise e

/-- `ARCHIVIST_WATCHDOG_EXPIRE` (R441). -/
def State.watchdog (s : State) : State := if s.dev.archRun then s.raise { source := srcId 10 0 2 } else s

/-! ### The error pin and CHIP_RST (12 R433, R437) -/

/-- `ERROR_PIN_HOLD`: the Archivist takes the pin over, once per pulse. -/
def State.pinHold (s : State) : State :=
  if s.flt.pulse && !s.flt.pulseHeld && s.dev.archRun then
    ({ s with flt := { s.flt with pulseHeld := true } } : State).p ERR_PIN.HELD 0 1
  else s

/-- `ERROR_PIN_PULSE_END`: after 1 µs once the Archivist holds the pin, and after 200 µs in any case. -/
def State.pulseEnd (s : State) : State :=
  if s.flt.pulse ∧ ((s.flt.pulseHeld ∧ s.flt.pulseAt + 157 ≤ s.time) ∨ s.flt.pulseAt + 31250 ≤ s.time) then
    { s with flt := { s.flt with pulse := false } }
  else s

/-- `CHIP_RESET_TIMER`: 10 µs after the record the device takes a DEVICE reset, unless the safe state came first. -/
def State.chipTimer (s : State) : State :=
  match s.flt.chip with
  | some (t, src) =>
    if s.time < t then s
    else
      let s : State := { s with flt := { s.flt with chip := none } }
      if s.gb DEV_STATUS.SAFE then s else s.resetNow 7 src true
  | none => s

end Sys2Proof.Machine
end

