-- ==== Sys2Proof/Machine/FamCarrel.lean ====
section
/-!
DEFINITION. What a carrel does: the lines it issues, by the operations they hold (02; 03), the exceptions that end its work, a transfer's end.
-/
namespace Sys2Proof.Machine

/-- The command "carrel `c` issues its next line, which holds an operation that satisfies `sel`" (02 R47 to R71); a transfer that the line starts
begins at once. -/
def carRow (c : Nat) (sel : Op → Nat → Bool) (s : State) : Host.Outcome State Fault Refusal :=
  act s fun s =>
    let t := s.issueIf c sel
    match s.front c with
    | some (_, l) => if l.mov.sat (fun o _ => Op.usesTag o) then t.pump c else t
    | none => t

/-- A line whose four slots are all NOP issues. -/
def State.nopLine (s : State) (c : Nat) : State :=
  match s.front c with
  | some (k, l) => if l.ctl = .nop ∧ l.mov = .nop ∧ l.vec = .nop ∧ l.mat = .nop then s.issueLine k else s
  | none => s

/-- A line that raises ILL for what it is: an unassigned or misplaced operation, a reserved field, two writes of one register. -/
def State.illLine (s : State) (c : Nat) : State :=
  match s.front c with
  | some (k, l) => if l.anyIll || l.doubleWrite then s.issueLine k else s
  | none => s

/-- The line pointer is past the last line (R52). -/
def State.pastEnd (s : State) (c : Nat) : State :=
  match s.ctx c with
  | some k => if s.mayIssue k && decide (k.fo.lines ≤ (s.carrel k.p).lp) then s.issueLine k else s
  | none => s

/-- A carrel that has not completed `HALT` has reached its budget (R79), gated or not. -/
def State.budgetEnd (s : State) (c : Nat) : State :=
  match s.ctx c with
  | some k =>
    let st := s.g SLOT_STATUS.STATE k.n
    if s.budgetHit k.inv c && decide (3 ≤ st ∧ st ≤ 5) && (s.slot k.n).ending.isNone && !s.gb DEV_STATUS.SAFE then s.folioExc k 9 (s.carrel k.p).lp else s
  | none => s

/-- `NOP` (R47). -/
def execNop (c : Nat) (s : State) : Host.Outcome State Fault Refusal :=
  act s fun s => s.nopLine c

/-- `HALT` (R55). -/
def execHalt (c : Nat) (s : State) : Host.Outcome State Fault Refusal :=
  carRow c (fun o _ => decide (o = .HALT)) s

/-- `BR` (R55). -/
def execBr (c : Nat) (s : State) : Host.Outcome State Fault Refusal :=
  carRow c (fun o _ => decide (o = .BR)) s

/-- `LOOP` (R55). -/
def execLoop (c : Nat) (s : State) : Host.Outcome State Fault Refusal :=
  carRow c (fun o _ => decide (o = .LOOP)) s

/-- `BAR_ARRIVE_WAIT` (R153). -/
def execBarArriveWait (c : Nat) (s : State) : Host.Outcome State Fault Refusal :=
  carRow c (fun o w => decide (o = .BAR) && decide (cFunc w % 4 = 0)) s

/-- `BAR_ARRIVE` (R153). -/
def execBarArrive (c : Nat) (s : State) : Host.Outcome State Fault Refusal :=
  carRow c (fun o w => decide (o = .BAR) && decide (cFunc w % 4 = 1)) s

/-- `BAR_WAIT` (R153). -/
def execBarWait (c : Nat) (s : State) : Host.Outcome State Fault Refusal :=
  carRow c (fun o w => decide (o = .BAR) && decide (cFunc w % 4 = 2)) s

/-- `WAITS` (R55). -/
def execWaits (c : Nat) (s : State) : Host.Outcome State Fault Refusal :=
  carRow c (fun o _ => decide (o = .WAITS)) s

/-- `ADD` (R55). -/
def execAdd (c : Nat) (s : State) : Host.Outcome State Fault Refusal :=
  carRow c (fun o _ => decide (o = .ADD)) s

/-- `SUB` (R55). -/
def execSub (c : Nat) (s : State) : Host.Outcome State Fault Refusal :=
  carRow c (fun o _ => decide (o = .SUB)) s

/-- `MUL` (R55). -/
def execMul (c : Nat) (s : State) : Host.Outcome State Fault Refusal :=
  carRow c (fun o _ => decide (o = .MUL)) s

/-- `AND` (R55). -/
def execAnd (c : Nat) (s : State) : Host.Outcome State Fault Refusal :=
  carRow c (fun o _ => decide (o = .AND)) s

/-- `OR` (R55). -/
def execOr (c : Nat) (s : State) : Host.Outcome State Fault Refusal :=
  carRow c (fun o _ => decide (o = .OR)) s

/-- `XOR` (R55). -/
def execXor (c : Nat) (s : State) : Host.Outcome State Fault Refusal :=
  carRow c (fun o _ => decide (o = .XOR)) s

/-- `SHL` (R55). -/
def execShl (c : Nat) (s : State) : Host.Outcome State Fault Refusal :=
  carRow c (fun o _ => decide (o = .SHL)) s

/-- `SHR` (R55). -/
def execShr (c : Nat) (s : State) : Host.Outcome State Fault Refusal :=
  carRow c (fun o _ => decide (o = .SHR)) s

/-- `SRA` (R55). -/
def execSra (c : Nat) (s : State) : Host.Outcome State Fault Refusal :=
  carRow c (fun o _ => decide (o = .SRA)) s

/-- `LI` (R55). -/
def execLi (c : Nat) (s : State) : Host.Outcome State Fault Refusal :=
  carRow c (fun o _ => decide (o = .LI)) s

/-- `LUI` (R55). -/
def execLui (c : Nat) (s : State) : Host.Outcome State Fault Refusal :=
  carRow c (fun o _ => decide (o = .LUI)) s

/-- `CMP` (R56). -/
def execCmp (c : Nat) (s : State) : Host.Outcome State Fault Refusal :=
  carRow c (fun o _ => decide (o = .CMP)) s

/-- `SEL` (R55). -/
def execSel (c : Nat) (s : State) : Host.Outcome State Fault Refusal :=
  carRow c (fun o _ => decide (o = .SEL)) s

/-- `PLOG` (R55). -/
def execPlog (c : Nat) (s : State) : Host.Outcome State Fault Refusal :=
  carRow c (fun o _ => decide (o = .PLOG)) s

/-- `LD` (R55). -/
def execLd (c : Nat) (s : State) : Host.Outcome State Fault Refusal :=
  carRow c (fun o _ => decide (o = .LD)) s

/-- `ST` (R55). -/
def execSt (c : Nat) (s : State) : Host.Outcome State Fault Refusal :=
  carRow c (fun o _ => decide (o = .ST)) s

/-- `RDSR` (R57). -/
def execRdsr (c : Nat) (s : State) : Host.Outcome State Fault Refusal :=
  carRow c (fun o _ => decide (o = .RDSR)) s

/-- `WRSR` (R107). -/
def execWrsr (c : Nat) (s : State) : Host.Outcome State Fault Refusal :=
  carRow c (fun o _ => decide (o = .WRSR)) s

/-- `MLD` (R58). -/
def execMld (c : Nat) (s : State) : Host.Outcome State Fault Refusal :=
  carRow c (fun o _ => decide (o = .MLD)) s

/-- `MST` (R58). -/
def execMst (c : Nat) (s : State) : Host.Outcome State Fault Refusal :=
  carRow c (fun o _ => decide (o = .MST)) s

/-- `MLD2` (R58). -/
def execMld2 (c : Nat) (s : State) : Host.Outcome State Fault Refusal :=
  carRow c (fun o _ => decide (o = .MLD2)) s

/-- `MST2` (R58). -/
def execMst2 (c : Nat) (s : State) : Host.Outcome State Fault Refusal :=
  carRow c (fun o _ => decide (o = .MST2)) s

/-- `LCOPY` (R58). -/
def execLcopy (c : Nat) (s : State) : Host.Outcome State Fault Refusal :=
  carRow c (fun o _ => decide (o = .LCOPY)) s

/-- `PASS` (R60). -/
def execPass (c : Nat) (s : State) : Host.Outcome State Fault Refusal :=
  carRow c (fun o _ => decide (o = .PASS)) s

/-- `PWAIT` (R61). -/
def execPwait (c : Nat) (s : State) : Host.Outcome State Fault Refusal :=
  carRow c (fun o _ => decide (o = .PWAIT)) s

/-- `MWAIT` (R55). -/
def execMwait (c : Nat) (s : State) : Host.Outcome State Fault Refusal :=
  carRow c (fun o _ => decide (o = .MWAIT)) s

/-- `MTOUCH` (R58). -/
def execMtouch (c : Nat) (s : State) : Host.Outcome State Fault Refusal :=
  carRow c (fun o _ => decide (o = .MTOUCH)) s

/-- `VLD` (R58). -/
def execVld (c : Nat) (s : State) : Host.Outcome State Fault Refusal :=
  carRow c (fun o _ => decide (o = .VLD)) s

/-- `VST` (R58). -/
def execVst (c : Nat) (s : State) : Host.Outcome State Fault Refusal :=
  carRow c (fun o _ => decide (o = .VST)) s

/-- `VGATHER` (R58). -/
def execVgather (c : Nat) (s : State) : Host.Outcome State Fault Refusal :=
  carRow c (fun o _ => decide (o = .VGATHER)) s

/-- `TLD` (R58). -/
def execTld (c : Nat) (s : State) : Host.Outcome State Fault Refusal :=
  carRow c (fun o _ => decide (o = .TLD)) s

/-- `TST` (R58). -/
def execTst (c : Nat) (s : State) : Host.Outcome State Fault Refusal :=
  carRow c (fun o _ => decide (o = .TST)) s

/-- `VADD` (R101). -/
def execVadd (c : Nat) (s : State) : Host.Outcome State Fault Refusal :=
  carRow c (fun o _ => decide (o = .VADD)) s

/-- `VSUB` (R101). -/
def execVsub (c : Nat) (s : State) : Host.Outcome State Fault Refusal :=
  carRow c (fun o _ => decide (o = .VSUB)) s

/-- `VMUL` (R101). -/
def execVmul (c : Nat) (s : State) : Host.Outcome State Fault Refusal :=
  carRow c (fun o _ => decide (o = .VMUL)) s

/-- `VFMA` (R101). -/
def execVfma (c : Nat) (s : State) : Host.Outcome State Fault Refusal :=
  carRow c (fun o _ => decide (o = .VFMA)) s

/-- `VMAX` (R63). -/
def execVmax (c : Nat) (s : State) : Host.Outcome State Fault Refusal :=
  carRow c (fun o _ => decide (o = .VMAX)) s

/-- `VMIN` (R63). -/
def execVmin (c : Nat) (s : State) : Host.Outcome State Fault Refusal :=
  carRow c (fun o _ => decide (o = .VMIN)) s

/-- `VAND` (R63). -/
def execVand (c : Nat) (s : State) : Host.Outcome State Fault Refusal :=
  carRow c (fun o _ => decide (o = .VAND)) s

/-- `VOR` (R63). -/
def execVor (c : Nat) (s : State) : Host.Outcome State Fault Refusal :=
  carRow c (fun o _ => decide (o = .VOR)) s

/-- `VXOR` (R63). -/
def execVxor (c : Nat) (s : State) : Host.Outcome State Fault Refusal :=
  carRow c (fun o _ => decide (o = .VXOR)) s

/-- `VSH` (R63). -/
def execVsh (c : Nat) (s : State) : Host.Outcome State Fault Refusal :=
  carRow c (fun o _ => decide (o = .VSH)) s

/-- `VMOV` (R63). -/
def execVmov (c : Nat) (s : State) : Host.Outcome State Fault Refusal :=
  carRow c (fun o _ => decide (o = .VMOV)) s

/-- `VBCAST` (R63). -/
def execVbcast (c : Nat) (s : State) : Host.Outcome State Fault Refusal :=
  carRow c (fun o _ => decide (o = .VBCAST)) s

/-- `VEXT` (R63). -/
def execVext (c : Nat) (s : State) : Host.Outcome State Fault Refusal :=
  carRow c (fun o _ => decide (o = .VEXT)) s

/-- `VPERM` (R63). -/
def execVperm (c : Nat) (s : State) : Host.Outcome State Fault Refusal :=
  carRow c (fun o _ => decide (o = .VPERM)) s

/-- `VRED` (R63). -/
def execVred (c : Nat) (s : State) : Host.Outcome State Fault Refusal :=
  carRow c (fun o _ => decide (o = .VRED)) s

/-- `VCMP` (R101). -/
def execVcmp (c : Nat) (s : State) : Host.Outcome State Fault Refusal :=
  carRow c (fun o _ => decide (o = .VCMP)) s

/-- `VSEL` (R63). -/
def execVsel (c : Nat) (s : State) : Host.Outcome State Fault Refusal :=
  carRow c (fun o _ => decide (o = .VSEL)) s

/-- `VCVT` (R102). -/
def execVcvt (c : Nat) (s : State) : Host.Outcome State Fault Refusal :=
  carRow c (fun o _ => decide (o = .VCVT)) s

/-- `VACT` (R65). -/
def execVact (c : Nat) (s : State) : Host.Outcome State Fault Refusal :=
  carRow c (fun o _ => decide (o = .VACT)) s

/-- `VSCALE` (R101). -/
def execVscale (c : Nat) (s : State) : Host.Outcome State Fault Refusal :=
  carRow c (fun o _ => decide (o = .VSCALE)) s

/-- `MMA` (R95). -/
def execMma (c : Nat) (s : State) : Host.Outcome State Fault Refusal :=
  carRow c (fun o _ => decide (o = .MMA)) s

/-- `MMAM` (R99). -/
def execMmam (c : Nat) (s : State) : Host.Outcome State Fault Refusal :=
  carRow c (fun o _ => decide (o = .MMAM)) s

/-- `TZERO` (R66). -/
def execTzero (c : Nat) (s : State) : Host.Outcome State Fault Refusal :=
  carRow c (fun o _ => decide (o = .TZERO)) s

/-- `TCOPY` (R66). -/
def execTcopy (c : Nat) (s : State) : Host.Outcome State Fault Refusal :=
  carRow c (fun o _ => decide (o = .TCOPY)) s

/-- `TGET` (R66). -/
def execTget (c : Nat) (s : State) : Host.Outcome State Fault Refusal :=
  carRow c (fun o _ => decide (o = .TGET)) s

/-- `TPUT` (R66). -/
def execTput (c : Nat) (s : State) : Host.Outcome State Fault Refusal :=
  carRow c (fun o _ => decide (o = .TPUT)) s

/-- `ILLEGAL_LINE` (R47). -/
def execIllegalLine (c : Nat) (s : State) : Host.Outcome State Fault Refusal :=
  act s fun s => s.illLine c

/-- `FETCH_PAST_END` (R52). -/
def execFetchPastEnd (c : Nat) (s : State) : Host.Outcome State Fault Refusal :=
  act s fun s => s.pastEnd c

/-- `BUDGET_OVERRUN` (R79). -/
def execBudgetOverrun (c : Nat) (s : State) : Host.Outcome State Fault Refusal :=
  act s fun s => s.budgetEnd c

/-- `MOVER_TAG_COMPLETE` (R59). -/
def execMoverTagComplete (c : Nat) (tag : Nat) (s : State) : Host.Outcome State Fault Refusal :=
  act s fun s => s.tagComplete c tag

end Sys2Proof.Machine
end

