-- ==== Sys2Proof/Machine/FamCascade.lean ====
section
/-!
DEFINITION. The Ploli links, the cascade group, interloans and windows (10 R375 to R388, R393, R394).
-/
namespace Sys2Proof.Machine

/-- `PLOLI_LINK_TRAIN` (R375). -/
def execPloliLinkTrain (link : Nat) (peer : PloliPeer) (s : State) : Host.Outcome State Fault Refusal :=
  act s fun s => s.ploliTrain link peer

/-- `PLOLI_RETRAIN` (R375). -/
def execPloliRetrain (link : Nat) (s : State) : Host.Outcome State Fault Refusal :=
  act s fun s => s.ploliRetrain link

/-- `PLOLI_LINK_DOWN` (R378). -/
def execPloliLinkDown (link : Nat) (s : State) : Host.Outcome State Fault Refusal :=
  act s fun s => s.ploliDown link

/-- `MEMBER_LOST` (R382). -/
def execMemberLost (member : Nat) (s : State) : Host.Outcome State Fault Refusal :=
  act s fun s => s.memberLost member

/-- `PLAN_ENTRY_RECEIVE` (R380). -/
def execPlanEntryReceive (entry : PlanEntry) (s : State) : Host.Outcome State Fault Refusal :=
  act s fun s => s.planEntry entry

/-- `GROUP_ARRIVAL_RECEIVE` (R158). -/
def execGroupArrivalReceive (member : Nat) (slot : Nat) (bar : Nat) (s : State) : Host.Outcome State Fault Refusal :=
  act s fun s => s.groupArrival member slot bar

/-- `GROUP_PARTICIPATION_REPORT` (R381). -/
def execGroupParticipationReport (member : Nat) (slot : Nat) (bar : Nat) (takes : Bool) (s : State) : Host.Outcome State Fault Refusal :=
  act s fun s => s.groupPart member slot bar takes

/-- `INTERLOAN_WRITE_RECEIVE` (R384). -/
def execInterloanWriteReceive (req : IlReq) (s : State) : Host.Outcome State Fault Refusal :=
  act s fun s => if s.gb DEV_STATUS.SAFE then s else s.ilWriteIn req

/-- `INTERLOAN_READ_REQUEST` (R385). -/
def execInterloanReadRequest (req : IlReq) (s : State) : Host.Outcome State Fault Refusal :=
  act s fun s => if s.gb DEV_STATUS.SAFE then s else s.ilReadIn req

/-- `INTERLOAN_RESPONSE_RECEIVE` (R385). -/
def execInterloanResponseReceive (rsp : IlRsp) (s : State) : Host.Outcome State Fault Refusal :=
  act s fun s => s.ilResponse rsp

/-- `INTERLOAN_TIMEOUT` (R384). -/
def execInterloanTimeout (tag : Nat) (s : State) : Host.Outcome State Fault Refusal :=
  act s fun s => s.ilTimeout tag

/-- `EXCHANGE_WINDOW_CLOSE` (R386). -/
def execExchangeWindowClose (link : Nat) (s : State) : Host.Outcome State Fault Refusal :=
  act s fun s => s.windowClose link

/-- `IL_BIND` (R384). -/
def execIlBind (s : State) : Host.Outcome State Fault Refusal :=
  hostReg s 0 0x41010 fun s => s.ilBind

/-- `IL_UNBIND` (R384). -/
def execIlUnbind (s : State) : Host.Outcome State Fault Refusal :=
  hostReg s 0 0x41010 fun s => s.ilUnbind

/-- `IL_READ` (R393). -/
def execIlRead (s : State) : Host.Outcome State Fault Refusal :=
  hostReg s 0 0x41010 fun s => s.ilRead

/-- `WIN_SYNC` (R383). -/
def execWinSync (win : Nat) (s : State) : Host.Outcome State Fault Refusal :=
  hostReg s 0 (0x44010 + 2048 * (win / 64) + 32 * (win % 64)) fun s => s.winSync win

/-- `WIN_CFG_WRITE` (R394). -/
def execWinCfgWrite (win : Nat) (v : Nat) (s : State) : Host.Outcome State Fault Refusal :=
  hostReg s 0 (0x44008 + 2048 * (win / 64) + 32 * (win % 64)) fun s => s.winCfg win v

end Sys2Proof.Machine
end

