-- ==== Sys2Proof/Machine/FamCoherence.lean ====
section
/-!
DEFINITION. The messages of the coherence protocol, the host's snoops, and the control of the wing caches (07).
-/
namespace Sys2Proof.Machine

/-- `HOST_SNPINV` (R270). -/
def execHostSnpinv (ca : Nat) (s : State) : Host.Outcome State Fault Refusal :=
  act s fun s => s.hostSnoopIn 0 ca

/-- `HOST_SNPDATA` (R270). -/
def execHostSnpdata (ca : Nat) (s : State) : Host.Outcome State Fault Refusal :=
  act s fun s => s.hostSnoopIn 1 ca

/-- `HOST_SNPCUR` (R270). -/
def execHostSnpcur (ca : Nat) (s : State) : Host.Outcome State Fault Refusal :=
  act s fun s => s.hostSnoopIn 2 ca

/-- `RD_SHARED` (R259). -/
def execRdShared (m : Msg) (s : State) : Host.Outcome State Fault Refusal :=
  act s fun s => s.reqIn { m with opc := 0x01 }

/-- `RD_OWN` (R259). -/
def execRdOwn (m : Msg) (s : State) : Host.Outcome State Fault Refusal :=
  act s fun s => s.reqIn { m with opc := 0x02 }

/-- `RD_ONCE` (R259). -/
def execRdOnce (m : Msg) (s : State) : Host.Outcome State Fault Refusal :=
  act s fun s => s.reqIn { m with opc := 0x03 }

/-- `WR_NA` (R259). -/
def execWrNa (m : Msg) (s : State) : Host.Outcome State Fault Refusal :=
  act s fun s => s.reqIn { m with opc := 0x04 }

/-- `WR_NA_PART` (R259). -/
def execWrNaPart (m : Msg) (s : State) : Host.Outcome State Fault Refusal :=
  act s fun s => s.reqIn { m with opc := 0x05 }

/-- `WR_THRU` (R259). -/
def execWrThru (m : Msg) (s : State) : Host.Outcome State Fault Refusal :=
  act s fun s => s.reqIn { m with opc := 0x06 }

/-- `WR_STASH` (R267). -/
def execWrStash (m : Msg) (s : State) : Host.Outcome State Fault Refusal :=
  act s fun s => s.reqIn { m with opc := 0x07 }

/-- `WB_DIRTY` (R263). -/
def execWbDirty (m : Msg) (s : State) : Host.Outcome State Fault Refusal :=
  act s fun s => s.wbIn { m with opc := 0x08 }

/-- `EV_CLEAN` (R259). -/
def execEvClean (m : Msg) (s : State) : Host.Outcome State Fault Refusal :=
  act s fun s => s.wbIn { m with opc := 0x09 }

/-- `SN_SHARE` (R256). -/
def execSnShare (m : Msg) (s : State) : Host.Outcome State Fault Refusal :=
  act s fun s => s.snoopIn { m with opc := 0x40 }

/-- `SN_CLEAN` (R256). -/
def execSnClean (m : Msg) (s : State) : Host.Outcome State Fault Refusal :=
  act s fun s => s.snoopIn { m with opc := 0x41 }

/-- `SN_INV` (R256). -/
def execSnInv (m : Msg) (s : State) : Host.Outcome State Fault Refusal :=
  act s fun s => s.snoopIn { m with opc := 0x42 }

/-- `SN_ONCE` (R256). -/
def execSnOnce (m : Msg) (s : State) : Host.Outcome State Fault Refusal :=
  act s fun s => s.snoopIn { m with opc := 0x43 }

/-- `SN_BACK` (R256). -/
def execSnBack (m : Msg) (s : State) : Host.Outcome State Fault Refusal :=
  act s fun s => s.snoopIn { m with opc := 0x44 }

/-- `CMP_S` (R257). -/
def execCmpS (m : Msg) (s : State) : Host.Outcome State Fault Refusal :=
  act s fun s => s.grantIn { m with opc := 0x80 }

/-- `CMP_E` (R257). -/
def execCmpE (m : Msg) (s : State) : Host.Outcome State Fault Refusal :=
  act s fun s => s.grantIn { m with opc := 0x81 }

/-- `CMP_M` (R257). -/
def execCmpM (m : Msg) (s : State) : Host.Outcome State Fault Refusal :=
  act s fun s => s.grantIn { m with opc := 0x82 }

/-- `CMP_I` (R259). -/
def execCmpI (m : Msg) (s : State) : Host.Outcome State Fault Refusal :=
  act s fun s => s.grantIn { m with opc := 0x83 }

/-- `CMP_W` (R258). -/
def execCmpW (m : Msg) (s : State) : Host.Outcome State Fault Refusal :=
  act s fun s => s.writtenIn { m with opc := 0x84 }

/-- `NACK` (R265). -/
def execNack (m : Msg) (s : State) : Host.Outcome State Fault Refusal :=
  act s fun s => s.nackIn { m with opc := 0x85 }

/-- `NACK_RES` (R266). -/
def execNackRes (m : Msg) (s : State) : Host.Outcome State Fault Refusal :=
  act s fun s => s.nackResIn { m with opc := 0x86 }

/-- `GO` (R266). -/
def execGo (m : Msg) (s : State) : Host.Outcome State Fault Refusal :=
  act s fun s => s.goIn { m with opc := 0x87 }

/-- `WB_ACK` (R277). -/
def execWbAck (m : Msg) (s : State) : Host.Outcome State Fault Refusal :=
  act s fun s => s.wbAckIn { m with opc := 0x88 }

/-- `CMP_ACK` (R257). -/
def execCmpAck (m : Msg) (s : State) : Host.Outcome State Fault Refusal :=
  act s fun s => s.ackIn { m with opc := 0x89 }

/-- `RS_I` (R259). -/
def execRsI (m : Msg) (s : State) : Host.Outcome State Fault Refusal :=
  act s fun s => s.rsIIn { m with opc := 0x8A }

/-- `RS_S` (R259). -/
def execRsS (m : Msg) (s : State) : Host.Outcome State Fault Refusal :=
  act s fun s => s.rsSIn { m with opc := 0x8B }

/-- `RS_FWD` (R259). -/
def execRsFwd (m : Msg) (s : State) : Host.Outcome State Fault Refusal :=
  act s fun s => s.rsFwdIn { m with opc := 0x8C }

/-- `RS_ERR` (R283). -/
def execRsErr (m : Msg) (s : State) : Host.Outcome State Fault Refusal :=
  act s fun s => s.lostIn { m with opc := 0x8D }

/-- `STASH_REFUSE` (R267). -/
def execStashRefuse (m : Msg) (s : State) : Host.Outcome State Fault Refusal :=
  act s fun s => s.refuseIn { m with opc := 0x8E }

/-- `DAT_MEM` (R260). -/
def execDatMem (m : Msg) (s : State) : Host.Outcome State Fault Refusal :=
  act s fun s => s.dataIn { m with opc := 0xC0 }

/-- `DAT_FWD` (R256). -/
def execDatFwd (m : Msg) (s : State) : Host.Outcome State Fault Refusal :=
  act s fun s => s.dataIn { m with opc := 0xC1 }

/-- `DAT_HOME` (R259). -/
def execDatHome (m : Msg) (s : State) : Host.Outcome State Fault Refusal :=
  act s fun s => s.datHomeIn { m with opc := 0xC2 }

/-- `DAT_STASH` (R267). -/
def execDatStash (m : Msg) (s : State) : Host.Outcome State Fault Refusal :=
  act s fun s => s.stashIn { m with opc := 0xC3 }

/-- `REQUEST_RESEND` (R265). -/
def execRequestResend (agent : Nat) (txn : Nat) (s : State) : Host.Outcome State Fault Refusal :=
  act s fun s => s.backoffEnd agent txn

/-- `RESERVED_OPCODE_MESSAGE` (R252). -/
def execReservedOpcodeMessage (agent : Nat) (opcode : Nat) (ca : Nat) (s : State) : Host.Outcome State Fault Refusal :=
  act s fun s => s.badOpcode agent opcode ca

/-- `WING_CACHE_DISABLE` (R280). -/
def execWingCacheDisable (w : Nat) (s : State) : Host.Outcome State Fault Refusal :=
  hostReg s 0 (0x14000 + 512 * w) fun s => s.cacheOff w

/-- `WING_CACHE_ENABLE` (R280). -/
def execWingCacheEnable (w : Nat) (s : State) : Host.Outcome State Fault Refusal :=
  hostReg s 0 (0x14000 + 512 * w) fun s => s.cacheOn w

/-- `WING_CACHE_WALK_END` (R280). -/
def execWingCacheWalkEnd (w : Nat) (s : State) : Host.Outcome State Fault Refusal :=
  act s fun s => s.walkEnd w

end Sys2Proof.Machine
end

