-- ==== Sys2Proof/Machine/FamFault.lean ====
section
/-!
DEFINITION. Errors, collectors, the error pin, repairs (12; 01 R17).
-/
namespace Sys2Proof.Machine

/-- `HARDWARE_ERROR_EVENT` (R428). -/
def execHardwareErrorEvent (src : Nat) (info0 : Nat) (s : State) : Host.Outcome State Fault Refusal :=
  act s fun s => s.hwError src info0

/-- `ARCHIVIST_TRAP` (R433). -/
def execArchivistTrap (s : State) : Host.Outcome State Fault Refusal :=
  act s fun s => s.archTrap

/-- `WING_RESET_END` (R76). -/
def execWingResetEnd (wing : Nat) (s : State) : Host.Outcome State Fault Refusal :=
  act s fun s => s.wingResetEnd wing

/-- `CHIP_RESET_TIMER` (R433). -/
def execChipResetTimer (s : State) : Host.Outcome State Fault Refusal :=
  act s fun s => s.chipTimer

/-- `ERROR_PIN_PULSE_END` (R437). -/
def execErrorPinPulseEnd (s : State) : Host.Outcome State Fault Refusal :=
  act s fun s => s.pulseEnd

/-- `ERROR_PIN_HOLD` (R437). -/
def execErrorPinHold (s : State) : Host.Outcome State Fault Refusal :=
  act s fun s => s.pinHold

/-- `ERR_PIN_CLEAR` (R453). -/
def execErrPinClear (s : State) : Host.Outcome State Fault Refusal :=
  hostReg s 0 0x4F18 fun s => s.errPinClear

/-- `COL_FORCE` (R432). -/
def execColForce (col : Nat) (v : Nat) (s : State) : Host.Outcome State Fault Refusal :=
  hostReg s 0 (if col < 38 then 0x2020 + 256 * col else 0x8260 + 1024 * (col - 38)) fun s => s.colForce col v

/-- `COL_HIST_CLEAR` (R452). -/
def execColHistClear (col : Nat) (s : State) : Host.Outcome State Fault Refusal :=
  hostReg s 0 (if col < 38 then 0x2028 + 256 * col else 0x8268 + 1024 * (col - 38)) fun s => s.histClear col

/-- `ARCHIVIST_WATCHDOG_EXPIRE` (R441). -/
def execArchivistWatchdogExpire (s : State) : Host.Outcome State Fault Refusal :=
  act s fun s => s.watchdog

/-- `SUBSTITUTION_COMMIT` (R17). -/
def execSubstitutionCommit (wing : Nat) (s : State) : Host.Outcome State Fault Refusal :=
  act s fun s => s.substCommit wing

end Sys2Proof.Machine
end

