-- ==== Sys2Proof/Machine/FamHost.lean ====
section
/-!
DEFINITION. The host link, configuration space, interrupts, cages and the completions of the device's reads (06).
-/
namespace Sys2Proof.Machine

/-- `LINK_TRAINING` (R201). -/
def execLinkTraining (modules : Nat) (repaired : Nat) (s : State) : Host.Outcome State Fault Refusal :=
  act s fun s => s.linkTrain modules repaired

/-- `LINK_TRAIN_RETRY` (R201). -/
def execLinkTrainRetry (modules : Nat) (repaired : Nat) (s : State) : Host.Outcome State Fault Refusal :=
  act s fun s => s.linkRetry modules repaired

/-- `LINK_RETRAIN` (R203). -/
def execLinkRetrain (s : State) : Host.Outcome State Fault Refusal :=
  act s fun s => s.linkRetrain

/-- `LINK_WIDTH_NARROW` (R203). -/
def execLinkWidthNarrow (module : Nat) (s : State) : Host.Outcome State Fault Refusal :=
  act s fun s => s.linkNarrow module

/-- `LINK_DOWN` (R204). -/
def execLinkDown (s : State) : Host.Outcome State Fault Refusal :=
  act s fun s => s.resetNow 3 0 false

/-- `HOT_RESET` (R204). -/
def execHotReset (s : State) : Host.Outcome State Fault Refusal :=
  act s fun s => s.resetNow 4 0 false

/-- `SIDEBAND_HOST_RESET` (R204). -/
def execSidebandHostReset (s : State) : Host.Outcome State Fault Refusal :=
  act s fun s => s.resetNow 5 0 false

/-- `CONFIGURATION_REQUEST` (R205). -/
def execConfigurationRequest (fn : Nat) (off : Nat) (isWrite : Bool) (be : Nat) (data : Nat) (s : State) : Host.Outcome State Fault Refusal :=
  act s fun s => s.cfgReq fn off isWrite be data

/-- `BUS_MASTER_DISABLE` (R231). -/
def execBusMasterDisable (fn : Nat) (s : State) : Host.Outcome State Fault Refusal :=
  cfgRow s fn fun s => s.setBme fn false

/-- `BUS_MASTER_ENABLE` (R231). -/
def execBusMasterEnable (fn : Nat) (s : State) : Host.Outcome State Fault Refusal :=
  cfgRow s fn fun s => s.setBme fn true

/-- `CACHE_ENABLE_CLEAR` (R211). -/
def execCacheEnableClear (s : State) : Host.Outcome State Fault Refusal :=
  cfgRow s 0 fun s => s.cacheClear

/-- `CACHE_ENABLE_SET` (R211). -/
def execCacheEnableSet (s : State) : Host.Outcome State Fault Refusal :=
  cfgRow s 0 fun s => s.cacheSet

/-- `D3HOT_ENTRY` (R234). -/
def execD3hotEntry (fn : Nat) (s : State) : Host.Outcome State Fault Refusal :=
  cfgRow s fn fun s => s.setD3 fn true

/-- `D0_RETURN` (R234). -/
def execD0Return (fn : Nat) (s : State) : Host.Outcome State Fault Refusal :=
  cfgRow s fn fun s => s.setD3 fn false

/-- `FUNCTION_LEVEL_RESET` (R235). -/
def execFunctionLevelReset (fn : Nat) (s : State) : Host.Outcome State Fault Refusal :=
  cfgRow s fn fun s => s.flrStart fn

/-- `FLR_COMPLETE` (R235). -/
def execFlrComplete (fn : Nat) (s : State) : Host.Outcome State Fault Refusal :=
  act s fun s => s.flrDone fn

/-- `INTERRUPT_DISABLE_WRITE` (R230). -/
def execInterruptDisableWrite (v : Bool) (s : State) : Host.Outcome State Fault Refusal :=
  cfgRow s 0 fun s => s.setIntDis v

/-- `MSIX_PENDING_SEND` (R228). -/
def execMsixPendingSend (fn : Nat) (vec : Nat) (s : State) : Host.Outcome State Fault Refusal :=
  act s fun s => s.msixPend fn vec

/-- `BAR_ACCESS_UNSUPPORTED` (R220). -/
def execBarAccessUnsupported (fn : Nat) (bar : Nat) (off : Nat) (len : Nat) (isWrite : Bool) (s : State) : Host.Outcome State Fault Refusal :=
  act s fun s => s.barBad fn bar off len isWrite

/-- `PEER_INBOX_WRITE` (R388). -/
def execPeerInboxWrite (fn : Nat) (rid : Nat) (off : Nat) (data : Bytes) (entry : Bytes) (s : State) : Host.Outcome State Fault Refusal :=
  act s fun s => s.peerWrite fn rid off data entry

/-- `CAGE_CTL_WRITE` (R216). -/
def execCageCtlWrite (cage : Nat) (v : Nat) (s : State) : Host.Outcome State Fault Refusal :=
  cfgRow s 0 fun s => s.cageCtl cage v

/-- `CAGE_CMD_DONE` (R216). -/
def execCageCmdDone (cage : Nat) (s : State) : Host.Outcome State Fault Refusal :=
  act s fun s => s.cageDone cage

/-- `CAGE_POLL` (R545). -/
def execCagePoll (inputs : List Nat) (s : State) : Host.Outcome State Fault Refusal :=
  act s fun s => s.cagePoll inputs

/-- `COMPLETION_TIMEOUT` (R237). -/
def execCompletionTimeout (tag : Nat) (s : State) : Host.Outcome State Fault Refusal :=
  act s fun s => s.cplTimeout tag

/-- `LATE_COMPLETION` (R237). -/
def execLateCompletion (tag : Nat) (s : State) : Host.Outcome State Fault Refusal :=
  act s fun s => s.lateCpl tag

/-- `ORPHANED_COMPLETION` (R235). -/
def execOrphanedCompletion (fn : Nat) (tag : Nat) (s : State) : Host.Outcome State Fault Refusal :=
  act s fun s => s.orphanCpl fn tag

/-- `TAG_QUARANTINE_END` (R237). -/
def execTagQuarantineEnd (tag : Nat) (s : State) : Host.Outcome State Fault Refusal :=
  act s fun s => s.quarEnd tag

/-- `HOST_READ_COMPLETION` (R236). -/
def execHostReadCompletion (tag : Nat) (data : Bytes) (s : State) : Host.Outcome State Fault Refusal :=
  act s fun s => s.hostReadDone tag data

/-- `HOST_CACHE_RESPONSE` (R268). -/
def execHostCacheResponse (tag ca : Nat) (data : Bytes) (s : State) : Host.Outcome State Fault Refusal :=
  act s fun s => s.hostCacheRsp tag ca data

end Sys2Proof.Machine
end

