-- ==== Sys2Proof/Machine/FamMemory.lean ====
section
/-!
DEFINITION. The memory controllers, the reserve and the map-out of a channel (08).
-/
namespace Sys2Proof.Machine

/-- `MEMORY_READ_RETURN` (R298). -/
def execMemoryReadReturn (dpa : Nat) (reader : Nat) (err : Nat) (s : State) : Host.Outcome State Fault Refusal :=
  act s fun s => s.memBack dpa reader err

/-- `WCB_FLUSH` (R301). -/
def execWcbFlush (ctrl : Nat) (line : Nat) (s : State) : Host.Outcome State Fault Refusal :=
  act s fun s => s.wcbTimer ctrl line

/-- `RESERVE_DISABLE` (R308). -/
def execReserveDisable (s : State) : Host.Outcome State Fault Refusal :=
  hostReg s 0 0x24000 fun s => s.resOff

/-- `RESERVE_WALK_END` (R308). -/
def execReserveWalkEnd (s : State) : Host.Outcome State Fault Refusal :=
  act s fun s => s.resWalkEnd

/-- `RESERVE_FLUSH` (R308). -/
def execReserveFlush (s : State) : Host.Outcome State Fault Refusal :=
  hostReg s 0 0x24000 fun s => s.resFlush

/-- `REGULATOR_REFILL` (R310). -/
def execRegulatorRefill (s : State) : Host.Outcome State Fault Refusal :=
  act s fun s => s.refill

/-- `SCRUB_STEP` (R300). -/
def execScrubStep (errKind : Nat) (s : State) : Host.Outcome State Fault Refusal :=
  act s fun s => s.scrubStep errKind

/-- `MAPOUT_GO` (R312). -/
def execMapoutGo (v : Nat) (s : State) : Host.Outcome State Fault Refusal :=
  hostReg s 0 0x20008 fun s => s.mapoutGo v

/-- `MAPOUT_START` (R313). -/
def execMapoutStart (s : State) : Host.Outcome State Fault Refusal :=
  act s fun s => s.mapoutStart

/-- `MAPOUT_ROOM_READY` (R313). -/
def execMapoutRoomReady (s : State) : Host.Outcome State Fault Refusal :=
  act s fun s => s.mapoutRoomReady

/-- `MAPOUT_CLEARING_DONE` (R313). -/
def execMapoutClearingDone (s : State) : Host.Outcome State Fault Refusal :=
  act s fun s => s.mapoutCleared

/-- `MAPOUT_EVACUATION_DONE` (R313). -/
def execMapoutEvacuationDone (s : State) : Host.Outcome State Fault Refusal :=
  act s fun s => s.mapoutDone

end Sys2Proof.Machine
end

