-- ==== Sys2Proof/Machine/FamNetwork.lean ====
section
/-!
DEFINITION. The Ethernet ports and RoCE (10 R360 to R374, R389 to R391).
-/
namespace Sys2Proof.Machine

/-- `ETH_FRAME_RECEIVE` (R363). -/
def execEthFrameReceive (port : Nat) (frame : EthFrame) (s : State) : Host.Outcome State Fault Refusal :=
  act s fun s => s.ethFrame port frame

/-- `PFC_FRAME_RECEIVE` (R364). -/
def execPfcFrameReceive (port : Nat) (prio : Nat) (xoff : Bool) (s : State) : Host.Outcome State Fault Refusal :=
  act s fun s => s.pfcIn port prio xoff

/-- `ROCE_SEND_RECEIVE` (R372). -/
def execRoceSendReceive (port : Nat) (pkt : RocePkt) (rq : Bytes) (s : State) : Host.Outcome State Fault Refusal :=
  act s fun s => s.roceSend port pkt rq

/-- `ROCE_RDMA_WRITE_RECEIVE` (R371). -/
def execRoceRdmaWriteReceive (port : Nat) (pkt : RocePkt) (rq : Bytes) (s : State) : Host.Outcome State Fault Refusal :=
  act s fun s => s.roceWrite port pkt rq

/-- `ROCE_RDMA_READ_REQUEST` (R372). -/
def execRoceRdmaReadRequest (port : Nat) (pkt : RocePkt) (host : Bytes) (s : State) : Host.Outcome State Fault Refusal :=
  act s fun s => s.roceReadReq port pkt host

/-- `ROCE_READ_RESPONSE_RECEIVE` (R372). -/
def execRoceReadResponseReceive (port : Nat) (pkt : RocePkt) (s : State) : Host.Outcome State Fault Refusal :=
  act s fun s => s.roceReadRsp port pkt

/-- `ROCE_ACK_RECEIVE` (R370). -/
def execRoceAckReceive (port : Nat) (pkt : RocePkt) (s : State) : Host.Outcome State Fault Refusal :=
  act s fun s => s.roceAck port pkt

/-- `ROCE_CNP_RECEIVE` (R374). -/
def execRoceCnpReceive (qp : Nat) (s : State) : Host.Outcome State Fault Refusal :=
  act s fun s => s.cnp qp

/-- `CC_RECOVER` (R374). -/
def execCcRecover (qp : Nat) (s : State) : Host.Outcome State Fault Refusal :=
  act s fun s => s.ccRecover qp

/-- `ROCE_RETRANSMIT_TIMEOUT` (R366). -/
def execRoceRetransmitTimeout (qp : Nat) (s : State) : Host.Outcome State Fault Refusal :=
  act s fun s => s.roceTimeout qp

/-- `ROCE_RNR_RETRY` (R366). -/
def execRoceRnrRetry (qp : Nat) (s : State) : Host.Outcome State Fault Refusal :=
  act s fun s => s.roceRnr qp

/-- `QP_DOORBELL_REREAD` (R368). -/
def execQpDoorbellReread (qp : Nat) (s : State) : Host.Outcome State Fault Refusal :=
  act s fun s => s.qpDoorbell qp

/-- `SEND_WQE_FETCH` (R369). -/
def execSendWqeFetch (qp : Nat) (data : Bytes) (payload : Bytes) (s : State) : Host.Outcome State Fault Refusal :=
  act s fun s => s.wqeFetch qp data payload

/-- `WORK_REQUEST_REFETCH` (R368). -/
def execWorkRequestRefetch (qp : Nat) (data : Bytes) (payload : Bytes) (s : State) : Host.Outcome State Fault Refusal :=
  act s fun s => s.wqeRefetch qp data payload

/-- `ETH_PORT_DOWN` (R373). -/
def execEthPortDown (port : Nat) (s : State) : Host.Outcome State Fault Refusal :=
  act s fun s => s.portDown port

/-- `ETH_PORT_UP` (R390). -/
def execEthPortUp (port : Nat) (s : State) : Host.Outcome State Fault Refusal :=
  act s fun s => s.portUpRow port

/-- `QP_WRITE` (R367). -/
def execQpWrite (s : State) : Host.Outcome State Fault Refusal :=
  hostReg s 0 0x31008 fun s => s.qpWrite

/-- `QP_RESET` (R367). -/
def execQpReset (s : State) : Host.Outcome State Fault Refusal :=
  hostReg s 0 0x31008 fun s => s.qpReset

/-- `QP_READ` (R367). -/
def execQpRead (s : State) : Host.Outcome State Fault Refusal :=
  hostReg s 0 0x31008 fun s => s.qpRead

/-- `MR_WRITE` (R391). -/
def execMrWrite (s : State) : Host.Outcome State Fault Refusal :=
  hostReg s 0 0x32008 fun s => s.mrWrite

/-- `MR_INVALIDATE` (R391). -/
def execMrInvalidate (s : State) : Host.Outcome State Fault Refusal :=
  hostReg s 0 0x32008 fun s => s.mrInvalidate

/-- `MR_READ` (R391). -/
def execMrRead (s : State) : Host.Outcome State Fault Refusal :=
  hostReg s 0 0x32008 fun s => s.mrRead

end Sys2Proof.Machine
end

