-- ==== Sys2Proof/Machine/FamPort.lean ====
section
/-!
DEFINITION. The serial reference, the I3C target and the TAP (16).
-/
namespace Sys2Proof.Machine

/-- `SERDES_REFCLK_LOSS` (R535). -/
def execSerdesRefclkLoss (s : State) : Host.Outcome State Fault Refusal :=
  pinRow s (fun s => s.refPin true) fun s => s.refclkLoss

/-- `SERDES_REFCLK_RETURN` (R535). -/
def execSerdesRefclkReturn (s : State) : Host.Outcome State Fault Refusal :=
  pinRow s (fun s => s.refPin false) fun s => s.refclkReturn

/-- `I3C_ADDRESS_ASSIGN` (R542). -/
def execI3cAddressAssign (addr : Nat) (s : State) : Host.Outcome State Fault Refusal :=
  act s fun s => s.i3cAssign addr

/-- `I3C_PRIVATE_WRITE` (R543). -/
def execI3cPrivateWrite (data : Bytes) (s : State) : Host.Outcome State Fault Refusal :=
  act s fun s => s.i3cWrite data

/-- `I3C_PRIVATE_READ` (R543). -/
def execI3cPrivateRead (len : Nat) (s : State) : Host.Outcome State Fault Refusal :=
  act s fun s => s.i3cRead len

/-- `I3C_DISEC` (R543). -/
def execI3cDisec (mask : Nat) (s : State) : Host.Outcome State Fault Refusal :=
  act s fun s => s.i3cDisec mask

/-- `TAP_INSTRUCTION_LOAD` (R547). -/
def execTapInstructionLoad (code : Nat) (s : State) : Host.Outcome State Fault Refusal :=
  act s fun s => s.tapLoad code

/-- `TAP_RESET` (R547). -/
def execTapReset (s : State) : Host.Outcome State Fault Refusal :=
  act s fun s => s.tapRst

end Sys2Proof.Machine
end

