-- ==== Sys2Proof/Machine/FamPower.lean ====
section
/-!
DEFINITION. Power, operating points, droop and temperature (11), and the loss and return of VIN44 (11 R395; 15 R526; 16 R533).
-/
namespace Sys2Proof.Machine

/-- `POWER_SAMPLE` (R401). -/
def execPowerSample (sample : PwrSample) (s : State) : Host.Outcome State Fault Refusal :=
  act s fun s => s.powerSample sample

/-- `BUBBLE_DENSITY_APPLY` (R400). -/
def execBubbleDensityApply (wing : Nat) (s : State) : Host.Outcome State Fault Refusal :=
  act s fun s => s.applyDensity wing

/-- `CAP_IN_FALL` (R404). -/
def execCapInFall (s : State) : Host.Outcome State Fault Refusal :=
  pinRow s (fun s => s.capPin true) fun s => s.capInFall

/-- `CAP_IN_RISE` (R404). -/
def execCapInRise (s : State) : Host.Outcome State Fault Refusal :=
  pinRow s (fun s => s.capPin false) fun s => s.capInRise

/-- `OP_POLICY_PERIOD` (R406). -/
def execOpPolicyPeriod (s : State) : Host.Outcome State Fault Refusal :=
  act s fun s => s.opPeriod

/-- `OP_STEP_COMPLETE` (R407). -/
def execOpStepComplete (s : State) : Host.Outcome State Fault Refusal :=
  act s fun s => s.opStepDone

/-- `DROOP_DETECT` (R409). -/
def execDroopDetect (wing : Nat) (s : State) : Host.Outcome State Fault Refusal :=
  act s fun s => s.droopDetect wing

/-- `DROOP_DECAY` (R409). -/
def execDroopDecay (wing : Nat) (s : State) : Host.Outcome State Fault Refusal :=
  act s fun s => s.droopDecay wing

/-- `THERMAL_COMPARE` (R412). -/
def execThermalCompare (temps : List Nat) (s : State) : Host.Outcome State Fault Refusal :=
  act s fun s => s.thermalCompare temps

/-- `THERMAL_TRIP` (R413). -/
def execThermalTrip (sensor : Nat) (s : State) : Host.Outcome State Fault Refusal :=
  act s fun s => s.thermalTrip sensor

/-- `VIN44_UNDERVOLTAGE` (R395). -/
def execVin44Undervoltage (s : State) : Host.Outcome State Fault Refusal :=
  .next s.vinLoss

/-- `VIN44_OVERVOLTAGE` (R395). -/
def execVin44Overvoltage (s : State) : Host.Outcome State Fault Refusal :=
  .next s.vinLoss

/-- `VIN44_LOSS` (R526). -/
def execVin44Loss (s : State) : Host.Outcome State Fault Refusal :=
  .next s.vinLoss

/-- `VIN44_POWER_UP` (R533). -/
def execVin44PowerUp (s : State) : Host.Outcome State Fault Refusal :=
  .next s.vinUp

end Sys2Proof.Machine
end

