-- ==== Sys2Proof/Machine/FamSlot.lean ====
section
/-!
DEFINITION. Work slots, barriers, the date stamp and the due-date table (04).
-/
namespace Sys2Proof.Machine

/-- The function of a partition's BAR0; 8 names the management function, which holds the lending queue. -/
def partFn (part : Nat) : Nat := if part = 8 then 0 else part + 1

/-- `INVOCATION_DISPATCH` (R77). -/
def execInvocationDispatch (slot : Nat) (s : State) : Host.Outcome State Fault Refusal :=
  act s fun s => s.dispatchNext slot

/-- `WAVE_START` (R160). -/
def execWaveStart (rel : Nat) (wave : Nat) (s : State) : Host.Outcome State Fault Refusal :=
  act s fun s => s.waveStart rel wave

/-- `INVOCATION_NORMAL_END` (R78). -/
def execInvocationNormalEnd (slot : Nat) (s : State) : Host.Outcome State Fault Refusal :=
  act s fun s => (s.normalEnd slot).queueGo slot

/-- `TRB_CLEAR` (R113). -/
def execTrbClear (part : Nat) (mask : Nat) (s : State) : Host.Outcome State Fault Refusal :=
  hostReg s (part + 1) 0x7800 fun s => s.trbClear part mask

/-- `STAMP_TICK` (R116). -/
def execStampTick (s : State) : Host.Outcome State Fault Refusal :=
  act s fun s => s.stampTick

/-- `SYNC_FRAME` (R117). -/
def execSyncFrame (v : Nat) (crc : Nat) (stop : Bool) (s : State) : Host.Outcome State Fault Refusal :=
  act s fun s => s.syncFrame v crc stop

/-- `SYNC_FRAME_MISSED` (R118). -/
def execSyncFrameMissed (s : State) : Host.Outcome State Fault Refusal :=
  act s fun s => s.frameMissed

/-- `REFERENCE_LOSS` (R120). -/
def execReferenceLoss (s : State) : Host.Outcome State Fault Refusal :=
  act s fun s => s.referenceLoss

/-- `GROUP_SUSPEND` (R120). -/
def execGroupSuspend (s : State) : Host.Outcome State Fault Refusal :=
  act s fun s => s.groupSuspend

/-- `STAMP_NOW_LOW_READ` (R122). -/
def execStampNowLowRead (s : State) : Host.Outcome State Fault Refusal :=
  hostGet s 0 0x5000 fun s => s.stampLowRead

/-- `DUE_DATE_FIRE` (R130). -/
def execDueDateFire (idx : Nat) (s : State) : Host.Outcome State Fault Refusal :=
  act s fun s => s.dueDateFire idx

/-- `DD_COMMIT` (R140). -/
def execDdCommit (s : State) : Host.Outcome State Fault Refusal :=
  hostReg s 0 0x5120 fun s => s.ddCmd 1

/-- `DD_CANCEL` (R140). -/
def execDdCancel (s : State) : Host.Outcome State Fault Refusal :=
  hostReg s 0 0x5120 fun s => s.ddCmd 2

/-- `DD_READ` (R140). -/
def execDdRead (s : State) : Host.Outcome State Fault Refusal :=
  hostReg s 0 0x5120 fun s => s.ddCmd 3

/-- `HUB_BARRIER_ARRIVAL` (R155). -/
def execHubBarrierArrival (slot : Nat) (bar : Nat) (wing : Nat) (s : State) : Host.Outcome State Fault Refusal :=
  act s fun s => s.hubArrival slot bar wing

/-- `SLOT_CFG_WRITE` (R144). -/
def execSlotCfgWrite (part : Nat) (slot : Nat) (v : Nat) (s : State) : Host.Outcome State Fault Refusal :=
  hostReg s (part + 1) (0x400 + 16 * slot) fun s => s.slotCfgWrite part slot v

/-- `ALLOTMENT_COMPLETE` (R144). -/
def execAllotmentComplete (slot : Nat) (s : State) : Host.Outcome State Fault Refusal :=
  act s fun s => (s.allotDone slot).queueGo slot

/-- `SLOT_END` (R148). -/
def execSlotEnd (part : Nat) (slot : Nat) (s : State) : Host.Outcome State Fault Refusal :=
  hostReg s (part + 1) (0x408 + 16 * slot) fun s => s.slotEnd part slot

/-- `SLOT_CLR_FLAGS` (R151). -/
def execSlotClrFlags (part : Nat) (slot : Nat) (s : State) : Host.Outcome State Fault Refusal :=
  hostReg s (part + 1) (0x408 + 16 * slot) fun s => s.clrFlags part slot

/-- `SLOT_ENDING_DRAINED` (R148). -/
def execSlotEndingDrained (slot : Nat) (s : State) : Host.Outcome State Fault Refusal :=
  act s fun s => if s.drained slot then (s.endDrained slot).queueGo slot else s

/-- `DSTAMP_REFERENCE_RETURN` (R121). -/
def execDstampReferenceReturn (s : State) : Host.Outcome State Fault Refusal :=
  act s fun s => s.referenceReturn

/-- `GROUP_RELEASE_RECEIVE` (R158). -/
def execGroupReleaseReceive (slot : Nat) (bar : Nat) (trel : Nat) (s : State) : Host.Outcome State Fault Refusal :=
  act s fun s => s.groupRelease slot bar trel

/-- `REPAIR_COMPLETE` (R147). -/
def execRepairComplete (slot : Nat) (s : State) : Host.Outcome State Fault Refusal :=
  act s fun s => s.repairDone slot

end Sys2Proof.Machine
end

