-- ==== Sys2Proof/Machine/FamQueue.lean ====
section
/-!
DEFINITION. Call slips, partition queues, slip registers (05) and the lending operations of a queue (09 R346, R350).
-/
namespace Sys2Proof.Machine

/-- `CALL_SLIP_REREAD_DATA` (R166). -/
def execCallSlipRereadData (slot : Nat) (s : State) : Host.Outcome State Fault Refusal :=
  act s fun s => s.csReread slot

/-- `DELIVERY_LINE_WRITE` (R171). -/
def execDeliveryLineWrite (slot : Nat) (s : State) : Host.Outcome State Fault Refusal :=
  act s fun s => s.deliver slot

/-- `CS_MODE_COHERENT` (R178). -/
def execCsModeCoherent (part : Nat) (slot : Nat) (s : State) : Host.Outcome State Fault Refusal :=
  hostReg s (part + 1) (0x4010 + 32 * slot) fun s => s.csCoherent part slot

/-- `CS_MODE_SLIP_REGISTERS` (R178). -/
def execCsModeSlipRegisters (part : Nat) (slot : Nat) (s : State) : Host.Outcome State Fault Refusal :=
  hostReg s (part + 1) (0x4010 + 32 * slot) fun s => s.csSlipRegs part slot

/-- `CS_MODE_OFF` (R178). -/
def execCsModeOff (part : Nat) (slot : Nat) (s : State) : Host.Outcome State Fault Refusal :=
  hostReg s (part + 1) (0x4010 + 32 * slot) fun s => s.csOff part slot

/-- `CS_ARM_COMPLETE` (R178). -/
def execCsArmComplete (slot : Nat) (s : State) : Host.Outcome State Fault Refusal :=
  act s fun s => s.csArmed slot

/-- `CS_DISARM_COMPLETE` (R178). -/
def execCsDisarmComplete (slot : Nat) (s : State) : Host.Outcome State Fault Refusal :=
  act s fun s => s.csDisarmed slot

/-- `DB_SQ` (R183). -/
def execDbSq (part : Nat) (q : Nat) (v : Nat) (s : State) : Host.Outcome State Fault Refusal :=
  hostReg s (partFn part) (if part = 8 then 0x50040 else 0x1000 + 64 * q) fun s => s.dbSq part q v

/-- `DB_CQ` (R183). -/
def execDbCq (part : Nat) (q : Nat) (v : Nat) (s : State) : Host.Outcome State Fault Refusal :=
  hostReg s (partFn part) (if part = 8 then 0x50048 else 0x1008 + 64 * q) fun s => s.dbCq part q v

/-- `DESCRIPTOR_FETCH` (R184). -/
def execDescriptorFetch (q : Nat) (data : Bytes) (s : State) : Host.Outcome State Fault Refusal :=
  act s fun s => s.descFetch q data

/-- `DESCRIPTOR_REFETCH` (R184). -/
def execDescriptorRefetch (q : Nat) (data : Bytes) (s : State) : Host.Outcome State Fault Refusal :=
  act s fun s => s.descRefetch q data

/-- `DESCRIPTOR_ACCESSION` (R331). -/
def execDescriptorAccession (q : Nat) (list : Bytes) (s : State) : Host.Outcome State Fault Refusal :=
  act s fun s => s.accession q list

/-- `RUN` (R187). -/
def execRun (q : Nat) (s : State) : Host.Outcome State Fault Refusal :=
  act s fun s => s.runRow q

/-- `INSTALL` (R73). -/
def execInstall (q : Nat) (image : Bytes) (s : State) : Host.Outcome State Fault Refusal :=
  act s fun s => s.installRow q image

/-- `REMOVE` (R188). -/
def execRemove (q : Nat) (s : State) : Host.Outcome State Fault Refusal :=
  act s fun s => s.removeRow q

/-- `DUE_DATE` (R189). -/
def execDueDate (q : Nat) (s : State) : Host.Outcome State Fault Refusal :=
  act s fun s => s.dueDateRow q

/-- `LEND` (R346). -/
def execLend (q : Nat) (s : State) : Host.Outcome State Fault Refusal :=
  act s fun s => s.lendRowGo fun s => s.lendRow q 8

/-- `RETURN` (R346). -/
def execReturnLent (q : Nat) (s : State) : Host.Outcome State Fault Refusal :=
  act s fun s => s.lendRowGo fun s => s.lendRow q 9

/-- `HOLD` (R346). -/
def execHold (q : Nat) (s : State) : Host.Outcome State Fault Refusal :=
  act s fun s => s.lendRowGo fun s => s.lendRow q 10

/-- `ADVISE` (R350). -/
def execAdvise (q : Nat) (s : State) : Host.Outcome State Fault Refusal :=
  act s fun s => s.lendRowGo fun s => s.lendRow q 11

/-- `QUEUE_ENABLE` (R195). -/
def execQueueEnable (part : Nat) (q : Nat) (v : Nat) (s : State) : Host.Outcome State Fault Refusal :=
  hostReg s (partFn part) (if part = 8 then 0x50010 else 0x2010 + 64 * q) fun s => s.queueEnable part q v

/-- `QUEUE_DISABLE` (R195). -/
def execQueueDisable (part : Nat) (q : Nat) (v : Nat) (s : State) : Host.Outcome State Fault Refusal :=
  hostReg s (partFn part) (if part = 8 then 0x50010 else 0x2010 + 64 * q) fun s => s.queueDisable part q v

/-- `QUEUE_DRAIN_COMPLETE` (R195). -/
def execQueueDrainComplete (q : Nat) (s : State) : Host.Outcome State Fault Refusal :=
  act s fun s => s.queueDrained q

/-- `QUEUE_RESUME` (R194). -/
def execQueueResume (part : Nat) (q : Nat) (s : State) : Host.Outcome State Fault Refusal :=
  hostReg s (partFn part) (if part = 8 then 0x50020 else 0x2020 + 64 * q) fun s => s.queueResume part q

/-- `SLIP_GO` (R197). -/
def execSlipGo (part : Nat) (s : State) : Host.Outcome State Fault Refusal :=
  hostReg s (part + 1) 0x5008 fun s => s.slipGo part

/-- `SLIP_RESULT_READ` (R196). -/
def execSlipResultRead (part : Nat) (s : State) : Host.Outcome State Fault Refusal :=
  hostGet s (part + 1) 0x5080 fun s => s.slipResultRead part

/-- `GRANULE_COPY_DONE` (R346). -/
def execGranuleCopyDone (q pasid va : Nat) (data : Bytes) (s : State) : Host.Outcome State Fault Refusal :=
  act s fun s => s.lendRowGo fun s => s.granuleDone q pasid va data

end Sys2Proof.Machine
end

