-- ==== Sys2Proof/Machine/FamRegister.lean ====
section
/-!
DEFINITION. The register rows (00 R9, 15 R505).
-/
namespace Sys2Proof.Machine

/-- `REGISTER_WRITE` (R9). -/
def execRegisterWrite (who : Requester) (fn : Nat) (off : Nat) (data : Bytes) (s : State) : Host.Outcome State Fault Refusal :=
  act s fun s => s.regWrite who fn off data

/-- `DESK_FORBIDDEN_ACCESS` (R505). -/
def execDeskForbiddenAccess (core : Nat) (fn : Nat) (off : Nat) (isWrite : Bool) (s : State) : Host.Outcome State Fault Refusal :=
  act s fun s => s.deskForbidden core fn off isWrite

end Sys2Proof.Machine
end

