-- ==== Sys2Proof/Machine/FamStart.lean ====
section
/-!
DEFINITION. Start, reset, the life cycle (13).
-/
namespace Sys2Proof.Machine

/-- `MANAGEMENT_RESET` (R445). -/
def execManagementReset (cause : Nat) (s : State) : Host.Outcome State Fault Refusal :=
  act s fun s => s.mgmtReset cause

/-- `DESK_RESTART_COMPLETE` (R445). -/
def execDeskRestartComplete (s : State) : Host.Outcome State Fault Refusal :=
  act s fun s => s.deskBack

/-- `COLD_RESET_ASSERT` (R540). -/
def execColdResetAssert (s : State) : Host.Outcome State Fault Refusal :=
  .next s.coldAssert

/-- `COLD_RESET_RELEASE` (R457). -/
def execColdResetRelease (nvm : NvmContents) (s : State) : Host.Outcome State Fault Refusal :=
  .next (if s.pwr.off then s else ((s.coldRelease nvm).fin).inputsOf { s with dev := { s.dev with cold := false } })

/-- `ACCESSION_COMPLETE` (R455). -/
def execAccessionComplete (s : State) : Host.Outcome State Fault Refusal :=
  act s fun s => s.accessionDone

/-- `CALIBRATION_COMPLETE` (R459). -/
def execCalibrationComplete (fails : List Nat) (s : State) : Host.Outcome State Fault Refusal :=
  act s fun s => s.calibrationDone fails

/-- `WIPE_COMPLETE` (R462). -/
def execWipeComplete (s : State) : Host.Outcome State Fault Refusal :=
  act s fun s => s.wiped

/-- `DESK_START_COMPLETE` (R455). -/
def execDeskStartComplete (s : State) : Host.Outcome State Fault Refusal :=
  act s fun s => s.deskStarted

/-- `RECOVERY_RESTART` (R465). -/
def execRecoveryRestart (shadow : Bool) (s : State) : Host.Outcome State Fault Refusal :=
  act s fun s => s.recoveryRestart shadow

/-- `DEVICE_RESET` (R466). -/
def execDeviceReset (v : Nat) (s : State) : Host.Outcome State Fault Refusal :=
  hostReg s 0 0x1000 fun s => if v % 8 = 1 then s.resetCtl v else s

/-- `MANAGEMENT_RESET_REQUEST` (R466). -/
def execManagementResetRequest (v : Nat) (s : State) : Host.Outcome State Fault Refusal :=
  hostReg s 0 0x1000 fun s => if v % 8 = 2 then s.resetCtl v else s

/-- `TEST_REQ` (R455). -/
def execTestReq (s : State) : Host.Outcome State Fault Refusal :=
  hostReg s 0 0x14 fun s => s.testReq

/-- `SHUTDOWN` (R477). -/
def execShutdown (s : State) : Host.Outcome State Fault Refusal :=
  hostReg s 0 0x14 fun s => s.shutdownReq

/-- `LC_REQUEST` (R470). -/
def execLcRequest (v : Nat) (s : State) : Host.Outcome State Fault Refusal :=
  hostReg s 0 0x100C fun s => s.lcRequest v

/-- `LIFECYCLE_WIPE_COMPLETE` (R471). -/
def execLifecycleWipeComplete (s : State) : Host.Outcome State Fault Refusal :=
  act s fun s => s.lcWiped

/-- `SHUTDOWN_RECORD_COMMITTED` (R477). -/
def execShutdownRecordCommitted (s : State) : Host.Outcome State Fault Refusal :=
  act s fun s => s.shutdownDone

end Sys2Proof.Machine
end

