-- ==== Sys2Proof/Machine/FamTranslation.lean ====
section
/-!
DEFINITION. Address translation, the fault log and the probe (09).
-/
namespace Sys2Proof.Machine

/-- `ATS_TRANSLATION_COMPLETION` (R330). -/
def execAtsTranslationCompletion (fn : Nat) (pasid : Nat) (va : Nat) (size : Nat) (pa : Nat) (r : Bool) (w : Bool) (s : State) : Host.Outcome State Fault Refusal :=
  act s fun s => s.atsDone fn pasid va size pa r w

/-- `PRG_RESPONSE` (R335). -/
def execPrgResponse (fn : Nat) (prg : Nat) (code : Nat) (s : State) : Host.Outcome State Fault Refusal :=
  act s fun s => s.prgResponse fn prg code

/-- `PRI_CONTROL_RESET` (R335). -/
def execPriControlReset (fn : Nat) (s : State) : Host.Outcome State Fault Refusal :=
  cfgRow s fn fun s => s.priReset fn

/-- `ATS_INVALIDATE_REQUEST` (R341). -/
def execAtsInvalidateRequest (fn : Nat) (itag : Nat) (global : Bool) (pasid : Nat) (va : Nat) (size : Nat) (s : State) : Host.Outcome State Fault Refusal :=
  act s fun s => s.atsInvalidate fn itag global pasid va size

/-- `INVALIDATE_COMPLETION` (R341). -/
def execInvalidateCompletion (fn : Nat) (id : Nat) (s : State) : Host.Outcome State Fault Refusal :=
  act s fun s => s.invalDone fn id

/-- `FLOG_ENABLE` (R357). -/
def execFlogEnable (part : Nat) (v : Nat) (s : State) : Host.Outcome State Fault Refusal :=
  hostReg s (part + 1) 0x6018 fun s => s.flogCfg part v

/-- `FLOG_HEAD_WRITE` (R357). -/
def execFlogHeadWrite (part : Nat) (v : Nat) (s : State) : Host.Outcome State Fault Refusal :=
  hostReg s (part + 1) 0x601C fun s => s.flogHead part v

/-- `PROBE_START` (R358). -/
def execProbeStart (part : Nat) (v : Nat) (s : State) : Host.Outcome State Fault Refusal :=
  hostReg s (part + 1) 0x6048 fun s => s.probeStart part v

/-- `PROBE_DONE` (R358). -/
def execProbeDone (part : Nat) (s : State) : Host.Outcome State Fault Refusal :=
  act s fun s => s.probeDone part

end Sys2Proof.Machine
end

