-- ==== Sys2Proof/Machine/FamUpdate.lean ====
section
/-!
DEFINITION. Firmware update, the library, the ledger's commands (15).
-/
namespace Sys2Proof.Machine

/-- `UPD_BEGIN` (R511). -/
def execUpdBegin (s : State) : Host.Outcome State Fault Refusal :=
  hostReg s 0 0x7000 fun s => s.updBegin

/-- `UPD_CHUNK` (R511). -/
def execUpdChunk (s : State) : Host.Outcome State Fault Refusal :=
  hostReg s 0 0x7000 fun s => s.updChunk

/-- `UPD_FINISH` (R511). -/
def execUpdFinish (s : State) : Host.Outcome State Fault Refusal :=
  hostReg s 0 0x7000 fun s => s.updFinish

/-- `UPD_ACTIVATE` (R513). -/
def execUpdActivate (s : State) : Host.Outcome State Fault Refusal :=
  hostReg s 0 0x7000 fun s => s.updActivate

/-- `UPD_ABORT` (R511). -/
def execUpdAbort (s : State) : Host.Outcome State Fault Refusal :=
  hostReg s 0 0x7000 fun s => s.updAbort

/-- `UPD_CHUNK_WRITTEN` (R511). -/
def execUpdChunkWritten (s : State) : Host.Outcome State Fault Refusal :=
  act s fun s => s.updChunkDone

/-- `TRIAL_CONFIRM` (R514). -/
def execTrialConfirm (s : State) : Host.Outcome State Fault Refusal :=
  act s fun s => s.trialConfirm

/-- `TRIAL_TIMEOUT` (R514). -/
def execTrialTimeout (s : State) : Host.Outcome State Fault Refusal :=
  act s fun s => s.trialTimeout

/-- `LIBRARY_BLOCK_REQUEST` (R506). -/
def execLibraryBlockRequest (block : Nat) (addr : Nat) (s : State) : Host.Outcome State Fault Refusal :=
  act s fun s => s.libRequest block addr

/-- `LEDGER_PERIODIC` (R523). -/
def execLedgerPeriodic (s : State) : Host.Outcome State Fault Refusal :=
  act s fun s => s.ledgerPeriodic

/-- `LEDGER_CALENDAR` (R525). -/
def execLedgerCalendar (s : State) : Host.Outcome State Fault Refusal :=
  hostReg s 0 0x7104 fun s => s.ledgerCalendar

/-- `LEDGER_READ` (R530). -/
def execLedgerRead (s : State) : Host.Outcome State Fault Refusal :=
  hostReg s 0 0x7104 fun s => s.ledgerReadGo

/-- `LEDGER_READ_DONE` (R530). -/
def execLedgerReadDone (s : State) : Host.Outcome State Fault Refusal :=
  act s fun s => s.ledgerReadDone

/-- `LEDGER_CALENDAR_DONE` (R530). -/
def execLedgerCalendarDone (s : State) : Host.Outcome State Fault Refusal :=
  act s fun s => s.ledgerCalendarDone

end Sys2Proof.Machine
end

