-- ==== Sys2Proof/Machine/Dispatch.lean ====
section
/-!
DEFINITION. One arm per command.
-/
namespace Sys2Proof.Machine

def exec (i : Instr) (s : State) : Host.Outcome State Fault Refusal :=
  match i with
  | .registerWrite who fn off data => Sys2Proof.Machine.execRegisterWrite who fn off data s
  | .deskForbiddenAccess core fn off isWrite => Sys2Proof.Machine.execDeskForbiddenAccess core fn off isWrite s
  | .nop c => Sys2Proof.Machine.execNop c s
  | .halt c => Sys2Proof.Machine.execHalt c s
  | .br c => Sys2Proof.Machine.execBr c s
  | .loop c => Sys2Proof.Machine.execLoop c s
  | .barArriveWait c => Sys2Proof.Machine.execBarArriveWait c s
  | .barArrive c => Sys2Proof.Machine.execBarArrive c s
  | .barWait c => Sys2Proof.Machine.execBarWait c s
  | .waits c => Sys2Proof.Machine.execWaits c s
  | .add c => Sys2Proof.Machine.execAdd c s
  | .sub c => Sys2Proof.Machine.execSub c s
  | .mul c => Sys2Proof.Machine.execMul c s
  | .and c => Sys2Proof.Machine.execAnd c s
  | .or c => Sys2Proof.Machine.execOr c s
  | .xor c => Sys2Proof.Machine.execXor c s
  | .shl c => Sys2Proof.Machine.execShl c s
  | .shr c => Sys2Proof.Machine.execShr c s
  | .sra c => Sys2Proof.Machine.execSra c s
  | .li c => Sys2Proof.Machine.execLi c s
  | .lui c => Sys2Proof.Machine.execLui c s
  | .cmp c => Sys2Proof.Machine.execCmp c s
  | .sel c => Sys2Proof.Machine.execSel c s
  | .plog c => Sys2Proof.Machine.execPlog c s
  | .ld c => Sys2Proof.Machine.execLd c s
  | .st c => Sys2Proof.Machine.execSt c s
  | .rdsr c => Sys2Proof.Machine.execRdsr c s
  | .wrsr c => Sys2Proof.Machine.execWrsr c s
  | .mld c => Sys2Proof.Machine.execMld c s
  | .mst c => Sys2Proof.Machine.execMst c s
  | .mld2 c => Sys2Proof.Machine.execMld2 c s
  | .mst2 c => Sys2Proof.Machine.execMst2 c s
  | .lcopy c => Sys2Proof.Machine.execLcopy c s
  | .pass c => Sys2Proof.Machine.execPass c s
  | .pwait c => Sys2Proof.Machine.execPwait c s
  | .mwait c => Sys2Proof.Machine.execMwait c s
  | .mtouch c => Sys2Proof.Machine.execMtouch c s
  | .vld c => Sys2Proof.Machine.execVld c s
  | .vst c => Sys2Proof.Machine.execVst c s
  | .vgather c => Sys2Proof.Machine.execVgather c s
  | .tld c => Sys2Proof.Machine.execTld c s
  | .tst c => Sys2Proof.Machine.execTst c s
  | .vadd c => Sys2Proof.Machine.execVadd c s
  | .vsub c => Sys2Proof.Machine.execVsub c s
  | .vmul c => Sys2Proof.Machine.execVmul c s
  | .vfma c => Sys2Proof.Machine.execVfma c s
  | .vmax c => Sys2Proof.Machine.execVmax c s
  | .vmin c => Sys2Proof.Machine.execVmin c s
  | .vand c => Sys2Proof.Machine.execVand c s
  | .vor c => Sys2Proof.Machine.execVor c s
  | .vxor c => Sys2Proof.Machine.execVxor c s
  | .vsh c => Sys2Proof.Machine.execVsh c s
  | .vmov c => Sys2Proof.Machine.execVmov c s
  | .vbcast c => Sys2Proof.Machine.execVbcast c s
  | .vext c => Sys2Proof.Machine.execVext c s
  | .vperm c => Sys2Proof.Machine.execVperm c s
  | .vred c => Sys2Proof.Machine.execVred c s
  | .vcmp c => Sys2Proof.Machine.execVcmp c s
  | .vsel c => Sys2Proof.Machine.execVsel c s
  | .vcvt c => Sys2Proof.Machine.execVcvt c s
  | .vact c => Sys2Proof.Machine.execVact c s
  | .vscale c => Sys2Proof.Machine.execVscale c s
  | .mma c => Sys2Proof.Machine.execMma c s
  | .mmam c => Sys2Proof.Machine.execMmam c s
  | .tzero c => Sys2Proof.Machine.execTzero c s
  | .tcopy c => Sys2Proof.Machine.execTcopy c s
  | .tget c => Sys2Proof.Machine.execTget c s
  | .tput c => Sys2Proof.Machine.execTput c s
  | .illegalLine c => Sys2Proof.Machine.execIllegalLine c s
  | .fetchPastEnd c => Sys2Proof.Machine.execFetchPastEnd c s
  | .budgetOverrun c => Sys2Proof.Machine.execBudgetOverrun c s
  | .moverTagComplete c tag => Sys2Proof.Machine.execMoverTagComplete c tag s
  | .invocationDispatch slot => Sys2Proof.Machine.execInvocationDispatch slot s
  | .waveStart rel wave => Sys2Proof.Machine.execWaveStart rel wave s
  | .invocationNormalEnd slot => Sys2Proof.Machine.execInvocationNormalEnd slot s
  | .trbClear part mask => Sys2Proof.Machine.execTrbClear part mask s
  | .stampTick => Sys2Proof.Machine.execStampTick s
  | .syncFrame v crc stop => Sys2Proof.Machine.execSyncFrame v crc stop s
  | .syncFrameMissed => Sys2Proof.Machine.execSyncFrameMissed s
  | .referenceLoss => Sys2Proof.Machine.execReferenceLoss s
  | .groupSuspend => Sys2Proof.Machine.execGroupSuspend s
  | .stampNowLowRead => Sys2Proof.Machine.execStampNowLowRead s
  | .dueDateFire idx => Sys2Proof.Machine.execDueDateFire idx s
  | .ddCommit => Sys2Proof.Machine.execDdCommit s
  | .ddCancel => Sys2Proof.Machine.execDdCancel s
  | .ddRead => Sys2Proof.Machine.execDdRead s
  | .hubBarrierArrival slot bar wing => Sys2Proof.Machine.execHubBarrierArrival slot bar wing s
  | .slotCfgWrite part slot v => Sys2Proof.Machine.execSlotCfgWrite part slot v s
  | .allotmentComplete slot => Sys2Proof.Machine.execAllotmentComplete slot s
  | .slotEnd part slot => Sys2Proof.Machine.execSlotEnd part slot s
  | .slotClrFlags part slot => Sys2Proof.Machine.execSlotClrFlags part slot s
  | .slotEndingDrained slot => Sys2Proof.Machine.execSlotEndingDrained slot s
  | .hostSnpinv ca => Sys2Proof.Machine.execHostSnpinv ca s
  | .hostSnpdata ca => Sys2Proof.Machine.execHostSnpdata ca s
  | .hostSnpcur ca => Sys2Proof.Machine.execHostSnpcur ca s
  | .callSlipRereadData slot => Sys2Proof.Machine.execCallSlipRereadData slot s
  | .deliveryLineWrite slot => Sys2Proof.Machine.execDeliveryLineWrite slot s
  | .csModeCoherent part slot => Sys2Proof.Machine.execCsModeCoherent part slot s
  | .csModeSlipRegisters part slot => Sys2Proof.Machine.execCsModeSlipRegisters part slot s
  | .csModeOff part slot => Sys2Proof.Machine.execCsModeOff part slot s
  | .csArmComplete slot => Sys2Proof.Machine.execCsArmComplete slot s
  | .csDisarmComplete slot => Sys2Proof.Machine.execCsDisarmComplete slot s
  | .dbSq part q v => Sys2Proof.Machine.execDbSq part q v s
  | .dbCq part q v => Sys2Proof.Machine.execDbCq part q v s
  | .descriptorFetch q data => Sys2Proof.Machine.execDescriptorFetch q data s
  | .descriptorRefetch q data => Sys2Proof.Machine.execDescriptorRefetch q data s
  | .descriptorAccession q list => Sys2Proof.Machine.execDescriptorAccession q list s
  | .run q => Sys2Proof.Machine.execRun q s
  | .install q image => Sys2Proof.Machine.execInstall q image s
  | .remove q => Sys2Proof.Machine.execRemove q s
  | .dueDate q => Sys2Proof.Machine.execDueDate q s
  | .lend q => Sys2Proof.Machine.execLend q s
  | .returnLent q => Sys2Proof.Machine.execReturnLent q s
  | .hold q => Sys2Proof.Machine.execHold q s
  | .advise q => Sys2Proof.Machine.execAdvise q s
  | .queueEnable part q v => Sys2Proof.Machine.execQueueEnable part q v s
  | .queueDisable part q v => Sys2Proof.Machine.execQueueDisable part q v s
  | .queueDrainComplete q => Sys2Proof.Machine.execQueueDrainComplete q s
  | .queueResume part q => Sys2Proof.Machine.execQueueResume part q s
  | .slipGo part => Sys2Proof.Machine.execSlipGo part s
  | .slipResultRead part => Sys2Proof.Machine.execSlipResultRead part s
  | .linkTraining modules repaired => Sys2Proof.Machine.execLinkTraining modules repaired s
  | .linkTrainRetry modules repaired => Sys2Proof.Machine.execLinkTrainRetry modules repaired s
  | .linkRetrain => Sys2Proof.Machine.execLinkRetrain s
  | .linkWidthNarrow module => Sys2Proof.Machine.execLinkWidthNarrow module s
  | .linkDown => Sys2Proof.Machine.execLinkDown s
  | .hotReset => Sys2Proof.Machine.execHotReset s
  | .sidebandHostReset => Sys2Proof.Machine.execSidebandHostReset s
  | .configurationRequest fn off isWrite be data => Sys2Proof.Machine.execConfigurationRequest fn off isWrite be data s
  | .busMasterDisable fn => Sys2Proof.Machine.execBusMasterDisable fn s
  | .busMasterEnable fn => Sys2Proof.Machine.execBusMasterEnable fn s
  | .cacheEnableClear => Sys2Proof.Machine.execCacheEnableClear s
  | .cacheEnableSet => Sys2Proof.Machine.execCacheEnableSet s
  | .d3hotEntry fn => Sys2Proof.Machine.execD3hotEntry fn s
  | .d0Return fn => Sys2Proof.Machine.execD0Return fn s
  | .functionLevelReset fn => Sys2Proof.Machine.execFunctionLevelReset fn s
  | .flrComplete fn => Sys2Proof.Machine.execFlrComplete fn s
  | .interruptDisableWrite v => Sys2Proof.Machine.execInterruptDisableWrite v s
  | .msixPendingSend fn vec => Sys2Proof.Machine.execMsixPendingSend fn vec s
  | .barAccessUnsupported fn bar off len isWrite => Sys2Proof.Machine.execBarAccessUnsupported fn bar off len isWrite s
  | .peerInboxWrite fn rid off data entry => Sys2Proof.Machine.execPeerInboxWrite fn rid off data entry s
  | .cageCtlWrite cage v => Sys2Proof.Machine.execCageCtlWrite cage v s
  | .cageCmdDone cage => Sys2Proof.Machine.execCageCmdDone cage s
  | .cagePoll inputs => Sys2Proof.Machine.execCagePoll inputs s
  | .completionTimeout tag => Sys2Proof.Machine.execCompletionTimeout tag s
  | .lateCompletion tag => Sys2Proof.Machine.execLateCompletion tag s
  | .orphanedCompletion fn tag => Sys2Proof.Machine.execOrphanedCompletion fn tag s
  | .tagQuarantineEnd tag => Sys2Proof.Machine.execTagQuarantineEnd tag s
  | .hostReadCompletion tag data => Sys2Proof.Machine.execHostReadCompletion tag data s
  | .hostCacheResponse tag ca data => Sys2Proof.Machine.execHostCacheResponse tag ca data s
  | .rdShared m => Sys2Proof.Machine.execRdShared m s
  | .rdOwn m => Sys2Proof.Machine.execRdOwn m s
  | .rdOnce m => Sys2Proof.Machine.execRdOnce m s
  | .wrNa m => Sys2Proof.Machine.execWrNa m s
  | .wrNaPart m => Sys2Proof.Machine.execWrNaPart m s
  | .wrThru m => Sys2Proof.Machine.execWrThru m s
  | .wrStash m => Sys2Proof.Machine.execWrStash m s
  | .wbDirty m => Sys2Proof.Machine.execWbDirty m s
  | .evClean m => Sys2Proof.Machine.execEvClean m s
  | .snShare m => Sys2Proof.Machine.execSnShare m s
  | .snClean m => Sys2Proof.Machine.execSnClean m s
  | .snInv m => Sys2Proof.Machine.execSnInv m s
  | .snOnce m => Sys2Proof.Machine.execSnOnce m s
  | .snBack m => Sys2Proof.Machine.execSnBack m s
  | .cmpS m => Sys2Proof.Machine.execCmpS m s
  | .cmpE m => Sys2Proof.Machine.execCmpE m s
  | .cmpM m => Sys2Proof.Machine.execCmpM m s
  | .cmpI m => Sys2Proof.Machine.execCmpI m s
  | .cmpW m => Sys2Proof.Machine.execCmpW m s
  | .nack m => Sys2Proof.Machine.execNack m s
  | .nackRes m => Sys2Proof.Machine.execNackRes m s
  | .go m => Sys2Proof.Machine.execGo m s
  | .requestResend agent txn => Sys2Proof.Machine.execRequestResend agent txn s
  | .wbAck m => Sys2Proof.Machine.execWbAck m s
  | .cmpAck m => Sys2Proof.Machine.execCmpAck m s
  | .rsI m => Sys2Proof.Machine.execRsI m s
  | .rsS m => Sys2Proof.Machine.execRsS m s
  | .rsFwd m => Sys2Proof.Machine.execRsFwd m s
  | .rsErr m => Sys2Proof.Machine.execRsErr m s
  | .stashRefuse m => Sys2Proof.Machine.execStashRefuse m s
  | .datMem m => Sys2Proof.Machine.execDatMem m s
  | .datFwd m => Sys2Proof.Machine.execDatFwd m s
  | .datHome m => Sys2Proof.Machine.execDatHome m s
  | .datStash m => Sys2Proof.Machine.execDatStash m s
  | .reservedOpcodeMessage agent opcode ca => Sys2Proof.Machine.execReservedOpcodeMessage agent opcode ca s
  | .memoryReadReturn dpa reader err => Sys2Proof.Machine.execMemoryReadReturn dpa reader err s
  | .wingCacheDisable w => Sys2Proof.Machine.execWingCacheDisable w s
  | .wingCacheEnable w => Sys2Proof.Machine.execWingCacheEnable w s
  | .wingCacheWalkEnd w => Sys2Proof.Machine.execWingCacheWalkEnd w s
  | .wcbFlush ctrl line => Sys2Proof.Machine.execWcbFlush ctrl line s
  | .reserveDisable => Sys2Proof.Machine.execReserveDisable s
  | .reserveWalkEnd => Sys2Proof.Machine.execReserveWalkEnd s
  | .reserveFlush => Sys2Proof.Machine.execReserveFlush s
  | .regulatorRefill => Sys2Proof.Machine.execRegulatorRefill s
  | .scrubStep errKind => Sys2Proof.Machine.execScrubStep errKind s
  | .mapoutGo v => Sys2Proof.Machine.execMapoutGo v s
  | .mapoutStart => Sys2Proof.Machine.execMapoutStart s
  | .mapoutRoomReady => Sys2Proof.Machine.execMapoutRoomReady s
  | .mapoutClearingDone => Sys2Proof.Machine.execMapoutClearingDone s
  | .mapoutEvacuationDone => Sys2Proof.Machine.execMapoutEvacuationDone s
  | .atsTranslationCompletion fn pasid va size pa r w => Sys2Proof.Machine.execAtsTranslationCompletion fn pasid va size pa r w s
  | .prgResponse fn prg code => Sys2Proof.Machine.execPrgResponse fn prg code s
  | .priControlReset fn => Sys2Proof.Machine.execPriControlReset fn s
  | .atsInvalidateRequest fn itag global pasid va size => Sys2Proof.Machine.execAtsInvalidateRequest fn itag global pasid va size s
  | .invalidateCompletion fn id => Sys2Proof.Machine.execInvalidateCompletion fn id s
  | .granuleCopyDone q pasid va data => Sys2Proof.Machine.execGranuleCopyDone q pasid va data s
  | .flogEnable part v => Sys2Proof.Machine.execFlogEnable part v s
  | .flogHeadWrite part v => Sys2Proof.Machine.execFlogHeadWrite part v s
  | .probeStart part v => Sys2Proof.Machine.execProbeStart part v s
  | .probeDone part => Sys2Proof.Machine.execProbeDone part s
  | .ethFrameReceive port frame => Sys2Proof.Machine.execEthFrameReceive port frame s
  | .pfcFrameReceive port prio xoff => Sys2Proof.Machine.execPfcFrameReceive port prio xoff s
  | .roceSendReceive port pkt rq => Sys2Proof.Machine.execRoceSendReceive port pkt rq s
  | .roceRdmaWriteReceive port pkt rq => Sys2Proof.Machine.execRoceRdmaWriteReceive port pkt rq s
  | .roceRdmaReadRequest port pkt host => Sys2Proof.Machine.execRoceRdmaReadRequest port pkt host s
  | .roceReadResponseReceive port pkt => Sys2Proof.Machine.execRoceReadResponseReceive port pkt s
  | .roceAckReceive port pkt => Sys2Proof.Machine.execRoceAckReceive port pkt s
  | .roceCnpReceive qp => Sys2Proof.Machine.execRoceCnpReceive qp s
  | .ccRecover qp => Sys2Proof.Machine.execCcRecover qp s
  | .roceRetransmitTimeout qp => Sys2Proof.Machine.execRoceRetransmitTimeout qp s
  | .roceRnrRetry qp => Sys2Proof.Machine.execRoceRnrRetry qp s
  | .qpDoorbellReread qp => Sys2Proof.Machine.execQpDoorbellReread qp s
  | .sendWqeFetch qp data payload => Sys2Proof.Machine.execSendWqeFetch qp data payload s
  | .ethPortDown port => Sys2Proof.Machine.execEthPortDown port s
  | .qpWrite => Sys2Proof.Machine.execQpWrite s
  | .qpReset => Sys2Proof.Machine.execQpReset s
  | .qpRead => Sys2Proof.Machine.execQpRead s
  | .mrWrite => Sys2Proof.Machine.execMrWrite s
  | .mrInvalidate => Sys2Proof.Machine.execMrInvalidate s
  | .mrRead => Sys2Proof.Machine.execMrRead s
  | .ploliLinkTrain link peer => Sys2Proof.Machine.execPloliLinkTrain link peer s
  | .ploliRetrain link => Sys2Proof.Machine.execPloliRetrain link s
  | .ploliLinkDown link => Sys2Proof.Machine.execPloliLinkDown link s
  | .memberLost member => Sys2Proof.Machine.execMemberLost member s
  | .planEntryReceive entry => Sys2Proof.Machine.execPlanEntryReceive entry s
  | .groupArrivalReceive member slot bar => Sys2Proof.Machine.execGroupArrivalReceive member slot bar s
  | .groupReleaseReceive slot bar trel => Sys2Proof.Machine.execGroupReleaseReceive slot bar trel s
  | .interloanWriteReceive req => Sys2Proof.Machine.execInterloanWriteReceive req s
  | .interloanReadRequest req => Sys2Proof.Machine.execInterloanReadRequest req s
  | .interloanResponseReceive rsp => Sys2Proof.Machine.execInterloanResponseReceive rsp s
  | .interloanTimeout tag => Sys2Proof.Machine.execInterloanTimeout tag s
  | .exchangeWindowClose link => Sys2Proof.Machine.execExchangeWindowClose link s
  | .ilBind => Sys2Proof.Machine.execIlBind s
  | .ilUnbind => Sys2Proof.Machine.execIlUnbind s
  | .ilRead => Sys2Proof.Machine.execIlRead s
  | .winSync win => Sys2Proof.Machine.execWinSync win s
  | .winCfgWrite win v => Sys2Proof.Machine.execWinCfgWrite win v s
  | .powerSample sample => Sys2Proof.Machine.execPowerSample sample s
  | .bubbleDensityApply wing => Sys2Proof.Machine.execBubbleDensityApply wing s
  | .capInFall => Sys2Proof.Machine.execCapInFall s
  | .capInRise => Sys2Proof.Machine.execCapInRise s
  | .opPolicyPeriod => Sys2Proof.Machine.execOpPolicyPeriod s
  | .opStepComplete => Sys2Proof.Machine.execOpStepComplete s
  | .droopDetect wing => Sys2Proof.Machine.execDroopDetect wing s
  | .droopDecay wing => Sys2Proof.Machine.execDroopDecay wing s
  | .thermalCompare temps => Sys2Proof.Machine.execThermalCompare temps s
  | .thermalTrip sensor => Sys2Proof.Machine.execThermalTrip sensor s
  | .vin44Undervoltage => Sys2Proof.Machine.execVin44Undervoltage s
  | .vin44Overvoltage => Sys2Proof.Machine.execVin44Overvoltage s
  | .vin44Loss => Sys2Proof.Machine.execVin44Loss s
  | .vin44PowerUp => Sys2Proof.Machine.execVin44PowerUp s
  | .hardwareErrorEvent src info0 => Sys2Proof.Machine.execHardwareErrorEvent src info0 s
  | .archivistTrap => Sys2Proof.Machine.execArchivistTrap s
  | .wingResetEnd wing => Sys2Proof.Machine.execWingResetEnd wing s
  | .chipResetTimer => Sys2Proof.Machine.execChipResetTimer s
  | .errorPinPulseEnd => Sys2Proof.Machine.execErrorPinPulseEnd s
  | .errorPinHold => Sys2Proof.Machine.execErrorPinHold s
  | .errPinClear => Sys2Proof.Machine.execErrPinClear s
  | .colForce col v => Sys2Proof.Machine.execColForce col v s
  | .colHistClear col => Sys2Proof.Machine.execColHistClear col s
  | .archivistWatchdogExpire => Sys2Proof.Machine.execArchivistWatchdogExpire s
  | .substitutionCommit wing => Sys2Proof.Machine.execSubstitutionCommit wing s
  | .repairComplete slot => Sys2Proof.Machine.execRepairComplete slot s
  | .managementReset cause => Sys2Proof.Machine.execManagementReset cause s
  | .deskRestartComplete => Sys2Proof.Machine.execDeskRestartComplete s
  | .coldResetAssert => Sys2Proof.Machine.execColdResetAssert s
  | .coldResetRelease nvm => Sys2Proof.Machine.execColdResetRelease nvm s
  | .accessionComplete => Sys2Proof.Machine.execAccessionComplete s
  | .calibrationComplete fails => Sys2Proof.Machine.execCalibrationComplete fails s
  | .wipeComplete => Sys2Proof.Machine.execWipeComplete s
  | .deskStartComplete => Sys2Proof.Machine.execDeskStartComplete s
  | .recoveryRestart shadow => Sys2Proof.Machine.execRecoveryRestart shadow s
  | .deviceReset v => Sys2Proof.Machine.execDeviceReset v s
  | .managementResetRequest v => Sys2Proof.Machine.execManagementResetRequest v s
  | .testReq => Sys2Proof.Machine.execTestReq s
  | .shutdown => Sys2Proof.Machine.execShutdown s
  | .lcRequest v => Sys2Proof.Machine.execLcRequest v s
  | .lifecycleWipeComplete => Sys2Proof.Machine.execLifecycleWipeComplete s
  | .updBegin => Sys2Proof.Machine.execUpdBegin s
  | .updChunk => Sys2Proof.Machine.execUpdChunk s
  | .updChunkWritten => Sys2Proof.Machine.execUpdChunkWritten s
  | .updFinish => Sys2Proof.Machine.execUpdFinish s
  | .updActivate => Sys2Proof.Machine.execUpdActivate s
  | .updAbort => Sys2Proof.Machine.execUpdAbort s
  | .trialConfirm => Sys2Proof.Machine.execTrialConfirm s
  | .trialTimeout => Sys2Proof.Machine.execTrialTimeout s
  | .libraryBlockRequest block addr => Sys2Proof.Machine.execLibraryBlockRequest block addr s
  | .ledgerPeriodic => Sys2Proof.Machine.execLedgerPeriodic s
  | .ledgerCalendar => Sys2Proof.Machine.execLedgerCalendar s
  | .ledgerRead => Sys2Proof.Machine.execLedgerRead s
  | .ledgerReadDone => Sys2Proof.Machine.execLedgerReadDone s
  | .serdesRefclkLoss => Sys2Proof.Machine.execSerdesRefclkLoss s
  | .serdesRefclkReturn => Sys2Proof.Machine.execSerdesRefclkReturn s
  | .i3cAddressAssign addr => Sys2Proof.Machine.execI3cAddressAssign addr s
  | .i3cPrivateWrite data => Sys2Proof.Machine.execI3cPrivateWrite data s
  | .i3cPrivateRead len => Sys2Proof.Machine.execI3cPrivateRead len s
  | .i3cDisec mask => Sys2Proof.Machine.execI3cDisec mask s
  | .tapInstructionLoad code => Sys2Proof.Machine.execTapInstructionLoad code s
  | .tapReset => Sys2Proof.Machine.execTapReset s
  | .dstampReferenceReturn => Sys2Proof.Machine.execDstampReferenceReturn s
  | .ethPortUp port => Sys2Proof.Machine.execEthPortUp port s
  | .groupParticipationReport member slot bar takes => Sys2Proof.Machine.execGroupParticipationReport member slot bar takes s
  | .workRequestRefetch qp data payload => Sys2Proof.Machine.execWorkRequestRefetch qp data payload s
  | .ledgerCalendarDone => Sys2Proof.Machine.execLedgerCalendarDone s
  | .shutdownRecordCommitted => Sys2Proof.Machine.execShutdownRecordCommitted s

end Sys2Proof.Machine
end

