-- ==== Sys2Proof/Safety.lean ====
section
/-!
DEFINITION. What a safe run keeps, in the terms that the statements use: what COLD_RST_N leaves of the state, the canonical form of the stores, the
hard-wired registers; and the words of the statements: a line that issues, a row that only records, a home that works for one transaction.
-/
namespace Sys2Proof

namespace Machine

/-- What a state is while COLD_RST_N is asserted: every register, table and buffer at its COLD value; kept are what no reset clears: the NVM, the
fuses, the firmware slots and ledger that the NVM holds, the supply, what is to be reported of a trip, of the safe state and of a FIELD_DEBUG period, the
levels of the input pins, and the
bookkeeping of the model (time, free values, outbox, queue) (00 R11, 13 R460, R533). -/
def State.coldImage (s : State) : State :=
  { dev := { cold := true, wasSafe := s.dev.wasSafe }, nvm := s.nvm, fuses := s.fuses, time := s.time, free := s.free, out := s.out, pending := s.pending,
    pwr := { off := s.pwr.off, noVin := s.pwr.noVin, tripped := s.pwr.tripped, tripCause := s.pwr.tripCause, capIn := s.pwr.capIn },
    port := { serdesLost := s.port.serdesLost },
    fw := { slots := s.fw.slots },
    led := { recs := s.led.recs, next := s.led.next, t0 := s.led.t0, cur := s.led.cur, saved := s.led.saved, snapAt := s.led.snapAt,
             debugOwed := s.led.debugOwed, pair := s.led.pair, confirmS := s.led.confirmS, periodS := s.led.periodS } }

/-- While COLD_RST_N is asserted the volatile state has its COLD values. -/
def State.ColdOk (s : State) : Prop := s.dev.cold = true → s = s.coldImage

/-- The commands that act while COLD_RST_N is asserted or the supply is off: the rows of input pins. -/
def actsUnpowered (i : Instr) : Bool :=
  match i with
  | .coldResetAssert | .coldResetRelease _ | .vin44Undervoltage | .vin44Overvoltage | .vin44Loss | .vin44PowerUp
  | .capInFall | .capInRise | .serdesRefclkLoss | .serdesRefclkReturn => true
  | _ => false

/-- The device has its supply and COLD_RST_N is released (13 R460, 16 R533). -/
def State.Powered (s : State) : Prop := s.dev.cold = false ∧ s.pwr.off = false

/-- No event waits to be collected, and no record of the safe state waits for the ledger: how every command ends. -/
def State.Quiet (s : State) : Prop := s.evq = [] ∧ s.dev.safeRec = false

/-- Between commands: nothing waits, and while the link is up the level last signalled to the host is the live one (06 R230). -/
def State.Settled (s : State) : Prop :=
  s.Quiet ∧ (s.link.up = true → s.link.intx = (s.intLevel && !(s.fn 0).intDis))

/-- Every byte store of the state is in canonical form. -/
def State.storesWf (s : State) : Bool :=
  (s.store.all fun e => Memory.wf e.2) && Memory.wf s.dmem.dram && Memory.wf s.nvm && Memory.wf s.fw.win && Memory.wf s.fw.deskMem

/-! ### Lines that issue -/

/-- Carrel `c`, which stands as `k` says, may issue its next line, `l`; no slot of it is illegal, raises an exception or stalls (02 R48, R52, R55,
R71, R79). -/
def State.Issues (s : State) (c : Nat) (k : Ctx) (l : Line) : Prop :=
  s.ctx c = some k ∧ s.mayIssue k = true ∧ s.overBudget k = false ∧ (s.carrel k.p).lp < k.fo.lines ∧ s.lineAt k = l ∧
    l.anyIll = false ∧ l.doubleWrite = false ∧ s.lineStall k l = false ∧ s.lineExc k l = 0

/-- What follows the operations of a line: the mover takes up the transfer that the line starts, and the command ends. -/
def State.afterLine (t s : State) (c : Nat) (l : Line) : State :=
  ((if l.mov.sat (fun o _ => Op.usesTag o) then t.pump c else t).fin).inputsOf s

/-- The command `row` carries out carrel `c`'s next line, whose operations lead from `s` to a state of which `P` holds. -/
def LineGives (s : State) (c : Nat) (l : Line) (row : Instr) (P : State → Prop) : Prop :=
  ∃ t, exec row s = .next (t.afterLine s c l) ∧ P t

/-- The row of the command table for an operation of a line. -/
def lineRow (o : Op) (w c : Nat) : Instr :=
  match o with
  | .HALT => .halt c | .BR => .br c | .LOOP => .loop c
  | .BAR => (match cFunc w % 4 with | 0 => .barArriveWait c | 1 => .barArrive c | _ => .barWait c)
  | .WAITS => .waits c | .ADD => .add c | .SUB => .sub c | .MUL => .mul c | .AND => .and c | .OR => .or c | .XOR => .xor c
  | .SHL => .shl c | .SHR => .shr c | .SRA => .sra c | .LI => .li c | .LUI => .lui c | .CMP => .cmp c | .SEL => .sel c
  | .PLOG => .plog c | .LD => .ld c | .ST => .st c | .RDSR => .rdsr c | .WRSR => .wrsr c
  | .MLD => .mld c | .MST => .mst c | .MLD2 => .mld2 c | .MST2 => .mst2 c | .LCOPY => .lcopy c | .PASS => .pass c
  | .PWAIT => .pwait c | .MWAIT => .mwait c | .MTOUCH => .mtouch c | .VLD => .vld c | .VST => .vst c | .VGATHER => .vgather c
  | .TLD => .tld c | .TST => .tst c
  | .VADD => .vadd c | .VSUB => .vsub c | .VMUL => .vmul c | .VFMA => .vfma c | .VMAX => .vmax c | .VMIN => .vmin c
  | .VAND => .vand c | .VOR => .vor c | .VXOR => .vxor c | .VSH => .vsh c | .VMOV => .vmov c | .VBCAST => .vbcast c
  | .VEXT => .vext c | .VPERM => .vperm c | .VRED => .vred c | .VCMP => .vcmp c | .VSEL => .vsel c | .VCVT => .vcvt c
  | .VACT => .vact c | .VSCALE => .vscale c
  | .MMA => .mma c | .MMAM => .mmam c | .TZERO => .tzero c | .TCOPY => .tcopy c | .TGET => .tget c | .TPUT => .tput c

/-- The value of a register that a line may write. -/
def regVal (x : Carrel) : RegName → Nat
  | .S n => sget x n
  | .P n => pget x n
  | .V n => vget x n
  | .A n => aget x n
  | .SEED => x.seed

/-- The registers that the acting operations of a line write. -/
def State.lineWrites (s : State) (k : Ctx) (l : Line) : List RegName :=
  [l.ctl, l.mov, l.vec, l.mat].flatMap fun x => if s.slotActs k x then x.writes else []

/-- The ranges of the local store that the acting operations of a line write. -/
def State.lineStores (s : State) (k : Ctx) (l : Line) : List (Nat × Nat) :=
  [l.ctl, l.mov, l.vec, l.mat].flatMap fun x =>
    match x with
    | .op o w => if s.opActs k o w then (s.opRanges k o w).2 else []
    | _ => []


/-! ### What the operations of a line give, written from 02 R55 to R69 and 03 R95 to R107 over bit vectors and lanes -/

/-- Sa of a control operation. -/
def ctlA (x : Carrel) (w : Nat) : BitVec 64 := BitVec.ofNat 64 (sget x (cA w))

/-- IMM32 sign-extended. -/
def ctlImm (w : Nat) : BitVec 64 := (BitVec.ofNat 32 (cImm w)).signExtend 64

/-- Sb of a control operation, or its immediate (R54). -/
def ctlB (x : Carrel) (w : Nat) : BitVec 64 := if cI w then ctlImm w else BitVec.ofNat 64 (sget x (cB w))

/-- What a general register reads after `v` was written: S0 stays 0 (R36). -/
def toS (d : Nat) (v : BitVec 64) : Nat := if d = 0 then 0 else v.toNat

/-- What a predicate reads after `v` was written: P0 stays all ones (R36). -/
def toP (d : Nat) (v : BitVec 64) : Nat := if d = 0 then 2 ^ 64 - 1 else v.toNat

/-- The results of the operations that write Sd from registers and the immediate alone (R55). -/
def aluResult (o : Op) (x : Carrel) (w : Nat) : Option (BitVec 64) :=
  match o with
  | .ADD => some (ctlA x w + ctlB x w)
  | .SUB => some (ctlA x w - ctlB x w)
  | .MUL => some (ctlA x w * ctlB x w)
  | .AND => some (ctlA x w &&& ctlB x w)
  | .OR => some (ctlA x w ||| ctlB x w)
  | .XOR => some (ctlA x w ^^^ ctlB x w)
  | .SHL => some (ctlA x w <<< ((ctlB x w).toNat % 64))
  | .SHR => some (ctlA x w >>> ((ctlB x w).toNat % 64))
  | .SRA => some ((ctlA x w).sshiftRight ((ctlB x w).toNat % 64))
  | .LI => some (ctlImm w)
  | .LUI => some (BitVec.ofNat 32 (cImm w) ++ (ctlA x w).setWidth 32)
  | .SEL => some (if bit (pget x (cFunc w % 8)) 0 then ctlA x w else BitVec.ofNat 64 (sget x (cB w)))
  | _ => none

/-- The conditions of `CMP` (R56). -/
def cmpHolds (fn : Nat) (a b : BitVec 64) : Bool :=
  match fn with
  | 0 => decide (a = b)
  | 1 => decide (a ≠ b)
  | 2 => a.slt b
  | 3 => b.sle a
  | 4 => a.ult b
  | _ => b.ule a

/-- The results of the operations that write Pd (R55). -/
def predResult (o : Op) (x : Carrel) (w : Nat) : Option (BitVec 64) :=
  let a := BitVec.ofNat 64 (pget x (cA w))
  let b := BitVec.ofNat 64 (pget x (cB w))
  match o with
  | .CMP => some (if cmpHolds (cFunc w) (ctlA x w) (ctlB x w) then BitVec.allOnes 64 else 0)
  | .PLOG =>
    match cFunc w with
    | 0 => some (a &&& b)
    | 1 => some (a ||| b)
    | 2 => some (a ^^^ b)
    | 3 => some (a &&& ~~~ b)
    | _ => some (BitVec.ofFnLE fun i : Fin 64 => decide (bits w 5 0 ≤ i.val ∧ i.val ≤ bits w 13 8))
  | _ => none

/-- The local address Sa + IMM32 of `LD` and `ST`. -/
def ctlAddr (x : Carrel) (w : Nat) : Nat := (ctlA x w + ctlImm w).toNat

/-- The local address SA + IMM16 of `VLD` and `VST`. -/
def vecAddr (x : Carrel) (w : Nat) : Nat := (BitVec.ofNat 64 (sget x (lA w)) + (BitVec.ofNat 16 (lImm w)).signExtend 64).toNat

/-- What an acting lane of a vector operation holds, before it is cut to the lane's width (R63, R101). -/
def vecLane (o : Op) (x : Carrel) (w i : Nat) : Option Nat :=
  let ty := vType w
  let n := laneW ty
  let f := fmtOf ty
  let a := lane n (vget x (vA w)) i
  let b := lane n (vget x (vB w)) i
  let c := lane n (vget x (vC w)) i
  match o with
  | .VADD => some (if isF ty then (f.write ((f.num a).add (f.num b))).val else a + b)
  | .VSUB => some (if isF ty then (f.write ((f.num a).add (f.num b).neg)).val else a + (2 ^ n - b))
  | .VMUL => some (if isF ty then (f.write ((f.num a).mul (f.num b))).val else a * b)
  | .VFMA => some (f.write (((f.num a).mul (f.num b)).add (f.num c))).val
  | .VMAX => some (if isF ty then (f.write (Num.pick true (f.num a) (f.num b))).val else ipick n true (bit (vFunc w) 0) a b)
  | .VMIN => some (if isF ty then (f.write (Num.pick false (f.num a) (f.num b))).val else ipick n false (bit (vFunc w) 0) a b)
  | .VSH =>
    let k := vFunc w % 64 % n
    some (match vFunc w / 64 with
      | 0 => a * 2 ^ k
      | 1 => a / 2 ^ k
      | _ => unsgn n (sgn n a / (2 ^ k : Nat)))
  | .VMOV => some a
  | .VBCAST => some (sget x (vSx w))
  | .VPERM => some (lane n (vget x (vA w)) (b % laneN ty))
  | .VSEL => some (if bit (pget x (vFunc w % 8)) i then a else b)
  | .VACT => some (vactLane ty (vFunc w) a)
  | .VSCALE => some (f.write ((f.num a).scale (sgn 64 (sget x (vSx w))))).val
  | _ => none

/-- The rows of the transfer that a move operation starts, its local part 0 for `MTOUCH`. -/
def xferRows (o : Op) (x : Carrel) (w : Nat) : Rows :=
  rowsOf (decide (o = .MLD2 ∨ o = .MST2)) (if o = .MTOUCH then 0 else sget x (mL w)) (sget x (mO w)) (sget x (mN w)) (sget x (mQ w))

/-- The host's configuration request reaches function `fn` (06 R205, R235; 13 R460). -/
def State.cfgMay (s : State) (fn : Nat) : Bool :=
  s.link.up && s.hasFn fn && !(s.dev.held && decide (fn ≠ 0)) && !(s.fn fn).flr && !s.dev.resetRun

/-- The host's read at `off` of BAR0 of function `fn` reaches it; the safe state admits those of the management function (06 R208, R241, 12 R440). -/
def State.hostSees (s : State) (fn off : Nat) : Bool :=
  s.hasFn fn && (s.fn fn).mse && !(s.fn fn).d3 && !(s.dev.held && (decide (fn ≠ 0) || !heldServes off))
    && !(decide (fn ≠ 0) && s.gb DEV_STATUS.SAFE)

/-- An event that is recorded and does nothing else: a corrected one, of a class other than the carrels', whose reaction mask is 0
(12 R428, R433), and not of a frame whose own registers are unsound (R442). -/
def State.Recorded (s : State) (e : Event) : Prop :=
  s.effSev e = (0, false) ∧ s.maskOf e.source 0 = 0 ∧ e.source / 4096 ≠ 0 ∧ ownFault e = false

/-- Outside the safe state the completion ring of a queue is full, and no record waits: the next record goes into the hold (05 R191, 12 R440). -/
def State.RingFull (s : State) (q : Nat) : Prop :=
  s.g Q_STATUS.STATE q ≠ 0 ∧ (s.queue q).owed = [] ∧ (s.queue q).hold = none ∧ s.cqRoom q = false ∧ s.gb DEV_STATUS.SAFE = false

/-- The record of descriptor `b` that ends with `e`, and its interrupts (05 R186, R190, R194). -/
def State.recOf (s : State) (q : Nat) (b : Bytes) (e : Ending) : HeldRec :=
  ⟨recBytes (le b 8 8) e.status 0 e.exc e.carrel e.line e.detail [0, 0, 0, 0], s.recIrqs q (le b 1 1) (le b 4 1) e.status⟩

/-- Descriptor `b` reports its end: `QUIET` is clear, or it has failed (05 R186). -/
def reports (b : Bytes) (e : Ending) : Prop := bit (le b 1 1) 3 = false ∨ e.status ≠ 0

/-- The intake of a queue has nothing to ask for: it may not fetch, or it holds no descriptor and the ring is empty or four are
accessioned (05 R185). -/
def State.NoFetch (s : State) (q : Nat) : Prop :=
  s.mayFetch q = false ∨ ((s.queue q).cur = none ∧ ((s.queue q).avail = 0 ∨ 4 ≤ (s.queue q).accs.length))

/-- No transfer of a carrel has a piece to try. -/
def State.NoTries (s : State) : Prop := ∀ e ∈ s.car, ∀ x ∈ e.2.xfers, x.todo = []

/-- No work of partition `p` waits for a translation, for Bus Master Enable or for a record's place: waking it changes nothing (06 R231, 09 R330). -/
def State.PartRests (s : State) (p : Nat) : Prop :=
  (∀ r ∈ (s.xlOf p).ats, r.sent = true) ∧ (s.xlOf p).queued = [] ∧ (s.fn (p + 1)).held = [] ∧ (s.fn (p + 1)).irqs = [] ∧
    s.g PART_STATUS.HELD_WRITES p = 0 ∧ s.NoTries ∧ s.nic.qps = [] ∧ s.cas.acks = [] ∧ s.cas.held = [] ∧
    ∀ n ∈ s.slotsOf p, s.g CS_CTL.MODE n ≠ 1 ∧ s.g CS_STATUS.STATE n ≠ 1 ∧ (s.queue n).owed = [] ∧
      ((s.queue n).hold = none ∨ s.cqRoom n = false) ∧ (∀ d ∈ (s.queue n).accs, d.fail = none ∧ descOp d.bytes ≠ 2) ∧ s.NoFetch n

/-- Nothing of a partition waits beside the lending operation of queue `q`: its own work rests, no transaction runs, none of its requests is out, no
granule drops, no other queue lends (09 R341, R346). -/
def State.LendRests (s : State) (part q : Nat) : Prop :=
  s.PartRests part ∧ s.coh.homes = [] ∧ s.coh.txns = [] ∧ (∀ r ∈ s.link.reqs, r.fn ≠ part + 1) ∧ (∀ p < 8, ∀ e ∈ s.lendOf p, e.state ≠ 5) ∧
    (∀ e ∈ s.q, e.1 ≠ q → (s.queue e.1).lend.phase = 0) ∧ ∀ n ∈ s.slotsOf part, s.g CS_STATUS.STATE n ≠ 5

/-- An uncorrected event that is recorded and does nothing else: of a class without containment or owed substitution, its reaction mask 0
(12 R428, R433, R438), and not of a frame whose own registers are unsound (R442). -/
def State.RecordedUc (s : State) (e : Event) : Prop :=
  s.effSev e = (1, false) ∧ s.maskOf e.source 1 = 0 ∧ e.source / 4096 ∉ [0, 2, 8] ∧ ownFault e = false

/-- The state after `e` has been recorded with the severity `sev` and no reaction, with the interrupt levels brought up to date. -/
def State.noted (s : State) (e : Event) (sev : Nat) : State := (s.record e sev false 0).lines

/-- Nothing waits but at the homes: no granule that drops, no lending operation under way, no held write, no message or acknowledgement behind one, no
armed pair whose slip is to be translated, no access to a window, no clear of Cache_Enable (05 R179, 06 R211, R228, R231, 09 R346). -/
def State.NothingOwed (s : State) : Prop :=
  (∀ p < 8, ∀ e ∈ s.lendOf p, e.state ≠ 5) ∧ (∀ e ∈ s.q, (s.queue e.1).lend.phase = 0) ∧ (∀ e ∈ s.fns, e.2.held = [] ∧ e.2.irqs = []) ∧
    (∀ e ∈ s.nic.qps, (s.qpOf e.1).acks = [] ∧ (s.qpOf e.1).owed = []) ∧ s.cas.acks = [] ∧
    (∀ e ∈ s.cs, s.g CS_CTL.MODE e.1 = 1 → (s.csOf e.1).slipLine ≠ none) ∧ s.cas.held = [] ∧ s.link.clearing = false

/-- The homes rest: no transaction, no reservation, nothing that waits (07 R245). -/
def State.HomesRest (s : State) : Prop :=
  s.coh.homes = [] ∧ s.coh.hsnp = [] ∧ s.coh.wbs = [] ∧ s.coh.resq = [] ∧ s.coh.goHeld = [] ∧ s.NothingOwed

/-- The homes work for one transaction alone. -/
def State.OneHome (s : State) (h : HTxn) : Prop :=
  s.coh.homes = [h] ∧ s.coh.hsnp = [] ∧ s.coh.wbs = [] ∧ s.coh.resq = [] ∧ h.parked = false ∧ h.victim = none ∧ h.done = false ∧ s.NothingOwed

/-- The one transaction of the homes becomes `h`. -/
def State.homeIs (s : State) (h : HTxn) : State := { s with coh := { s.coh with homes := [h] } }

/-- The homes have no transaction left. -/
def State.homeless (s : State) : State := { s with coh := { s.coh with homes := [] } }

/-- No carrel of wing `w` has a transfer under way. -/
def State.WingRests (s : State) (w : Nat) : Prop := ∀ e ∈ s.car, e.1 / 144 = w → e.2.xfers = []

/-- The message `m`, with the opcode `o`, is taken from the fabric. -/
def State.took (s : State) (o : Nat) (m : Msg) : State := s.unsend o m.src m.dst m.txn m.ca


/-- The command that began in `s` ends in `t`: the events that `t` holds are collected and act, the interrupt levels follow (12 R428). -/
def State.closes (t s : State) : State := t.fin.inputsOf s

/-- The newest record of the ledger is of type `typ` and holds `body`, with the stamp of now (15 R519, R520). -/
def State.LastRecord (t : State) (typ : Nat) (body : Bytes) : Prop :=
  ∃ r, t.led.recs.getLast? = some r ∧ r.typ = typ ∧ r.body = slice body 0 224 ∧ r.stamp = t.now ∧ r.carried = false

/-- From `s`, a reset with the cause `cause` has brought the device to RECOVERY: work, caches and links end; the local stores, the memory, the
record and what lies in the NVM stay (12 R439, 13 R465). -/
def State.Recovers (t s : State) (cause : Nat) : Prop :=
  t.g DEV_STATUS.STATE = 6 ∧ t.g RESET_CAUSE.CAUSE = cause ∧ t.gb RESET_CAUSE.WAS_SAFE = s.gb DEV_STATUS.SAFE ∧
    t.link.up = false ∧ t.slots = [] ∧ t.q = [] ∧ t.cs = [] ∧ t.xl = [] ∧ t.fns = [] ∧ t.coh = {} ∧ t.net = [] ∧ t.nic = {} ∧
    t.dev.archRun = false ∧ t.dev.deskRun = false ∧ t.dev.resetRun = true ∧
    (∀ w < 32, t.g WING_STATUS.STATE w = 1 ∨ t.g WING_STATUS.STATE w = 3) ∧
    t.store = s.store ∧ t.dmem.dram = s.dmem.dram ∧ t.lend = s.lend ∧ t.dd = s.dd ∧ t.arec = s.arec ∧ t.nvm = s.nvm ∧ t.fuses = s.fuses

/-- From `s`, the device has entered the safe state for `cause`, on the event `src`: everything that ran stands, nothing is lost (12 R439, R453). -/
def State.EntersSafe (t s : State) (cause src : Nat) : Prop :=
  t.gb DEV_STATUS.SAFE = true ∧ t.g DEV_STATUS.STATE = 7 ∧ t.gb DEV_STATUS.READY = false ∧ t.dev.safeN = false ∧
    t.g SAFE_CAUSE.CAUSE = cause ∧ t.g SAFE_CAUSE.SOURCE = src ∧ bit (t.fn 0).aerUnc 22 = true ∧ t.rels = [] ∧
    (∀ p, (t.carrel p).xfers = [] ∧ (t.carrel p).run = if (s.carrel p).run = .idle then .idle else .stopped) ∧
    t.store = s.store ∧ t.dmem = s.dmem ∧ t.slots = s.slots ∧ t.q = s.q ∧ t.arec = s.arec ∧ t.nvm = s.nvm

/-- The events of the mask ROM's and the Archivist's verification (class 11) keep the severity that the manual gives them (12 R431). -/
def State.PlainVerify (s : State) : Prop := s.gb COL_SEV.ENABLE (colOf (srcId 11 3 1)) = false

end Machine
end Sys2Proof
end

