-- ==== Sys2Proof/Certificates/Slice0/Obligations.lean ====
section
/-!
DEFINITION. The statements about the model, family by family. A statement that rests on a choice of the model says so and names the log entries.
-/
section
open Sys2Proof Sys2Proof.Machine

/-! ### The machine as a whole -/

/-- Each step carries out the command at the front of the queue: `exec` on the state whose queue is the rest. -/
def Obligations.StepRunsTheFrontCommand : Prop :=
  ∀ (c : Instr) (q : List Instr) (s : State), s.pending = c :: q → step s = exec c { s with pending := q }

/-- With an empty queue one cycle of the carrel clock passes (log entry 3): the `CYCLES` of every carrel counts from its release wave until `HALT`
completes, gated or not, and nothing else changes, but that a life-cycle change under way takes its next step of itself (13 R471, log entry 32); without
supply or with COLD_RST_N asserted nothing changes.
The model's choices in it: log entries 3, 32. -/
def Obligations.IdleStepCountsCycles : Prop :=
  ∀ s : State, s.pending = [] →
    (s.Powered → ∃ t, t = { s with car := t.car } ∧ step s = .next (if s.dev.lcStep = 0 then t else t.lcAdvance) ∧
      ∀ p, t.carrel p =
        (match (s.carrel p).run with
          | .active | .gated _ | .released _ | .halting => { s.carrel p with cycles := (s.carrel p).cycles + 1 }
          | .idle | .waiting | .halted | .stopped => s.carrel p)) ∧
    (¬ s.Powered → step s = .next s)

/-- No command stops the machine: every one answers a next state in every state.
The model's choices in it: log entries 1, 7. -/
def Obligations.EveryCommandAnswersANextState : Prop :=
  ∀ (c : Instr) (s : State), ∃ t, exec c s = .next t

/-- A command touches neither the queue of commands nor, but for the rows of input pins, COLD_RST_N. -/
def Obligations.CommandsLeaveTheInputs : Prop :=
  ∀ (c : Instr) (s t : State), exec c s = .next t →
    t.pending = s.pending ∧ (actsUnpowered c = false → t.dev.cold = s.dev.cold)

/-- While COLD_RST_N is asserted or the supply is off, a command other than the rows of input pins changes nothing.
The model's choices in it: log entry 7. -/
def Obligations.NothingHappensWithoutSupply : Prop :=
  ∀ (c : Instr) (s : State), actsUnpowered c = false → ¬ s.Powered → exec c s = .next s

/-- The state right after reset: COLD_RST_N asserted, every register at its COLD value, all tables and buffers empty, no command waiting.
The model's choices in it: log entries 2, 5, 6. -/
def Obligations.ResetIsTheColdState : Prop :=
  State.reset.dev.cold = true ∧ State.reset.ColdOk ∧ State.reset.Settled ∧ State.reset.storesWf = true ∧ State.reset.pending = [] ∧
    (∀ k i, State.reset.reg k i = regDefault (regKey k i)) ∧
    (∀ p, State.reset.carrel p = carDef p ∧ State.reset.mem p = []) ∧ (∀ n, State.reset.slot n = {}) ∧ (∀ q, State.reset.queue q = {})

/-- Whatever step is taken, a state in which COLD_RST_N is asserted holds nothing but COLD values: volatile state does not outlive COLD.
The model's choices in it: log entries 6, 44. -/
def Obligations.ColdHoldsNoVolatileState : Prop :=
  ∀ s t : State, s.ColdOk → step s = .next t → t.ColdOk

/-- Every step leaves no event uncollected and, while the link is up, the interrupt level last signalled equal to the live one.
The model's choices in it: log entry 60. -/
def Obligations.EveryStepSettles : Prop :=
  ∀ s t : State, s.Settled → step s = .next t → t.Settled

/-! ### Lines of a carrel -/

/-- A line that issues, whichever operations its slots hold: the row of each of them carries out the line. Registers, tiles and predicates that no acting operation
names as its destination keep their values, and so does the local store outside the ranges that an acting operation writes; in other carrels only
a pass counter may rise; the line pointer goes on by one unless the line branches; nothing else of the device changes.
The model's choices in it: log entries 9, 10. -/
def Obligations.LineFrame : Prop :=
  ∀ (s : State) (c : Nat) (k : Ctx) (l : Line) (o : Op) (w : Nat), s.Powered → s.Issues c k l → SlotOp.op o w ∈ [l.ctl, l.mov, l.vec, l.mat] →
    LineGives s c l (lineRow o w c) fun t =>
      t = { s with car := t.car, store := t.store } ∧
      (∀ r, r ∉ s.lineWrites k l → regVal (t.carrel k.p) r = regVal (s.carrel k.p) r) ∧
      (∀ a, (∀ e ∈ s.lineStores k l, a < e.1 ∨ e.2 ≤ a) → (t.mem k.p).byte a = (s.mem k.p).byte a) ∧
      (∀ p, p ≠ k.p → t.mem p = s.mem p ∧ t.carrel p = { s.carrel p with pass := (t.carrel p).pass }) ∧
      (t.carrel k.p).cycles = (s.carrel k.p).cycles ∧
      ((∀ w, l.ctl ≠ .op .BR w) → (∀ w, l.ctl ≠ .op .LOOP w) → (t.carrel k.p).lp = (s.carrel k.p).lp + 1)

/-- A line whose four slots are NOP: the line pointer goes on, and that is all.
The model's choices in it: log entry 9. -/
def Obligations.NopLine : Prop :=
  ∀ (s : State) (c : Nat) (k : Ctx), s.Powered → s.Quiet → s.Issues c k ⟨.nop, .nop, .nop, .nop⟩ →
    exec (.nop c) s = .next (s.setCarrel k.p { s.carrel k.p with lp := (s.carrel k.p).lp + 1 }).lines

/-- The operations ADD, SUB, MUL, AND, OR, XOR, SHL, SHR, SRA, LI, LUI and SEL: Sd takes the result of R55, computed from the registers as they were before the
line.
The model's choices in it: log entry 9. -/
def Obligations.ControlArithmetic : Prop :=
  ∀ (s : State) (c : Nat) (k : Ctx) (l : Line) (o : Op) (w : Nat) (v : BitVec 64), s.Powered → s.Issues c k l → l.ctl = .op o w →
    acts (s.carrel k.p) w = true → aluResult o (s.carrel k.p) w = some v →
    LineGives s c l (lineRow o w c) fun t => sget (t.carrel k.p) (cD w) = toS (cD w) v

/-- CMP and PLOG: Pd takes the condition of R56, or the logic of R55.
The model's choices in it: log entry 9. -/
def Obligations.ControlPredicates : Prop :=
  ∀ (s : State) (c : Nat) (k : Ctx) (l : Line) (o : Op) (w : Nat) (v : BitVec 64), s.Powered → s.Issues c k l → l.ctl = .op o w →
    acts (s.carrel k.p) w = true → predResult o (s.carrel k.p) w = some v →
    LineGives s c l (lineRow o w c) fun t => pget (t.carrel k.p) (cD w) = toP (cD w) v

/-- RDSR and WRSR: Sd takes the special register's value of R57; WRSR sets SEED to Sa[31:0], or to 1 in place of 0 (R107).
The model's choices in it: log entry 9. -/
def Obligations.SpecialRegisters : Prop :=
  ∀ (s : State) (c : Nat) (k : Ctx) (l : Line) (w : Nat), s.Powered → s.Issues c k l → acts (s.carrel k.p) w = true →
    let x := s.carrel k.p
    (∀ v, l.ctl = .op .RDSR w →
      (cImm w, v) ∈ [(0x00, c), (0x01, k.n), (0x02, k.ai), (0x03, 16 * (s.slot k.n).allot.length), (0x04, k.inv.entry), (0x05, s.now),
        (0x06, x.cycles), (0x07, x.seed), (0x08, x.trb.sat), (0x09, x.trb.fin), (0x0A, x.trb.fout), (0x0B, x.trb.nan), (0x0C, passGet x 0),
        (0x0D, passGet x 1), (0x0E, passGet x 2), (0x0F, passGet x 3), (0x10, s.neighbours k)] →
      LineGives s c l (.rdsr c) fun t => sget (t.carrel k.p) (cD w) = toS (cD w) (BitVec.ofNat 64 v)) ∧
    (l.ctl = .op .WRSR w → LineGives s c l (.wrsr c) fun t =>
      (t.carrel k.p).seed = if sget x (cA w) % 2 ^ 32 = 0 then 1 else sget x (cA w) % 2 ^ 32)

/-- LD and ST move 8 bytes, little-endian, between Sd or Sb and the local store at Sa + IMM32; a byte of ST's that the move slot stores too is left
to that slot.
The model's choices in it: log entry 10. -/
def Obligations.LocalLoadStore : Prop :=
  ∀ (s : State) (c : Nat) (k : Ctx) (l : Line) (w : Nat), s.Powered → s.Issues c k l → acts (s.carrel k.p) w = true →
    let x := s.carrel k.p
    (l.ctl = .op .LD w → LineGives s c l (.ld c) fun t =>
      sget (t.carrel k.p) (cD w) = toS (cD w) (BitVec.ofNat 64 (leNat ((List.range 8).map fun i => (s.mem k.p).byte (ctlAddr x w + i))))) ∧
    (l.ctl = .op .ST w → LineGives s c l (.st c) fun t =>
      ∀ i < 8, (∀ o v, l.mov = .op o v → ∀ e ∈ (s.opRanges k o v).2, ctlAddr x w + i < e.1 ∨ e.2 ≤ ctlAddr x w + i) →
        (t.mem k.p).byte (ctlAddr x w + i) = BitVec.ofNat 8 (sget x (cB w) / 256 ^ i))

/-- BR, LOOP, HALT, the three forms of BAR, and the operations WAITS, PWAIT and MWAIT, which only stall: none of the three issues before its
condition holds, and then nothing but the line pointer changes.
The model's choices in it: log entries 9, 72. -/
def Obligations.ControlFlow : Prop :=
  ∀ (s : State) (c : Nat) (k : Ctx) (l : Line) (w : Nat), s.Powered → s.Issues c k l →
    let x := s.carrel k.p
    let target : Nat := ((x.lp : Int) + (BitVec.ofNat 32 (cImm w)).toInt).toNat
    (l.ctl = .op .BR w → acts x w = true → LineGives s c l (.br c) fun t => (t.carrel k.p).lp = target) ∧
    (l.ctl = .op .LOOP w → acts x w = true → LineGives s c l (.loop c) fun t =>
      let v : BitVec 64 := BitVec.ofNat 64 (sget x (cD w)) - 1
      sget (t.carrel k.p) (cD w) = toS (cD w) v ∧ (t.carrel k.p).lp = if v = 0 then x.lp + 1 else target) ∧
    (l.ctl = .op .HALT w → acts x w = true → LineGives s c l (.halt c) fun t =>
      (t.carrel k.p).run = if (t.carrel k.p).xfers = [] then .halted else .halting) ∧
    (l.ctl = .op .BAR w → cFunc w % 4 = 0 → LineGives s c l (.barArriveWait c) fun t =>
      bit (t.carrel k.p).arrived (cFunc w / 4) = true ∧ (t.carrel k.p).run = .gated (cFunc w / 4)) ∧
    (l.ctl = .op .BAR w → cFunc w % 4 = 1 → LineGives s c l (.barArrive c) fun t =>
      bit (t.carrel k.p).arrived (cFunc w / 4) = true ∧ (t.carrel k.p).run = .active) ∧
    (l.ctl = .op .BAR w → cFunc w % 4 = 2 → LineGives s c l (.barWait c) fun t =>
      (t.carrel k.p).arrived = x.arrived ∧
        (t.carrel k.p).run = if bit x.arrived (cFunc w / 4) then .gated (cFunc w / 4) else .active) ∧
    (l.ctl = .op .WAITS w → acts x w = true →
      sget x (cA w) ≤ s.now ∧ LineGives s c l (.waits c) fun t => (t.carrel k.p).lp = x.lp + 1 ∧ (t.carrel k.p).run = .active) ∧
    (l.mov = .op .PWAIT w → acts x w = true →
      sget x (mL w) % 2 ^ 32 ≤ passGet x (mDir w) ∧ LineGives s c l (.pwait c) fun t => (t.carrel k.p).xfers = x.xfers) ∧
    (l.mov = .op .MWAIT w → acts x w = true →
      (if mAll w then x.xfers = [] else ∀ e ∈ x.xfers, e.tag ≠ mT w) ∧
        LineGives s c l (.mwait c) fun t => (t.carrel k.p).xfers = x.xfers)

/-- A line that stalls (R48) changes nothing: its row leaves the carrel where it stands.
The model's choices in it: log entries 7, 9. -/
def Obligations.StalledLineWaits : Prop :=
  ∀ (s : State) (c : Nat) (k : Ctx) (l : Line) (o : Op) (w : Nat), s.Powered → s.ctx c = some k → s.mayIssue k = true → s.overBudget k = false →
    (s.carrel k.p).lp < k.fo.lines → s.lineAt k = l → l.anyIll = false → l.doubleWrite = false → s.lineStall k l = true →
    SlotOp.op o w ∈ [l.ctl, l.mov, l.vec, l.mat] → LineGives s c l (lineRow o w c) fun t => t = s

/-- MLD, MST, MLD2, MST2 and MTOUCH start a transfer under their tag, over the rows of R58 cut at 64-byte lines of the handle's virtual range, with the bounding
range of R45; a transfer of no bytes completes at once. LCOPY and PASS likewise.
The model's choices in it: log entry 9. -/
def Obligations.TransfersStart : Prop :=
  ∀ (s : State) (c : Nat) (k : Ctx) (l : Line) (w : Nat), s.Powered → s.Issues c k l → acts (s.carrel k.p) w = true →
    let x := s.carrel k.p
    let n := sget x (mN w)
    let base := ((s.handleOf k.n (mH w)).getD {}).base
    (∀ o kind row, (o, kind, row) ∈ [(Op.MLD, XKind.mld, Instr.mld c), (.MST, .mst, .mst c), (.MLD2, .mld, .mld2 c), (.MST2, .mst, .mst2 c),
        (.MTOUCH, .mtouch, .mtouch c)] → l.mov = .op o w →
      LineGives s c l row fun t =>
        let rs := xferRows o x w
        if rs.rows = [] then (t.carrel k.p).xfers = x.xfers
        else ∃ f : Xfer, (t.carrel k.p).xfers = x.xfers ++ [f] ∧ f.tag = mT w ∧ f.kind = kind ∧ f.slot = k.n ∧ f.h = mH w ∧ f.wait = [] ∧
          f.todo = rs.rows.flatMap (fun e => linePieces base e.1 e.2 rs.len) ∧
          (kind = .mld → ∀ e ∈ rs.rows, f.wrLo ≤ e.1 ∧ e.1 + rs.len ≤ f.wrHi) ∧
          (kind = .mst → ∀ e ∈ rs.rows, f.rdLo ≤ e.1 ∧ e.1 + rs.len ≤ f.rdHi)) ∧
    (l.mov = .op .LCOPY w → LineGives s c l (.lcopy c) fun t =>
      if n = 0 then (t.carrel k.p).xfers = x.xfers
      else ∃ f : Xfer, (t.carrel k.p).xfers = x.xfers ++ [f] ∧ f.tag = mT w ∧ f.kind = .lcopy ∧ f.src = sget x (mL w) ∧ f.dst = sget x (mO w) ∧
        f.len = n ∧ f.todo = []) ∧
    (l.mov = .op .PASS w → n ≠ 0 → LineGives s c l (.pass c) fun t =>
      ∃ f : Xfer, (t.carrel k.p).xfers = x.xfers ++ [f] ∧ f.tag = mT w ∧ f.kind = .pass ∧ f.src = sget x (mL w) ∧ f.dst = sget x (mO w) ∧
        f.len = n ∧ f.dir = mDir w ∧ f.todo = [])

/-- VLD, VST and VGATHER move 64-bit lanes, the first two under their predicate, between a vector register and the local store; TLD and TST move a
tile of 4 KiB.
The model's choices in it: log entry 9. -/
def Obligations.LocalVectorsAndTiles : Prop :=
  ∀ (s : State) (c : Nat) (k : Ctx) (l : Line) (w : Nat), s.Powered → s.Issues c k l →
    let x := s.carrel k.p
    let bytes (a n : Nat) : Nat := leNat ((List.range n).map fun i => (s.mem k.p).byte (a + i))
    (l.mov = .op .VLD w → LineGives s c l (.vld c) fun t => ∀ i < 8, lane 64 (vget (t.carrel k.p) (lV w)) i =
      if bit (predOf x w) i then bytes (vecAddr x w + 8 * i) 8 else lane 64 (vget x (lV w)) i) ∧
    (l.mov = .op .VST w → LineGives s c l (.vst c) fun t => ∀ i < 8, ∀ j < 8,
      (bit (predOf x w) i = true → (t.mem k.p).byte (vecAddr x w + 8 * i + j) = BitVec.ofNat 8 (lane 64 (vget x (lV w)) i / 256 ^ j)) ∧
      (bit (predOf x w) i = false → l.ctl = .nop →
        (t.mem k.p).byte (vecAddr x w + 8 * i + j) = (s.mem k.p).byte (vecAddr x w + 8 * i + j))) ∧
    (l.mov = .op .VGATHER w → acts x w = true → LineGives s c l (.vgather c) fun t => ∀ i < 8,
      lane 64 (vget (t.carrel k.p) (lV w)) i = bytes ((sget x (lA w) + lane 64 (vget x (lB w)) i) % 2 ^ 64) 8) ∧
    (l.mov = .op .TLD w → acts x w = true → LineGives s c l (.tld c) fun t => aget (t.carrel k.p) (lV w) = bytes (sget x (lA w)) 4096) ∧
    (l.mov = .op .TST w → acts x w = true → LineGives s c l (.tst c) fun t => ∀ i < 4096,
      (t.mem k.p).byte (sget x (lA w) + i) = BitVec.ofNat 8 (aget x (lV w) / 256 ^ i))

/-- VADD, VSUB, VMUL, VFMA, VMAX, VMIN, VSH, VMOV, VBCAST, VPERM, VSEL, VACT and VSCALE: an acting lane of VD takes the result of R63 to R65 or R101, another keeps its
value. VAND, VOR and VXOR: the acting lanes take the bits of the logical operation.
The model's choices in it: log entry 15. -/
def Obligations.VectorLanes : Prop :=
  ∀ (s : State) (c : Nat) (k : Ctx) (l : Line) (w : Nat), s.Powered → s.Issues c k l →
    let x := s.carrel k.p
    let n := laneW (vType w)
    let keeps (row : Instr) (f : BitVec 512) : Prop := LineGives s c l row fun t => ∀ i < laneN (vType w),
      lane n (vget (t.carrel k.p) (vD w)) i = if bit (predOf x w) i then lane n f.toNat i else lane n (vget x (vD w)) i
    let a := BitVec.ofNat 512 (vget x (vA w))
    let b := BitVec.ofNat 512 (vget x (vB w))
    (∀ o : Op, l.vec = .op o w → (∀ i, vecLane o x w i ≠ none) →
      LineGives s c l (lineRow o w c) fun t => ∀ i v, i < laneN (vType w) → vecLane o x w i = some v →
        lane n (vget (t.carrel k.p) (vD w)) i = if bit (predOf x w) i then v % 2 ^ n else lane n (vget x (vD w)) i) ∧
    (l.vec = .op .VAND w → keeps (.vand c) (a &&& b)) ∧ (l.vec = .op .VOR w → keeps (.vor c) (a ||| b)) ∧
    (l.vec = .op .VXOR w → keeps (.vxor c) (a ^^^ b))

/-- VEXT, VRED, VCMP and VCVT: a lane to Sd; the reduction; the predicate of a comparison, lane by lane, its bits beyond the lane count 0; a
conversion with its counts, and with SEED where it rounds stochastically.
The model's choices in it: log entries 9, 73, 74. -/
def Obligations.VectorToScalarAndConversion : Prop :=
  ∀ (s : State) (c : Nat) (k : Ctx) (l : Line) (w : Nat), s.Powered → s.Issues c k l →
    let x := s.carrel k.p
    let ty := vType w
    (l.vec = .op .VEXT w → acts x w = true → LineGives s c l (.vext c) fun t =>
      sget (t.carrel k.p) (vD w) = toS (vD w) (BitVec.ofNat 64 (lane (laneW ty) (vget x (vA w)) (vFunc w)))) ∧
    (l.vec = .op .VRED w → acts x w = true → LineGives s c l (.vred c) fun t =>
      vget (t.carrel k.p) (vD w) = (BitVec.ofNat 512 (vRed ty (vFunc w) (vget x (vA w)))).toNat) ∧
    (l.vec = .op .VCMP w → vD w ≠ 0 → LineGives s c l (.vcmp c) fun t => ∀ i < 64,
      bit (pget (t.carrel k.p) (vD w)) i =
        (decide (i < laneN ty) && if bit (predOf x w) i then vCmpLane ty (vFunc w) (vget x (vA w)) (vget x (vB w)) i else bit (pget x (vD w)) i)) ∧
    (l.vec = .op .VCVT w → LineGives s c l (.vcvt c) fun t =>
      let r := vCvt ty (vFunc w) (sget x (vSx w)) (predOf x w) (vget x (vD w)) (vget x (vA w)) x.seed
      vget (t.carrel k.p) (vD w) = (BitVec.ofNat 512 r.v).toNat ∧ (bit (vFunc w) 3 = true → (t.carrel k.p).seed = r.seed) ∧
        (l.mat = .nop → (t.carrel k.p).trb =
          ⟨min (x.trb.sat + r.t.sat) (2 ^ 32 - 1), min (x.trb.fin + r.t.fin) (2 ^ 32 - 1), min (x.trb.fout + r.t.fout) (2 ^ 32 - 1),
            min (x.trb.nan + r.t.nan) (2 ^ 32 - 1)⟩))

/-- MMA, MMAM, TZERO, TCOPY, TGET and TPUT: the tile, or the 64-byte chunk of it, that the operation leaves, with the trouble counts of a product.
The model's choices in it: log entries 9, 75. -/
def Obligations.MatrixOperations : Prop :=
  ∀ (s : State) (c : Nat) (k : Ctx) (l : Line) (w : Nat), s.Powered → s.Issues c k l → acts (s.carrel k.p) w = true →
    let x := s.carrel k.p
    let f := xFmt w
    let A := (s.mem k.p).le (sget x (xSA w)) (matABytes f)
    let B := (s.mem k.p).le (sget x (xSB w)) (matBBytes f)
    let S := if isMx f then (s.mem k.p).le (sget x (xSS w)) (matSBytes f) else 0
    let raised (n : Troubles) : Troubles :=
      ⟨min (x.trb.sat + n.sat) (2 ^ 32 - 1), min (x.trb.fin + n.fin) (2 ^ 32 - 1), min (x.trb.fout + n.fout) (2 ^ 32 - 1),
        min (x.trb.nan + n.nan) (2 ^ 32 - 1)⟩
    (l.mat = .op .MMA w → LineGives s c l (.mma c) fun t =>
      aget (t.carrel k.p) (xTD w) = (BitVec.ofNat 32768 (mma f A B S (aget x (xTD w))).t).toNat ∧
        (l.vec = .nop → (t.carrel k.p).trb = raised (mma f A B S (aget x (xTD w))).cnt)) ∧
    (l.mat = .op .MMAM w → LineGives s c l (.mmam c) fun t =>
      let r := mmam f A B (aget x (xTD w)) (aget x (xTD w + 1))
      aget (t.carrel k.p) (xTD w) = (BitVec.ofNat 32768 r.t).toNat ∧ aget (t.carrel k.p) (xTD w + 1) = (BitVec.ofNat 32768 r.t2).toNat ∧
        (l.vec = .nop → (t.carrel k.p).trb = raised r.cnt)) ∧
    (l.mat = .op .TZERO w → LineGives s c l (.tzero c) fun t => aget (t.carrel k.p) (xTD w) = 0) ∧
    (l.mat = .op .TCOPY w → LineGives s c l (.tcopy c) fun t => aget (t.carrel k.p) (xTD w) = aget x (xSA w % 8)) ∧
    (l.mat = .op .TGET w → LineGives s c l (.tget c) fun t => vget (t.carrel k.p) (xVR w) = lane 512 (aget x (xTD w)) (xCh w)) ∧
    (l.mat = .op .TPUT w → LineGives s c l (.tput c) fun t => ∀ i < 64,
      lane 512 (aget (t.carrel k.p) (xTD w)) i = if i = xCh w then vget x (xVR w) else lane 512 (aget x (xTD w)) i)

/-- ILLEGAL_LINE, FETCH_PAST_END and BUDGET_OVERRUN end the invocation of the slot: the slot goes to ENDING with exception code, ALLOT_INDEX and
line of R71, and no carrel of the allotment issues again. Where a carrel of a lower ALLOT_INDEX stands at its budget in the same cycle, its BUDGET_OVERRUN is
what is reported. In the safe state the carrels' clocks are stopped (R439) and no exception arises.
The model's choices in it: log entries 9, 80. -/
def Obligations.FolioExceptionsEndTheInvocation : Prop :=
  ∀ (s : State) (c : Nat) (k : Ctx), s.Powered → s.Quiet → s.ctx c = some k → s.gb DEV_STATUS.SAFE = false →
    (s.g SLOT_STATUS.STATE k.n = 3 ∨ s.g SLOT_STATUS.STATE k.n = 4) → (s.slot k.n).ending = none →
    let x := s.carrel k.p
    let Ends (row : Instr) (code line : Nat) : Prop := ∃ t, exec row s = .next t ∧ t.g SLOT_STATUS.STATE k.n = 6 ∧
      (s.overFirst k = none → (t.slot k.n).ending = some { status := 1, exc := code, carrel := k.ai, line := line }) ∧
      (∀ d, s.overFirst k = some d → (t.slot k.n).ending =
        some { status := 1, exc := 9, carrel := allotIndex (s.slot k.n).allot d, line := (s.carrel (s.phys d)).lp }) ∧
      (∀ d ∈ carrelsOf (s.slot k.n).allot, (t.carrel (s.phys d)).run ∈ [Run.idle, .halted, .stopped]) ∧
      (∀ d, t.mem d = s.mem d) ∧ (∀ m, m ≠ k.n → t.slot m = s.slot m)
    (∀ l, s.mayIssue k = true → s.overBudget k = false → x.lp < k.fo.lines → s.lineAt k = l → (l.anyIll || l.doubleWrite) = true →
      Ends (.illegalLine c) (s.lineExc k l) x.lp) ∧
    (s.mayIssue k = true → s.overBudget k = false → k.fo.lines ≤ x.lp → Ends (.fetchPastEnd c) 3 k.fo.lines) ∧
    (s.overBudget k = true → (x.run = .active ∨ x.run = .halting ∨ ∃ b, x.run = .released b ∨ x.run = .gated b) →
      Ends (.budgetOverrun c) 9 x.lp)

/-- MOVER_TAG_COMPLETE: an LCOPY's bytes are copied as through a buffer and a PASS's bytes land in the neighbour, whose counter of that side rises, in
the same step in which the tag completes; a transfer with pieces left keeps its tag.
The model's choices in it: log entry 8. -/
def Obligations.TagsComplete : Prop :=
  ∀ (s : State) (c tag : Nat) (f : Xfer), s.Powered → s.Quiet →
    let p := s.phys c
    let x := s.carrel p
    (∀ g ∈ x.xfers, g.todo = []) → x.xfers.find? (fun g => decide (g.tag = tag)) = some f →
    let rest := x.xfers.filter fun g => decide (g.tag ≠ tag)
    let done (x : Carrel) : Carrel := { x with xfers := rest, run := if x.run = .halting ∧ rest = [] then .halted else x.run }
    (f.wait ≠ [] → exec (.moverTagComplete c tag) s = .next s.lines) ∧
    (f.wait = [] → (f.kind = .mld ∨ f.kind = .mst ∨ f.kind = .mtouch) → exec (.moverTagComplete c tag) s = .next (s.setCarrel p (done x)).lines) ∧
    (f.wait = [] → f.kind = .lcopy → exec (.moverTagComplete c tag) s =
      .next ((s.setMem p ((s.mem p).write f.dst ((s.mem p).read f.src f.len))).setCarrel p (done x)).lines) ∧
    (∀ d, f.wait = [] → f.kind = .pass → neighbour c f.dir = some d → s.phys d ≠ p → exec (.moverTagComplete c tag) s =
      .next (((s.setMem (s.phys d) ((s.mem (s.phys d)).write f.dst ((s.mem p).read f.src f.len))).setCarrel (s.phys d)
        (let side := match f.dir with | 0 => 1 | 1 => 0 | 2 => 3 | _ => 2
         passSet (s.carrel (s.phys d)) side (passGet (s.carrel (s.phys d)) side + 1))).setCarrel p (done x)).lines)

/-! ### The date stamp and the due-date table -/

/-- STAMP_TICK (nothing is due in the new tick; one operating point is), SYNC_FRAME (a good frame that agrees, and the first good frame), SYNC_FRAME_MISSED
before the limit, REFERENCE_LOSS (its event masked), DSTAMP_REFERENCE_RETURN and STAMP_NOW_LOW_READ: the next state, whole. GROUP_SUSPEND: 10 ms after the reference went, the armed group entries of the table are
suspended, and no other entry changes.
The model's choices in it: log entries 8, 66, 78. -/
def Obligations.StampAndFrames : Prop :=
  ∀ s : State, s.Powered → s.Quiet →
    let ticked (u : State) : State := { u.p STAMP_NOW.VALUE 0 ((s.now + 1) % 2 ^ 64) with
      time := s.time + 1,
      stamp := { s.stamp with actAt := s.stamp.actAt.filter fun t => decide (s.time < t),
                              acts := s.stamp.acts.filter fun e => decide (s.time + 1 < e.1),
                              sinceGood := s.stamp.sinceGood + 1,
                              holdTicks := if s.stamp.refPresent then 0 else s.stamp.holdTicks + 1,
                              refTicks := if s.stamp.refPresent then s.stamp.refTicks + 1 else 0 } }
    ((∀ e ∈ s.stamp.acts, s.time + 1 < e.1) → exec .stampTick s = .next (ticked s).lines) ∧
    (∀ i spec, s.canFire = true → s.stamp.acts = [(s.time + 1, i, spec)] → ddAction spec = 4 →
      exec .stampTick s = .next ((ticked s).p PWR_OP.TARGET 0 (bits (ddArg spec) 2 0)).lines) ∧
    (s.stamp.refPresent = true → s.gb STAMP_STATUS.SYNC_OK = true → s.stamp.holdover = false → (∀ i, (s.ddEnt i).pend = none) →
      exec (.syncFrame s.now (crc16 s.now) false) s =
        .next (({ s with stamp := { s.stamp with missRun := 0, sinceGood := 0, badSeen := false } } : State).p STAMP_STATUS.SYNC_LOST 0 0).lines) ∧
    (∀ v, s.stamp.refPresent = true → s.gb STAMP_STATUS.SYNC_OK = false → s.stamp.holdover = false → (∀ i, (s.ddEnt i).state ≠ 1) →
      exec (.syncFrame v (crc16 v) false) s =
        .next (((({ s with stamp := { s.stamp with missRun := 0, sinceGood := 0, badSeen := false } } : State).p STAMP_STATUS.SYNC_LOST 0 0).p
          STAMP_NOW.VALUE 0 (v % 2 ^ 64)).p STAMP_STATUS.SYNC_OK 0 1).lines) ∧
    (s.gb STAMP_STATUS.SYNC_OK = true → 65600 ≤ s.stamp.sinceGood → s.stamp.missRun + 1 < s.g STAMP_CTL.SYNC_MISS_LIMIT →
      exec .syncFrameMissed s = .next ({ s.bump STAMP_COUNTS.MISSED 0 with
        stamp := { s.stamp with sinceGood := ((s.stamp.sinceGood : Int) - 65536).toNat, badSeen := false,
                                missRun := s.stamp.missRun + b2n (!s.stamp.badSeen) } } : State).lines) ∧
    (s.stamp.holdover = false → s.RecordedUc { source := srcId 12 0 3 } →
      exec .referenceLoss s = .next ((({ s with stamp := { s.stamp with refPresent := false, holdover := true, refTicks := 0 } } : State).p
        STAMP_EVENTS.HOLDOVER_ENTERED 0 1).noted { source := srcId 12 0 3 } 1)) ∧
    (s.stamp.refPresent = false →
      exec .dstampReferenceReturn s = .next ({ s with stamp := { s.stamp with refPresent := true, refTicks := 0, holdTicks := 0 } } : State).lines) ∧
    (s.hostSees 0 0x5000 = true →
      exec .stampNowLowRead s = .next (({ s with stamp := { s.stamp with latchHi := some (s.now / 2 ^ 32) } } : State).emit
        (.cpl 0 0 (s.now % 2 ^ 32))).lines) ∧
    (s.stamp.holdover = true → 1562500 ≤ s.stamp.holdTicks → s.gb STAMP_STATUS.GROUP_SUSPENDED = false →
      ∃ t, exec .groupSuspend s = .next t ∧ t.gb STAMP_STATUS.GROUP_SUSPENDED = true ∧ t.gb STAMP_EVENTS.GROUP_SUSPENDED = true ∧
        (∀ i, t.ddEnt i = if i < 256 ∧ (s.ddEnt i).state = 1 ∧ s.isGroupEnt i (s.ddEnt i).spec = true then
          { s.ddEnt i with state := 3, pend := none } else s.ddEnt i) ∧
        t = { s with rf := t.rf, dd := t.dd, link := t.link, out := t.out, port := t.port })

/-- DD_COMMIT, DD_CANCEL and DD_READ through the staging registers: what the table and DD_RESULT hold after them, a refused command first.
The model's choices in it: log entry 117. -/
def Obligations.DueDateCommands : Prop :=
  ∀ (s : State), s.Powered → s.Quiet → s.hostMay 0 0x5120 = true →
    let i := s.g DD_INDEX.INDEX
    let e := s.ddEnt i
    let stamp := s.g DD_STAMP.STAMP
    let spec := (s.reg .DD_SPEC 0).toNat
    let period := s.g DD_PERIOD.PERIOD
    let susp := s.isGroupEnt i spec && s.gb STAMP_STATUS.GROUP_SUSPENDED
    (s.ddCheck none i spec period ≠ 0 → exec .ddCommit s = .next (s.p DD_RESULT.RESULT 0 (s.ddCheck none i spec period)).lines) ∧
    (s.ddCheck none i spec period = 0 → s.arec.role ≠ 1 → s.now + 2 ≤ stamp → (∀ j, (s.ddEnt j).pend = none) →
      exec .ddCommit s = .next ((s.setDd i { stamp := stamp, spec := spec, period := period, state := if susp then 3 else 1 }).p
        DD_RESULT.RESULT 0 0).lines) ∧
    (s.ddOwn none i = 0 → s.arec.role ≠ 1 → (e.state = 1 ∨ e.state = 3) →
      exec .ddCancel s = .next ((s.setDd i {}).p DD_RESULT.RESULT 0 0).lines) ∧
    (s.ddOwn none i = 0 → e.state ≠ 1 → e.state ≠ 3 → exec .ddCancel s = .next (s.p DD_RESULT.RESULT 0 4).lines) ∧
    (s.ddOwn none i = 0 → ∃ t, exec .ddRead s = .next t ∧ t = { s with rf := t.rf, link := t.link, out := t.out, port := t.port } ∧
      t.g DD_STAMP.STAMP = e.stamp % 2 ^ 64 ∧ t.reg .DD_SPEC 0 = BitVec.ofNat 64 e.spec ∧ t.g DD_RESULT.STATE = e.state % 16 ∧
      t.gb DD_RESULT.LATE = e.late ∧ t.gb DD_RESULT.BUSY = e.busy ∧ t.gb DD_RESULT.NO_TARGET = e.noTarget ∧ t.g DD_RESULT.RESULT = 0 ∧
      t.g DD_FIRED_AT.STAMP = e.firedAt % 2 ^ 64)

/-- DUE_DATE_FIRE: the entry that comes next acts in the tick of its stamp, or at once where that has passed (an operating point, or an interrupt to
management), keeps its result, and is armed again where it is periodic; the tick has fewer than 16 entries that act in it.
The model's choices in it: log entries 8, 76. -/
def Obligations.DueDateFires : Prop :=
  ∀ (s : State) (i : Nat), s.Powered → s.Quiet → s.canFire = true → s.ddNext = some i → (s.ddEnt i).pend = none →
    let e := s.ddEnt i
    let a := max e.stamp s.now
    let e' : DdEnt := { e with busy := false, noTarget := false, late := false, skipped := false, susp := false, missed := 0, pend := none,
                               firedAt := a,
                               state := if e.period = 0 then 2 else 1,
                               stamp := if e.period = 0 then e.stamp else (e.stamp + e.period) % 2 ^ 64 }
    let fired (t : State) : State :=
      { t.setDd i e' with stamp := { t.stamp with actAt := s.stamp.actAt ++ [s.timeOf a] } }
    let management := s.ddPart i = none ∧ bits (ddArg e.spec) 19 16 = 0
    (s.stamp.actAt.filter fun x => decide (x = s.timeOf a)).length < 16 →
    (ddAction e.spec = 4 → e.stamp ≤ s.now → exec (.dueDateFire i) s = .next (fired (s.p PWR_OP.TARGET 0 (bits (ddArg e.spec) 2 0))).lines) ∧
    (ddAction e.spec = 7 → management → e.stamp ≤ s.now → exec (.dueDateFire i) s = .next (fired (s.p STAMP_EVENTS.DD_INT 0 1)).lines) ∧
    (ddAction e.spec = 4 ∨ (ddAction e.spec = 7 ∧ management) → s.now < e.stamp → exec (.dueDateFire i) s =
      .next (fired { s with stamp := { s.stamp with acts := s.stamp.acts ++ [(s.timeOf a, i, e.spec)] } }).lines)

/-! ### Work slots -/

/-- SLOT_CFG_WRITE (refused; the fields alone; a new allotment), ALLOTMENT_COMPLETE, SLOT_CLR_FLAGS and REPAIR_COMPLETE.
The model's choices in it: log entry 64. -/
def Obligations.SlotConfiguration : Prop :=
  ∀ (s : State) (p n : Nat), s.Powered → s.Quiet →
    let st := s.g SLOT_STATUS.STATE n
    let x := s.slot n
    (∀ v, s.hostMay (p + 1) (0x400 + 16 * n) = true → s.owns p n = true → st ≠ 0 → st ≠ 2 →
      exec (.slotCfgWrite p n v) s = .next (s.p SLOT_STATUS.CFG_REFUSED n 1).lines) ∧
    (∀ v, s.hostMay (p + 1) (0x400 + 16 * n) = true → s.owns p n = true → st = 2 → x.imgJob = false → bits v 43 24 = s.g SLOT_CFG.PASID n →
      bits v 8 0 = s.g SLOT_CFG.SHELVES n →
      exec (.slotCfgWrite p n v) s = .next (((((s.p SLOT_CFG.PASID n (bits v 43 24)).p SLOT_CFG.GROUP_BAR n (bits v 23 20)).p
        SLOT_CFG.GATED n (bits v 19 16)).p SLOT_CFG.PRIORITY n (bits v 13 12)).tellTakes n (s.takesOf n)).lines) ∧
    (∀ v, s.hostMay (p + 1) (0x400 + 16 * n) = true → s.owns p n = true → st = 0 → x.imgJob = false → bits v 43 24 = s.g SLOT_CFG.PASID n →
      bits v 8 0 ≠ 0 → x.allot = [] → x.folios = [] → bits v 8 0 ≤ (s.freeShelves p).length →
      ∃ t, exec (.slotCfgWrite p n v) s = .next t ∧ t.g SLOT_STATUS.STATE n = 1 ∧ t.g SLOT_CFG.SHELVES n = bits v 8 0 ∧
        (t.slot n).allot = ((List.range 256).filter fun h => decide (h ∈ s.freeShelves p)).take (bits v 8 0) ∧
        (∀ c ∈ carrelsOf (t.slot n).allot, t.mem (s.phys c) = []) ∧ (∀ m, m ≠ n → t.slot m = s.slot m) ∧ t.car = s.car) ∧
    (st = 1 → s.g Q_STATUS.STATE n = 0 → exec (.allotmentComplete n) s = .next (s.p SLOT_STATUS.STATE n (if x.repair then 7 else 2)).lines) ∧
    (s.hostMay (p + 1) (0x408 + 16 * n) = true → s.owns p n = true → exec (.slotClrFlags p n) s =
      .next (((s.p SLOT_STATUS.CFG_REFUSED n 0).p SLOT_STATUS.SHELF_LOST n 0).p SLOT_STATUS.START_BUSY n 0).lines) ∧
    (st = 7 → s.flt.subst = [] → (∀ w ∈ wingsOf x.allot, s.g WING_STATUS.STATE w ≠ 2) → s.g Q_STATUS.STATE n = 0 →
      exec (.repairComplete n) s = .next ((s.setSlot n { x with repair := false }).p SLOT_STATUS.STATE n 2).lines)

/-- TRB_CLEAR sets the four totals of the slots that it names to 0, those of the partition only, and reads 0; no other register changes. -/
def Obligations.TroubleTotalsClear : Prop :=
  ∀ (s : State) (p : Nat), s.Powered → s.Quiet →
    (p < 8 → s.peek (p + 1) 0x7800 8 = zeros 8) ∧
    (∀ mask, s.hostMay (p + 1) 0x7800 = true → ∃ t, exec (.trbClear p mask) s = .next t ∧
      (∀ f ∈ [TRB_TOTAL_SAT.COUNT, TRB_TOTAL_FIN.COUNT, TRB_TOTAL_FOUT.COUNT, TRB_TOTAL_NAN.COUNT], ∀ m < 64,
        t.g f m = if bit mask m = true ∧ s.owns p m = true then 0 else s.g f m) ∧
      t = { s with rf := t.rf, link := t.link, out := t.out, port := t.port })

/-- SLOT_END ends a running invocation: ENDING, with the cause; no carrel of the allotment issues again and the start latch empties. In the safe state nothing completes (R440): only the latch empties.
The model's choices in it: log entry 64. -/
def Obligations.SlotEndStopsTheInvocation : Prop :=
  ∀ (s : State) (p n : Nat), s.Powered → s.Quiet → s.hostMay (p + 1) (0x408 + 16 * n) = true → s.owns p n = true →
    (s.g SLOT_STATUS.STATE n = 3 ∨ s.g SLOT_STATUS.STATE n = 4) → (s.slot n).inv ≠ none → (s.slot n).ending = none →
    (s.gb DEV_STATUS.SAFE = false → ∃ t, exec (.slotEnd p n) s = .next t ∧ t.g SLOT_STATUS.STATE n = 6 ∧ (t.slot n).ending = some { status := 2 } ∧
      (t.slot n).latch = none ∧ (∀ d ∈ carrelsOf (s.slot n).allot, (t.carrel (s.phys d)).run ∈ [Run.idle, .halted, .stopped]) ∧
      (∀ d, t.mem d = s.mem d) ∧ (∀ m, m ≠ n → t.slot m = s.slot m)) ∧
    (s.gb DEV_STATUS.SAFE = true → exec (.slotEnd p n) s = .next (s.unlatch n).lines)

/-- INVOCATION_DISPATCH of a latched start, WAVE_START, HUB_BARRIER_ARRIVAL and GROUP_RELEASE_RECEIVE: a dispatch sets the carrels up and forms the release of
its waves; a wave starts the carrels of its position that wait for its release; the last arrival of a barrier forms its release two ticks on.
The model's choices in it: log entries 61, 64, 103, 119. -/
def Obligations.DispatchAndRelease : Prop :=
  ∀ (s : State) (n : Nat), s.Powered → s.Quiet →
    let x := s.slot n
    let rel (bar : Option Nat) (trel prio : Nat) : Release :=
      { slot := n, bar := bar, trel := trel, spread := decide (16 < x.allot.length), stride := s.g STAMP_CTL.WAVE_STRIDE, prio := prio,
        formed := s.time }
    (∀ (d : Start) (i : Nat) (e : Entry), x.latch = some d → s.canDispatch n = true → (s.queue n).hold = none →
      findEntry x.folios d.entry = some (i, e) → e.byDesc = true →
      ∃ t, exec (.invocationDispatch n) s = .next t ∧ t.g SLOT_STATUS.STATE n = 3 ∧ t.g SLOT_STATUS.START_PENDING n = 0 ∧ (t.slot n).latch = none ∧
        (t.slot n).inv = some ⟨.due d.idx d.stamp d.late d.skipped d.suspended (decide (s.g Q_STATUS.STATE n ≠ 0)), d.entry, i, e.budget⟩ ∧
        t.rels = s.rels ++ [rel none s.time (s.g SLOT_CFG.PRIORITY n)] ∧
        ∀ c ∈ carrelsOf x.allot, (t.carrel (s.phys c)).run = .waiting ∧ (t.carrel (s.phys c)).lp = e.start ∧
          (t.carrel (s.phys c)).cycles = 0 ∧ (t.carrel (s.phys c)).trb = {} ∧ sget (t.carrel (s.phys c)) 1 = 0) ∧
    (∀ (k : Nat) (r : Release), s.rels[k]? = some r → r.slot = n → s.waveOk r = true → (r.bar = none ∨ r.started ≠ 0) →
      ∃ t, exec (.waveStart k r.started) s = .next t ∧
        t.rels = (if r.started = 15 then s.rels.eraseIdx k
          else s.rels.set k { r with started := r.started + 1, shift := r.shift + (s.time - relDue r) }) ∧
        (∀ q, (t.carrel q).run = if q ∈ (x.allot.map fun h => s.phys (16 * h + r.started)) ∧ (s.carrel q).run = relRun r.bar
          then .active else (s.carrel q).run) ∧ t.store = s.store ∧ t.slots = s.slots) ∧
    (∀ b w : Nat, b < 4 → x.inv ≠ none → s.formed n b = false → bit (tget (fun _ => 0) x.hubArr b) w = false →
      let cs := (carrelsOf x.allot).filter fun c => decide (c / 128 = w)
      let x' : SlotSt := { x with hubArr := tset (fun _ => 0) x.hubArr b (setBit (tget (fun _ => 0) x.hubArr b) w true) }
      let whole := (wingsOf x.allot).all fun v => bit (setBit (tget (fun _ => 0) x.hubArr b) w true) v
      cs ≠ [] → (∀ c ∈ cs, hasArrived (s.carrel (s.phys c)) b = true) →
      (whole = false → exec (.hubBarrierArrival n b w) s = .next (s.setSlot n x').lines) ∧
      (whole = true → bit x.gated b = false → s.isGroupBar n b = false →
        exec (.hubBarrierArrival n b w) s = .next ({ s.setSlot n x' with rels := s.rels ++ [rel (some b) (s.time + 2) x.prio] } : State).lines)) ∧
    (∀ b trel, bit x.grpWait b = true → s.formed n b = false →
      (s.groupGoes = false → exec (.groupReleaseReceive n b trel) s = .next (s.setSlot n { x with grpRel := x.grpRel ++ [(b, trel)] }).lines) ∧
      (s.groupGoes = true → s.now + 2 ≤ trel → exec (.groupReleaseReceive n b trel) s =
        .next ({ s with rels := s.rels ++ [rel (some b) (s.time + (trel - s.now)) x.prio] } : State).lines))

/-- INVOCATION_NORMAL_END and SLOT_ENDING_DRAINED of a coherent call: the delivery line to be written, the trouble totals, the carrels idle, the slot IDLE.
The model's choices in it: log entry 64. -/
def Obligations.InvocationsEnd : Prop :=
  ∀ (s : State) (n seq : Nat) (v : Inv), s.Powered → s.Quiet → (s.slot n).inv = some v → v.src = .slip seq true → (s.slot n).shelfLost = false →
    (s.slot n).repair = false → s.flt.trap = false → s.g Q_STATUS.STATE n = 0 →
    let Ends (row : Instr) (e : Ending) : Prop := ∃ t, exec row s = .next t ∧ t.g SLOT_STATUS.STATE n = 2 ∧ (t.slot n).inv = none ∧
      (t.csOf n).report = some (s.deliveryLine n seq e (s.troubleSums n)) ∧
      t.g TRB_TOTAL_SAT.COUNT n = min (s.g TRB_TOTAL_SAT.COUNT n + (s.troubleSums n).getD 0 0) (2 ^ 64 - 1) ∧
      (∀ c ∈ carrelsOf (s.slot n).allot, (t.carrel (s.phys c)).run = .idle ∧ (t.carrel (s.phys c)).xfers = []) ∧
      (t.slot n).allot = (s.slot n).allot ∧ (t.slot n).folios = (s.slot n).folios ∧ (∀ m, m ≠ n → t.slot m = s.slot m)
    (s.g SLOT_STATUS.STATE n = 3 → s.allHalted n = true → Ends (.invocationNormalEnd n) { status := 0 }) ∧
    (∀ e, s.gb DEV_STATUS.SAFE = false → s.g SLOT_STATUS.STATE n = 6 → (s.slot n).ending = some e → (∀ c ∈ carrelsOf (s.slot n).allot, (s.carrel (s.phys c)).xfers = []) →
      (∀ w ∈ wingsOf (s.slot n).allot, (s.wing w).rst = 0) → Ends (.slotEndingDrained n) e)

/-! ### Call slips, slip registers, queues -/

/-- CALL_SLIP_REREAD_DATA, DELIVERY_LINE_WRITE, CS_MODE_COHERENT, CS_MODE_SLIP_REGISTERS, CS_MODE_OFF, CS_ARM_COMPLETE and
CS_DISARM_COMPLETE: the pair's state and registers after each.
The model's choices in it: log entry 64. -/
def Obligations.CallSlipPairs : Prop :=
  ∀ (s : State) (p n : Nat), s.Powered → s.Quiet →
    let x := s.csOf n
    let st := s.g CS_STATUS.STATE n
    (∀ b, x.got = some b → st = 2 → s.csMay n = false ∨ x.slipS = true → le b 0 4 = s.g CS_STATUS.LAST_SEQ n → exec (.callSlipRereadData n) s =
      .next ((s.setCs n { x with got := none }).bump CS_STATUS.SPURIOUS n).lines) ∧
    (∀ b, x.got = some b → st = 2 → le b 0 4 ≠ s.g CS_STATUS.LAST_SEQ n → s.csMay n = false ∨ (x.dlvLine ≠ none ∧ 2 ≤ x.dlv) →
      let u := (s.setCs n { x with got := none }).dropSlip n
      let t := (((u.setCs n { u.csOf n with call := some b }).p CS_STATUS.LAST_SEQ n (le b 0 4)).p CS_STATUS.PENDING n 1).p CS_STATUS.STATE n 3
      exec (.callSlipRereadData n) s = .next t.lines ∧
        t.csOf n = { x with got := none, call := some b, slipS := if x.slipLine = none then x.slipS else false }) ∧
    (∀ line, x.report = some line → x.posted = false → x.call = none → 2 ≤ x.dlv → le line 4 1 = 0 → st = 2 → x.slipS = true → x.slipLine ≠ none →
      exec (.deliveryLineWrite n) s = .next (s.setCs n { x with dlv := 3, dlvData := line, report := none, running := false }).lines) ∧
    (s.hostMay (p + 1) (0x4010 + 32 * n) = true → s.owns p n = true → s.g CS_CTL.MODE n = 0 → st = 0 → s.cacheEn = true →
      s.mayRequest (s.fnOf n) = false →
      exec (.csModeCoherent p n) s = .next ((s.p CS_CTL.MODE n 1).p CS_STATUS.STATE n 1).lines) ∧
    (s.hostMay (p + 1) (0x4010 + 32 * n) = true → s.owns p n = true → s.g CS_CTL.MODE n = 0 → st = 0 →
      exec (.csModeSlipRegisters p n) s = .next ((s.p CS_CTL.MODE n 2).p CS_STATUS.STATE n (if s.inService then 2 else 1)).lines) ∧
    (s.hostMay (p + 1) (0x4010 + 32 * n) = true → s.owns p n = true → s.g CS_CTL.MODE n ≠ 0 → st ≠ 5 →
      exec (.csModeOff p n) s = .next ((((s.setCs n { x with call := none, disarm := true }).p CS_CTL.MODE n 0).p
        CS_STATUS.PENDING n 0).p CS_STATUS.STATE n 5).lines) ∧
    (∀ b, x.got = some b → st = 1 → s.inService = true → s.csMay n = false ∨ x.slipS = true → exec (.csArmComplete n) s =
      .next (((s.setCs n { x with got := none }).p CS_STATUS.LAST_SEQ n (le b 0 4)).p CS_STATUS.STATE n 2).lines) ∧
    (st = 5 → x.running = false → x.report = none → x.call = none → x.reading = false → x.owning = false → x.dlv = 0 → x.slipS = false →
      exec (.csDisarmComplete n) s = .next ((((s.setCs n { valid := x.valid, line := x.line }).forgetWho n 2).p CS_STATUS.STATE n 0).p CS_CTL.MODE n 0).lines)

/-- SLIP_GO and SLIP_RESULT_READ: a call through the slip registers is refused or accepted, and its result is read once; a write of `SLIP_SEL` consumes
nothing. That an accepted call shows as PENDING alone is the model's choice (log entry 120). -/
def Obligations.SlipRegisters : Prop :=
  ∀ (s : State) (p : Nat), s.Powered → s.Quiet →
    let n := s.g SLIP_SEL.SLOT p
    let x := s.csOf n
    let f := s.slipOf p
    let free : Prop := s.owns p n = true ∧ s.g CS_CTL.MODE n = 2 ∧ x.valid = false ∧ x.running = false ∧ x.call = none
    (s.hostMay (p + 1) 0x5008 = true →
      (free → exec (.slipGo p) s = .next (((s.setSlip p { f with refused := false }).setCs n { x with call := some (slice f.callBytes 0 64) }).p
        CS_STATUS.PENDING n 1).lines) ∧
      (¬free → exec (.slipGo p) s = .next (s.setSlip p { f with refused := true }).lines)) ∧
    (s.hostSees (p + 1) 0x5080 = true → s.owns p n = true → n < 64 →
      (x.valid = true → exec (.slipResultRead p) s = .next ((s.emit (.cpl (p + 1) 0 (2 ^ 63 + b2n f.refused * 2 ^ 62 + n * 2 ^ 56 +
        (le x.line 4 1 * 2 ^ 40 + le x.line 5 1 * 2 ^ 32 + le x.line 0 4)))).setCs n { x with valid := false }).lines) ∧
      (x.valid = false → exec (.slipResultRead p) s = .next (s.emit (.cpl (p + 1) 0 (b2n f.refused * 2 ^ 62 + n * 2 ^ 56))).lines)) ∧
    (∀ v < 2 ^ 32, s.hostMay (p + 1) 0x5000 = true →
      exec (.registerWrite .host (p + 1) 0x5000 (natLe 4 v)) s = .next (s.p SLIP_SEL.SLOT p (v % 64)).lines)

/-- DB_SQ, DB_CQ, QUEUE_ENABLE, QUEUE_DISABLE, QUEUE_DRAIN_COMPLETE, QUEUE_RESUME, DESCRIPTOR_FETCH and DESCRIPTOR_REFETCH, of the partitions' queues and of
the management lending queue: doorbells, the states of a queue, the check of a fetched descriptor's generation; the read of the ring that the intake sends where the entry's
address is translated; where the queue goes on, with accessioned
descriptors of which none has failed and none is an INSTALL.
The model's choices in it: log entries 50, 51, 53, 64. -/
def Obligations.QueuesAndDoorbells : Prop :=
  ∀ (s : State) (p q : Nat), s.Powered → s.Quiet →
    let x := s.queue q
    let st := s.g Q_STATUS.STATE q
    let plain : Prop := ∀ d ∈ x.accs, d.fail = none ∧ descOp d.bytes ≠ 2
    let given (r : HReq) : HReq :=
      if r.owner = Owner.ring q ∨ r.owner = Owner.list q then { r with owner := .nobody (if q = 64 then none else some (s.g SLOT_CFG.PASID q)) } else r
    let unasked (u : State) : State := { u with link := { u.link with reqs := u.link.reqs.map given } }
    let halted (u : State) (err : Nat) : State :=
      ((unasked (u.setQueue q { x with cur := none, stale := 0, pre := none })).p Q_STATUS.STATE q 2).p Q_STATUS.ERROR q err
    let reg (own lending : Nat) : Nat := if p = 8 then lending else own + 64 * q
    let quietErr : Prop := q = 64 ∨ s.gb Q_CFG.ERR_IRQ q = false
    let head (u : State) : Nat := u.g SQ_BASE.ADDR q * 4096 + 128 * u.g Q_STATUS.SQ_HEAD q
    let fetches (u : State) (ca : Nat) : Prop := (u.queue q).cur = none ∧ (u.queue q).avail ≠ 0 ∧ (u.queue q).accs.length < 4 ∧ u.mayFetch q = true ∧
      u.readOf (.ring q) = none ∧ u.ringVa q (head u) false = (.ok ca, u)
    let asks (u : State) (ca : Nat) : State := u.hostRead (u.queueFn q) [(ca, 128)] (u.ringEpoch q (head u)) (.ring q)
    (s.ownsQ p q = true → ∀ v : Nat,
      let t := if q = 64 then s else (s.p Q_CFG.ERR_IRQ q (bits v 62 62)).p Q_CFG.ERR_VEC q (bits v 31 24)
      (s.hostMay (partFn p) (reg 0x1000 0x50040) = true →
        let told := ringCount (v % 65536) (bits v 16 16) (s.g Q_STATUS.SQ_HEAD q) (s.g Q_STATUS.SQ_GEN q) (s.g Q_CFG.SQ_LOG2 q)
        (∀ k, (st = 1 ∨ st = 2) → told = some k → b2n x.cur.isSome ≤ k → plain → (s.setQueue q { x with avail := k }).NoFetch q →
          exec (.dbSq p q v) s = .next (s.setQueue q { x with avail := k }).lines) ∧
        (∀ k ca, st = 1 → told = some k → plain → fetches (s.setQueue q { x with avail := k }) ca →
          exec (.dbSq p q v) s = .next (asks (s.setQueue q { x with avail := k }) ca).lines) ∧
        ((st = 1 ∧ told = none) ∨ ((st = 1 ∨ st = 2) ∧ ∃ k, told = some k ∧ k < b2n x.cur.isSome) → quietErr →
          exec (.dbSq p q v) s = .next (halted s 2).lines)) ∧
      (s.hostMay (partFn p) (reg 0x1008 0x50048) = true → st ≠ 0 →
        let told := ringCount (s.g Q_STATUS.CQ_TAIL q) (s.g Q_STATUS.CQ_GEN q) (v % 65536) (bits v 16 16) (s.g Q_CFG.CQ_LOG2 q)
        (∀ k, v % 65536 < 2 ^ s.g Q_CFG.CQ_LOG2 q → told = some k → x.hold = none → x.owed = [] → plain → s.NoFetch q →
          exec (.dbCq p q v) s = .next (s.setQueue q { x with used := k }).lines) ∧
        (2 ^ s.g Q_CFG.CQ_LOG2 q ≤ v % 65536 ∨ told = none → exec (.dbCq p q v) s = .next (s.bump Q_STATUS.DB_IGNORED q).lines)) ∧
      (s.hostMay (partFn p) (reg 0x2010 0x50010) = true →
        (s.gb Q_CFG.ENABLE q = false → st = 0 → bit v 63 = true → 4 ≤ bits v 11 8 → bits v 11 8 ≤ 12 → 4 ≤ bits v 3 0 → bits v 3 0 ≤ 12 →
          exec (.queueEnable p q v) s = .next (((((((((t.p Q_CFG.CQ_LOG2 q (bits v 11 8)).p Q_CFG.SQ_LOG2 q (bits v 3 0)).p Q_STATUS.CQ_TAIL q 0).p
            Q_STATUS.SQ_HEAD q 0).p Q_STATUS.CQ_GEN q 1).p Q_STATUS.SQ_GEN q 1).p Q_STATUS.STATE q 1).p Q_CFG.ENABLE q 1).setQueue q {}).lines) ∧
        (s.gb Q_CFG.ENABLE q = true → bit v 63 = false → x.accs = [] →
          exec (.queueDisable p q v) s = .next (((((unasked t).forgetThose q fun u => decide (u.source = 1) && decide (u.aux ≤ 1)).setQueue q
            { x with cur := none, stale := 0, avail := 0, accs := [], pre := none }).p Q_CFG.ENABLE q 0).p Q_STATUS.STATE q 3).lines)) ∧
      (s.hostMay (partFn p) (reg 0x2020 0x50020) = true → st = 2 → plain →
        let on := ((s.p Q_STATUS.ERROR q 0).p Q_STATUS.STATE q 1).setQueue q { x with stale := 0 }
        (on.NoFetch q → exec (.queueResume p q) s = .next on.lines) ∧
        (∀ ca, fetches on ca → exec (.queueResume p q) s = .next (asks on ca).lines))) ∧
    (st = 3 → (s.slot q).inv = none → x.accs = [] → x.hold = none → x.owed = [] →
      exec (.queueDrainComplete q) s = .next ((s.forgetWho q 1).p Q_STATUS.STATE q 0).lines) ∧
    (∀ data r b, s.mayFetch q = true → x.cur = none → s.readOf (.ring q) = some r → s.stableRange r.ca 128 = true →
      (s.dropReq r.tag).hubLoad r.ca 128 (some 2) data = (b, false, s.dropReq r.tag) →
      (le b 1 1 % 2 = s.g Q_STATUS.SQ_GEN q → descList b = false → plain →
        (x.stale = 0 → exec (.descriptorFetch q data) s = .next ((s.dropReq r.tag).setQueue q { x with stale := 0, cur := some b }).lines) ∧
        (x.stale ≠ 0 → exec (.descriptorRefetch q data) s = .next ((s.dropReq r.tag).setQueue q { x with stale := 0, cur := some b }).lines)) ∧
      (le b 1 1 % 2 ≠ s.g Q_STATUS.SQ_GEN q → x.stale = 8 → quietErr → exec (.descriptorRefetch q data) s = .next (halted (s.dropReq r.tag) 1).lines))

/-- DESCRIPTOR_ACCESSION (a sound REMOVE; an unsound descriptor), RUN, INSTALL, REMOVE and DUE_DATE at the front of a queue whose completion ring is full: what
the descriptor does, and the record it leaves in the hold.
The model's choices in it: log entries 18, 50. -/
def Obligations.DescriptorsInRingOrder : Prop :=
  ∀ (s : State) (q p : Nat) (b : Bytes), s.Powered → s.Quiet → s.partOf q = some p → q < 64 →
    let x := s.queue q
    let keeps (t : State) (y : QSt) (e : Ending) : State := t.setQueue q { y with hold := some (s.recOf q b e) }
    let next : QSt := { x with accs := x.accs.drop 1, lend := {}, re := none }
    (x.cur = some b → s.mayFetch q = true → x.accs.length < 4 → s.g Q_STATUS.SQ_HEAD q + 1 ≠ 2 ^ s.g Q_CFG.SQ_LOG2 q → s.g Q_STATUS.SQ_HEAD q + 1 < 2 ^ 12 →
      (s.bodyOk q b = true → descOp b = 3 → x.avail ≤ 1 → (∀ d ∈ x.accs, d.fail = none ∧ descOp d.bytes ≠ 2) →
        exec (.descriptorAccession q []) s = .next ((s.p Q_STATUS.SQ_HEAD q (s.g Q_STATUS.SQ_HEAD q + 1)).setQueue q
          { x with avail := x.avail - 1, cur := none, pre := none, accs := x.accs ++ [{ bytes := b }] }).lines) ∧
      (s.bodyOk q b = false → x.avail ≤ 1 → s.descRunning q = true →
        exec (.descriptorAccession q []) s = .next ((s.p Q_STATUS.SQ_HEAD q (s.g Q_STATUS.SQ_HEAD q + 1)).setQueue q
          { x with avail := x.avail - 1, cur := none, pre := none, accs := x.accs ++ [{ bytes := b, fail := some { status := 8 } }] }).lines) ∧
      (s.bodyOk q b = true → descOp b = 4 → s.RingFull q → reports b { status := 0 } → le b 0x10 1 = 2 → le b 0x11 1 < (s.part p).ddCount →
        s.ddPart ((s.part p).ddBase + le b 0x11 1) = some p → (s.ddEnt ((s.part p).ddBase + le b 0x11 1)).state = 1 → s.arec.role ≠ 1 →
        exec (.dueDate q) s = .next (keeps ((s.p Q_STATUS.SQ_HEAD q (s.g Q_STATUS.SQ_HEAD q + 1)).setDd ((s.part p).ddBase + le b 0x11 1) {})
          { x with avail := x.avail - 1, cur := none, pre := none } { status := 0 }).lines)) ∧
    (∀ d ds, x.accs = d :: ds → d.bytes = b → d.fail = none → d.marked = false → s.descRunning q = false → s.g Q_STATUS.STATE q ≠ 0 → x.hold = none →
      s.inService = true →
      (∀ i e, descOp b = 1 → (s.slot q).latch = none → (s.csOf q).call = none → s.canDispatch q = true → x.cur = none → x.avail = 0 →
        findEntry (s.slot q).folios (bits (le b 2 1) 2 0) = some (i, e) → e.byDesc = true →
        ∃ t, exec (.run q) s = .next t ∧ t.g SLOT_STATUS.STATE q = 3 ∧ t.queue q = { x with accs := ds } ∧
          (t.slot q).inv = some ⟨.desc b, bits (le b 2 1) 2 0, i, e.budget⟩ ∧
          (t.slot q).handles = ((s.bindBufs q d.bufs d.epoch).slot q).handles ∧
          (∀ c ∈ carrelsOf (s.slot q).allot, (t.carrel (s.phys c)).run = .waiting ∧ (t.carrel (s.phys c)).lp = e.start) ∧
          (∀ m, m ≠ q → t.slot m = s.slot m)) ∧
      (∀ i e f, descOp b = 3 → s.RingFull q → reports b { status := 0 } → s.slotFree q = true → s.preempted q = false → (s.slot q).imgJob = false →
        findEntry (s.slot q).folios (bits (le b 2 1) 2 0) = some (i, e) → (s.slot q).folios[i]? = some f →
        let z : SlotSt := { s.slot q with folios := (s.slot q).folios.eraseIdx i
                                          handles := (s.slot q).handles.filter fun h => decide (h.1 ∉ f.handles) }
        exec (.remove q) s = .next (keeps (((s.setSlot q z).p SLOT_STATUS.ENTRIES q
            ((f.entries.map (·.num)).foldl (fun m e => setBit m e false) (s.g SLOT_STATUS.ENTRIES q))).setOwner f.frame 0)
          next { status := 0 }).lines) ∧
      (∀ r g image, descOp b = 2 → s.RingFull q → s.readOf (.image q) = some r → (s.slot q).imgJob = true →
        (d.bufs.any fun y => decide (y.handle ∈ (s.slot q).folios.flatMap (·.handles) ++
          (((s.slot q).handles.filter fun e => e.2.any (·.remote)).map (·.1)))) = false →
        s.loadVa (le b 0x18 4 / 4096 + 2) p (s.g SLOT_CFG.PASID q) (le b 0x10 8) (le b 0x18 4) { source := 1, slot := q, aux := 3 } image [] false =
          (.ok 0, g, false, s) →
        let m (k : Nat) : Nat := (b.getD (0x20 + k) 0).toNat
        let code := imgStatus g (le b 0x18 4) (s.reg .BLOCK_VERSION 0).toNat (s.slot q).allot.length m (s.slot q).folios
        (code ≠ 0 → exec (.install q image) s = .next (keeps ((s.dropReq r.tag).setSlot q { s.slot q with imgJob := false }) next
          { status := 9, detail := code }).lines) ∧
        (∀ fr u, code = 0 → reports b { status := 0 } → s.allocFrame p = some (fr, u) →
          let t := u.putFolio q (folioOf g m (d.bufs.map (·.handle)) fr) d.bufs d.epoch
          (t.slot q).folios = (s.slot q).folios ++ [folioOf g m (d.bufs.map (·.handle)) fr] ∧
          exec (.install q image) s = .next (keeps ((t.dropReq r.tag).setSlot q { t.slot q with imgJob := false }) next { status := 0 }).lines)))

/-- LEND, HOLD, RETURN, ADVISE and GRANULE_COPY_DONE, and the translation that lets a copy begin: a granule that is not lent takes a frame and an entry, is
withdrawn and asks for its host pages, or is lent as zeros at once; a written granule is withdrawn and goes back by a copy, a held one that is lent is
withdrawn and asks for its host pages with write access, one that is returned is dropped at once; advice is kept; the end of a copy makes the granule LENT or HELD, or ends it.
The model's choices in it: log entries 18, 54, 55. -/
def Obligations.LendingOfGranules : Prop :=
  ∀ (s : State) (q k c : Nat) (d : Desc) (ds : List Desc), s.Powered → s.Quiet → (s.queue q).accs = d :: ds →
    let b := d.bytes
    let x := s.queue q
    let part := s.lendPart q b
    let pasid := s.lendPasid q b
    let v := le b 0x10 8 / 2 ^ 21 + k
    let va := v * 2 ^ 21
    let E := (s.g XL_STATUS.EPOCH part + 1) % 65536
    let fl := bit (le b 0x1C 1) 0
    let lasts : Prop := k + 1 = le b 0x18 4 ∧ s.RingFull q ∧ reports b { status := 0 }
    let Ends (t : State) : Prop := (t.queue q).hold = some (s.recOf q b { status := 0, detail := (c + 1) % 2 ^ 28 }) ∧ (t.queue q).lend = {} ∧
      (t.queue q).accs.map (·.bytes) = ds.map (·.bytes)
    let becomes (e e' : LendEnt) : List LendEnt := (s.lendOf part).map fun y => if y.pasid = e.pasid ∧ y.vpn = e.vpn then e' else y
    let without (e : LendEnt) : List LendEnt := (s.lendOf part).filter fun y => !(decide (y.pasid = e.pasid) && decide (y.vpn = e.vpn))
    let asks (t : State) (w : Bool) (aux : Nat) : Prop :=
      (t.xlOf part).ats = [{ pasid := pasid, va := va, w := w, retry := 0, who := [{ source := 5, slot := q, aux := aux }], sent := true }] ∧
      .atsReq (part + 1) pasid (va / 65536 * 65536) w ∈ t.out
    part < 8 → s.LendRests part q → s.mayRequest (part + 1) = true → k < le b 0x18 4 →
    (∀ ph, ph = 0 ∨ ph = 4 → x.lend = { pos := k, changed := c, phase := ph } → d.fail = none → s.descRunning q = false → s.g Q_STATUS.STATE q ≠ 0 →
      x.hold = none → s.inService = true →
      (∀ f u bk ps, s.lendFind part pasid va = none → s.allocFrame part = some (f, u) → u.freePlace part pasid v = some (bk, ps) →
        let e : LendEnt := { vpn := v, pasid := pasid, state := 1, frame := f, r := true, w := false, order := (s.xlOf part).order, bucket := bk, pos := ps }
        (∀ row op, (row, op) ∈ [(Instr.lend q, 8), (Instr.hold q, 10)] → descOp b = op → (op = 8 → fl = false) →
          s.xlBar part va = none → (s.fn (part + 1)).atsEn = true → (s.xlOf part).ats = [] →
          ∃ t, exec row s = .next t ∧ t.lendOf part = s.lendOf part ++ [{ e with since := some E }] ∧
            (t.xlOf part).order = ((s.xlOf part).order + 1) % 2 ^ 32 ∧ t.g XL_STATUS.EPOCH part = E ∧ t.frameOwner f = part + 1 ∧
            (t.queue q).lend = { pos := k, changed := c, phase := 2 } ∧ asks t false 0 ∧ t.store = s.store) ∧
        (descOp b = 8 → fl = true → lasts → (∀ y ∈ s.coh.cat, inFrame f y.1 = false) →
          ∃ t, exec (.lend q) s = .next t ∧ t.lendOf part = s.lendOf part ++ [{ e with state := 2, w := true }] ∧ t.frameOwner f = part + 1 ∧ Ends t)) ∧
      (∀ e, s.lendFind part pasid va = some e →
        (descOp b = 9 → e.state = 3 ∨ (e.state = 2 ∧ (fl = true ∨ e.w = false)) → lasts → (∀ y ∈ s.coh.cat, inFrame e.frame y.1 = false) →
          ∃ t, exec (.returnLent q) s = .next t ∧ t.lendOf part = without e ∧ t.frameOwner e.frame = 0 ∧ Ends t) ∧
        (s.xlBar part va = none → (s.fn (part + 1)).atsEn = true → (s.xlOf part).ats = [] →
          (descOp b = 9 → e.state = 2 → fl = false → e.w = true →
            ∃ t, exec (.returnLent q) s = .next t ∧ t.lendOf part = becomes e { e with state := 4, since := some E } ∧ t.g XL_STATUS.EPOCH part = E ∧
              (t.queue q).lend = { pos := k, changed := c, phase := 2 } ∧ asks t true 0 ∧ t.store = s.store) ∧
          (descOp b = 8 → e.state = 3 →
            ∃ t, exec (.lend q) s = .next t ∧ t.lendOf part = becomes e { e with state := 1, since := some E } ∧ t.g XL_STATUS.EPOCH part = E ∧
              (t.queue q).lend = { pos := k, changed := c, phase := 2, held := true } ∧ asks t true 1 ∧ t.store = s.store))) ∧
      (∀ e, descOp b = 11 → s.lendFind part pasid va = some e → e.state = 2 ∨ e.state = 3 → lasts →
        ∃ t, exec (.advise q) s = .next t ∧ t.lendOf part = becomes e { e with advice := le b 0x1D 1 } ∧ Ends t)) ∧
    (∀ e pa r w, x.lend = { pos := k, changed := c, phase := 2 } → descOp b = 8 ∨ descOp b = 10 → s.lendFind part pasid va = some e → s.hubBuf = [] →
      s.xlBar part va = none → r = true → (s.xlOf part).ats = [{ pasid := pasid, va := va, w := false, retry := 0, who := [{ source := 5, slot := q }], sent := true }] →
      let ca := pa / 2 ^ 21 * 2 ^ 21 % 2 ^ 52
      (∀ y ∈ s.coh.cat, pageOff [(0, ca, 2 ^ 21)] y.1 = none) →
      ∃ t, exec (.atsTranslationCompletion (part + 1) pasid va 21 pa r w) s = .next t ∧ .granuleIn (part + 1) [(0, ca, 2 ^ 21)] ∈ t.out ∧
        (t.xlOf part).ats = [] ∧ (t.queue q).lend =
          { pos := k, changed := c, phase := 3, off := 2 ^ 21, pages := [(0, ca, 2 ^ 21)], wr := w, epoch := s.g XL_STATUS.EPOCH part }) ∧
    (∀ (e : LendEnt) (j : LendJob) data, x.lend = { j with pos := k, changed := c, phase := 3, patch := [], fault := none } → s.lendFind part pasid va = some e →
      e.frame < 2 ^ 19 → lasts →
      (∀ e', (descOp b = 8 ∧ e' = { e with state := 2, w := j.wr, since := none }) ∨ (descOp b = 10 ∧ e' = { e with state := 3, w := false, since := none }) →
        ∃ t, exec (.granuleCopyDone q pasid va data) s = .next t ∧ t.lendOf part = becomes e e' ∧ Ends t) ∧
      (descOp b = 9 → ∃ t, exec (.granuleCopyDone q pasid va data) s = .next t ∧ t.lendOf part = without e ∧ t.frameOwner e.frame = 0 ∧ Ends t))

/-! ### The host link, the functions, the cages -/

/-- LINK_TRAINING, LINK_TRAIN_RETRY, LINK_RETRAIN and LINK_WIDTH_NARROW: the modules taken into use, the counters; LINK_DOWN, HOT_RESET and
SIDEBAND_HOST_RESET out of SERVICE, TEST or SAFE: RECOVERY, with the cause; work and links end, local stores and the memory's bytes stay. A retrain
sets Receiver Error and Physical Layer Error and sends ERR_COR where that is not masked.
The model's choices in it: log entries 21, 31. -/
def Obligations.HostLinkAndItsResets : Prop :=
  ∀ s : State, s.Powered → s.Quiet →
    let use (s : State) (ms : List Nat) : State := (({ s with link := { s.link with modules := ms } } : State).p IDV_LINK.ACTIVE 0
      (ofBits 4 fun m => decide (m ∈ ms))).p IDV_LINK.WIDTH 0 ms.length
    let retrained (s : State) : State :=
      let t := (s.bump IDV_LINK.RETRAINS 0).tally fun t => { t with retrains := t.retrains + 1 }
      let a := (List.range (s.partCount + 1)).foldl (fun s f => s.setFn f { s.fn f with aerCor := setBit (s.fn f).aerCor 0 true }) t
      let b : State := { a with link := { a.link with ras := a.link.ras.write 0x110C (natLe 4 (setBit (a.link.ras.le 0x110C 4) 6 true)) } }
      if s.gb DEV_STATUS.SAFE = false ∧ bit (s.fn 0).aerCorMask 0 = false then b.emit (.errMsg 0 0) else b
    (∀ good repaired, s.mayTrain = true → s.dev.held = false →
      let ms := modulesFor s.arec.maxModules good
      let t := (use s ms).p IDV_LINK.REPAIRED 0 repaired
      let up : State := { t with link := { t.link with up := true, failed := false, intx := false } }
      (ms ≠ [] → exec (.linkTraining good repaired) s = .next up.lines) ∧
      (ms = [] → exec (.linkTraining good repaired) s = .next ({ s with link := { s.link with failed := true } } : State).lines) ∧
      (ms ≠ [] → s.link.failed = true → exec (.linkTrainRetry good repaired) s = .next up.lines)) ∧
    (s.link.up = true → exec .linkRetrain s = .next (retrained s).lines) ∧
    (∀ m, s.link.up = true → m ∈ s.link.modules → s.link.modules.length ≠ 1 → s.Recorded { source := srcId 5 m 1 } →
      exec (.linkWidthNarrow m) s = .next ((retrained (use s (modulesFor (s.link.modules.length / 2)
        (ofBits 4 fun k => decide (k ∈ s.link.modules) && decide (k ≠ m))))).record { source := srcId 5 m 1 } 0 false 0).lines) ∧
    (∀ row cause, (row, cause) ∈ [(Instr.linkDown, 3), (Instr.hotReset, 4), (Instr.sidebandHostReset, 5)] →
      s.g DEV_STATUS.STATE = 4 ∨ s.g DEV_STATUS.STATE = 5 ∨ s.g DEV_STATUS.STATE = 7 → s.dev.lcStep = 0 → s.dev.held = false →
      s.dev.started = true → s.dmem.mapout = none →
      ∃ t, exec row s = .next t ∧ t.g DEV_STATUS.STATE = 6 ∧ t.g RESET_CAUSE.CAUSE = cause ∧ t.gb RESET_CAUSE.WAS_SAFE = s.gb DEV_STATUS.SAFE ∧
        t.link.up = false ∧ t.slots = [] ∧ t.q = [] ∧ t.cs = [] ∧ t.xl = [] ∧ t.fns = [] ∧ t.coh = {} ∧ t.net = [] ∧ t.nic = {} ∧
        t.dev.archRun = false ∧ t.dev.deskRun = false ∧ t.dev.resetRun = true ∧
        (∀ w < 32, t.g WING_STATUS.STATE w = 1 ∨ t.g WING_STATUS.STATE w = 3) ∧
        t.store = s.store ∧ t.dmem.dram = s.dmem.dram ∧ t.lend = s.lend ∧ t.dd = s.dd ∧ t.arec = s.arec ∧ t.nvm = s.nvm ∧ t.fuses = s.fuses)

/-- BUS_MASTER_DISABLE, BUS_MASTER_ENABLE, D3HOT_ENTRY and D0_RETURN (no other work; the slots of a partition that stops requesting pause),
CACHE_ENABLE_CLEAR (also while a transaction for a host line runs), CACHE_ENABLE_SET, INTERRUPT_DISABLE_WRITE, CONFIGURATION_REQUEST (a function that is
not present; the identity; a mask),
FUNCTION_LEVEL_RESET and FLR_COMPLETE, MSIX_PENDING_SEND, BAR_ACCESS_UNSUPPORTED.
The model's choices in it: log entries 20, 22, 23, 30, 57, 109. -/
def Obligations.FunctionsAndConfiguration : Prop :=
  ∀ (s : State) (fn : Nat), s.Powered → s.Quiet →
    let x := s.fn fn
    let p := fn - 1
    let copying : Prop := ∃ e ∈ s.q, ∃ d ds, e.2.accs = d :: ds ∧ s.lendPart e.1 d.bytes = p ∧ descOp d.bytes = 9 ∧ (s.queue e.1).lend.phase = 3
    (s.cfgMay fn = true →
      (∀ row y, (row, y) ∈ [(Instr.busMasterDisable fn, { x with bme := false }), (.d3hotEntry fn, { x with d3 := true })] →
        (∀ f, f ≠ 0 → f ≤ s.partCount → (s.setFn fn y).mayRequest f = s.mayRequest f) → exec row s = .next (s.setFn fn y).lines) ∧
      (∀ row y, (row, y) ∈ [(Instr.busMasterEnable fn, { x with bme := true }), (.d0Return fn, { x with d3 := false })] →
        ((∀ f, f ≠ 0 → f ≤ s.partCount → (s.setFn fn y).mayRequest f = s.mayRequest f) →
          (s.setFn fn y).mayRequest 0 = s.mayRequest 0 ∨ (s.HomesRest ∧ s.coh.owed = []) → exec row s = .next (s.setFn fn y).lines) ∧
        (fn ≠ 0 → s.mayRequest fn = false → (s.setFn fn y).mayRequest fn = true → x.pba = 0 →
          let u := ((s.slotsOf p).foldl (fun s n => s.unpause n) (s.setFn fn y)).p PART_STATUS.PAUSED p 0
          u.PartRests p → u.HomesRest → u.coh.owed = [] → exec row s = .next u.lines)) ∧
      (∀ row y, (row, y) ∈ [(Instr.busMasterDisable fn, { x with bme := false }), (.d3hotEntry fn, { x with d3 := true })] →
        fn ≠ 0 → s.mayRequest fn = true → (∀ n ∈ s.slotsOf p, n < 64) →
        ∃ t, exec row s = .next t ∧ t.fn fn = y ∧ t.g PART_STATUS.PAUSED p = 1 ∧
          (x.held = [] → ¬ copying → t.g PART_STATUS.HELD_WRITES p = s.g PART_STATUS.HELD_WRITES p) ∧
          (x.held ≠ [] ∨ copying → t.g PART_STATUS.HELD_WRITES p = 1) ∧
          (∀ n ∈ s.slotsOf p, s.g SLOT_STATUS.STATE n ∈ [3, 4, 6] →
            t.g SLOT_STATUS.STATE n = 5 ∧ t.slot n = { s.slot n with left := some (s.g SLOT_STATUS.STATE n) }) ∧
          (∀ n < 64, n ∉ s.slotsOf p ∨ s.g SLOT_STATUS.STATE n ∉ [3, 4, 6] →
            t.g SLOT_STATUS.STATE n = s.g SLOT_STATUS.STATE n ∧ t.slot n = s.slot n) ∧
          t.car = s.car ∧ t.store = s.store ∧ t.q = s.q) ∧
      (fn = 0 → s.cacheEn = true → (∀ f ≤ s.partCount, (s.fn f).bme = false) →
        (s.HomesRest → s.coh.owed = [] → (∀ w < 32, (∀ e ∈ (s.wing w).lines, isDev e.1 = true) ∧ ∀ e ∈ (s.wing w).eb, isDev e.line = true) →
          (∀ n < 64, s.g CS_CTL.MODE n ≠ 1 ∧ s.g CS_STATUS.STATE n ≠ 5) → s.nic.qps = [] →
          exec .cacheEnableClear s = .next (s.setFn 0 { x with cacheEn := false }).lines) ∧
        (s.coh.homes.any HTxn.runs = true →
          exec .cacheEnableClear s = .next ({ s with link := { s.link with clearing := true } } : State).lines)) ∧
      (fn = 0 → exec .cacheEnableSet s =
        .next (({ s with link := { s.link with clearing := false } } : State).setFn 0 { x with cacheEn := true }).lines) ∧
      (∀ v, fn = 0 → exec (.interruptDisableWrite v) s = .next (s.setFn 0 { x with intDis := v }).lines) ∧
      (∀ be v, exec (.configurationRequest fn 0 false be v) s = .next (s.emit (.cpl fn 0
        ((s.arec.ids.getD 0 0 + 2 ^ 16 * s.arec.ids.getD (if fn = 0 then 1 else 2) 0) % 2 ^ 32))).lines) ∧
      (∀ v < 2 ^ 32, exec (.configurationRequest fn 0x114 true 15 v) s = .next ((s.setFn fn { x with aerCorMask := v &&& aerCorBits }).emit (.cpl fn 0 0)).lines) ∧
      (fn ≠ 0 → s.g DEV_STATUS.STATE = 4 → s.HomesRest → s.cas.held = [] → (∀ n ∈ s.slotsOf p, n < 64 ∧ (s.csOf n).slipS = false ∧ (s.csOf n).dlv = 0) →
        ∃ t, exec (.functionLevelReset fn) s = .next t ∧ t.fn fn = { x with flr := true, held := [], pba := 0, irqs := [] } ∧
          t.gb PART_STATUS.READY p = false ∧ t.g PART_STATUS.HELD_WRITES p = 0 ∧ t.xlOf p = {} ∧
          (∀ n ∈ s.slotsOf p, t.g SLOT_STATUS.STATE n = 8 ∧ (t.slot n).inv = none ∧ t.queue n = {} ∧ t.csOf n = {}) ∧
          (∀ r ∈ t.link.reqs, r.fn = fn → r.orphan = true ∨ r.quar ≠ none) ∧ t.store = s.store ∧ t.dmem = s.dmem)) ∧
    (s.link.up = true → s.partCount < fn → ∀ off w be v, exec (.configurationRequest fn off w be v) s = .next ((s.aer 0 20).emit (.cpl fn 1 0)).lines) ∧
    (fn ≠ 0 → x.flr = true → s.gb DEV_STATUS.SAFE = true → ∃ t, exec (.flrComplete fn) s = .next t ∧ t.fn fn = {} ∧ t.g PART_STATUS.PAUSED p = 1 ∧
      t.store = s.store ∧ t.dmem = s.dmem ∧ t.lend = s.lend ∧ t.slots = s.slots ∧ t.q = s.q) ∧
    (fn ≠ 0 → x.flr = true → s.gb DEV_STATUS.SAFE = false → s.framesInUse (fun fr => decide (s.frameOwner fr = p + 1)) = false → s.fnBusy fn = false → s.coh.owed = [] → s.dmem.wcb = [] → s.nic.qps = [] → s.mrListed = [] →
      (∀ w < 32, (∀ e ∈ (s.wing w).lines, isDev e.1 = true) ∧ ∀ e ∈ (s.wing w).eb, isDev e.line = true) →
      ∃ t, exec (.flrComplete fn) s = .next t ∧ t.fn fn = {} ∧ t.xlOf p = {} ∧ t.lendOf p = [] ∧ t.g PART_STATUS.PAUSED p = 1 ∧
        t.gb PART_STATUS.READY p = s.inService ∧
        (∀ n ∈ s.slotsOf p, t.slot n = {} ∧ t.queue n = {} ∧ t.csOf n = {}) ∧
        (∀ n, n ∉ s.slotsOf p → t.slot n = s.slot n ∧ t.queue n = s.queue n) ∧
        (∀ c ∈ t.dmem.dram, s.frameOwner (c.1 / 2 ^ 21) ≠ p + 1) ∧ t.nvm = s.nvm) ∧
    (∀ v < 256, bit x.pba v = true → s.canSend fn v = true → s.ordered fn = true → exec (.msixPendingSend fn v) s =
      .next ((s.setFn fn { x with pba := setBit x.pba v false }).emit (.msix fn (x.vecs.le (16 * v) 8) (x.vecs.le (16 * v + 8) 4))).lines) ∧
    (∀ off len, s.hasFn fn = true → s.link.up = true → x.mse = true → x.d3 = false → bar0Ok fn off len = false → fn = 0 ∨ s.gb DEV_STATUS.SAFE = false →
      exec (.barAccessUnsupported fn 0 off len false) s = .next ((s.aer fn 20).emit (.cpl fn 1 0)).lines)

/-- CAGE_CTL_WRITE, CAGE_CMD_DONE (no power taken away) and CAGE_POLL (no cage loses its module under power, none reports a fault).
The model's choices in it: log entry 58. -/
def Obligations.Cages : Prop :=
  ∀ s : State, s.Powered → s.Quiet →
    (∀ c v, c < 12 → s.cfgMay 0 = true → (c < 8 → s.arec.cages.getD c 0 ≠ 0 ∨ bit v 10 = false) →
      ∃ t, exec (.cageCtlWrite c v) s = .next t ∧ t.g CAGE_CTL.POWER_ON c = bits v 10 10 ∧
        t.g CAGE_CTL.ATTN_IND c = (if bits v 9 8 = 0 then s.g CAGE_CTL.ATTN_IND c else bits v 9 8) ∧
        t.g CAGE_CTL.PWR_IND c = (if bits v 7 6 = 0 then s.g CAGE_CTL.PWR_IND c else bits v 7 6) ∧
        t.g CAGE_CTL.PRES_IE c = bits v 3 3 ∧ t.g CAGE_CTL.BTN_IE c = bits v 2 2 ∧ t.g CAGE_CTL.FAULT_IE c = bits v 1 1 ∧
        t.g CAGE_CTL.DONE_IE c = bits v 0 0 ∧
        t.cage c = (if (s.cage c).sent = none then { s.cage c with sent := some (t.reg .CAGE_CTL c).toNat }
          else { s.cage c with held := some (t.reg .CAGE_CTL c).toNat }) ∧
        (∀ d, d ≠ c → t.cage d = s.cage d) ∧ (∀ k i, k ≠ .CAGE_CTL → t.reg k i = s.reg k i) ∧ t.port = s.port) ∧
    (∀ c w, (s.cage c).sent = some w → (bit (s.cage c).out 0 = true → bit w 10 = true ∧ (s.cage c).present = true) →
      exec (.cageCmdDone c) s = .next ((s.setCage c { s.cage c with
        sent := (s.cage c).held, held := none, out := b2n (bit w 10 && (s.cage c).present) + 2 * bits w 9 8 + 8 * bits w 7 6 }).p
          CAGE_STATUS.CMD_DONE c 1).lines) ∧
    (∀ vs : List Nat, vs.length = 12 →
      (∀ c < 12, bit (vs.getD c 0) 3 = true ∧ (bit (vs.getD c 0) 0 = false ∨ (s.cage c).present = false ∨ bit (s.cage c).out 0 = false)) →
      ∃ t, exec (.cagePoll vs) s = .next t ∧ (∀ c < 12,
        let x := s.cage c
        let v := vs.getD c 0
        let pres := if bit v 0 = bit x.inputs 0 then !bit v 0 else x.present
        let down := if bit v 1 = bit x.inputs 1 then !bit v 1 else x.button
        t.cage c = { x with inputs := v % 16, present := pres, button := down, powered := bit v 2 && bit x.out 0 } ∧
        t.g CAGE_STATUS.PRES_CHANGED c = (if pres = x.present then s.g CAGE_STATUS.PRES_CHANGED c else 1) ∧
        t.g CAGE_STATUS.BTN_PRESSED c = (if down = true ∧ x.button = false then 1 else s.g CAGE_STATUS.BTN_PRESSED c) ∧
        t.g CAGE_STATUS.PWR_FAULT c = s.g CAGE_STATUS.PWR_FAULT c) ∧ (∀ k i, k ≠ .CAGE_STATUS → t.reg k i = s.reg k i) ∧ t.port = s.port)

/-- COMPLETION_TIMEOUT of a ring read, LATE_COMPLETION, ORPHANED_COMPLETION, TAG_QUARANTINE_END, HOST_READ_COMPLETION of a ring read: tags, counters,
the queue halts with the error 4 and gives up what it was reading, one that drains reports the error and gives up its records, the events are recorded.
The model's choices in it: log entries 22, 53, 107, 109. -/
def Obligations.ReadsOfHostMemory : Prop :=
  ∀ (s : State) (tag : Nat) (r : HReq), s.Powered → s.Quiet →
    let quar (s : State) (t : Nat) : State := { s with link := { s.link with reqs := s.link.reqs.map fun (x : HReq) =>
      if x.tag = tag then { x with quar := some t } else x } }
    let given (q : Nat) (x : HReq) : HReq :=
      if x.owner = Owner.ring q ∨ x.owner = Owner.list q then { x with owner := .nobody (if q = 64 then none else some (s.g SLOT_CFG.PASID q)) } else x
    let unasked (q : Nat) (u : State) : State := { u with link := { u.link with reqs := u.link.reqs.map (given q) } }
    let count (s : State) (f : Fld) : State := if r.fn = 0 then s else s.bump f (r.fn - 1)
    let advisory (s : State) (b : Nat) : State :=
      s.setFn r.fn { s.fn r.fn with aerUnc := setBit (s.fn r.fn).aerUnc b true, aerCor := setBit (s.fn r.fn).aerCor 13 true }
    let silent := r.fn = 0 ∨ s.gb PART_CONTROL.ERR_IRQ (r.fn - 1) = false
    (s.link.reqs.find? (fun x => decide (x.tag = tag) && !x.orphan && x.quar.isNone) = some r → ∀ q e, r.owner = .ring q →
      r.issued + s.timeoutOf r.fn r.io ≤ s.time → silent → bit (s.fn r.fn).aerUncSev 14 = false → bit (s.fn r.fn).aerUncMask 14 = true →
      64 ≤ q ∨ s.gb Q_CFG.ERR_IRQ q = false → s.gb DEV_STATUS.SAFE = false → e = { source := srcId 5 4 2, part := (s.partOf q).getD 0xF } → s.RecordedUc e →
      let t := advisory (count (quar s (s.time + 2 * s.timeoutOf r.fn r.io)) PART_CPL.TIMEOUTS) 14
      exec (.completionTimeout tag) s = .next ((if s.g Q_STATUS.STATE q = 0 then t
        else if s.g Q_STATUS.STATE q = 3 then (unasked q (t.setQueue q { s.queue q with hold := none, owed := [] })).p Q_STATUS.ERROR q 4
        else ((unasked q (t.setQueue q { s.queue q with cur := none, stale := 0, pre := none })).p Q_STATUS.STATE q 2).p Q_STATUS.ERROR q 4).noted e 1)) ∧
    (s.link.reqs.find? (fun x => decide (x.tag = tag) && !x.orphan && x.quar.isSome) = some r → ∀ e,
      silent → bit (s.fn r.fn).aerUncSev 16 = false → bit (s.fn r.fn).aerUncMask 16 = true →
      e = { source := srcId 5 4 3, part := if r.fn = 0 then 0xF else r.fn - 1 } → s.Recorded e →
      exec (.lateCompletion tag) s = .next ((advisory (count s PART_CPL.LATE_CPL) 16).noted e 0)) ∧
    (s.link.reqs.find? (fun x => decide (x.tag = tag) && decide (x.fn = r.fn) && x.orphan) = some r → silent →
      exec (.orphanedCompletion r.fn tag) s = .next ((count s PART_CPL.ORPHANED).dropReq tag).lines) ∧
    (s.link.reqs.find? (fun x => decide (x.tag = tag)) = some r → ∀ t, r.quar = some t → t ≤ s.time →
      exec (.tagQuarantineEnd tag) s = .next (s.dropReq tag).lines) ∧
    (s.link.reqs.find? (fun x => decide (x.tag = tag)) = some r → ∀ q data b, r.owner = .ring q → r.io = true → r.orphan = false → r.quar = none →
      s.mayFetch q = true → (s.queue q).cur = none → s.readOf (.ring q) = some r → s.stableRange r.ca 128 = true →
      (∀ d ∈ (s.queue q).accs, d.fail = none ∧ descOp d.bytes ≠ 2) →
      (s.dropReq r.tag).hubLoad r.ca 128 (some 2) data = (b, false, s.dropReq r.tag) → le b 1 1 % 2 = s.g Q_STATUS.SQ_GEN q → descList b = false →
      exec (.hostReadCompletion tag data) s = .next ((s.dropReq r.tag).setQueue q { s.queue q with stale := 0, cur := some b }).lines)

/-- REGISTER_WRITE (the power cap, from the host and over I3C; a bad size), DESK_FORBIDDEN_ACCESS, PEER_INBOX_WRITE (no entry: counted, and an Unsupported Request in AER; through a window).
The model's choices in it: log entries 40, 41, 109. -/
def Obligations.RegisterAccesses : Prop :=
  ∀ s : State, s.Powered → s.Quiet →
    (∀ v < 2 ^ 32, s.bar0Open 0 0x6008 = true →
      let h := bits v 27 24
      let c := bits v 11 0
      let a := if 1 ≤ h then s.p PWR_CAP.HYST 0 h else s
      let t := if 600 ≤ c ∧ c ≤ 2400 ∧ c % 10 = 0 then a.p PWR_CAP.CAP_W 0 c else a
      ((s.fn 0).mse = true → (s.fn 0).d3 = false → exec (.registerWrite .host 0 0x6008 (natLe 4 v)) s = .next t.lines) ∧
      exec (.registerWrite .i3c 0 0x6008 (natLe 4 v)) s = .next t.lines) ∧
    (∀ core fn off e, s.dev.deskRun = true → e = { source := srcId 10 (1 + core % 8) 3, info0 := off } → s.RecordedUc e →
      (deskMay fn off false = false → exec (.deskForbiddenAccess core fn off false) s = .next ((s.emit (.deskRead 0)).noted e 1)) ∧
      (deskMay fn off true = false → exec (.deskForbiddenAccess core fn off true) s = .next (s.noted e 1))) ∧
    (∀ fn rid off data entry, let p := fn - 1; let x := s.fn fn
      fn ≠ 0 → fn ≤ s.partCount → x.mse = true → x.d3 = false → x.flr = false → s.gb DEV_STATUS.SAFE = false →
      ((∀ i < 16, s.gb PEER.VALID (16 * p + i) = true → s.g PEER.RID (16 * p + i) ≠ rid) → s.gb PART_CONTROL.ERR_IRQ p = false →
        let said (k : Nat) (masked : Bool) (t : State) : State := if s.link.up = true ∧ bit x.aerUncMask 20 = false ∧ masked = false then t.emit (.errMsg fn k) else t
        let unc := setBit x.aerUnc 20 true
        exec (.peerInboxWrite fn rid off data entry) s = .next (if bit x.aerUncSev 20 then
            said 2 false ((s.bump PART_ACCESS.INBOX_REJ p).setFn fn { x with aerUnc := unc })
          else said 0 (bit x.aerCorMask 13)
            ((s.bump PART_ACCESS.INBOX_REJ p).setFn fn { x with aerUnc := unc, aerCor := setBit x.aerCor 13 true })).lines) ∧
      (∀ i e t, (List.range 16).find? (fun i => s.gb PEER.VALID (16 * p + i) && decide (s.g PEER.RID (16 * p + i) = rid)) = some i →
        let w := 64 * p + s.g PEER.WINDOW (16 * p + i)
        let o := off % 2 ^ 26
        s.cas.held = [] → s.mayRequest fn = true → w < 512 → w / 64 = p → s.gb WIN_CFG.ENABLE w = true → o / 2 ^ 21 < s.g WIN_CFG.GRANULES w →
        s.cas.wins.find? (fun e => decide (e.1 = w ∧ e.2.1 = o / 2 ^ 21)) = some (w, o / 2 ^ 21, e) →
        e / 2 ^ 57 = 0 → bits e 20 2 = 0 → bit e 1 = true →
        s.winStore p (s.g WIN_CFG.PASID w) (bits e 56 21 * 2 ^ 21 + o % 2 ^ 21) data s.cas.nextIn = (.ok 0, t) → t.Quiet → t.pending = s.pending → t.dev.cold = s.dev.cold →
        exec (.peerInboxWrite fn rid off data entry) s = .next t.lines))

/-- RD_SHARED, RD_OWN, RD_ONCE, WR_NA, WR_NA_PART, WR_THRU and WR_STASH of a wing at the home of a line of device memory that no cache holds: the
catalogue's entry, the grant, the write, the transaction that stays.
The model's choices in it: log entries 16, 18, 79. -/
def Obligations.RequestsAtTheHome : Prop :=
  ∀ (s : State) (m : Msg), s.Powered → s.Quiet → s.HomesRest → isDev m.ca = true → m.src < 32 → s.ent m.ca = {} →
    let l := m.ca
    let d := m.src / 4
    let bytes := slice m.data 0 64
    let h (o : Nat) : HTxn := { opc := o, src := m.src, txn := m.txn, line := l, mask := m.mask, bytes := bytes, wing := m.wing, slot := s.slotOfMsg m }
    (∀ k, s.catPlace l = some (k, none) →
      exec (.rdShared m) s = .next ((((s.took 1 m).setEnt l { way := k, pres := setBit 0 d true, owned := true, owner := d }).homeIs
        { h 1 with memWait := true, ack := true }).homeSend l 0x81 m.src m.txn).lines ∧
      exec (.rdOwn m) s = .next ((((s.took 2 m).setEnt l { way := k, pres := 2 ^ d, owned := true, owner := d }).homeIs
        { h 2 with memWait := true, ack := true }).homeSend l 0x82 m.src m.txn).lines ∧
      exec (.wrStash m) s = .next ((((s.took 7 m).setEnt l { way := k }).homeIs { h 7 with stash := true }).homeSend l 0xC3 m.wing m.txn bytes).lines) ∧
    exec (.rdOnce m) s = .next (((s.took 3 m).homeIs { h 3 with memWait := true, ack := true }).homeSend l 0x83 m.src m.txn).lines ∧
    (∀ row o mask, (row, o, mask) ∈ [(Instr.wrNa m, 4, fullMask), (.wrNaPart m, 5, m.mask)] →
      exec row s = .next ((((s.took o m).memWrite l mask bytes (s.slotClass (s.slotOfMsg m))).freeEnt l).homeSend l 0x84 m.src m.txn).lines) ∧
    ((s.wline m.src l).st = 0 →
      exec (.wrThru m) s = .next ((((s.took 6 m).memWrite l m.mask bytes (s.slotClass (s.slotOfMsg m))).freeEnt l).homeSend l 0x84 m.src m.txn).lines)

/-- WB_DIRTY, EV_CLEAN; CMP_ACK, RS_I, RS_S, RS_FWD, DAT_HOME and STASH_REFUSE for the one transaction of the homes; the host's snoops of a line that no
cache owns; HOST_CACHE_RESPONSE; RESERVED_OPCODE_MESSAGE, which is FATAL.
The model's choices in it: log entries 16, 17. -/
def Obligations.AnswersAtTheHome : Prop :=
  ∀ (s : State) (m : Msg), s.Powered → s.Quiet →
    let l := m.ca
    let e := s.ent l
    (∀ row o b, (row, o) ∈ [(Instr.wbDirty m, 8), (.evClean m, 9)] → s.HomesRest → isDev l = true → m.src < 32 → s.ebOf m.src l = some b →
      b.sent = false → (b.st = 2 ↔ o = 9) →
      let g := s.wing m.src
      let t := (s.took o m).setWing m.src { g with eb := g.eb.map fun (x : EbEnt) => if x.line = l then { x with sent := true } else x }
      exec row s = .next (((if b.st = 2 then t else t.memWrite l fullMask b.data none).setEnt l
        { e with owned := e.owned && !(e.owned && decide (e.owner = m.src / 4)) }).homeSend l 0x88 m.src 0).lines) ∧
    (∀ h, s.OneHome h → h.line = l → h.hub = none → e.lost = false →
      let d := partyOf m.src
      let wrote (t : State) (mask : Nat) (data : Bytes) : State :=
        (((t.memWrite l mask data (s.slotClass h.slot)).freeEnt l).homeSend l 0x84 h.src h.txn).homeless
      (h.src = m.src → h.txn = m.txn → h.ack = true → exec (.cmpAck m) s = .next (s.took 0x89 m).homeless.lines) ∧
      (isDev l = true → h.promised = 0 → h.came = 0 → h.wbWait = false → h.dies = 2 ^ d → d ≤ 8 → h.src < 32 →
        (h.opc = 4 → exec (.rsI m) s = .next (wrote (s.took 0x8A m) fullMask h.bytes).lines) ∧
        (h.opc = 1 → h.fwd = false → e.pres % 256 ≠ 0 →
          exec (.rsS m) s = .next ((((s.took 0x8B m).setEnt l { e with owned := false, pres := setBit e.pres (h.src / 4) true, hgrant := 0 }).homeIs
            { h with dies := 0, memWait := true, ack := true }).homeSend l 0x80 h.src h.txn).lines) ∧
        (h.opc = 1 → m.st = 2 →
          exec (.rsFwd m) s = .next ((((s.took 0x8C m).setEnt l { e with pres := setBit e.pres (h.src / 4) true, hgrant := 0 }).homeIs
            { h with dies := 0, fwd := true, keepO := true, ack := true }).homeSend l 0x80 h.src h.txn).lines)) ∧
      (isDev l = true → h.opc = 5 → h.promised = 1 → h.came = 0 → h.wbWait = false → h.dies = 0 → m.dirty = true →
        exec (.datHome m) s = .next (wrote (s.took 0xC2 m) fullMask (maskMerge h.mask (slice m.data 0 64) h.bytes)).lines) ∧
      (isDev l = true → h.opc = 7 → h.stash = true →
        exec (.stashRefuse m) s = .next (wrote (s.took 0x8E m) fullMask h.bytes).lines) ∧
      (∀ tag ca data r, ca / 64 = l → isDev l = false → h.opc = 1 → h.hostSent = true → h.src < 32 →
        s.link.reqs.find? (fun r => decide (r.tag = tag)) = some r → r.owner = .home l → r.io = false → r.orphan = false → r.quar = none →
        exec (.hostCacheResponse tag ca data) s = .next (((((s.dropReq r.tag).setEnt l { e with pres := setBit e.pres (h.src / 4) true, hgrant := max 1 e.hgrant }).homeSend
          l 0x80 h.src h.txn).homeSend l 0xC0 h.src h.txn (slice data 0 64)).homeIs { h with host := none, hostSent := false, ack := true }).lines)) ∧
    (∀ ca, s.HomesRest → s.gb DEV_STATUS.SAFE = false →
      let e := s.ent (ca / 64)
      let say (t : State) (k : Nat) : State := t.emit (.d2hRsp k (ca / 64 * 64) [])
      (e.way = 0 → ∀ row ∈ [Instr.hostSnpinv ca, .hostSnpdata ca, .hostSnpcur ca], exec row s = .next (say s 0).lines) ∧
      (e.way ≠ 0 → e.owned = false → e.hub = false →
        (e.pres % 256 = 0 → exec (.hostSnpinv ca) s = .next (say (s.freeEnt (ca / 64)) 0).lines) ∧
        exec (.hostSnpdata ca) s = .next (say (s.setEnt (ca / 64) { e with hgrant := 1 }) (if e.pres % 256 = 0 then 0 else 3)).lines ∧
        exec (.hostSnpcur ca) s = .next (say s (if e.pres % 256 = 0 then 0 else 5)).lines)) ∧
    (∀ a o ca, let src := srcId 3 (homeOf ca % 32) (4 + 64 * (homeOf ca / 32))
      let ev : Event := { source := src, info0 := a % 128 + o * 2 ^ 8 + ca % 2 ^ 47 * 2 ^ 16 }
      reservedOpc o = true → s.gb DEV_STATUS.SAFE = false → s.dev.resetRun = false → s.effSev ev = (2, false) →
      ∃ t, exec (.reservedOpcodeMessage a o ca) s = .next t ∧ t.gb DEV_STATUS.SAFE = true ∧ t.g DEV_STATUS.STATE = 7 ∧ t.g SAFE_CAUSE.CAUSE = 1 ∧
        t.g SAFE_CAUSE.SOURCE = src ∧ t.store = s.store ∧ t.dmem.dram = s.dmem.dram)

/-- The snoops of a die of which one wing holds the line in M; CMP_S, CMP_E, CMP_M, CMP_I, DAT_MEM, DAT_FWD (the first of grant and data waits, the
second installs the line), CMP_W, RS_ERR at the call-slip engine, DAT_STASH.
The model's choices in it: log entries 16, 17, 59. -/
def Obligations.SnoopsAndGrants : Prop :=
  ∀ (s : State) (m : Msg), s.Powered → s.Quiet →
    let l := m.ca
    let home := 0x40 + homeOf l
    (∀ k, m.dst < 32 → s.policyOf l = 0 → s.g WING_CACHE_STATUS.STATE m.dst = 1 → s.pickWay m.dst l = some (k, none) →
      let f := match s.coh.homes.find? (fun h => decide (h.line = l) && h.stash) with | some h => s.hFn h | none => 0
      exec (.datStash m) s = .next (((s.took 0xC3 m).wInstall m.dst l 4 k (slice m.data 0 64) f).send
        { opc := 0x8A, src := m.dst, dst := home, txn := m.txn, ca := l }).lines) ∧
    (s.HomesRest →
    (∀ row o st keep toHome, (row, o, st, keep, toHome) ∈ [(Instr.snShare m, 0x40, 3, 2, false), (.snClean m, 0x41, 1, 1, true),
        (.snInv m, 0x42, 0, 0, decide (0x40 ≤ m.dataTo)), (.snOnce m, 0x43, 4, 3, false), (.snBack m, 0x44, 0, 0, true)] →
      ∀ d j, m.dst = 0x80 + d → d < 8 → j < 4 → m.wing = 0 → (s.wline (4 * d + j) l).st = 4 →
      (∀ k < 4, s.g WING_CACHE_STATUS.STATE (4 * d + k) ≠ 5) →
      (∀ k < 4, s.ebOf (4 * d + k) l = none ∧ (k ≠ j → (s.wline (4 * d + k) l).st = 0)) →
      ∃ t, exec row s = .next t ∧
        t.wline (4 * d + j) l = (if st = 0 then noWLine l else { s.wline (4 * d + j) l with st := st }) ∧
        (∀ w k, w / 4 ≠ d ∨ k ≠ l → t.wline w k = s.wline w k) ∧
        t.net = (s.took o m).net ++ [
          { opc := if toHome then 0xC2 else 0xC1, src := m.dst, dst := if toHome then home else m.dataTo, txn := m.txn, ca := l, dirty := true,
            data := (s.wline (4 * d + j) l).data },
          { opc := 0x8C, src := m.dst, dst := home, txn := m.txn, ca := l, st := keep }]) ∧
    (∀ t, s.txnOf m = some t → m.dst < 32 → s.WingRests m.dst →
      (t.data = none → ∀ row o, (row, o) ∈ [(Instr.cmpS m, 0x80), (.cmpE m, 0x81), (.cmpM m, 0x82), (.cmpI m, 0x83)] →
        exec row s = .next ((s.took o m).putTxn { t with grant := some o }).lines) ∧
      (t.grant = none → ∀ row o, (row, o) ∈ [(Instr.datMem m, 0xC0), (.datFwd m, 0xC1)] →
        exec row s = .next ((s.took o m).putTxn { t with data := some (slice m.data 0 64), err := m.err, dirty := m.dirty }).lines) ∧
      (∀ row o st dat, ((row, o, st) ∈ [(Instr.cmpS m, 0x80, 1), (.cmpE m, 0x81, 2), (.cmpM m, 0x82, 4)] ∧ t.data = some dat ∧ t.err = false) ∨
          ((row, o, st) ∈ [(Instr.datMem m, 0xC0, 4), (.datFwd m, 0xC1, 4)] ∧ t.grant = some 0x82 ∧ dat = slice m.data 0 64 ∧ m.err = false) →
        t.who = none → s.g WING_CACHE_STATUS.STATE m.dst ≠ 3 → s.g WING_CACHE_STATUS.STATE m.dst ≠ 5 →
        ∃ u, exec row s = .next u ∧ u.wline m.dst l = ⟨st, t.way, dat, s.fnOf t.slot⟩ ∧ (∀ w k, w ≠ m.dst ∨ k ≠ l → u.wline w k = s.wline w k) ∧
          u.net = (s.took o m).net ++ [{ opc := 0x89, src := m.dst, dst := home, txn := m.txn, ca := l }] ∧
          u.coh.txns = (s.dropTxn t).coh.txns ∧ u.coh.cat = s.coh.cat ∧ u.store = s.store) ∧
      (t.who = none → s.nic.qps = [] →
        let x := s.wline m.dst l
        exec (.cmpW m) s = .next (if t.opc = 6 ∧ x.st ≠ 0 then ((s.took 0x84 m).dropTxn t).setWline m.dst l { x with st := 1, data := maskMerge t.mask x.data t.bytes }
          else (s.took 0x84 m).dropTxn t).lines)) ∧
    (∀ t, s.txnOf m = some t → m.dst = 0x21 → t.opc = 1 → t.slot < 64 → t.orphan = false →
      exec (.rsErr m) s = .next ((((s.took 0x8D m).dropTxn t).setCs t.slot { s.csOf t.slot with reading := false }).p CS_STATUS.STATE t.slot 4).lines))

/-- NACK, NACK_RES, GO, REQUEST_RESEND: the back-off and the reservation of a request; WB_ACK; WING_CACHE_DISABLE, WING_CACHE_ENABLE, WING_CACHE_WALK_END.
The model's choices in it: log entries 16, 49, 96. -/
def Obligations.RetriesAndWingCaches : Prop :=
  ∀ (s : State) (m : Msg), s.Powered → s.Quiet → s.HomesRest →
    (∀ t, s.txnOf m = some t →
      let again (u : State) : State := (u.putTxn { t with phase := 0 }).send (Txn.msg { t with phase := 0 })
      (t.prefetch = false → exec (.nack m) s = .next ((s.took 0x85 m).putTxn { t with nacks := t.nacks + 1, phase := 1 }).lines) ∧
      exec (.nackRes m) s = .next (if t.phase = 3 then again (s.took 0x86 m) else (s.took 0x86 m).putTxn { t with phase := 2 }).lines ∧
      exec (.go m) s = .next (if t.phase = 2 then again (s.took 0x87 m) else (s.took 0x87 m).putTxn { t with phase := 3 }).lines ∧
      (∀ a n, s.coh.txns.find? (fun t => decide (t.agent = a) && decide (t.txn = n) && decide (t.phase = 1)) = some t →
        exec (.requestResend a n) s = .next (again s).lines)) ∧
    (∀ b, s.ebOf m.dst m.ca = some b → b.sent = true → m.dst < 32 → s.g WING_CACHE_STATUS.STATE m.dst ≠ 3 → (s.wing m.dst).rst = 0 →
      s.WingRests m.dst → exec (.wbAck m) s = .next ((s.took 0x88 m).ebDrop m.dst m.ca).lines) ∧
    (∀ w < 32,
      let st := s.g WING_CACHE_STATUS.STATE w
      let g := s.wing w
      let alone := ∀ k < 4, w / 4 * 4 + k ≠ w → s.g WING_CACHE_STATUS.STATE (w / 4 * 4 + k) ≠ 3
      let off := s.p WING_CACHE_CTL.ENABLE w 0
      let on := s.p WING_CACHE_CTL.ENABLE w 1
      (s.hostMay 0 (0x14000 + 512 * w) = true → g.rst ≠ 0 ∨ s.g WING_STATUS.STATE w = 3 ∨ st = 0 ∨ st = 5 →
        ∀ row ∈ [Instr.wingCacheDisable w, .wingCacheEnable w], exec row s = .next s.lines) ∧
      (s.hostMay 0 (0x14000 + 512 * w) = true → g.rst = 0 → s.g WING_STATUS.STATE w ≠ 3 →
        (st = 1 → g.lines = [] → alone → exec (.wingCacheDisable w) s = .next (off.p WING_CACHE_STATUS.STATE w 3).lines) ∧
        (st = 1 → ¬ alone → exec (.wingCacheDisable w) s = .next (off.p WING_CACHE_STATUS.STATE w 2).lines) ∧
        (st ∈ [2, 3, 4] → exec (.wingCacheDisable w) s = .next (off.setWing w { g with reEnable := false }).lines) ∧
        (st = 4 → s.WingRests w → exec (.wingCacheEnable w) s = .next (on.p WING_CACHE_STATUS.STATE w 1).lines) ∧
        (st = 3 → exec (.wingCacheEnable w) s = .next (on.setWing w { g with reEnable := true }).lines) ∧
        (st = 2 → exec (.wingCacheEnable w) s = .next (on.p WING_CACHE_STATUS.STATE w 1).lines)) ∧
      (st = 3 → s.wingEmpty w = true → g.rst = 0 → s.WingRests w → s.g WING_STATUS.STATE w ≠ 3 → (∀ k < 4, s.g WING_CACHE_STATUS.STATE (w / 4 * 4 + k) ≠ 2) →
        exec (.wingCacheWalkEnd w) s = .next ((s.setWing w { g with reEnable := false, plru := [] }).p WING_CACHE_STATUS.STATE w
          (if g.reEnable then 1 else 4)).lines))

/-- MEMORY_READ_RETURN for a home's transaction (once its transfer is admitted) and a corrected read, WCB_FLUSH, RESERVE_DISABLE, RESERVE_WALK_END and RESERVE_FLUSH (a dirty line), REGULATOR_REFILL,
SCRUB_STEP.
The model's choices in it: log entries 8, 19, 89, 111. -/
def Obligations.MemoryControllers : Prop :=
  ∀ s : State, s.Powered → s.Quiet →
    (∀ dpa h, let l := 2 ^ 46 + dpa / 64
      s.OneHome h → h.line = l → h.memWait = true → dpa < s.dmem.cap * 2 ^ 21 → (s.resLine l).way = 0 → (∀ e ∈ s.dmem.wcb, e.line ≠ l) →
      s.badWords l 0 = [] → s.resUses (s.slotClass h.slot) = none →
      (s.admits (s.chargedTo dpa) (s.stackOf dpa) = false → exec (.memoryReadReturn dpa 0 0) s = .next s.lines) ∧
      (s.admits (s.chargedTo dpa) (s.stackOf dpa) = true → exec (.memoryReadReturn dpa 0 0) s = .next (((s.charge (s.chargedTo (dpaOf l)) (s.stackOf (dpaOf l)) 1).homeSend l 0xC0 h.src h.txn (s.stackRead l)).homeIs
        { h with memWait := false }).lines)) ∧
    (∀ dpa r (ch : Bool), let q := s.chanOf dpa
      let s1 : State := if ch then s.charge 0xF (s.stackOf dpa) 4 else s
      let win := (s.dmem.ceWin.filter fun e => decide (s.time < e.2 + 156250000)) ++ [(q, s.time)]
      let ev : Event := { source := srcId 4 (q / 32) (q % 32), info0 := dpa }
      let t : State := { s1.bump MC_CHAN.CE q with dmem := { s1.dmem with ceWin := win } }
      s.Recorded ev → (win.filter fun e => decide (e.1 = q)).length < s.g MEM_POLICY.CE_LIMIT →
      (ch = false → r ≠ 0 → dpa < s.dmem.cap * 2 ^ 21 → exec (.memoryReadReturn dpa r 1) s = .next (t.noted ev 0)) ∧
      (ch = true → dpa = s.dmem.scrub * 256 → s.g MEM_POLICY.SCRUB_HOURS ≠ 0 → (∀ i < 32, s.badWord (dpa / 8 + i) = false) →
        exec (.scrubStep 1) s = .next (({ t with dmem := { t.dmem with scrub := (s.dmem.scrub + 1) % (s.dmem.cap * 8192) } } : State).noted ev 0))) ∧
    (s.g MEM_POLICY.SCRUB_HOURS ≠ 0 → (∀ i < 32, s.badWord (s.dmem.scrub * 256 / 8 + i) = false) →
      let t := s.charge 0xF (s.stackOf (s.dmem.scrub * 256)) 4
      exec (.scrubStep 0) s = .next ({ t with dmem := { t.dmem with scrub := (s.dmem.scrub + 1) % (s.dmem.cap * 8192) } } : State).lines) ∧
    (∀ c line e, s.dmem.wcb.find? (fun e => decide (e.line = line) && decide (s.stackOf (dpaOf e.line) = c)) = some e → e.last + 313 ≤ s.time →
      (s.admits e.part c = false → exec (.wcbFlush c line) s = .next s.lines) ∧
      (s.admits e.part c = true → e.mask = fullMask ∨ s.badWords e.line e.mask = [] → ∃ t, exec (.wcbFlush c line) s = .next t ∧ t.dmem.wcb = s.dmem.wcb.filter (fun x => decide (x.line ≠ e.line)) ∧
        t.stackRead e.line = maskMerge e.mask (s.stackRead e.line) e.data ∧
        (∀ a, a < dpaOf e.line ∨ dpaOf e.line + 64 ≤ a → t.dmem.dram.byte a = s.dmem.dram.byte a) ∧ t.rf = s.rf ∧ t.dmem.res = s.dmem.res) ∧
      (∀ i, s.admits e.part c = true → e.mask ≠ fullMask → s.badWords e.line e.mask = [i] →
        let dpa := 8 * (i + dpaOf e.line / 8)
        let q := s.chanOf dpa
        let ev : Event := { source := srcId 4 (q / 32) (32 + q % 32), info0 := dpa, part := (s.partOf noSlot).getD 0xF }
        let t : State := { s.bump MC_CHAN.UC q with dmem := { s.dmem with wcb := s.dmem.wcb.filter (fun x => decide (x.line ≠ e.line)) } }
        s.RecordedUc ev → exec (.wcbFlush c line) s = .next (((t.charge e.part c 2).stackWrite e.line e.mask e.data).noted ev 1))) ∧
    (s.hostMay 0 0x24000 = true →
      exec .reserveDisable s = .next (if s.g RES_STATUS.STATE = 1 then (s.p RES_CTL.ENABLE 0 0).p RES_STATUS.STATE 0 2 else s.p RES_CTL.ENABLE 0 0).lines) ∧
    (∀ l r, s.dmem.res = [(l, r)] → r.way ≠ 0 → r.dirty = true →
      (s.g RES_STATUS.STATE = 2 → exec .reserveWalkEnd s =
        .next ((({ s with dmem := { s.dmem with res := [] } } : State).wcbWrite l fullMask r.data).p RES_STATUS.STATE 0 3).lines) ∧
      (s.hostMay 0 0x24000 = true → exec .reserveFlush s =
        .next (((s.setRes l { r with dirty := false }).charge (s.chargedTo (dpaOf l)) (s.stackOf (dpaOf l)) 1).stackWrite l fullMask r.data).lines)) ∧
    (s.partCount ≤ 15 → ∃ b : Tab Int, exec .regulatorRefill s = .next ({ s with dmem := { s.dmem with bucket := b, passed := [] } } : State).lines ∧
      (∀ p st, p < s.partCount ∨ p = 15 → st < 14 → tget (fun _ => (0 : Int)) b (p * 16 + st) =
        min (tget (fun _ => (0 : Int)) s.dmem.bucket (p * 16 + st) + (s.guar p st * s.stepBytes st : Nat)) (2 * (s.guar p st * s.stepBytes st : Nat))))

/-- MAPOUT_GO and its four results, MAPOUT_START, MAPOUT_ROOM_READY, MAPOUT_CLEARING_DONE (no frame of the top range in use), MAPOUT_EVACUATION_DONE.
The model's choices in it: log entries 48, 112. -/
def Obligations.MapOut : Prop :=
  ∀ s : State, s.Powered → s.Quiet →
    (∀ v, let q := v % 512
      q < 384 → s.hostMay 0 0x20008 = true →
      let ans (r : Nat) : State := (s.p MEM_MAPOUT.CHANNEL 0 q).p MEM_MAPOUT.RESULT 0 r
      (s.dmem.mapout ≠ none → exec (.mapoutGo v) s = .next (ans 3).lines) ∧
      (s.dmem.mapout = none → s.colOfChan q = none → exec (.mapoutGo v) s = .next (ans 2).lines) ∧
      (s.dmem.mapout = none → s.colOfChan q ≠ none → s.mapoutRoom (q / 32) = false → exec (.mapoutGo v) s = .next (ans 1).lines) ∧
      (s.dmem.mapout = none → s.colOfChan q ≠ none → s.mapoutRoom (q / 32) = true → (q + 512) ∉ s.dmem.cand →
        exec (.mapoutGo v) s = .next ({ ans 0 with dmem := { s.dmem with cand := s.dmem.cand ++ [q + 512] } } : State).lines)) ∧
    (∀ c rest col, s.dmem.cand = c :: rest → s.dmem.mapout = none → s.dev.archRun = true → s.gb DEV_STATUS.SAFE = false →
      s.colOfChan (c % 512) = some col → s.mapoutRoom (c % 512 / 32) = true →
      ∃ t, exec .mapoutStart s = .next t ∧ t.g CMAP.STATE col = 1 ∧ t.dmem.mapout = some col ∧ t.dmem.cand = rest ∧ t.g MEM_MAPOUT.PROGRESS = 0 ∧
        (∀ p < 8, t.g MEM_PART.CUT p = s.cuts.getD p 0 ∧ t.g MEM_PART.TOTAL p = s.g MEM_PART.TOTAL p) ∧
        t.g MEM_MAPOUT.STATE = (if t.cutFits then 2 else 1) ∧ t.dmem.dram = s.dmem.dram ∧ t.dmem.cap = s.dmem.cap) ∧
    (s.g MEM_MAPOUT.STATE = 1 → s.cutFits = true → exec .mapoutRoomReady s = .next (s.p MEM_MAPOUT.STATE 0 2).lines) ∧
    (s.g MEM_MAPOUT.STATE = 2 → s.framesBusy (s.dmem.cap - 1024) s.dmem.cap = false → (∀ e ∈ s.dmem.owner, e.1 < s.dmem.cap - 1024) →
      ∃ t, exec .mapoutClearingDone s = .next t ∧ t.dmem = (s.setCap (s.dmem.cap - 1024)).dmem ∧ t.g MEM_MAPOUT.STATE = 3 ∧
        (∀ p < 8, t.g MEM_PART.TOTAL p = s.g MEM_PART.TOTAL p - s.g MEM_PART.CUT p ∧ t.g MEM_PART.CUT p = 0) ∧ t.slots = s.slots ∧ t.net = s.net) ∧
    (∀ col, let q := s.g CMAP.CHANNEL col
      let ev : Event := { source := srcId 4 (q / 32) (q % 32), info0 := col }
      s.dmem.mapout = some col → s.g MEM_MAPOUT.STATE = 3 → col < 384 → s.dmem.mapped < 24 → s.dmem.cap < 2 ^ 19 → q ∉ s.dmem.down → s.dmem.wcb = [] → s.Recorded ev →
      ∃ t, exec .mapoutEvacuationDone s = .next t ∧ t.g CMAP.STATE col = 2 ∧ t.g CMAP.VALID (384 + s.dmem.mapped) = 1 ∧
        t.g CMAP.BASE_FRAME (384 + s.dmem.mapped) = s.dmem.cap ∧ t.g CMAP.CHANNEL (384 + s.dmem.mapped) = col ∧ t.dmem.mapout = none ∧
        t.dmem.mapped = s.dmem.mapped + 1 ∧ t.g MEM_MAPOUT.STATE = 0 ∧ t.g MEM_MAPOUT.PROGRESS = s.dmem.cap ∧ t.dmem.dram = s.dmem.dram)

/-- ATS_TRANSLATION_COMPLETION, PRG_RESPONSE, PRI_CONTROL_RESET, ATS_INVALIDATE_REQUEST, INVALIDATE_COMPLETION, FLOG_ENABLE, FLOG_HEAD_WRITE, PROBE_START and
PROBE_DONE: what leaves the lists of a partition, what fills or leaves its translation buffers, what is asked again, the registers of its frame.
The model's choices in it: log entries 20, 56. -/
def Obligations.Translation : Prop :=
  ∀ (s : State) (p : Nat), s.Powered → s.Quiet → p < s.partCount → p < 8 →
    let x := s.xlOf p
    let f := p + 1
    (∀ pasid va size pa r w q, x.ats = [q] → q.sent = true → q.pasid = pasid → q.va / 2 ^ max 12 size = va / 2 ^ max 12 size →
      let t := s.setXl p { x with ats := [] }
      let who := s.liveWho q.who
      let stale := ∃ y ∈ q.stale, y.1 < va / 2 ^ max 12 size * 2 ^ max 12 size + 2 ^ max 12 size ∧ va / 2 ^ max 12 size * 2 ^ max 12 size < y.1 + y.2
      let goesOn (u : State) : Prop := exec (.atsTranslationCompletion f pasid va size pa r w) s = .next ((u.wake p).lendAll.closes s)
      (who = [] → goesOn t) ∧
      (who ≠ [] → stale ∨ (s.fn f).atsEn = false → goesOn (t.atsTry p pasid q.va q.w q.retry who)) ∧
      (who ≠ [] → ¬stale → (s.fn f).atsEn = true → (∀ u ∈ who, u.source ≠ 5 ∨ u.aux ≠ 1 ∨ r = false) →
        ((if q.w then w else r) = true → goesOn (t.fillFrom p (atsEntry f pasid q.va size va pa r w (s.g XL_STATUS.EPOCH p)) q.va who)) ∧
        ((if q.w then w else r) = false → q.retry < 2 → goesOn (t.prAsk p pasid q.va q.w (q.retry + 1) who)) ∧
        (∀ u, (if q.w then w else r) = false → q.retry = 2 → who = [u] → goesOn (t.xlFault p 8 q.va pasid q.w u)))) ∧
    (∀ prg code, s.NoTries →
      (∀ r, x.prs.find? (fun r => decide (r.prg = prg)) = some r →
        let t := s.setXl p { x with prs := x.prs.filter fun y => decide (y.prg ≠ prg) }
        let who := s.liveWho r.who
        let goesOn (k : Nat) (u : State) : Prop := exec (.prgResponse f prg k) s = .next ((u.wake p).lendAll.closes s)
        (who = [] → goesOn 0 t ∧ goesOn 1 t) ∧
        (who ≠ [] → goesOn 0 (t.atsTry p r.pasid r.va r.w r.retry who)) ∧
        (∀ u, who = [u] → goesOn 1 (t.xlFault p 5 r.va r.pasid r.w u))) ∧
      (x.prs.find? (fun r => decide (r.prg = prg)) = none →
        exec (.prgResponse f prg code) s = .next ((s.raise { source := srcId 8 p 0, part := p }).closes s))) ∧
    (s.cfgMay f = true → exec (.priControlReset f) s = .next (s.p XL_STATUS.PRI_STOPPED p 0).lines) ∧
    (x.invQ = [] → s.PartRests p → (∀ n ∈ s.slotsOf p, s.g CS_STATUS.STATE n ≠ 5) → s.coh.homes = [] →
      (∀ itag glob pasid va size, x.invs.length < 32 → s.epochFree p = true → s.lendOf p = [] →
        let E := (s.g XL_STATUS.EPOCH p + 1) % 65536
        ∃ t, exec (.atsInvalidateRequest f itag glob pasid va size) s = .next t ∧ t.g XL_STATUS.EPOCH p = E ∧
          t.hubBuf = s.hubBuf.filter (fun e => !covers f glob pasid va size e) ∧
          (∀ w, (t.wing w).l2 = (s.wing w).l2.filter fun e => !covers f glob pasid va size e) ∧
          (∀ c, (t.carrel c).xlat = (s.carrel c).xlat.filter fun e => !covers f glob pasid va size e) ∧
          ((s.fn f).flr = false → (t.xlOf p).invs = x.invs ++ [⟨itag, glob, pasid, va, size, E⟩]) ∧
          ((s.fn f).flr = true → (t.xlOf p).invs = x.invs ∧ (s.gb DEV_STATUS.SAFE = false → .invCpl f itag ∈ t.out)) ∧
          (t.xlOf p).ats = x.ats.map (fun (q : AtsReq) => { q with stale :=
            if glob then [(0, 2 ^ 64)] else if q.pasid = pasid then q.stale ++ [(va, size)] else q.stale }) ∧
          (∀ n ∈ s.slotsOf p, n < 64 → glob = true ∨ s.g SLOT_CFG.PASID n = pasid →
            (t.queue n).accs = (s.queue n).accs.map fun (d : Desc) => if glob || Desc.touches d va size then { d with marked := true } else d) ∧
          t.store = s.store ∧ t.dmem = s.dmem ∧ t.link.reqs = s.link.reqs) ∧
      (∀ i itag, x.invs.find? (fun i => decide (i.itag = itag)) = some i → s.gb DEV_STATUS.SAFE = false →
        (s.older p i.glob i.pasid i.epoch = true → exec (.invalidateCompletion f itag) s = .next s.lines) ∧
        (s.older p i.glob i.pasid i.epoch = false → exec (.invalidateCompletion f itag) s =
          .next (((s.setXl p { x with invs := x.invs.filter fun j => decide (j ≠ i) }).emit (.invCpl f itag)).wrap XL_COUNTS.INVALS p).lines))) ∧
    (∀ v, s.hostMay f 0x6018 = true →
      let t := ((s.p FLOG_CFG.ENABLE p (bits v 31 31)).p FLOG_CFG.IRQ p (bits v 8 8)).p FLOG_CFG.VEC p (bits v 7 0)
      exec (.flogEnable p v) s = .next (if bit v 31 then (t.p FLOG_STATUS.TAIL p 0).p FLOG_HEAD.HEAD p 0 else t).lines) ∧
    (∀ v < 2048, s.hostMay f 0x601C = true → (s.g FLOG_STATUS.TAIL p + 2048 - v) % 2048 ≤ 1024 →
      exec (.flogHeadWrite p v) s = .next (s.p FLOG_HEAD.HEAD p v).lines) ∧
    (∀ v < 2 ^ 20, s.hostMay f 0x6048 = true → exec (.probeStart p v) s =
      .next (((s.p XL_PROBE_PASID.PASID p v).p XL_PROBE_RESULT.DONE p 0).setXl p { x with probe := some (v, s.g XL_PROBE_VA.VPN p) }).lines) ∧
    (∀ pasid vpn e, x.probe = some (pasid, vpn) → (s.lendOf p).find? (fun e => decide (e.pasid = pasid) && decide (e.vpn = vpn)) = some e →
      e.advice < 8 → e.frame < 2 ^ 19 → e.state < 16 →
      ∃ t, exec (.probeDone p) s = .next t ∧ t.g XL_PROBE_RESULT.ADVICE p = e.advice ∧ t.gb XL_PROBE_RESULT.RD p = e.r ∧ t.gb XL_PROBE_RESULT.WR p = e.w ∧
        t.g XL_PROBE_RESULT.FRAME p = e.frame ∧ t.g XL_PROBE_RESULT.STATE p = e.state ∧ t.g XL_PROBE_RESULT.DONE p = 1 ∧
        t.xlOf p = { x with probe := none } ∧ (∀ k i, k ≠ .XL_PROBE_RESULT → t.reg k i = s.reg k i))

/-- ETH_FRAME_RECEIVE, PFC_FRAME_RECEIVE, ETH_PORT_DOWN (no queue pair, or one READY pair without requests), ETH_PORT_UP; QP_WRITE and its results,
QP_RESET, QP_READ, MR_WRITE, MR_INVALIDATE, MR_READ.
The model's choices in it: log entries 26, 114, 115. -/
def Obligations.PortsAndContexts : Prop :=
  ∀ (s : State) (n : Nat), s.Powered → s.Quiet →
    (s.portUp n = true →
      (∀ f : EthFrame, bit (s.g PORT_PFC.ENABLE n) (f.prio % 8) = false →
        (f.carries = 0 → f.dmac = s.g PORT_MAC.MAC n → f.dip = s.portIp n → f.len ≤ 9216 → exec (.ethFrameReceive n f) s = .next s.lines) ∧
        (f.carries = 1 → f.dmac = s.g PORT_MAC.MAC n ∨ bit f.dmac 40 = true → f.dip = s.portIp n → f.len ≤ 9216 →
          exec (.ethFrameReceive n f) s = .next (s.emit (.ethAnswer n)).lines) ∧
        (1 < f.carries ∨ (f.dmac ≠ s.g PORT_MAC.MAC n ∧ (f.carries = 0 ∨ bit f.dmac 40 = false)) ∨ f.dip ≠ s.portIp n ∨ 9216 < f.len →
          exec (.ethFrameReceive n f) s = .next (s.bump PORT_COUNTS.RX_DROP n).lines)) ∧
      (∀ f : EthFrame, let prio := f.prio % 8
        let sent := tget (fun _ => 0) s.nic.xoffSent n
        let tells (b : Bool) : State := ({ s with nic := { s.nic with xoffSent := tset (fun _ => 0) s.nic.xoffSent n (setBit sent prio b) } } : State).emit (.pfc n prio b)
        bit (s.g PORT_PFC.ENABLE n) prio = true → f.carries = 0 → f.dmac = s.g PORT_MAC.MAC n → f.dip = s.portIp n → f.len ≤ 9216 →
        (bit sent prio = false → s.g PORT_PFC.XOFF_KIB n < f.occ → exec (.ethFrameReceive n f) s = .next (tells true).lines) ∧
        (bit sent prio = true → 2 * f.occ < s.g PORT_PFC.XOFF_KIB n → exec (.ethFrameReceive n f) s = .next (tells false).lines)) ∧
      (∀ prio x, let t : State := { s with nic := { s.nic with
          xoff := tset (fun _ => 0) s.nic.xoff n (setBit (tget (fun _ => 0) s.nic.xoff n) (prio % 8) x) } }
        (x = true ∨ (∀ e ∈ s.nic.qps, e.2.tx = []) → exec (.pfcFrameReceive n prio x) s = .next t.lines) ∧
        (∀ q y, x = false → s.nic.qps = [(q, y)] → y.tx ≠ [] → s.ctxF q 2 1 = n →
          exec (.pfcFrameReceive n prio x) s = .next (((t.qpXon q).qpGo q).closes s)))) ∧
    (s.gb PORT_STATUS.LINK_UP n = true → s.RecordedUc { source := srcId 6 n 2 } →
      let t : State := { s.p PORT_STATUS.LINK_UP n 0 with nic := { s.nic with xoff := tset (fun _ => 0) s.nic.xoff n 0, xoffSent := tset (fun _ => 0) s.nic.xoffSent n 0 } }
      (s.nic.qps = [] → exec (.ethPortDown n) s = .next (t.noted { source := srcId 6 n 2 } 1)) ∧
      (s.gb DEV_STATUS.SAFE = true → exec (.ethPortDown n) s = .next (t.noted { source := srcId 6 n 2 } 1)) ∧
      (∀ q x, s.gb DEV_STATUS.SAFE = false → s.nic.qps = [(q, x)] → s.qpState q = 1 → s.ctxF q 2 1 = n → x.sends = [] → x.recv = none → x.wr = none →
        x.rnrWait = false → x.acks = [] → x.tx = [] → x.avail = 0 → x.ravail = 0 →
        exec (.ethPortDown n) s = .next (((t.ctxPut q 0 1 2).setQp q { x with flushAs := 8 }).noted { source := srcId 6 n 2 } 1))) ∧
    (n < 32 → s.portLanes n ≠ 0 → (s.cage (n / 4)).powered = true → s.port.serdesLost = false → s.inService = true → n ∉ s.nic.bad →
      exec (.ethPortUp n) s = .next (s.p PORT_STATUS.LINK_UP n 1).lines) ∧
    (s.hostMay 0 0x31008 = true → s.g QP_INDEX.INDEX < 4096 →
      let q := s.g QP_INDEX.INDEX
      let b := s.nic.qpStage.read 0 128
      let rate := 200000 * s.portLanes (le b 2 1)
      let made := ((s.netWrite (128 * q) (patch b 0x60 (natLe 4 rate))).setQp q { r := rate, ccAt := s.time }).p QP_RESULT.RESULT 0 0
      (s.ctxOk b = false → exec .qpWrite s = .next (s.p QP_RESULT.RESULT 0 1).lines) ∧
      (s.ctxOk b = true → s.qpState q ≠ 0 → exec .qpWrite s = .next (s.p QP_RESULT.RESULT 0 2).lines) ∧
      (s.ctxOk b = true → le b 0 1 = 1 → s.inService = false → exec .qpWrite s = .next (s.p QP_RESULT.RESULT 0 2).lines) ∧
      (s.ctxOk b = true → s.qpState q = 0 → le b 0 1 = 1 → s.inService = true → s.cacheEn = false → exec .qpWrite s = .next (s.p QP_RESULT.RESULT 0 3).lines) ∧
      (s.ctxOk b = true → s.qpState q = 0 → le b 0 1 = 0 → exec .qpWrite s = .next made.lines) ∧
      (s.ctxOk b = true → s.qpState q = 0 → le b 0 1 = 1 → s.inService = true → s.cacheEn = true → exec .qpWrite s = .next ((made.qpWatch q).closes s)) ∧
      (let x := s.qpOf q
       x.dbr = none → x.sends = [] → x.recv = none → (∀ r ∈ s.link.reqs, r.owner ≠ .wqe q ∧ r.owner ≠ .rqe q) →
        let y : QpSt := { sq := x.sq, sqGen := x.sqGen, rq := x.rq, rqGen := x.rqGen, cq := x.cq, cqGen := x.cqGen, avail := x.avail, ravail := x.ravail,
                          used := x.used, owed := x.owed }
        exec .qpReset s = .next (((((s.ctxPut q 0 1 0).setQp q y).qpDrained q).p QP_RESULT.RESULT 0 0).closes s)) ∧
      (let t := (s.netLoad (128 * q) 128).2
       exec .qpRead s = .next ((({ t with nic := { t.nic with qpStage := t.nic.qpStage.write 0 (s.netBytes (128 * q) 128) } } : State).p
        QP_RESULT.RESULT 0 0).closes s))) ∧
    (s.hostMay 0 0x32008 = true →
      let i := s.g MR_INDEX.INDEX
      let b := s.nic.mrStage.read 0 32
      (bit (s.mrF i 0x10 4) 31 = true → exec .mrWrite s = .next (s.p MR_RESULT.RESULT 0 2).lines) ∧
      (bit (s.mrF i 0x10 4) 31 = false → s.partCount ≤ bits (le b 0x10 4) 27 24 → exec .mrWrite s = .next (s.p MR_RESULT.RESULT 0 1).lines) ∧
      (bit (s.mrF i 0x10 4) 31 = false → bits (le b 0x10 4) 27 24 < s.partCount → exec .mrWrite s = .next ((s.netWrite (mrOff i) b).p MR_RESULT.RESULT 0 0).lines) ∧
      exec .mrInvalidate s = .next ((s.netWrite (mrOff i) (zeros 32)).p MR_RESULT.RESULT 0 0).lines ∧
      (let t := (s.netLoad (mrOff i) 32).2
       exec .mrRead s = .next ((({ t with nic := { t.nic with mrStage := t.nic.mrStage.write 0 (s.netBytes (mrOff i) 32) } } : State).p
        MR_RESULT.RESULT 0 0).closes s)))

/-- A queue pair as it sends: SEND_WQE_FETCH and WORK_REQUEST_REFETCH (a request without data), ROCE_ACK_RECEIVE (the only request acknowledged, RNR, a gap),
ROCE_RETRANSMIT_TIMEOUT, ROCE_RNR_RETRY, QP_DOORBELL_REREAD, ROCE_READ_RESPONSE_RECEIVE; and its rate: ROCE_CNP_RECEIVE, CC_RECOVER.
The model's choices in it: log entries 24, 25, 26, 116, 124. -/
def Obligations.SendingQueuePairs : Prop :=
  ∀ (s : State) (q : Nat), s.Powered → s.Quiet → s.qpState q = 1 →
    let x := s.qpOf q
    (∀ row data r b u v, s.readOf (.wqe q) = some r → s.netLoad (128 * q) 128 = (false, u) → u.stableRange r.ca 64 = true →
      u.hubLoad r.ca 64 (some 3) data = (b, false, v) → v.qpState q = 1 → v.qpOf q = x →
      (row = .sendWqeFetch q data [] ∧ x.stale = 0) ∨ (row = .workRequestRefetch q data [] ∧ x.stale ≠ 0) →
      let op := le b 0 1
      let psn := v.ctxF q 0xC 4
      let last := x.sq + 1 = 2 ^ (v.ctxF q 0x1D 1 % 16)
      (le b 1 1 % 2 = x.sqGen → wqeOk b = true → v.qpMay q = true → (bit (le b 1 1) 2 = false ∨ ∀ w ∈ x.sends, w.op ≠ 5) → op ≠ 5 → le b 4 4 = 0 → x.avail ≤ 1 →
        let pk := sendPkts b [] psn (v.qpMtu q)
        let wr : SendWr :=
          { op := op, wrId := le b 8 8, len := 0, signal := bit (le b 1 1) 1, first := psn,
            last := (psn + 1 - 1) % 2 ^ 24, pkts := pk, va := le b 0x10 8 }
        let y : QpSt := { x with sq := if last then 0 else x.sq + 1, sqGen := if last then 1 - x.sqGen else x.sqGen, avail := x.avail - 1, stale := 0,
                                 sentAt := if x.sends = [] then v.time else x.sentAt, sends := x.sends ++ [wr] }
        exec row s =
          .next ((pk.foldl (fun (s : State) p => s.qpSend q p) (((v.dropReq r.tag).setQp q y).ctxPut q 0xC 4 ((psn + 1) % 2 ^ 24))).closes s)) ∧
      (le b 1 1 % 2 ≠ x.sqGen → x.stale < 8 → exec row s = .next ((((v.setQp q { x with stale := x.stale + 1 }).dropReq r.tag).qpGo q).closes s))) ∧
    (∀ n p u w, p.qp = q → s.roceIn n p = (true, u) → (u.qpOf q).sends = [w] → (u.qpOf q).avail = 0 →
      let y := u.qpOf q
      (p.ack = 0 → w.op ≠ 5 → psnFrom w.last p.psn < 2 ^ 23 → w.signal = false →
        exec (.roceAckReceive n p) s = .next ((u.setQp q { y with sends := [], retry := 0, rnr := 0, sentAt := u.time }).closes s)) ∧
      (2 ^ 23 ≤ psnFrom w.last ((p.psn + 2 ^ 24 - 1) % 2 ^ 24) →
        (p.ack = 1 → u.ctxF q 0x16 1 = 7 ∨ y.rnr < u.ctxF q 0x16 1 →           exec (.roceAckReceive n p) s = .next ((u.setQp q { y with rnr := y.rnr + 1, rnrWait := true, rnrAt := u.time + 1600 * p.rnr }).closes s)) ∧
        (p.ack = 2 → y.retry < u.ctxF q 0x15 1 →
          exec (.roceAckReceive n p) s = .next (((u.setQp q { y with retry := y.retry + 1 }).resendFrom q p.psn).closes s))) ∧
      (∀ v, w.op = 5 → psnFrom w.first p.psn * u.qpMtu q = w.got →
        let bs := p.data.take (w.len - w.got)
        let t := v.setQp q { v.qpOf q with sends := [{ w with got := w.got + bs.length }], sentAt := v.time }
        u.placeVa (bs.length / 4096 + 3) { source := 3, carrel := q } (u.qpPart q) (u.ctxF q 4 4) (w.va + w.got) bs = (.ok 0, v) →
        (w.got + bs.length < w.len → exec (.roceReadResponseReceive n p) s = .next (t.closes s)) ∧
        (w.len ≤ w.got + bs.length → exec (.roceReadResponseReceive n p) s = .next (((t.sendDone q).qpGo q).closes s)))) ∧
    (s.qpMay q = true → x.sends ≠ [] → x.rnrWait = false → x.retry < s.ctxF q 0x15 1 →
      exec (.roceRetransmitTimeout q) s = .next (if s.time < x.sentAt + 640 * 2 ^ s.ctxF q 0x14 1 then s
        else (s.setQp q { x with retry := x.retry + 1 }).resendFrom q (s.firstOpen q)).lines) ∧
    (s.qpMay q = true → x.rnrWait = true → x.avail = 0 →
      exec (.roceRnrRetry q) s = .next (if s.time < x.rnrAt then s else (s.setQp q { x with rnrWait := false }).resendFrom q (s.firstOpen q)).lines) ∧
    (∀ b n m, x.got = some b → x.owed = [] → ringCount (le b 0 2) (le b 2 1 % 2) x.sq x.sqGen (s.ctxF q 0x1D 1 % 16) = some n →
      ringCount (le b 4 2) (le b 6 1 % 2) x.rq x.rqGen (s.ctxF q 0x1D 1 / 16) = some m →
      let kc := s.ctxF q 0x1E 1
      let u := if 2 ^ kc ≤ le b 8 2 then none else ringCount x.cq x.cqGen (le b 8 2) (le b 0xA 1 % 2) kc
      exec (.qpDoorbellReread q) s = .next (((s.setQp q { x with got := none, avail := n, ravail := m, used := u.getD x.used }).qpGo q).closes s)) ∧
    (∀ u, s.netRead (s.ctxF q 2 1) (128 * q) 128 = (false, u) → u.qpState q = 1 → u.qpOf q = x → x.a ≤ 2 ^ x.ae → ∃ y : QpSt, y = { x with a := y.a, ae := y.ae, r := y.r, re := y.re, ccAt := u.time } ∧
      exec (.roceCnpReceive q) s = .next (((u.setQp q y).ctxPut q 0x60 4 (y.r / 2 ^ y.re)).closes s) ∧
      (y.a : ℚ) / 2 ^ y.ae = 255 / 256 * ((x.a : ℚ) / 2 ^ x.ae) + 1 / 256 ∧
      (y.r : ℚ) / 2 ^ y.re = (x.r : ℚ) / 2 ^ x.re * (1 - (y.a : ℚ) / 2 ^ y.ae / 2)) ∧
    (let wait := (s.g NET_CC.RECOVER_US * 10000 + 63) / 64;
      (s.time < x.ccAt + wait → exec (.ccRecover q) s = .next s.lines) ∧ (x.ccAt + wait ≤ s.time →
      ∃ y : QpSt, y = { x with a := y.a, ae := y.ae, r := y.r, re := y.re, ccAt := s.time } ∧
      exec (.ccRecover q) s = .next ((s.setQp q y).ctxPut q 0x60 4 (y.r / 2 ^ y.re)).lines ∧
      (y.a : ℚ) / 2 ^ y.ae = 255 / 256 * ((x.a : ℚ) / 2 ^ x.ae) ∧
      (y.r : ℚ) / 2 ^ y.re = min (200000 * (s.portLanes (s.ctxF q 2 1) : ℚ)) ((x.r : ℚ) / 2 ^ x.re + s.g NET_CC.RAI_MBPS)))

/-- A queue pair as it receives: ROCE_SEND_RECEIVE (a packet in sequence that fits, a duplicate, the first after a gap), ROCE_RDMA_WRITE_RECEIVE (a first packet
that the region admits, a middle one), ROCE_RDMA_READ_REQUEST.
The model's choices in it: log entries 24, 26, 113. -/
def Obligations.ReceivingQueuePairs : Prop :=
  ∀ (s u : State) (n : Nat) (p : RocePkt), s.Powered → s.Quiet → s.roceIn n p = (true, u) →
    let q := p.qp
    let y := u.qpOf q
    let d := psnFrom (u.ctxF q 0x10 4) p.psn
    (∀ rq, p.op ≤ 5 →
      (d = 0 → ∀ r v, y.recv = some r → r.got + p.data.length ≤ r.len →
        u.placeVa (p.data.length / 4096 + 3) { source := 3, carrel := q } (u.qpPart q) (u.ctxF q 4 4) (r.va + r.got) p.data = (.ok 0, v) →
        let r' : RecvWr := { r with got := r.got + p.data.length }
        let t := v.setQp q { v.qpOf q with recv := some r' }
        (p.op ≤ 1 → exec (.roceSendReceive n p rq) s = .next (((t.psnOn q 1).roceReply q p.psn 0).closes s)) ∧
        (p.op = 2 ∨ p.op = 4 → exec (.roceSendReceive n p rq) s = .next ((((t.recvDone q r' r'.got 0x10 0 0).psnOn q 1).roceReply q p.psn 0).closes s)) ∧
        (p.op = 3 ∨ p.op = 5 → exec (.roceSendReceive n p rq) s = .next ((((t.recvDone q r' r'.got 0x11 p.imm 0).psnOn q 1).roceReply q p.psn 0).closes s))) ∧
      (2 ^ 23 ≤ d → exec (.roceSendReceive n p rq) s = .next ((u.roceReply q p.psn 0).closes s)) ∧
      (0 < d → d < 2 ^ 23 → y.gap = false →
        exec (.roceSendReceive n p rq) s = .next (((u.setQp q { y with gap := true }).roceReply q (u.ctxF q 0x10 4) 2).closes s)) ∧
      (0 < d → d < 2 ^ 23 → y.gap = true → exec (.roceSendReceive n p rq) s = .next (u.closes s))) ∧
    (∀ rq v, d = 0 →
      (∀ i va left total, p.op = 7 → y.wr = some (i, va, left, total) → p.data.length ≤ left → u.mrPlace q i va p.data = (.ok 0, v) →
        exec (.roceRdmaWriteReceive n p rq) s = .next ((((v.setQp q { v.qpOf q with wr := some (i, va + p.data.length, left - p.data.length, total) }).psnOn q 1).roceReply
          q p.psn 0).closes s)) ∧
      (∀ i u2, p.op = 6 ∨ p.op = 10 → u.netRead n (mrOff (p.rkey / 2 ^ 18)) 32 = (false, u2) → u2.mrCheck q p.rkey p.va p.len true = some i →
        p.data.length ≤ p.len → u2.mrPlace q i p.va p.data = (.ok 0, v) →
        exec (.roceRdmaWriteReceive n p rq) s = .next ((((v.setQp q { v.qpOf q with
          wr := if p.op = 10 then none else some (i, p.va + p.data.length, p.len - p.data.length, p.len) }).psnOn q 1).roceReply q p.psn 0).closes s))) ∧
    (∀ host i u2 v ca g, u.netRead n (mrOff (p.rkey / 2 ^ 18)) 32 = (false, u2) → u2.mayRequest (u2.qpFn q) = true → d = 0 →
      u2.mrCheck q p.rkey p.va p.len false = some i →
      u2.payloadVa (u2.qpPart q) (bits (u2.mrF i 0x18 4) 19 0) p.va p.len { source := 3, carrel := q } host = (.ok ca, g, false, v) →
      let mtu := u.qpMtu q
      let k := max 1 ((p.len + mtu - 1) / mtu)
      exec (.roceRdmaReadRequest n p host) s = .next (((List.range k).foldl (fun (s : State) j =>
        s.qpSend q { qp := 0, psn := (p.psn + j) % 2 ^ 24, data := (g.drop (j * mtu)).take mtu,
                     op := if k = 1 then 0x10 else if j = 0 then 0xD else if j + 1 < k then 0xE else 0xF }) (v.psnOn q k)).closes s))

/-- PLOLI_LINK_TRAIN, PLOLI_RETRAIN, PLOLI_LINK_DOWN, MEMBER_LOST (of the master without interloan transfers under way), PLAN_ENTRY_RECEIVE, GROUP_ARRIVAL_RECEIVE and
GROUP_PARTICIPATION_REPORT on the master.
The model's choices in it: log entries 28, 29. -/
def Obligations.LinksAndMembers : Prop :=
  ∀ s : State, s.Powered → s.Quiet →
    let r := s.arec
    (∀ l x, l < 4 → s.inService = true → (s.cage (8 + l)).powered = true → s.port.serdesLost = false → l ∉ s.cas.bad →
      let far (reach : Nat) : State := { s with cas := { s.cas with confl := setBit s.cas.confl l false, reach := tset (fun _ => 0) s.cas.reach l reach } }
      let mine := s.ploliMajor
      (r.role = 0 → exec (.ploliLinkTrain l x) s = .next (s.p PLOLI_LINK.STATE l 0).lines) ∧
      (r.role ≠ 0 → farMember r.topo r.count r.member l = none → exec (.ploliLinkTrain l x) s = .next (s.p PLOLI_LINK.STATE l 5).lines) ∧
      (∀ m, r.role ≠ 0 → farMember r.topo r.count r.member l = some m → x.up = true →
        (mine + 1 < x.major ∨ x.major + 1 < mine → exec (.ploliLinkTrain l x) s =
          .next ((((((far 0).p PLOLI_LINK.PEER_MAJOR l x.major).p PLOLI_LINK.STATE l 3).raise { source := srcId 7 l 5 }).groupEval.noteReach s.reached).closes s)) ∧
        (x.major ≤ mine + 1 → mine ≤ x.major + 1 → x.group = r.groupId → x.member = m → x.member ≠ r.member → x.master = r.master → x.count = r.count →
          x.topo = r.topo → x.kind = r.kind → exec (.ploliLinkTrain l x) s =
            .next (((({ (far (x.reach ||| 2 ^ m)).p PLOLI_LINK.PEER_MAJOR l x.major with cas := (far (x.reach ||| 2 ^ m)).cas } : State).p
              PLOLI_LINK.STATE l 1).groupEval.noteReach s.reached).closes s)) ∧
        (x.major ≤ mine + 1 → mine ≤ x.major + 1 → x.group = r.groupId → x.master ≠ r.master → exec (.ploliLinkTrain l x) s =
          .next ((((({ (far 0).p PLOLI_LINK.PEER_MAJOR l x.major with cas := { (far 0).cas with confl := setBit (far 0).cas.confl l true } } : State).p
            PLOLI_LINK.STATE l 0).raise { source := srcId 7 l 3 }).groupEval.noteReach s.reached).closes s)))) ∧
    (∀ l, l < 4 → s.g PLOLI_LINK.STATE l = 1 → s.Recorded { source := srcId 7 l 1 } →
      exec (.ploliRetrain l) s = .next (((s.bump PLOLI_LINK.RETRAINS l).tally fun t => { t with retrains := t.retrains + 1 }).noted { source := srcId 7 l 1 } 0)) ∧
    (∀ l, l < 4 → r.role ≠ 0 →
      let t := ({ s.p PLOLI_LINK.STATE l 0 with cas := { s.cas with reach := tset (fun _ => 0) s.cas.reach l 0 } } : State).noteReach s.reached
      (s.g PLOLI_LINK.STATE l = 1 → s.RecordedUc { source := srcId 7 l 2 } → exec (.ploliLinkDown l) s = .next (t.noted { source := srcId 7 l 2 } 1)) ∧
      (s.g PLOLI_LINK.STATE l ≠ 1 → s.g PLOLI_LINK.STATE l ≠ 5 → exec (.ploliLinkDown l) s = .next t.lines)) ∧
    (∀ m, let e : Event := { source := srcId 7 4 4, info0 := m }
      let t := s.p CAS_STATUS.PRESENT 0 (setBit (s.g CAS_STATUS.PRESENT) m false)
      m < r.count → m ≠ r.member → bit s.reached m = false → bit (s.g CAS_STATUS.PRESENT) m = true →
      tget (fun _ => 0) s.cas.gone m + 15625 ≤ s.time → s.RecordedUc e →
      (r.role ≠ 0 → r.role ≠ 2 ∨ m ≠ r.master → exec (.memberLost m) s = .next (t.noted e 1)) ∧
      (r.role = 2 → m = r.master → s.cas.il = [] → exec (.memberLost m) s = .next (((t.p CAS_STATUS.STATE 0 4).ddFree t.inPlan).noted e 1))) ∧
    (∀ e : PlanEntry, r.role = 2 → s.grouped = true →
      (s.inPlan e.idx = true → e.commit = false → exec (.planEntryReceive e) s = .next (s.setDd e.idx {}).lines) ∧
      (s.inPlan e.idx = true → e.commit = true → exec (.planEntryReceive e) s = .next ((s.ddArm e.idx e.stamp e.spec e.period).closes s)) ∧
      (s.inPlan e.idx = false → exec (.planEntryReceive e) s = .next ((s.raise { source := srcId 7 4 3 }).closes s))) ∧
    (∀ m n b, r.role = 1 →
      let e := (m, n, b)
      (s.grouped = true → e ∈ s.cas.takes → e ∉ s.cas.came →
        let came := s.cas.came ++ [e]
        let parts := s.cas.takes.filter fun x => decide (x.2 = (n, b))
        (s.groupGoes = false → exec (.groupArrivalReceive m n b) s = .next ({ s with cas := { s.cas with came := came } } : State).lines) ∧
        (s.groupGoes = true → s.takesPart n b = false → (∃ x ∈ parts, x ∉ came ∨ bit (s.g CAS_STATUS.PRESENT) x.1 = false) →
          exec (.groupArrivalReceive m n b) s = .next ({ s with cas := { s.cas with came := came } } : State).lines) ∧
        (s.groupGoes = true → s.takesPart n b = false → (∀ x ∈ parts, x ∈ came ∧ bit (s.g CAS_STATUS.PRESENT) x.1 = true) → exec (.groupArrivalReceive m n b) s =
          .next (parts.foldl (fun (s : State) x => s.emit (.grpRelease x.1 n b ((s.now + s.g STAMP_CTL.GROUP_LEAD) % 2 ^ 64)))
            ({ s with cas := { s.cas with came := came.filter fun x => decide (x.2 ≠ (n, b)) } } : State)).lines)) ∧
      (m < r.count → m ≠ r.member →
        let others := s.cas.takes.filter fun x => decide (x ≠ e)
        exec (.groupParticipationReport m n b true) s =
          .next ({ s with cas := { s.cas with takes := others ++ [e] } } : State).lines ∧
        (s.groupGoes = false → exec (.groupParticipationReport m n b false) s =
          .next ({ s with cas := { s.cas with takes := others, came := s.cas.came.filter fun x => decide (x ≠ e) } } : State).lines)))

/-- INTERLOAN_WRITE_RECEIVE and INTERLOAN_READ_REQUEST (a window that is off refuses; a window that admits), INTERLOAN_RESPONSE_RECEIVE, INTERLOAN_TIMEOUT,
EXCHANGE_WINDOW_CLOSE, IL_BIND, IL_UNBIND, IL_READ with their results, WIN_SYNC, WIN_CFG_WRITE.
The model's choices in it: log entries 11, 27, 28, 29, 102. -/
def Obligations.InterloanAndWindows : Prop :=
  ∀ s : State, s.Powered → s.Quiet →
    (∀ r : IlReq,
      (s.gb WIN_CFG.ENABLE r.window = false →
        exec (.interloanWriteReceive r) s =
          .next (((s.winRefuse r.window r.off (s.g WIN_CFG.PASID r.window) true).ilAnswer r.member r.tag 1 [] r.windowed).closes s) ∧
        exec (.interloanReadRequest r) s =
          .next (((s.winRefuse r.window r.off (s.g WIN_CFG.PASID r.window) false).ilAnswer r.member r.tag 1 [] r.windowed).closes s)) ∧
      (∀ p pasid va u v c, s.winCheck r.window r.off true r.entry s.cas.nextIn = (.ok p pasid va, u) → u.mayRequest (p + 1) = true →
        u.winStore p pasid va r.data s.cas.nextIn = (.ok c, v) → exec (.interloanWriteReceive r) s =
          .next ((if v.ordered (p + 1) then v.ilAnswer r.member r.tag 0 [] r.windowed
            else { v with cas := { v.cas with acks := v.cas.acks ++ [(p + 1, r.member, r.tag, r.windowed)] } }).closes s)) ∧
      (∀ p pasid va u v c g, s.winCheck r.window r.off false r.entry s.cas.nextIn = (.ok p pasid va, u) → u.mayRequest (p + 1) = true →
        u.payloadVa p pasid va r.len { source := 4, aux := s.cas.nextIn } r.host = (.ok c, g, false, v) →
        exec (.interloanReadRequest r) s = .next ((v.ilAnswer r.member r.tag 0 g r.windowed).closes s))) ∧
    (∀ (r : IlRsp) t, s.cas.il.find? (fun t => decide (t.itag = r.tag) && t.left) = some t →
      (r.status = 0 → exec (.interloanResponseReceive r) s = .next (s.ilEnd t (some r.data)).lines) ∧
      (r.status = 1 → exec (.interloanResponseReceive r) s = .next (((s.ilEnd t none).endSlot t.slot { status := 7 }).closes s)) ∧
      (1 < r.status → let f := s.freeBytes t.piece.len
        exec (.interloanResponseReceive r) s = .next (((f.2.ilEnd t (some f.1)).endSlot t.slot { status := 4 }).closes s))) ∧
    (∀ t, s.cas.il = [t] → t.sent + 10000000 ≤ s.time →
      exec (.interloanTimeout t.itag) s = .next (((s.ilEnd t none).endSlot t.slot { status := 3 }).closes s)) ∧
    (∀ l, tget (fun _ => 0) s.cas.openTo l ≤ s.time →
      exec (.exchangeWindowClose l) s = .next ({ s with cas := { s.cas with openTo := tset (fun _ => 0) s.cas.openTo l 0 } } : State).lines) ∧
    (s.hostMay 0 0x41010 = true →
      let n := s.g IL_SEL.SLOT
      let h := s.g IL_SEL.HANDLE
      let res (t : State) (k : Nat) : Host.Outcome State Fault Refusal := .next (t.p IL_CMD.RESULT 0 k).lines
      let hs := (s.slot n).handles
      (s.g SLOT_STATUS.STATE n = 3 → exec .ilBind s = res s 1 ∧ exec .ilUnbind s = res s 1) ∧
      (s.g SLOT_STATUS.STATE n ≠ 3 → s.g CAS_STATUS.STATE ≠ 2 → exec .ilBind s = res s 2 ∧ exec .ilUnbind s = res s 2) ∧
      (s.g SLOT_STATUS.STATE n ≠ 3 → s.g CAS_STATUS.STATE = 2 →
        (h < 32 → exec .ilBind s = res s 3) ∧
        (32 ≤ h → s.partOf n ≠ none → s.g IL_CMD.MEMBER < s.arec.count → s.g IL_CMD.MEMBER ≠ s.arec.member → s.g IL_TARGET.OFFSET % 8 = 0 →
          tget (fun _ => none) hs h = none → exec .ilBind s = res (s.setSlot n { s.slot n with handles := tset (fun _ => none) hs h (some
            { base := s.g IL_TARGET.OFFSET, len := s.g IL_TARGET.LEN * 65536, r := s.gb IL_CMD.RD, w := s.gb IL_CMD.WR, remote := true,
              member := s.g IL_CMD.MEMBER, window := s.g IL_CMD.WINDOW, windowed := s.gb IL_CMD.WINDOWED }) }) 0) ∧
        (∀ x, tget (fun _ => none) hs h = some x → x.remote = true →
          exec .ilUnbind s = res (s.setSlot n { s.slot n with handles := tset (fun _ => none) hs h none }) 0) ∧
        (tget (fun _ => none) hs h = none → exec .ilUnbind s = res s 3)) ∧
      (∀ x, tget (fun _ => none) hs h = some x → x.remote = true → exec .ilRead s =
        res (((((((s.p IL_TARGET.OFFSET 0 x.base).p IL_TARGET.LEN 0 (x.len / 65536)).p IL_CMD.RD 0 (b2n x.r)).p IL_CMD.WR 0 (b2n x.w)).p
          IL_CMD.WINDOWED 0 (b2n x.windowed)).p IL_CMD.WINDOW 0 x.window).p IL_CMD.MEMBER 0 x.member) 0) ∧
      (tget (fun _ => none) hs h = none → exec .ilRead s = res s 3)) ∧
    (∀ w, w < 512 →
      (s.hostMay 0 (0x44010 + 2048 * (w / 64) + 32 * (w % 64)) = true →
        exec (.winSync w) s = .next ({ s with cas := { s.cas with wins := s.cas.wins.filter fun e => decide (e.1 ≠ w) } } : State).lines) ∧
      (s.hostMay 0 (0x44008 + 2048 * (w / 64) + 32 * (w % 64)) = true → ∀ v,
        let g := bits v 16 0
        let t := (s.p WIN_CFG.PASID w (bits v 51 32)).p WIN_CFG.GRANULES w g
        exec (.winCfgWrite w v) s = .next (if s.gb WIN_CFG.ENABLE w = true ∧ bit v 63 = true then s
          else t.p WIN_CFG.ENABLE w (if bit v 63 = true ∧ 1 ≤ g ∧ g ≤ 65536 then 1 else 0)).lines))

/-- POWER_SAMPLE (the cap loop, while the cap can be met), BUBBLE_DENSITY_APPLY, CAP_IN_FALL, CAP_IN_RISE, OP_POLICY_PERIOD, OP_STEP_COMPLETE, DROOP_DETECT,
DROOP_DECAY.
The model's choices in it: log entry 8. -/
def Obligations.PowerLoops : Prop :=
  ∀ s : State, s.Powered → s.Quiet →
    let x := s.pwr
    let cap := s.capEff
    let hyst := s.g PWR_CAP.HYST
    let next (p cap : Nat) : Nat :=
      if 26000 < p then 15 else if 10 * cap < p then min 15 (x.capD + ⌈16 * ((p : ℚ) - 10 * cap) / p⌉₊)
      else if p + 100 * hyst < 10 * cap then x.capD - 1 else x.capD
    let dens (s : State) (w : Nat) : Nat := max (max s.pwr.capD (max (tn s.pwr.dieT (w / 4)) s.pwr.devT)) (max (tn s.pwr.droop w) (s.g WING_BUB_FORCE.MIN w))
    let applied (s : State) (w : Nat) : State :=
      { s with pwr := { s.pwr with wingCap := tp s.pwr.wingCap w s.pwr.capD, wingEff := tp s.pwr.wingEff w (dens s w) } }
    let seen (t : State) : State := { t with pwr := { t.pwr with densAny := t.pwr.densAny || decide (t.densityMax ≠ 0) } }
    (∀ v : PwrSample, v.ok = true → s.gb PWR_STATUS.CAP_UNMET = false → (v.pin ≤ 10 * cap ∨ x.cur ≠ 7 ∨ s.allAt15 = false) →
      ∃ t, exec (.powerSample v) s = .next t ∧ t.pwr.vin = v.vin ∧ t.pwr.iin = v.iin ∧ t.pwr.pin = v.pin ∧ t.pwr.capD = next v.pin cap ∧
        (∀ w < 32, t.g WING_PWR_STATUS.POWER w = v.wings.getD w 0 % 65536) ∧
        t.g PWR_ENERGY.MJ = (s.g PWR_ENERGY.MJ + (x.rest + v.pin) / 10000) % 2 ^ 64 ∧
        t.g PWR_EVENTS.CEILING = (if 26000 < v.pin then 1 else s.g PWR_EVENTS.CEILING) ∧ t.pwr.ceiling = decide (26000 < v.pin) ∧
        t.gb PWR_STATUS.CAP_UNMET = false ∧ t.pwr.wingEff = x.wingEff ∧ t.car = s.car ∧ t.slots = s.slots ∧ t.store = s.store ∧ t.nvm = s.nvm) ∧
    (∀ w, s.gb DEV_STATUS.SAFE = false → exec (.bubbleDensityApply w) s = .next (seen (applied s w)).lines) ∧
    (s.gb PWR_STATUS.CAP_UNMET = false → exec .capInFall s = .next ({ s.p PWR_EVENTS.CAP_IN_ASSERTED 0 1 with
      pwr := { x with capIn := true, capD := next x.pin (min (s.g PWR_CAP.CAP_W) (s.g PWR_CAP.EMERG_W)) } } : State).lines) ∧
    exec .capInRise s = .next ({ s with pwr := { x with capIn := false } } : State).lines ∧
    (x.step = none → s.dev.archRun = true →
      let ends (st : Option Bool) : State := { s with pwr := { x with step := st, densSum := 0, densN := 0, densAny := decide (s.densityMax ≠ 0), high := 0 } }
      let avg := x.densN ≠ 0 ∧ (s.g PWR_POLICY.DOWN_D : ℚ) ≤ x.densSum / x.densN
      let low := x.densN ≠ 0 ∧ x.densAny = false ∧
        x.high * opClock (x.cur - 1) + 100 * hyst * opClock x.cur ≤ 10 * cap * opClock x.cur
      (x.cur < s.g PWR_OP.TARGET → exec .opPolicyPeriod s = .next (ends (some false)).lines) ∧
      (s.g PWR_OP.TARGET ≤ x.cur → x.cur < 7 → avg → exec .opPolicyPeriod s = .next (ends (some false)).lines) ∧
      (s.g PWR_OP.TARGET < x.cur → (x.cur < 7 → ¬ avg) → low → exec .opPolicyPeriod s = .next (ends (some true)).lines) ∧
      (s.g PWR_OP.TARGET = x.cur → (x.cur < 7 → ¬ avg) → exec .opPolicyPeriod s = .next (ends none).lines)) ∧
    (∀ up, x.step = some up → exec .opStepComplete s = .next ((({ s with pwr := { x with step := none, cur := if up then x.cur - 1 else min 7 (x.cur + 1) } } : State).bump
      PWR_COUNTS.OP_CHANGES 0).p PWR_EVENTS.OP_CHANGED 0 1).lines) ∧
    (∀ w, let d := s.g WING_DROOP.DENSITY w
      exec (.droopDetect w) s = .next (seen { s.bump WING_DROOP.EVENTS w with
        pwr := { x with droop := tp x.droop w d, wingEff := tp x.wingEff w (max (tn x.wingEff w) d) } }).lines ∧
      (s.gb DEV_STATUS.SAFE = false →
        exec (.droopDecay w) s = .next (seen (applied { s with pwr := { x with droop := tp x.droop w (tn x.droop w - 1) } } w)).lines))

/-- THERMAL_COMPARE (every sensor passes its self-check) and THERMAL_TRIP; VIN44_UNDERVOLTAGE, VIN44_OVERVOLTAGE, VIN44_LOSS and VIN44_POWER_UP in every state.
The model's choices in it: log entry 44. -/
def Obligations.TemperatureAndSupply : Prop :=
  ∀ s : State,
    (s.Powered → s.Quiet → ∀ ts : List Nat, (∀ k < 56, ts.getD k 0 < 65536) →
      let temp (k : Nat) : Int := (BitVec.ofNat 16 (ts.getD k 0)).toInt
      let lim : Int := 16 * s.g THERM_CTL.THROTTLE_C
      let next (d : Nat) (a n : Nat) : Nat :=
        if ∃ k < n, lim < temp (a + k) then min 15 (d + 1) else if ∀ k < n, temp (a + k) ≤ lim - 32 then d - 1 else d
      ∃ t, exec (.thermalCompare ts) s = .next t ∧
        (∀ k < 56, t.g THERM_SENSOR.TEMP k = ts.getD k 0 ∧ t.gb THERM_SENSOR.FAILED k = false ∧
          t.g THERM_SENSOR.PEAK_C k = max (s.g THERM_SENSOR.PEAK_C k) (min 255 (temp k / 16).toNat)) ∧
        (∀ k < 8, tn t.pwr.dieT k = next (tn s.pwr.dieT k) (4 * k) 4) ∧ t.pwr.devT = next s.pwr.devT 32 24 ∧
        (t.throttling = true → s.throttling = false → t.g PWR_EVENTS.THROTTLE_ENTERED = 1) ∧
        t.pwr.capD = s.pwr.capD ∧ t.pwr.wingEff = s.pwr.wingEff ∧ t.car = s.car ∧ t.slots = s.slots ∧ t.store = s.store ∧ t.dmem = s.dmem) ∧
    (∀ k, s.Powered → s.Quiet → exec (.thermalTrip k) s = .next ({ s with pwr := { s.pwr with
      tripped := some (k, max 115 (s.g THERM_SENSOR.PEAK_C k)), tripCause := true, off := true } } : State).lines) ∧
    (∀ row ∈ [Instr.vin44Undervoltage, .vin44Overvoltage, .vin44Loss],
      exec row s = .next { s with pwr := { s.pwr with off := true, noVin := true, tripped := none, tripCause := false } }) ∧
    (s.pwr.noVin = true → ∃ t, exec .vin44PowerUp s = .next t ∧
      t.dev = { cold := true, wasSafe := !s.pwr.off && (s.dev.wasSafe || s.gb DEV_STATUS.SAFE) } ∧ t.pwr = { capIn := s.pwr.capIn } ∧ t.port = { serdesLost := s.port.serdesLost } ∧ t.nvm = s.nvm ∧ t.fuses = s.fuses ∧
      t.store = [] ∧ t.dmem = {} ∧ t.car = [] ∧ t.slots = [] ∧ t.q = [] ∧ t.fns = [] ∧ t.pending = s.pending ∧
      (∀ k i, t.reg k i = regDefault (regKey k i))) ∧
    (s.pwr.noVin = false → exec .vin44PowerUp s = .next s)

/-- LEDGER_PERIODIC, LEDGER_CALENDAR and LEDGER_CALENDAR_DONE, LEDGER_READ and LEDGER_READ_DONE; SERDES_REFCLK_LOSS (with every link down; with one port up), SERDES_REFCLK_RETURN, I3C_ADDRESS_ASSIGN, I3C_PRIVATE_WRITE (an offset; the power cap),
I3C_PRIVATE_READ, I3C_DISEC, TAP_INSTRUCTION_LOAD, TAP_RESET.
The model's choices in it: log entries 42, 43, 63. -/
def Obligations.LedgerAndSidePorts : Prop :=
  ∀ s : State, s.Powered → s.Quiet →
    let x := s.port
    let y := s.led
    let lost : State := { s with port := { x with serdesLost := true } }
    let down (s : State) (ls : List Nat) : State := ls.foldl (fun s l => { s.p PLOLI_LINK.STATE l 0 with cas := { s.cas with reach := tset (fun _ => 0) s.cas.reach l 0 } }) s
    let links := (List.range 4).filter fun l => decide (s.arec.role ≠ 0 ∧ s.g PLOLI_LINK.STATE l ≠ 5)
    ((∀ l < 4, s.g PLOLI_LINK.STATE l ≠ 1) →
      ((∀ n < 32, s.gb PORT_STATUS.LINK_UP n = false) → exec .serdesRefclkLoss s = .next (down lost links).lines) ∧
      (∀ n < 32, s.gb PORT_STATUS.LINK_UP n = true → (∀ m < 32, m ≠ n → s.gb PORT_STATUS.LINK_UP m = false) → s.nic.qps = [] →
        s.RecordedUc { source := srcId 6 n 2 } → exec .serdesRefclkLoss s = .next ((down { lost.p PORT_STATUS.LINK_UP n 0 with nic := { s.nic with
          xoff := tset (fun _ => 0) s.nic.xoff n 0, xoffSent := tset (fun _ => 0) s.nic.xoffSent n 0 } } links).noted { source := srcId 6 n 2 } 1))) ∧
    exec .serdesRefclkReturn s = .next ({ s with port := { x with serdesLost := false } } : State).lines ∧
    (s.led.t0 + 1562500 ≤ s.time →
      (∀ a, exec (.i3cAddressAssign a) s = .next ({ s with port := { x with dyn := some (a % 128) } } : State).lines) ∧
      (∀ m, exec (.i3cDisec m) s = .next (if m % 2 = 1 then { s with port := { x with ibi := false } } else s : State).lines) ∧
      (x.dyn ≠ none →
        (∀ a < 2 ^ 20, let set : State := { s with port := { x with off := a, fetchTo := s.time + 156250 } }
          (∀ d, d.length ≠ 4 → exec (.i3cPrivateWrite (natLe 3 a ++ d)) s = .next set.lines) ∧
          (∀ v < 2 ^ 32, a = 0x6008 → s.bar0Open 0 a = true → let c := bits v 11 0
            600 ≤ c → c ≤ 2400 → c % 10 = 0 → bits v 27 24 = 0 →
            exec (.i3cPrivateWrite (natLe 3 a ++ natLe 4 v)) s = .next (set.p PWR_CAP.CAP_W 0 c).lines)) ∧
        (∀ n, let k := min n 256
          let bs (o : Nat) : Byte := if o < 0x2000 ∨ (0x4F00 ≤ o ∧ o < 0x5000) ∨ (0x6000 ≤ o ∧ o < 0x6600) then (s.peek 0 o 1).getD 0 0 else 0
          let read (s : State) : State := ({ s with port := { x with off := x.off + k } } : State).emit (.i3cRead ((List.range k).map fun i => bs (x.off + i)))
          let r := s.freeVal
          (x.fetchTo ≤ s.time → exec (.i3cPrivateRead n) s = .next (read s).lines) ∧
          (s.time < x.fetchTo → exec (.i3cPrivateRead n) s = .next (if r.1 % 2 = 1 then r.2.emit .i3cNack else read r.2).lines)))) ∧
    (∀ code,
      let lc := s.dev.lifecycle
      let admits := code = 2 ∨ code = 0xFF ∨ (s.dev.wiped = true ∧
        ((code ∈ [0, 3, 4] ∧ lc ∈ [1, 2, 4, 5] ∧ s.g DEV_STATUS.STATE = 5) ∨ (code = 1 ∧ lc ∈ [1, 2, 4, 5]) ∨
          (code = 0x10 ∧ lc ∈ [1, 5]) ∨ (code = 0x11 ∧ lc ∈ [1, 4, 5])))
      (admits → exec (.tapInstructionLoad code) s = .next ({ s with port := { x with ir := code, tapReset := false } } : State).lines) ∧
      (¬ admits → exec (.tapInstructionLoad code) s = .next ({ s with port := { x with ir := 0xFF, tapReset := false } } : State).lines)) ∧
    exec .tapReset s = .next ({ s with port := { x with ir := 2, tapReset := true } } : State).lines ∧
    (s.dev.archRun = true → ∃ t, exec .ledgerPeriodic s = .next t ∧ t.LastRecord 1 (totalsBody s.totals) ∧ t.led.saved = s.totals ∧ t.led.cur = y.cur ∧
      t.nvm = s.nvm ∧ t.rf = s.rf) ∧
    (s.hostMay 0 0x7104 = true → s.gb LEDGER_FLAGS.BUSY = false → s.dev.archRun = true →
      exec .ledgerCalendar s = .next (({ s with led := { y with busyCal := true, calNext := some (s.g LEDGER_CAL_UTC.VALUE, s.g LEDGER_CAL_STAMP.VALUE) } } : State).p LEDGER_FLAGS.BUSY 0 1).lines ∧
      exec .ledgerRead s = .next ((({ s with led := { y with busyRead := true } } : State).p LEDGER_FLAGS.DATA_VALID 0 0).p LEDGER_FLAGS.BUSY 0 1).lines) ∧
    (∀ u c, y.calNext = some (u, c) → y.busyCal = true → s.dev.archRun = true →
      ∃ t, exec .ledgerCalendarDone s = .next t ∧ t.led.pair = some (u, c) ∧ t.led.calNext = none ∧ t.led.busyCal = false ∧
        t.gb LEDGER_FLAGS.BUSY = false ∧ t.LastRecord 0xD (natLe 8 u ++ natLe 8 c)) ∧
    (y.busyRead = true →
      let t := ({ s with led := { y with busyRead := false } } : State).p LEDGER_FLAGS.BUSY 0 0
      (∀ r, y.recs.find? (fun r => decide (r.seq = s.g LEDGER_READ.SEQ)) = some r →
        exec .ledgerReadDone s = .next (({ t with led := { t.led with data := recImage r } } : State).p LEDGER_FLAGS.DATA_VALID 0 1).lines) ∧
      ((∀ r ∈ y.recs, r.seq ≠ s.g LEDGER_READ.SEQ) → exec .ledgerReadDone s = .next t.lines))

/-- UPD_BEGIN, UPD_CHUNK, UPD_CHUNK_WRITTEN, UPD_FINISH (an image of a part; a record), UPD_ABORT, UPD_ACTIVATE, TRIAL_CONFIRM, TRIAL_TIMEOUT,
LIBRARY_BLOCK_REQUEST.
The model's choices in it: log entries 12, 46. -/
def Obligations.UpdatesAndTrials : Prop :=
  ∀ s : State, s.Powered → s.Quiet →
    let x := s.fw
    let kind := le x.hdr 6 1
    let size := le x.hdr 0x28 4
    let fails (s : State) (code : Nat) : State := { ((s.p UPD_STATUS.STATE 0 0).p UPD_STATUS.RESULT 0 code).p UPD_STATUS.POSTED 0 1 with
      fw := { s.fw with payload := [], spoiled := false } }
    (s.hostMay 0 0x7000 = true →
      (s.g UPD_STATUS.STATE = 0 → s.dev.archRun = true →
        let h := x.win.read 0 0x2000
        let begun := (({ s with fw := { x with hdr := h, payload := [], spoiled := false, auth := none } } : State).p UPD_STATUS.STAGED 0 0).p UPD_STATUS.DETAIL 0 0
        (le h 0x1FFC 4 ≠ crc32c (h.take 0x1FFC) → exec .updBegin s = .next (fails begun 2).lines) ∧
        (le h 0x1FFC 4 = crc32c (h.take 0x1FFC) → le h 0 4 ≠ 0x5746484D → exec .updBegin s = .next (fails begun 3).lines) ∧
        (begun.hdrCheck h ≠ 1 → exec .updBegin s = .next (fails begun (begun.hdrCheck h)).lines) ∧
        exec .updBegin s = .next (if begun.hdrCheck h = 1 then
          { begun.p UPD_STATUS.STATE 0 1 with fw := { begun.fw with auth := if le h 6 1 = 4 then some h else none } }
          else fails begun (begun.hdrCheck h) : State).lines) ∧
      (s.g UPD_STATUS.STATE = 1 → s.dev.archRun = true → kind ≠ 4 →
        let n := s.g UPD_LEN.BYTES
        let o := x.payload.length
        let d := x.win.read 0 n
        let p := x.payload
        (n = 0 ∨ 524288 < n ∨ size < o + n → exec .updChunk s = .next (fails s 9).lines) ∧
        (n ≠ 0 → n ≤ 524288 → o + n ≤ size →
          exec .updChunk s = .next ((({ s with fw := { x with payload := p ++ d }, nvm := if kind = 3 then s.nvm else s.nvm.write (slotBase (s.stageSlot kind) + 0x2000 + o) d } : State).p UPD_STATUS.STAGED 0 (o + n)).p UPD_STATUS.STATE 0 2).lines) ∧
        (x.spoiled = true → exec .updFinish s = .next (fails s 0xB).lines) ∧
        (kind = 1 ∨ kind = 2 → x.spoiled = false →
          let k := s.stageSlot kind
          let ok := Config.sha384 p = le x.hdr 0x50 48 ∧ (Config.aesGcmOpen Config.fwKey (slice x.hdr 0x30 12) [] p (slice x.hdr 0x40 16)).isSome = true
          ∃ t, exec .updFinish s = .next t ∧ t.gb UPD_STATUS.POSTED = true ∧
            (ok → t.g UPD_STATUS.STATE = 3 ∧ t.g UPD_STATUS.RESULT = 1 ∧ t.fwSlot k = { state := 3 } ∧ t.nvm = s.nvm.write (slotBase k) x.hdr ∧
              (∀ j, j ≠ k → t.fwSlot j = s.fwSlot j) ∧
              t.LastRecord 8 (natLe 1 kind ++ natLe 1 1 ++ natLe 1 3 ++ zeros 1 ++ natLe 4 (le x.hdr 8 4))) ∧
            (¬ ok → t.g UPD_STATUS.STATE = 0 ∧ t.g UPD_STATUS.RESULT = (if Config.sha384 p = le x.hdr 0x50 48 then 0xC else 0xB) ∧
              t.fw.slots = x.slots ∧ t.nvm = s.nvm ∧ t.fw.payload = [])) ∧
        (kind = 3 → x.spoiled = false →
          let ok := Config.sha384 p = le x.hdr 0x50 48
          let bad := copyCheck (slice p) s.fuses.digest
          ∃ t, exec .updFinish s = .next t ∧ t.gb UPD_STATUS.POSTED = true ∧ t.fw.slots = x.slots ∧
            (ok → bad = none → t.g UPD_STATUS.STATE = 3 ∧ t.g UPD_STATUS.RESULT = 1 ∧ t.nvm = (s.nvm.write 0x10000 p).write 0 p ∧ t.arec = s.arec) ∧
            (∀ f, ok → bad = some f → t.g UPD_STATUS.STATE = 0 ∧ t.g UPD_STATUS.RESULT = 0xC ∧ t.g UPD_STATUS.DETAIL = f.code ∧ t.nvm = s.nvm) ∧
            (¬ ok → t.g UPD_STATUS.STATE = 0 ∧ t.g UPD_STATUS.RESULT = 0xB ∧ t.nvm = s.nvm))) ∧
      (s.g UPD_STATUS.STATE = 1 ∨ s.g UPD_STATUS.STATE = 2 → exec .updAbort s = .next (fails { s with fw := { x with auth := none } } 0xE).lines) ∧
      (s.g UPD_STATUS.STATE = 3 → exec .updAbort s = .next (s.p UPD_STATUS.STATE 0 0).lines) ∧
      ((s.fwSlot 2).state = 3 ∨ (s.fwSlot 3).state = 3 → s.inService = true → s.gb RESET_CTL.BUSY = false → s.dev.archRun = true → s.flt.deskHeld = false →
        ∃ t, exec .updActivate s = .next t ∧ t.gb RESET_CTL.BUSY = true ∧ t.dev.deskRun = false ∧ t.dev.intakePause = true ∧ t.fw.deskMem = [] ∧
          t.fw.slots = x.slots ∧ t.slots = s.slots ∧ t.car = s.car)) ∧
    (s.g UPD_STATUS.STATE = 2 → exec .updChunkWritten s = .next (s.p UPD_STATUS.STATE 0 1).lines) ∧
    (∀ k < 4, x.trial = some k → s.dev.archRun = true →
      let o := if k % 2 = 0 then k + 1 else k - 1
      let ver := le (s.slotHdr k) 8 4
      let part := if k < 2 then 1 else 2
      (s.time < x.trialEnd → k < 2 ∨ s.dev.deskRun = true →
        ∃ t, exec .trialConfirm s = .next t ∧ (t.fwSlot k).state = 2 ∧ (t.fwSlot o).state = (if (s.fwSlot o).state = 2 then 1 else (s.fwSlot o).state) ∧
          t.fw.trial = none ∧ t.g UPD_STATUS.RESULT = 1 ∧ t.gb UPD_STATUS.POSTED = true ∧ t.led.cur.updates = s.led.cur.updates + 1 ∧
          (s.fuses.svn ≤ 64 → s.fuses.svn ≤ t.fuses.svn) ∧ t.nvm = s.nvm ∧ t.LastRecord 8 (natLe 1 part ++ natLe 1 1 ++ natLe 1 2 ++ zeros 1 ++ natLe 4 ver)) ∧
      (x.trialEnd ≤ s.time → k < 2 → ∃ t, exec .trialTimeout s = .next t ∧ (t.fwSlot k).state = 5 ∧ t.fw.trial = none ∧ t.gb UPD_STATUS.POSTED = true ∧
        t.dev = s.dev ∧ t.fw.arch = x.arch) ∧
      (x.trialEnd ≤ s.time → 2 ≤ k → s.inService = true → s.gb RESET_CTL.BUSY = false → s.flt.deskHeld = false →
        ∃ t, exec .trialTimeout s = .next t ∧ (t.fwSlot k).state = 5 ∧ t.fw.trial = none ∧ t.gb RESET_CTL.BUSY = true ∧ t.dev.deskRun = false ∧
          t.dev.intakePause = true)) ∧
    (∀ k b a, x.desk = some k → s.dev.deskRun = true → s.dev.archRun = true →
      let h := s.slotHdr k
      let o := le h 0x2C 4 + 65536 * b
      let d := Config.ctrOpen Config.fwKey (slice h 0x30 12) o (((s.slotPayload k).drop o).take 65536)
      (x.libDig[b]? = some (Config.sha384 d) → a + d.length ≤ 2 ^ 24 →
        exec (.libraryBlockRequest b a) s = .next ({ s with fw := { x with deskMem := x.deskMem.write a d } } : State).lines) ∧
      (x.libDig.length ≤ b → s.RecordedUc { source := srcId 11 3 1, sev := some 1 } → exec (.libraryBlockRequest b a) s =
        .next (({ s with fw := { x with refused := x.refused ++ [b] } } : State).noted { source := srcId 11 3 1, sev := some 1 } 1)))

/-- HARDWARE_ERROR_EVENT (what is recorded; the reactions; a carrel's errors; FATAL), COL_FORCE, COL_HIST_CLEAR, ERR_PIN_CLEAR, ERROR_PIN_HOLD,
ERROR_PIN_PULSE_END, CHIP_RESET_TIMER, ARCHIVIST_WATCHDOG_EXPIRE, ARCHIVIST_TRAP, SUBSTITUTION_COMMIT, WING_RESET_END. The uncorrected error of frame 37's
own registers enters the safe state without a record (R442).
The model's choices in it: log entries 33, 36, 37, 60, 95. -/
def Obligations.ErrorsAndRepairs : Prop :=
  ∀ s : State, s.Powered → s.Quiet →
    let x := s.flt
    (∀ src i0, let e : Event := { source := src, info0 := i0 }
      let c := colOf src
      let h := (s.col c).hist
      let cls := src / 4096
      let row := Instr.hardwareErrorEvent src i0
      cls ∈ [2, 5, 9, 10, 11, 12, 13] → src / 128 % 32 ≤ maxInst cls → subOk cls (src / 128 % 32) (src % 128) = true →
      (∀ sev, (sev = 0 ∧ s.Recorded e) ∨ (sev = 1 ∧ s.RecordedUc e) →
        let failed : State := if src / 128 % 32 = 0 then s.p PWR_EVENTS.SENSOR_FAIL 0 1
          else if src / 128 % 32 = 2 then ((s.p THERM_SENSOR.FAILED (src % 128) 1).p THERM_SENSOR.TEMP (src % 128) 0).p PWR_EVENTS.SENSOR_FAIL 0 1 else s
        let t := (if cls = 5 ∧ src / 128 % 32 < 4 ∧ src % 128 = 0 then s.linkErr else if cls = 9 then failed else s).noted e sev
        let new : ErrRec := { source := src, sev := sev, stamp := s.now, info0 := i0, info1 := 0xF3F }
        exec row s = .next t ∧
          t.g COL_COUNTS.CE c = min (s.g COL_COUNTS.CE c + (1 - sev)) (2 ^ 24 - 1) ∧ t.g COL_COUNTS.UC c = min (s.g COL_COUNTS.UC c + sev) (2 ^ 24 - 1) ∧
          (if sev = 0 then t.g COL_STATUS.CE_PEND c else t.g COL_STATUS.UC_PEND c) = 1 ∧
          (∀ r, h.head? = some r → r.source = src → r.sev = sev → r.forced = false → r.overridden = false → r.info0 = i0 →
            (t.col c).hist = { r with count := satAdd 32 r.count 1 } :: h.tail) ∧
          ((∀ r, h.head? = some r → r.source ≠ src ∨ r.sev ≠ sev ∨ r.info0 ≠ i0) → (t.col c).hist = (new :: h).take 8)) ∧
      (s.effSev e = (0, false) → cls ∉ [2, 10] → s.gb DEV_STATUS.SAFE = false →
        let m := s.maskOf src 0
        ∃ t, exec row s = .next t ∧ (bit m 0 = true → bit (t.col c).intPend 0 = true) ∧ (bit m 1 = true → s.dev.archRun = true → t.flt.trap = true) ∧
          (bit m 4 = true → t.flt.pulse = true ∧ t.flt.pulseHeld = false ∧ t.flt.pulseAt = s.time) ∧
          (bit m 3 = true → x.chip = none → t.flt.chip = some (s.time + 1563, src)) ∧
          ((t.col c).hist.head?.map (·.react) = some (m &&& 0x1B) ∨ (∃ r, h.head? = some r ∧ r.source = src)) ∧ t.car = s.car ∧ t.store = s.store) ∧
      (s.effSev e = (2, false) → s.gb DEV_STATUS.SAFE = false → s.dev.resetRun = false →
        ∃ t, exec row s = .next t ∧ t.EntersSafe s (safeCause src) src ∧
          (src ≠ srcId 13 1 0x65 → t.g COL_STATUS.FATAL_PEND c = 1) ∧ (src = srcId 13 1 0x65 → t.col c = s.col c))) ∧
    (∀ w i, w < 32 → i < 144 →
      let p := 144 * w + i
      (∀ sub, sub ≤ 4 → s.maskOf (srcId 0 w sub) (if sub = 0 then 0 else 1) = 0 → s.gb DEV_STATUS.SAFE = false →
        s.effSev { source := srcId 0 w sub, info0 := i } = (if sub = 0 then 0 else 1, false) → ∀ c, s.deviceOf p = some c → s.slotOfShelf (shelfOf c) = none →
        let win := (x.ceTimes.filter fun e => decide (s.time < e.2 + 156250000)) ++ [(p, s.time)]
        ∃ t, exec (.hardwareErrorEvent (srcId 0 w sub) i) s = .next t ∧ t.slots = s.slots ∧
          (sub = 0 → (win.filter fun e => decide (e.1 = p)).length < 64 → t.flt = { x with ceTimes := win }) ∧
          (sub = 0 → 64 ≤ (win.filter fun e => decide (e.1 = p)).length → s.dev.archRun = true → p ∈ t.flt.subst ∧ t.flt.trap = true) ∧
          (sub ≠ 0 → p ∉ x.subst → t.flt = { x with subst := x.subst ++ [p] }))) ∧
    (∀ c cls inst sub, c < 70 → cls < 14 → inst ≤ maxInst cls → sub < 128 → colOf (srcId cls inst sub) = c →
      let off := if c < 38 then 0x2020 + 256 * c else 0x8260 + 1024 * (c - 38)
      let v (sev : Nat) := 2 ^ 31 + cls * 2 ^ 24 + sev * 2 ^ 20 + inst * 2 ^ 12 + sub
      let e (sev : Nat) : Event := { source := srcId cls inst sub, forced := some sev }
      s.hostMay 0 off = true →
      (s.Recorded (e 0) → exec (.colForce c (v 0)) s = .next (s.noted (e 0) 0)) ∧
      (s.RecordedUc (e 1) → exec (.colForce c (v 1)) s = .next (s.noted (e 1) 1)) ∧
      (s.effSev (e 2) = (2, false) → s.gb DEV_STATUS.SAFE = false → s.dev.resetRun = false →
        ∃ t, exec (.colForce c (v 2)) s = .next t ∧ t.EntersSafe s (safeCause (srcId cls inst sub)) (srcId cls inst sub))) ∧
    (∀ c, c < 70 → s.hostMay 0 (if c < 38 then 0x2028 + 256 * c else 0x8268 + 1024 * (c - 38)) = true →
      exec (.colHistClear c) s = .next ((((s.setCol c { s.col c with hist := [] }).p COL_STATUS.OVERFLOW c 0).p COL_STATUS.DEPTH c 0)).lines) ∧
    (s.hostMay 0 0x4F18 = true → exec .errPinClear s = .next (s.p ERR_PIN.HELD 0 0).lines) ∧
    (x.pulse = true →
      (x.pulseHeld = false → s.dev.archRun = true →
        exec .errorPinHold s = .next (({ s with flt := { x with pulseHeld := true } } : State).p ERR_PIN.HELD 0 1).lines) ∧
      ((x.pulseHeld = true ∧ x.pulseAt + 157 ≤ s.time) ∨ x.pulseAt + 31250 ≤ s.time →
        exec .errorPinPulseEnd s = .next ({ s with flt := { x with pulse := false } } : State).lines)) ∧
    (∀ tm src, x.chip = some (tm, src) → tm ≤ s.time → src < 65536 →
      (s.gb DEV_STATUS.SAFE = true → exec .chipResetTimer s = .next ({ s with flt := { x with chip := none } } : State).lines) ∧
      (s.gb DEV_STATUS.SAFE = false → s.g DEV_STATUS.STATE = 4 ∨ s.g DEV_STATUS.STATE = 5 → s.dev.lcStep = 0 → s.dev.held = false → s.dev.started = true →
        s.dmem.mapout = none →
        ∃ t, exec .chipResetTimer s = .next t ∧ t.Recovers s 7 ∧ t.g RESET_CAUSE.SOURCE = src ∧ t.flt.chip = none)) ∧
    (s.dev.archRun = true → s.gb DEV_STATUS.SAFE = false → s.dev.resetRun = false →
      ∃ t, exec .archivistWatchdogExpire s = .next t ∧ t.EntersSafe s 3 (srcId 10 0 2) ∧ t.dev.archRun = false) ∧
    (x.trap = true → s.dev.archRun = true → s.gb DEV_STATUS.SAFE = false →
      let t : State := { s with flt := { x with trap := false } }
      (x.subst = [] → exec .archivistTrap s = .next t.lines) ∧
      (∀ p c i, x.subst = [p] → s.deviceOf p = some c → shelfOf c ∉ x.withdrawn → s.g WING_STATUS.STATE (p / 144) = 0 → s.freeSpare (p / 144) = some i →
        let u : State := ({ t with flt := { t.flt with repairs := x.repairs.filter (fun r => decide (r ≠ p)) ++ [p] } } : State).p WING_STATUS.STATE (p / 144) 2
        (s.slotOfShelf (shelfOf c) = none → exec .archivistTrap s = .next u.lines) ∧
        (∀ n, s.slotOfShelf (shelfOf c) = some n → (s.slot n).inv = none → s.g SLOT_STATUS.STATE n = 2 → exec .archivistTrap s =
          .next ((u.setSlot n { s.slot n with repair := true }).p SLOT_STATUS.STATE n 7).lines)) ∧
      (∀ p c, x.subst = [p] → s.deviceOf p = some c → shelfOf c ∉ x.withdrawn → s.g WING_STATUS.STATE (p / 144) ≠ 3 → s.freeSpare (p / 144) = none →
        s.slotOfShelf (shelfOf c) = none → ∃ t, exec .archivistTrap s = .next t ∧ t.flt.withdrawn = x.withdrawn ++ [shelfOf c] ∧ t.flt.subst = [] ∧
          (t.carrel p).failed = true ∧ t.g WING_STATUS.SHELVES (shelfOf c / 8) = s.g WING_STATUS.SHELVES (shelfOf c / 8) - 1 ∧
          t.LastRecord 5 (natLe 1 (p / 144) ++ natLe 1 (c % 128) ++ natLe 1 (p % 144) ++ natLe 1 0xFF))) ∧
    (∀ w p c i, w < 32 → (s.wing w).rst = 0 → x.trap = false → x.subst = [p] → p / 144 = w → s.deviceOf p = some c → s.freeSpare w = some i →
      s.slotOfShelf (shelfOf c) = none → s.g WING_STATUS.STATE w = 2 → (∀ n ∈ s.slotsInWing w, (s.slot n).repair = false) → (∀ r ∈ x.repairs, r / 144 = w → r = p) →
      let q := 144 * w + i
      ∃ t, exec (.substitutionCommit w) s = .next t ∧ t.phys c = q ∧ (∀ d < 4096, d ≠ c → t.phys d = s.phys d) ∧
        t.mem q = [] ∧ t.carrel q = {} ∧ (t.carrel p).failed = true ∧ t.flt = { x with subst := [], repairs := x.repairs.filter fun r => decide (r ≠ p) } ∧
        t.g WING_STATUS.SPARES_FREE w = s.g WING_STATUS.SPARES_FREE w - 1 ∧ t.g WING_STATUS.MAP_GEN w = (s.g WING_STATUS.MAP_GEN w + 1) % 65536 ∧
        t.g WING_STATUS.STATE w = 0 ∧ t.led.cur.substs = s.led.cur.substs + 1 ∧
        (s.dev.archRun = true → t.LastRecord 5 (natLe 1 w ++ natLe 1 (c % 128) ++ natLe 1 (p % 144) ++ natLe 1 i))) ∧
    (∀ w, w < 32 → (s.wing w).rst ≠ 0 → s.wingEmpty w = true →
      (s.g WING_CACHE_STATUS.STATE w ≠ 0 → (∀ k < 4, s.g WING_CACHE_STATUS.STATE (w / 4 * 4 + k) ≠ 2) →
        exec (.wingResetEnd w) s = .next (s.p WING_CACHE_STATUS.STATE w 0).lines) ∧
      (s.g WING_CACHE_STATUS.STATE w = 0 →
        let u : State := (((s.restoreRegs kWing (ofWing w)).setWing w { s.wing w with rst := 0, plru := [] }).p WING_STATUS.STATE w (s.wingRuns w)).p
          WING_CACHE_STATUS.STATE w 1
        let t : State := { u with flt := if (s.wing w).rst = 3 then { x with cls2End := tset (fun _ => 0) x.cls2End w (s.time + 1) } else x }
        (s.slotsInWing w = [] → exec (.wingResetEnd w) s = .next t.lines) ∧
        (∀ n, s.slotsInWing w = [n] → exec (.wingResetEnd w) s =
          .next (if t.drained n = true then ((t.endDrained n).queueGo n).closes s else t.lines))))

/-- A FATAL event enters the safe state whatever its mask and takes neither BLK_RST nor CHIP_RST; a UC event whose mask holds both takes only CHIP_RST.
During a LINK-LOSS or DEVICE reset the entry waits for the reset's end (R447). `State.collect` is what every event, whichever command raises it, goes through before the command ends. -/
def Obligations.FatalEvents : Prop :=
  ∀ s : State, s.Powered → s.Quiet →
    ∀ e : Event, s.gb DEV_STATUS.SAFE = false → e.source < 57344 →
      let t := s.collect e
      let noBlock : Prop := (∀ w < 32, (t.wing w).rst ≠ 0 → (s.wing w).rst ≠ 0) ∧ (∀ q, (t.carrel q).inReset = (s.carrel q).inReset) ∧
        (∀ n < 32, t.g PORT_STATUS.LINK_UP n = s.g PORT_STATUS.LINK_UP n) ∧ (∀ l < 4, t.g PLOLI_LINK.STATE l = s.g PLOLI_LINK.STATE l) ∧
        t.gb RESET_CTL.BUSY = s.gb RESET_CTL.BUSY
      ((s.effSev e).1 = 2 → s.dev.resetRun = false → t.EntersSafe s (safeCause e.source) e.source ∧ t.flt.chip = s.flt.chip ∧ noBlock) ∧
      ((s.effSev e).1 = 2 → s.dev.resetRun = true → s.dev.pendSafe = none →
        t.dev.pendSafe = some (safeCause e.source, e.source) ∧ t.gb DEV_STATUS.SAFE = false ∧ t.flt.chip = s.flt.chip ∧ noBlock) ∧
      ((s.effSev e).1 = 1 → bit (s.maskOf e.source 1) 3 = true → bit (s.maskOf e.source 1) 2 = true → s.flt.chip = none → (∀ w < 32, s.cls2Again w = false) →
        t.flt.chip = some (s.time + 1563, e.source) ∧ noBlock)

/-- COLD_RESET_ASSERT, COLD_RESET_RELEASE, ACCESSION_COMPLETE, CALIBRATION_COMPLETE, WIPE_COMPLETE, DESK_START_COMPLETE, RECOVERY_RESTART; DEVICE_RESET,
MANAGEMENT_RESET, MANAGEMENT_RESET_REQUEST, DESK_RESTART_COMPLETE; TEST_REQ, SHUTDOWN, SHUTDOWN_RECORD_COMMITTED; LC_REQUEST, LIFECYCLE_WIPE_COMPLETE. Where an
image or a copy is read, its verification is the configuration's, and the statement says what either answer leads to.
The model's choices in it: log entries 12, 31, 32, 45, 46, 47, 97, 99. -/
def Obligations.StartsAndLifeCycles : Prop :=
  ∀ s : State,
    let lc := s.dev.lifecycle
    let copyA (s : State) := copyCheck (s.nvm.read ·) s.fuses.digest
    let copyB (s : State) := copyCheck (fun o n => s.nvm.read (0x10000 + o) n) s.fuses.digest
    let reads (s t : State) : Prop := t.g DEV_STATUS.STATE = 1 ∧ t.dev.lifecycle = s.fuses.lc ∧ t.dev.archRun = false ∧ t.dev.deskRun = false ∧
      (s.fuses.lc = 15 → t.dev.held = true) ∧ (s.fuses.lc = 1 → t.dev.held = false ∧ t.g DEV_STATUS.RECORD_COPY = 0) ∧
      (s.fuses.lc ∉ [1, 15] → t.g DEV_STATUS.RECORD_COPY = (if copyA s = none then 1 else if copyB s = none then 2 else 0) ∧
        (t.dev.held = true ↔ copyA s ≠ none ∧ copyB s ≠ none) ∧ (t.gb DEV_STATUS.ACCESSION_FAIL = true ↔ copyA s ≠ none ∧ copyB s ≠ none))
    (∃ t, exec .coldResetAssert s = .next t ∧ t.dev = { cold := true, wasSafe := !s.pwr.off && (s.dev.wasSafe || s.gb DEV_STATUS.SAFE) } ∧ (∀ k i, t.reg k i = regDefault (regKey k i)) ∧ t.nvm = s.nvm ∧ t.fuses = s.fuses ∧
      t.store = [] ∧ t.dmem = {} ∧ t.car = [] ∧ t.slots = [] ∧ t.q = [] ∧ t.fns = [] ∧ t.pwr.tripped = s.pwr.tripped ∧ t.fw.slots = s.fw.slots ∧
      t.led.recs = s.led.recs ∧ t.pending = s.pending) ∧
    (∀ nv : NvmContents, s.dev.cold = true → s.pwr.off = false → s = s.coldImage →
      let s1 : State := { s with nvm := nv.writes.foldl (fun (m : Memory) (e : Nat × Bytes) => Memory.write m e.1 e.2) s.nvm }
      ∃ t, exec (.coldResetRelease nv) s = .next t ∧ t.dev.cold = false ∧ t.nvm = s1.nvm ∧ t.fuses = s.fuses ∧ reads s1 t ∧
        t.g RESET_CAUSE.CAUSE = (if s.pwr.tripCause = true then 2 else 1) ∧ t.gb RESET_CAUSE.WAS_SAFE = s.dev.wasSafe ∧ (∀ w < 32, t.g WING_STATUS.STATE w = 1) ∧
        (nv.dir ≠ [] → ∀ k < 4, (t.fwSlot k).state = min 5 (nv.dir.getD k 0))) ∧
    (∀ nv : NvmContents, s.Powered → s.Quiet →
      exec (.coldResetRelease nv) s = .next (if s.dev.held = true then s.programmed nv else s).lines) ∧
    (s.Powered → s.Quiet →
      let st := s.g DEV_STATUS.STATE
      (st = 1 → s.dev.held = false → s.dev.archRun = false → s.PlainVerify → ∀ k < 2, (s.fwSlot k).state = 2 → (s.fwSlot (1 - k)).state ∈ [0, 5] →
        ∃ t, exec .accessionComplete s = .next t ∧
          (s.imgVerifies k = true → t.g DEV_STATUS.STATE = 2 ∧ t.dev.archRun = true ∧ t.dev.held = false ∧ t.fw.arch = some k ∧ t.nvm = s.nvm) ∧
          (s.imgVerifies k = false → t.g DEV_STATUS.STATE = 1 ∧ t.dev.archRun = false ∧ t.dev.held = true ∧ t.gb DEV_STATUS.FW_FAIL = true)) ∧
      (s.dev.archRun = true → st = 2 ∨ (st = 6 ∧ s.dev.lcStep = 0) → s.port.serdesLost = false →
        exec (.calibrationComplete []) s = .next (({ s with dev := { s.dev with calDone := true } } : State).p DEV_STATUS.STATE 0 3).lines ∧
        (∀ n < 32, let t : State := ({ s with nic := { s.nic with bad := s.nic.bad ++ [n] }, dev := { s.dev with calDone := true } } : State).p DEV_STATUS.STATE 0 3
          t.RecordedUc { source := srcId 6 n 2 } → exec (.calibrationComplete [131072 + n]) s = .next (t.noted { source := srcId 6 n 2 } 1))) ∧
      (st = 3 → s.dev.lcStep = 0 →
        (∃ t, exec .wipeComplete s = .next t ∧ t.nvm = s.nvm ∧ t.arec = s.arec ∧ t.dev.wiped = true ∧
          (lc ≠ 1 → lc ≠ 5 → t.dev = { s.dev with wiped := true } ∧ t.rf = s.rf) ∧
          (lc = 1 ∨ lc = 5 → s.dev.pendSafe = none → t.g DEV_STATUS.STATE = 5 ∧ t.gb DEV_STATUS.READY = false ∧ t.dev.resetRun = false) ∧
          (lc ≠ 1 ∧ lc ≠ 5 ∨ s.dev.pendSafe = none → t.store = [] ∧ t.lend = [] ∧ t.dd = [] ∧ t.dmem.dram = [] ∧ t.dmem.wcb = [] ∧ t.dmem.res = [] ∧
            (∀ p, t.carrel p = { failed := (s.carrel p).failed, inReset := (s.carrel p).inReset }))) ∧
        (s.dev.wiped = true → s.flt.deskHeld = true → lc ≠ 1 → lc ≠ 5 → s.gb DEV_STATUS.SAFE = false → ∀ c src, s.dev.pendSafe = some (c, src) →
          c < 16 → src < 65536 → c ≠ 3 ∧ c ≠ 4 ∨ s.dev.archRun = false →
          ∃ t, exec .deskStartComplete s = .next t ∧ t.gb DEV_STATUS.SAFE = true ∧ t.g SAFE_CAUSE.CAUSE = c ∧ t.g SAFE_CAUSE.SOURCE = src) ∧
        (s.dev.wiped = true → s.dev.pendSafe = none →
          let starts (t : State) : Prop := t.g DEV_STATUS.STATE = (if lc = 1 ∨ lc = 5 then 5 else 4) ∧
            (t.gb DEV_STATUS.READY = true ↔ lc ≠ 1 ∧ lc ≠ 5) ∧ t.dev.resetRun = false ∧ t.g RES_STATUS.STATE = 1 ∧
            (∀ w < 32, s.g WING_STATUS.STATE w ≠ 3 → t.g WING_STATUS.STATE w = s.wingRuns w ∧ t.g WING_CACHE_STATUS.STATE w = 1) ∧
            (lc ≠ 1 → lc ≠ 5 → ∀ p < s.partCount, t.g PART_STATUS.READY p = 1) ∧ t.store = s.store ∧ t.dmem = s.dmem
          (s.flt.deskHeld = false → ∀ k ∈ [2, 3], (s.fwSlot k).state = 2 → (s.fwSlot (5 - k)).state ∈ [0, 5] →
            ∃ t, exec .deskStartComplete s = .next t ∧ starts t ∧ t.dev.deskRun = (s.imgVerifies k || s.dev.deskRun) ∧
              t.dev.intakePause = !s.imgVerifies k ∧ t.fw.desk = (if s.imgVerifies k then some k else none)) ∧
          (s.flt.deskHeld = true → ∃ t, exec .deskStartComplete s = .next t ∧ starts t ∧ t.dev.deskRun = s.dev.deskRun ∧ t.dev.intakePause = true ∧ t.fw = s.fw))) ∧
      (st = 6 → s.dev.archRun = false → s.dev.lcStep = 0 →
        (s.PlainVerify → ∀ k < 2, (s.fwSlot k).state = 2 → (s.fwSlot (1 - k)).state ∈ [0, 5] →
          ∃ t, exec (.recoveryRestart true) s = .next t ∧
            (s.imgVerifies k = true → t.g DEV_STATUS.STATE = 6 ∧ t.dev.archRun = true ∧ t.fw.arch = some k) ∧
            (s.imgVerifies k = false → t.g DEV_STATUS.STATE = 1 ∧ t.dev.held = true ∧ t.gb DEV_STATUS.FW_FAIL = true)) ∧
        (s.PlainVerify → ∃ t, exec (.recoveryRestart false) s = .next t ∧ reads s t ∧ t.nvm = s.nvm)) ∧
      (s.hostMay 0 0x1000 = true → s.dev.lcStep = 0 → s.dev.held = true → s.PlainVerify →
        ∃ t, exec (.deviceReset 0xD501) s = .next t ∧ reads s t ∧ t.g RESET_CAUSE.CAUSE = 6 ∧ t.nvm = s.nvm) ∧
      (s.hostMay 0 0x1000 = true → (st = 4 ∨ st = 5 ∨ st = 7) → s.dev.lcStep = 0 → s.dev.held = false → s.dev.started = true → s.dmem.mapout = none →
        ∃ t, exec (.deviceReset 0xD501) s = .next t ∧ t.Recovers s 6 ∧ t.led.cur.resets = tset (fun _ => 0) s.led.cur.resets 2 (tget (fun _ => 0) s.led.cur.resets 2 + 1)) ∧
      (s.inService = true → s.gb RESET_CTL.BUSY = false → s.dev.archRun = true → s.flt.deskHeld = false →
        let recent := s.flt.deskTimes.filter fun t => decide (s.time < t + 93750000000)
        let t (times : List Nat) : State := (({ s with flt := { s.flt with deskTimes := times }, dev := { s.dev with deskRun := false, intakePause := true }, fw := { s.fw with deskMem := [], refused := [] } } : State).p RESET_CTL.BUSY 0 1).tally fun y => { y with resets := tset (fun _ => 0) y.resets 3 (tget (fun _ => 0) y.resets 3 + 1) }
        (s.hostMay 0 0x1000 = true → exec (.managementResetRequest 0xD502) s = .next (t recent).lines) ∧
        (∀ c, c ≠ 1 → exec (.managementReset c) s = .next (t recent).lines) ∧
        (recent.length < 3 → exec (.managementReset 1) s = .next (t (recent ++ [s.time])).lines)) ∧
      (s.gb RESET_CTL.BUSY = true → (∀ q < 65, s.g Q_STATUS.STATE q ≠ 1) → ∀ k ∈ [2, 3], (s.fwSlot k).state = 2 → (s.fwSlot (5 - k)).state ∈ [0, 5] →
        ∃ t, exec .deskRestartComplete s = .next t ∧ t.gb RESET_CTL.BUSY = false ∧ t.fw.desk = (if s.imgVerifies k then some k else none) ∧
          (s.imgVerifies k = true → t.dev.deskRun = true ∧ t.dev.intakePause = false ∧ t.flt = s.flt) ∧
          (s.imgVerifies k = false → t.flt.deskHeld = true ∧ t.dev = s.dev) ∧ t.slots = s.slots ∧ t.car = s.car ∧ t.store = s.store) ∧
      (s.hostMay 0 0x14 = true →
        exec .shutdown s = .next (({ s with led := { s.led with shutOwed := true } } : State).p DEV_CONTROL.SHUT_DONE 0 0).lines ∧
        (s.inService = true → lc = 2 ∨ lc = 4 → (∀ n < 32, s.gb PORT_STATUS.LINK_UP n = false) → (∀ l < 4, s.g PLOLI_LINK.STATE l ≠ 1) →
          ∃ t, exec .testReq s = .next t ∧ t.g DEV_STATUS.STATE = 5 ∧ t.gb DEV_STATUS.READY = false ∧ (∀ p < s.partCount, t.g PART_STATUS.READY p = 0) ∧
            (∀ p, (t.carrel p).xfers = [] ∧ (t.carrel p).run = if (s.carrel p).run = .idle then .idle else .stopped) ∧ t.store = s.store ∧ t.dmem = s.dmem)) ∧
      (s.led.shutOwed = true → s.dev.archRun = true → ∃ t, exec .shutdownRecordCommitted s = .next t ∧ t.gb DEV_CONTROL.SHUT_DONE = true ∧
        t.led.shutOwed = false ∧ t.LastRecord 3 (totalsBody s.totals) ∧ t.led.saved = s.totals) ∧
      (∀ v, s.hostMay 0 0x100C = true → bit v 31 = true → s.lcBusy = true → exec (.lcRequest v) s = .next (s.p LIFECYCLE.RESULT 0 7).lines) ∧
      (∀ v, s.hostMay 0 0x100C = true → s.dev.archRun = true → bit v 31 = true →
        let tgt := v % 16
        let answer (r : Nat) := exec (.lcRequest v) s = .next (s.p LIFECYCLE.RESULT 0 r).lines
        (s.lcBusy = false → lcSigners lc tgt = 0 → answer 3) ∧
        (s.lcBusy = false → lcSigners lc tgt ≠ 0 → lc = 3 → tgt = 4 → s.dev.debugLeft = 0 → answer 6) ∧
        (s.lcBusy = false → lcSigners lc tgt ≠ 0 → (lc = 3 → tgt = 4 → s.dev.debugLeft ≠ 0) →
          (s.fw.auth = none → answer 4) ∧
          (∀ h, s.fw.auth = some h →
            let dig := le h 0x92 48
            let fits := le h 0x90 1 = lc ∧ le h 0x91 1 = tgt ∧ bit (lcSigners lc tgt) (le h 7 1 - 1) = true ∧
              (if lc = 1 ∧ tgt = 2 then dig ≠ 0 ∧ (s.fuses.digest = 0 ∨ s.fuses.digest = dig) else dig = 0)
            (¬ fits → answer 4) ∧
            (fits → ∃ t, exec (.lcRequest v) s = .next t ∧ t.g LIFECYCLE.RESULT = 1 ∧ t.g DEV_STATUS.STATE = 6 ∧ t.g RESET_CAUSE.CAUSE = 8 ∧ t.dev.lcStep = 1 ∧
              t.dev.lcTarget = tgt ∧ t.dev.deskRun = false ∧ t.slots = [] ∧ t.q = [] ∧ t.fns = [] ∧ t.link.up = false ∧ t.fuses = s.fuses ∧ t.nvm = s.nvm ∧
              t.store = s.store)))) ∧
      (1 ≤ s.dev.lcStep → s.dev.lcStep ≤ 6 → s.gb DEV_STATUS.SAFE = false → s.dev.lcTarget < 16 → s.PlainVerify → s.led.debugOwed = none →
        let k := s.dev.lcStep
        let tgt := s.dev.lcTarget
        let s1 : State := { s with fuses := { s.fuses with
          lc := if k ≤ 5 then tgt else s.fuses.lc
          digest := if k ≤ 4 ∧ lc = 1 ∧ tgt = 2 then (s.fw.auth.map leNat).getD 0 else s.fuses.digest
          debugLeft := if k ≤ 5 ∧ tgt = 4 then s.fuses.debugLeft - 1 else s.fuses.debugLeft } }
        ∃ t, exec .lifecycleWipeComplete s = .next t ∧ t.fuses = s1.fuses ∧ t.dev.lcStep = 0 ∧ t.g LIFECYCLE.RESULT = 2 ∧ reads s1 t ∧
          (k ≤ 2 → t.store = [] ∧ t.lend = [] ∧ t.dmem.dram = []) ∧ t.nvm = s.nvm ∧
          t.led.cur.changes = s.led.cur.changes + (if k ≤ 3 then 1 else 0) ∧
          (k ≤ 3 → s.dev.archRun = true → t.LastRecord 9 (natLe 1 lc ++ natLe 1 tgt))))

end
end

