-- ==== Sys2Proof/Laws/State.lean ====
section
/-!
SUPPORT. One lemma per field, or per named read, and per update of the state: what the update leaves. Then what an update sets.
-/
namespace Sys2Proof.Machine

variable (s : State)

/-! ### `setReg` -/

@[simp] theorem State.setReg_car (k : RegKind) (i : Nat) (v : BitVec 64) : (s.setReg k i v).car = s.car := rfl
@[simp] theorem State.setReg_store (k : RegKind) (i : Nat) (v : BitVec 64) : (s.setReg k i v).store = s.store := rfl
@[simp] theorem State.setReg_slots (k : RegKind) (i : Nat) (v : BitVec 64) : (s.setReg k i v).slots = s.slots := rfl
@[simp] theorem State.setReg_rels (k : RegKind) (i : Nat) (v : BitVec 64) : (s.setReg k i v).rels = s.rels := rfl
@[simp] theorem State.setReg_starts (k : RegKind) (i : Nat) (v : BitVec 64) : (s.setReg k i v).starts = s.starts := rfl
@[simp] theorem State.setReg_dd (k : RegKind) (i : Nat) (v : BitVec 64) : (s.setReg k i v).dd = s.dd := rfl
@[simp] theorem State.setReg_stamp (k : RegKind) (i : Nat) (v : BitVec 64) : (s.setReg k i v).stamp = s.stamp := rfl
@[simp] theorem State.setReg_cs (k : RegKind) (i : Nat) (v : BitVec 64) : (s.setReg k i v).cs = s.cs := rfl
@[simp] theorem State.setReg_slipFr (k : RegKind) (i : Nat) (v : BitVec 64) : (s.setReg k i v).slipFr = s.slipFr := rfl
@[simp] theorem State.setReg_q (k : RegKind) (i : Nat) (v : BitVec 64) : (s.setReg k i v).q = s.q := rfl
@[simp] theorem State.setReg_xl (k : RegKind) (i : Nat) (v : BitVec 64) : (s.setReg k i v).xl = s.xl := rfl
@[simp] theorem State.setReg_hubBuf (k : RegKind) (i : Nat) (v : BitVec 64) : (s.setReg k i v).hubBuf = s.hubBuf := rfl
@[simp] theorem State.setReg_lend (k : RegKind) (i : Nat) (v : BitVec 64) : (s.setReg k i v).lend = s.lend := rfl
@[simp] theorem State.setReg_wings (k : RegKind) (i : Nat) (v : BitVec 64) : (s.setReg k i v).wings = s.wings := rfl
@[simp] theorem State.setReg_coh (k : RegKind) (i : Nat) (v : BitVec 64) : (s.setReg k i v).coh = s.coh := rfl
@[simp] theorem State.setReg_net (k : RegKind) (i : Nat) (v : BitVec 64) : (s.setReg k i v).net = s.net := rfl
@[simp] theorem State.setReg_dmem (k : RegKind) (i : Nat) (v : BitVec 64) : (s.setReg k i v).dmem = s.dmem := rfl
@[simp] theorem State.setReg_cas (k : RegKind) (i : Nat) (v : BitVec 64) : (s.setReg k i v).cas = s.cas := rfl
@[simp] theorem State.setReg_nic (k : RegKind) (i : Nat) (v : BitVec 64) : (s.setReg k i v).nic = s.nic := rfl
@[simp] theorem State.setReg_fns (k : RegKind) (i : Nat) (v : BitVec 64) : (s.setReg k i v).fns = s.fns := rfl
@[simp] theorem State.setReg_link (k : RegKind) (i : Nat) (v : BitVec 64) : (s.setReg k i v).link = s.link := rfl
@[simp] theorem State.setReg_cages (k : RegKind) (i : Nat) (v : BitVec 64) : (s.setReg k i v).cages = s.cages := rfl
@[simp] theorem State.setReg_cols (k : RegKind) (i : Nat) (v : BitVec 64) : (s.setReg k i v).cols = s.cols := rfl
@[simp] theorem State.setReg_flt (k : RegKind) (i : Nat) (v : BitVec 64) : (s.setReg k i v).flt = s.flt := rfl
@[simp] theorem State.setReg_evq (k : RegKind) (i : Nat) (v : BitVec 64) : (s.setReg k i v).evq = s.evq := rfl
@[simp] theorem State.setReg_dev (k : RegKind) (i : Nat) (v : BitVec 64) : (s.setReg k i v).dev = s.dev := rfl
@[simp] theorem State.setReg_arec (k : RegKind) (i : Nat) (v : BitVec 64) : (s.setReg k i v).arec = s.arec := rfl
@[simp] theorem State.setReg_pwr (k : RegKind) (i : Nat) (v : BitVec 64) : (s.setReg k i v).pwr = s.pwr := rfl
@[simp] theorem State.setReg_fw (k : RegKind) (i : Nat) (v : BitVec 64) : (s.setReg k i v).fw = s.fw := rfl
@[simp] theorem State.setReg_led (k : RegKind) (i : Nat) (v : BitVec 64) : (s.setReg k i v).led = s.led := rfl
@[simp] theorem State.setReg_fuses (k : RegKind) (i : Nat) (v : BitVec 64) : (s.setReg k i v).fuses = s.fuses := rfl
@[simp] theorem State.setReg_port (k : RegKind) (i : Nat) (v : BitVec 64) : (s.setReg k i v).port = s.port := rfl
@[simp] theorem State.setReg_nvm (k : RegKind) (i : Nat) (v : BitVec 64) : (s.setReg k i v).nvm = s.nvm := rfl
@[simp] theorem State.setReg_archSram (k : RegKind) (i : Nat) (v : BitVec 64) : (s.setReg k i v).archSram = s.archSram := rfl
@[simp] theorem State.setReg_time (k : RegKind) (i : Nat) (v : BitVec 64) : (s.setReg k i v).time = s.time := rfl
@[simp] theorem State.setReg_free (k : RegKind) (i : Nat) (v : BitVec 64) : (s.setReg k i v).free = s.free := rfl
@[simp] theorem State.setReg_out (k : RegKind) (i : Nat) (v : BitVec 64) : (s.setReg k i v).out = s.out := rfl
@[simp] theorem State.setReg_pending (k : RegKind) (i : Nat) (v : BitVec 64) : (s.setReg k i v).pending = s.pending := rfl
@[simp] theorem State.setReg_slot' (k : RegKind) (i : Nat) (v : BitVec 64) (j : Nat) : (s.setReg k i v).slot j = s.slot j := rfl
@[simp] theorem State.setReg_carrel' (k : RegKind) (i : Nat) (v : BitVec 64) (j : Nat) : (s.setReg k i v).carrel j = s.carrel j := rfl
@[simp] theorem State.setReg_mem' (k : RegKind) (i : Nat) (v : BitVec 64) (j : Nat) : (s.setReg k i v).mem j = s.mem j := rfl
@[simp] theorem State.setReg_ddEnt' (k : RegKind) (i : Nat) (v : BitVec 64) (j : Nat) : (s.setReg k i v).ddEnt j = s.ddEnt j := rfl
@[simp] theorem State.setReg_csOf' (k : RegKind) (i : Nat) (v : BitVec 64) (j : Nat) : (s.setReg k i v).csOf j = s.csOf j := rfl
@[simp] theorem State.setReg_slipOf' (k : RegKind) (i : Nat) (v : BitVec 64) (j : Nat) : (s.setReg k i v).slipOf j = s.slipOf j := rfl
@[simp] theorem State.setReg_queue' (k : RegKind) (i : Nat) (v : BitVec 64) (j : Nat) : (s.setReg k i v).queue j = s.queue j := rfl
@[simp] theorem State.setReg_xlOf' (k : RegKind) (i : Nat) (v : BitVec 64) (j : Nat) : (s.setReg k i v).xlOf j = s.xlOf j := rfl
@[simp] theorem State.setReg_lendOf' (k : RegKind) (i : Nat) (v : BitVec 64) (j : Nat) : (s.setReg k i v).lendOf j = s.lendOf j := rfl
@[simp] theorem State.setReg_fn' (k : RegKind) (i : Nat) (v : BitVec 64) (j : Nat) : (s.setReg k i v).fn j = s.fn j := rfl
@[simp] theorem State.setReg_cage' (k : RegKind) (i : Nat) (v : BitVec 64) (j : Nat) : (s.setReg k i v).cage j = s.cage j := rfl
@[simp] theorem State.setReg_col' (k : RegKind) (i : Nat) (v : BitVec 64) (j : Nat) : (s.setReg k i v).col j = s.col j := rfl
@[simp] theorem State.setReg_qpOf' (k : RegKind) (i : Nat) (v : BitVec 64) (j : Nat) : (s.setReg k i v).qpOf j = s.qpOf j := rfl
@[simp] theorem State.setReg_wing' (k : RegKind) (i : Nat) (v : BitVec 64) (j : Nat) : (s.setReg k i v).wing j = s.wing j := rfl
@[simp] theorem State.setReg_partCount' (k : RegKind) (i : Nat) (v : BitVec 64)  : (s.setReg k i v).partCount  = s.partCount  := rfl
@[simp] theorem State.setReg_part' (k : RegKind) (i : Nat) (v : BitVec 64) (j : Nat) : (s.setReg k i v).part j = s.part j := rfl
@[simp] theorem State.setReg_slotsOf' (k : RegKind) (i : Nat) (v : BitVec 64) (j : Nat) : (s.setReg k i v).slotsOf j = s.slotsOf j := rfl
@[simp] theorem State.setReg_partOf' (k : RegKind) (i : Nat) (v : BitVec 64) (j : Nat) : (s.setReg k i v).partOf j = s.partOf j := rfl
@[simp] theorem State.setReg_owns' (k : RegKind) (i : Nat) (v : BitVec 64) (j m : Nat) : (s.setReg k i v).owns j m = s.owns j m := rfl
@[simp] theorem State.setReg_fnOf' (k : RegKind) (i : Nat) (v : BitVec 64) (j : Nat) : (s.setReg k i v).fnOf j = s.fnOf j := rfl

/-! ### `p` -/

@[simp] theorem State.p_car (f : Fld) (i v : Nat) : (s.p f i v).car = s.car := rfl
@[simp] theorem State.p_store (f : Fld) (i v : Nat) : (s.p f i v).store = s.store := rfl
@[simp] theorem State.p_slots (f : Fld) (i v : Nat) : (s.p f i v).slots = s.slots := rfl
@[simp] theorem State.p_rels (f : Fld) (i v : Nat) : (s.p f i v).rels = s.rels := rfl
@[simp] theorem State.p_starts (f : Fld) (i v : Nat) : (s.p f i v).starts = s.starts := rfl
@[simp] theorem State.p_dd (f : Fld) (i v : Nat) : (s.p f i v).dd = s.dd := rfl
@[simp] theorem State.p_stamp (f : Fld) (i v : Nat) : (s.p f i v).stamp = s.stamp := rfl
@[simp] theorem State.p_cs (f : Fld) (i v : Nat) : (s.p f i v).cs = s.cs := rfl
@[simp] theorem State.p_slipFr (f : Fld) (i v : Nat) : (s.p f i v).slipFr = s.slipFr := rfl
@[simp] theorem State.p_q (f : Fld) (i v : Nat) : (s.p f i v).q = s.q := rfl
@[simp] theorem State.p_xl (f : Fld) (i v : Nat) : (s.p f i v).xl = s.xl := rfl
@[simp] theorem State.p_hubBuf (f : Fld) (i v : Nat) : (s.p f i v).hubBuf = s.hubBuf := rfl
@[simp] theorem State.p_lend (f : Fld) (i v : Nat) : (s.p f i v).lend = s.lend := rfl
@[simp] theorem State.p_wings (f : Fld) (i v : Nat) : (s.p f i v).wings = s.wings := rfl
@[simp] theorem State.p_coh (f : Fld) (i v : Nat) : (s.p f i v).coh = s.coh := rfl
@[simp] theorem State.p_net (f : Fld) (i v : Nat) : (s.p f i v).net = s.net := rfl
@[simp] theorem State.p_dmem (f : Fld) (i v : Nat) : (s.p f i v).dmem = s.dmem := rfl
@[simp] theorem State.p_cas (f : Fld) (i v : Nat) : (s.p f i v).cas = s.cas := rfl
@[simp] theorem State.p_nic (f : Fld) (i v : Nat) : (s.p f i v).nic = s.nic := rfl
@[simp] theorem State.p_fns (f : Fld) (i v : Nat) : (s.p f i v).fns = s.fns := rfl
@[simp] theorem State.p_link (f : Fld) (i v : Nat) : (s.p f i v).link = s.link := rfl
@[simp] theorem State.p_cages (f : Fld) (i v : Nat) : (s.p f i v).cages = s.cages := rfl
@[simp] theorem State.p_cols (f : Fld) (i v : Nat) : (s.p f i v).cols = s.cols := rfl
@[simp] theorem State.p_flt (f : Fld) (i v : Nat) : (s.p f i v).flt = s.flt := rfl
@[simp] theorem State.p_evq (f : Fld) (i v : Nat) : (s.p f i v).evq = s.evq := rfl
@[simp] theorem State.p_dev (f : Fld) (i v : Nat) : (s.p f i v).dev = s.dev := rfl
@[simp] theorem State.p_arec (f : Fld) (i v : Nat) : (s.p f i v).arec = s.arec := rfl
@[simp] theorem State.p_pwr (f : Fld) (i v : Nat) : (s.p f i v).pwr = s.pwr := rfl
@[simp] theorem State.p_fw (f : Fld) (i v : Nat) : (s.p f i v).fw = s.fw := rfl
@[simp] theorem State.p_led (f : Fld) (i v : Nat) : (s.p f i v).led = s.led := rfl
@[simp] theorem State.p_fuses (f : Fld) (i v : Nat) : (s.p f i v).fuses = s.fuses := rfl
@[simp] theorem State.p_port (f : Fld) (i v : Nat) : (s.p f i v).port = s.port := rfl
@[simp] theorem State.p_nvm (f : Fld) (i v : Nat) : (s.p f i v).nvm = s.nvm := rfl
@[simp] theorem State.p_archSram (f : Fld) (i v : Nat) : (s.p f i v).archSram = s.archSram := rfl
@[simp] theorem State.p_time (f : Fld) (i v : Nat) : (s.p f i v).time = s.time := rfl
@[simp] theorem State.p_free (f : Fld) (i v : Nat) : (s.p f i v).free = s.free := rfl
@[simp] theorem State.p_out (f : Fld) (i v : Nat) : (s.p f i v).out = s.out := rfl
@[simp] theorem State.p_pending (f : Fld) (i v : Nat) : (s.p f i v).pending = s.pending := rfl
@[simp] theorem State.p_slot' (f : Fld) (i v : Nat) (j : Nat) : (s.p f i v).slot j = s.slot j := rfl
@[simp] theorem State.p_carrel' (f : Fld) (i v : Nat) (j : Nat) : (s.p f i v).carrel j = s.carrel j := rfl
@[simp] theorem State.p_mem' (f : Fld) (i v : Nat) (j : Nat) : (s.p f i v).mem j = s.mem j := rfl
@[simp] theorem State.p_ddEnt' (f : Fld) (i v : Nat) (j : Nat) : (s.p f i v).ddEnt j = s.ddEnt j := rfl
@[simp] theorem State.p_csOf' (f : Fld) (i v : Nat) (j : Nat) : (s.p f i v).csOf j = s.csOf j := rfl
@[simp] theorem State.p_slipOf' (f : Fld) (i v : Nat) (j : Nat) : (s.p f i v).slipOf j = s.slipOf j := rfl
@[simp] theorem State.p_queue' (f : Fld) (i v : Nat) (j : Nat) : (s.p f i v).queue j = s.queue j := rfl
@[simp] theorem State.p_xlOf' (f : Fld) (i v : Nat) (j : Nat) : (s.p f i v).xlOf j = s.xlOf j := rfl
@[simp] theorem State.p_lendOf' (f : Fld) (i v : Nat) (j : Nat) : (s.p f i v).lendOf j = s.lendOf j := rfl
@[simp] theorem State.p_fn' (f : Fld) (i v : Nat) (j : Nat) : (s.p f i v).fn j = s.fn j := rfl
@[simp] theorem State.p_cage' (f : Fld) (i v : Nat) (j : Nat) : (s.p f i v).cage j = s.cage j := rfl
@[simp] theorem State.p_col' (f : Fld) (i v : Nat) (j : Nat) : (s.p f i v).col j = s.col j := rfl
@[simp] theorem State.p_qpOf' (f : Fld) (i v : Nat) (j : Nat) : (s.p f i v).qpOf j = s.qpOf j := rfl
@[simp] theorem State.p_wing' (f : Fld) (i v : Nat) (j : Nat) : (s.p f i v).wing j = s.wing j := rfl
@[simp] theorem State.p_partCount' (f : Fld) (i v : Nat)  : (s.p f i v).partCount  = s.partCount  := rfl
@[simp] theorem State.p_part' (f : Fld) (i v : Nat) (j : Nat) : (s.p f i v).part j = s.part j := rfl
@[simp] theorem State.p_slotsOf' (f : Fld) (i v : Nat) (j : Nat) : (s.p f i v).slotsOf j = s.slotsOf j := rfl
@[simp] theorem State.p_partOf' (f : Fld) (i v : Nat) (j : Nat) : (s.p f i v).partOf j = s.partOf j := rfl
@[simp] theorem State.p_owns' (f : Fld) (i v : Nat) (j m : Nat) : (s.p f i v).owns j m = s.owns j m := rfl
@[simp] theorem State.p_fnOf' (f : Fld) (i v : Nat) (j : Nat) : (s.p f i v).fnOf j = s.fnOf j := rfl

/-! ### `bump` -/

@[simp] theorem State.bump_car (f : Fld) (i v : Nat) : (s.bump f i v).car = s.car := rfl
@[simp] theorem State.bump_store (f : Fld) (i v : Nat) : (s.bump f i v).store = s.store := rfl
@[simp] theorem State.bump_slots (f : Fld) (i v : Nat) : (s.bump f i v).slots = s.slots := rfl
@[simp] theorem State.bump_rels (f : Fld) (i v : Nat) : (s.bump f i v).rels = s.rels := rfl
@[simp] theorem State.bump_starts (f : Fld) (i v : Nat) : (s.bump f i v).starts = s.starts := rfl
@[simp] theorem State.bump_dd (f : Fld) (i v : Nat) : (s.bump f i v).dd = s.dd := rfl
@[simp] theorem State.bump_stamp (f : Fld) (i v : Nat) : (s.bump f i v).stamp = s.stamp := rfl
@[simp] theorem State.bump_cs (f : Fld) (i v : Nat) : (s.bump f i v).cs = s.cs := rfl
@[simp] theorem State.bump_slipFr (f : Fld) (i v : Nat) : (s.bump f i v).slipFr = s.slipFr := rfl
@[simp] theorem State.bump_q (f : Fld) (i v : Nat) : (s.bump f i v).q = s.q := rfl
@[simp] theorem State.bump_xl (f : Fld) (i v : Nat) : (s.bump f i v).xl = s.xl := rfl
@[simp] theorem State.bump_hubBuf (f : Fld) (i v : Nat) : (s.bump f i v).hubBuf = s.hubBuf := rfl
@[simp] theorem State.bump_lend (f : Fld) (i v : Nat) : (s.bump f i v).lend = s.lend := rfl
@[simp] theorem State.bump_wings (f : Fld) (i v : Nat) : (s.bump f i v).wings = s.wings := rfl
@[simp] theorem State.bump_coh (f : Fld) (i v : Nat) : (s.bump f i v).coh = s.coh := rfl
@[simp] theorem State.bump_net (f : Fld) (i v : Nat) : (s.bump f i v).net = s.net := rfl
@[simp] theorem State.bump_dmem (f : Fld) (i v : Nat) : (s.bump f i v).dmem = s.dmem := rfl
@[simp] theorem State.bump_cas (f : Fld) (i v : Nat) : (s.bump f i v).cas = s.cas := rfl
@[simp] theorem State.bump_nic (f : Fld) (i v : Nat) : (s.bump f i v).nic = s.nic := rfl
@[simp] theorem State.bump_fns (f : Fld) (i v : Nat) : (s.bump f i v).fns = s.fns := rfl
@[simp] theorem State.bump_link (f : Fld) (i v : Nat) : (s.bump f i v).link = s.link := rfl
@[simp] theorem State.bump_cages (f : Fld) (i v : Nat) : (s.bump f i v).cages = s.cages := rfl
@[simp] theorem State.bump_cols (f : Fld) (i v : Nat) : (s.bump f i v).cols = s.cols := rfl
@[simp] theorem State.bump_flt (f : Fld) (i v : Nat) : (s.bump f i v).flt = s.flt := rfl
@[simp] theorem State.bump_evq (f : Fld) (i v : Nat) : (s.bump f i v).evq = s.evq := rfl
@[simp] theorem State.bump_dev (f : Fld) (i v : Nat) : (s.bump f i v).dev = s.dev := rfl
@[simp] theorem State.bump_arec (f : Fld) (i v : Nat) : (s.bump f i v).arec = s.arec := rfl
@[simp] theorem State.bump_pwr (f : Fld) (i v : Nat) : (s.bump f i v).pwr = s.pwr := rfl
@[simp] theorem State.bump_fw (f : Fld) (i v : Nat) : (s.bump f i v).fw = s.fw := rfl
@[simp] theorem State.bump_led (f : Fld) (i v : Nat) : (s.bump f i v).led = s.led := rfl
@[simp] theorem State.bump_fuses (f : Fld) (i v : Nat) : (s.bump f i v).fuses = s.fuses := rfl
@[simp] theorem State.bump_port (f : Fld) (i v : Nat) : (s.bump f i v).port = s.port := rfl
@[simp] theorem State.bump_nvm (f : Fld) (i v : Nat) : (s.bump f i v).nvm = s.nvm := rfl
@[simp] theorem State.bump_archSram (f : Fld) (i v : Nat) : (s.bump f i v).archSram = s.archSram := rfl
@[simp] theorem State.bump_time (f : Fld) (i v : Nat) : (s.bump f i v).time = s.time := rfl
@[simp] theorem State.bump_free (f : Fld) (i v : Nat) : (s.bump f i v).free = s.free := rfl
@[simp] theorem State.bump_out (f : Fld) (i v : Nat) : (s.bump f i v).out = s.out := rfl
@[simp] theorem State.bump_pending (f : Fld) (i v : Nat) : (s.bump f i v).pending = s.pending := rfl
@[simp] theorem State.bump_slot' (f : Fld) (i v : Nat) (j : Nat) : (s.bump f i v).slot j = s.slot j := rfl
@[simp] theorem State.bump_carrel' (f : Fld) (i v : Nat) (j : Nat) : (s.bump f i v).carrel j = s.carrel j := rfl
@[simp] theorem State.bump_mem' (f : Fld) (i v : Nat) (j : Nat) : (s.bump f i v).mem j = s.mem j := rfl
@[simp] theorem State.bump_ddEnt' (f : Fld) (i v : Nat) (j : Nat) : (s.bump f i v).ddEnt j = s.ddEnt j := rfl
@[simp] theorem State.bump_csOf' (f : Fld) (i v : Nat) (j : Nat) : (s.bump f i v).csOf j = s.csOf j := rfl
@[simp] theorem State.bump_slipOf' (f : Fld) (i v : Nat) (j : Nat) : (s.bump f i v).slipOf j = s.slipOf j := rfl
@[simp] theorem State.bump_queue' (f : Fld) (i v : Nat) (j : Nat) : (s.bump f i v).queue j = s.queue j := rfl
@[simp] theorem State.bump_xlOf' (f : Fld) (i v : Nat) (j : Nat) : (s.bump f i v).xlOf j = s.xlOf j := rfl
@[simp] theorem State.bump_lendOf' (f : Fld) (i v : Nat) (j : Nat) : (s.bump f i v).lendOf j = s.lendOf j := rfl
@[simp] theorem State.bump_fn' (f : Fld) (i v : Nat) (j : Nat) : (s.bump f i v).fn j = s.fn j := rfl
@[simp] theorem State.bump_cage' (f : Fld) (i v : Nat) (j : Nat) : (s.bump f i v).cage j = s.cage j := rfl
@[simp] theorem State.bump_col' (f : Fld) (i v : Nat) (j : Nat) : (s.bump f i v).col j = s.col j := rfl
@[simp] theorem State.bump_qpOf' (f : Fld) (i v : Nat) (j : Nat) : (s.bump f i v).qpOf j = s.qpOf j := rfl
@[simp] theorem State.bump_wing' (f : Fld) (i v : Nat) (j : Nat) : (s.bump f i v).wing j = s.wing j := rfl
@[simp] theorem State.bump_partCount' (f : Fld) (i v : Nat)  : (s.bump f i v).partCount  = s.partCount  := rfl
@[simp] theorem State.bump_part' (f : Fld) (i v : Nat) (j : Nat) : (s.bump f i v).part j = s.part j := rfl
@[simp] theorem State.bump_slotsOf' (f : Fld) (i v : Nat) (j : Nat) : (s.bump f i v).slotsOf j = s.slotsOf j := rfl
@[simp] theorem State.bump_partOf' (f : Fld) (i v : Nat) (j : Nat) : (s.bump f i v).partOf j = s.partOf j := rfl
@[simp] theorem State.bump_owns' (f : Fld) (i v : Nat) (j m : Nat) : (s.bump f i v).owns j m = s.owns j m := rfl
@[simp] theorem State.bump_fnOf' (f : Fld) (i v : Nat) (j : Nat) : (s.bump f i v).fnOf j = s.fnOf j := rfl

/-! ### `wrap` -/

@[simp] theorem State.wrap_car (f : Fld) (i : Nat) : (s.wrap f i).car = s.car := rfl
@[simp] theorem State.wrap_store (f : Fld) (i : Nat) : (s.wrap f i).store = s.store := rfl
@[simp] theorem State.wrap_slots (f : Fld) (i : Nat) : (s.wrap f i).slots = s.slots := rfl
@[simp] theorem State.wrap_rels (f : Fld) (i : Nat) : (s.wrap f i).rels = s.rels := rfl
@[simp] theorem State.wrap_starts (f : Fld) (i : Nat) : (s.wrap f i).starts = s.starts := rfl
@[simp] theorem State.wrap_dd (f : Fld) (i : Nat) : (s.wrap f i).dd = s.dd := rfl
@[simp] theorem State.wrap_stamp (f : Fld) (i : Nat) : (s.wrap f i).stamp = s.stamp := rfl
@[simp] theorem State.wrap_cs (f : Fld) (i : Nat) : (s.wrap f i).cs = s.cs := rfl
@[simp] theorem State.wrap_slipFr (f : Fld) (i : Nat) : (s.wrap f i).slipFr = s.slipFr := rfl
@[simp] theorem State.wrap_q (f : Fld) (i : Nat) : (s.wrap f i).q = s.q := rfl
@[simp] theorem State.wrap_xl (f : Fld) (i : Nat) : (s.wrap f i).xl = s.xl := rfl
@[simp] theorem State.wrap_hubBuf (f : Fld) (i : Nat) : (s.wrap f i).hubBuf = s.hubBuf := rfl
@[simp] theorem State.wrap_lend (f : Fld) (i : Nat) : (s.wrap f i).lend = s.lend := rfl
@[simp] theorem State.wrap_wings (f : Fld) (i : Nat) : (s.wrap f i).wings = s.wings := rfl
@[simp] theorem State.wrap_coh (f : Fld) (i : Nat) : (s.wrap f i).coh = s.coh := rfl
@[simp] theorem State.wrap_net (f : Fld) (i : Nat) : (s.wrap f i).net = s.net := rfl
@[simp] theorem State.wrap_dmem (f : Fld) (i : Nat) : (s.wrap f i).dmem = s.dmem := rfl
@[simp] theorem State.wrap_cas (f : Fld) (i : Nat) : (s.wrap f i).cas = s.cas := rfl
@[simp] theorem State.wrap_nic (f : Fld) (i : Nat) : (s.wrap f i).nic = s.nic := rfl
@[simp] theorem State.wrap_fns (f : Fld) (i : Nat) : (s.wrap f i).fns = s.fns := rfl
@[simp] theorem State.wrap_link (f : Fld) (i : Nat) : (s.wrap f i).link = s.link := rfl
@[simp] theorem State.wrap_cages (f : Fld) (i : Nat) : (s.wrap f i).cages = s.cages := rfl
@[simp] theorem State.wrap_cols (f : Fld) (i : Nat) : (s.wrap f i).cols = s.cols := rfl
@[simp] theorem State.wrap_flt (f : Fld) (i : Nat) : (s.wrap f i).flt = s.flt := rfl
@[simp] theorem State.wrap_evq (f : Fld) (i : Nat) : (s.wrap f i).evq = s.evq := rfl
@[simp] theorem State.wrap_dev (f : Fld) (i : Nat) : (s.wrap f i).dev = s.dev := rfl
@[simp] theorem State.wrap_arec (f : Fld) (i : Nat) : (s.wrap f i).arec = s.arec := rfl
@[simp] theorem State.wrap_pwr (f : Fld) (i : Nat) : (s.wrap f i).pwr = s.pwr := rfl
@[simp] theorem State.wrap_fw (f : Fld) (i : Nat) : (s.wrap f i).fw = s.fw := rfl
@[simp] theorem State.wrap_led (f : Fld) (i : Nat) : (s.wrap f i).led = s.led := rfl
@[simp] theorem State.wrap_fuses (f : Fld) (i : Nat) : (s.wrap f i).fuses = s.fuses := rfl
@[simp] theorem State.wrap_port (f : Fld) (i : Nat) : (s.wrap f i).port = s.port := rfl
@[simp] theorem State.wrap_nvm (f : Fld) (i : Nat) : (s.wrap f i).nvm = s.nvm := rfl
@[simp] theorem State.wrap_archSram (f : Fld) (i : Nat) : (s.wrap f i).archSram = s.archSram := rfl
@[simp] theorem State.wrap_time (f : Fld) (i : Nat) : (s.wrap f i).time = s.time := rfl
@[simp] theorem State.wrap_free (f : Fld) (i : Nat) : (s.wrap f i).free = s.free := rfl
@[simp] theorem State.wrap_out (f : Fld) (i : Nat) : (s.wrap f i).out = s.out := rfl
@[simp] theorem State.wrap_pending (f : Fld) (i : Nat) : (s.wrap f i).pending = s.pending := rfl
@[simp] theorem State.wrap_slot' (f : Fld) (i : Nat) (j : Nat) : (s.wrap f i).slot j = s.slot j := rfl
@[simp] theorem State.wrap_carrel' (f : Fld) (i : Nat) (j : Nat) : (s.wrap f i).carrel j = s.carrel j := rfl
@[simp] theorem State.wrap_mem' (f : Fld) (i : Nat) (j : Nat) : (s.wrap f i).mem j = s.mem j := rfl
@[simp] theorem State.wrap_ddEnt' (f : Fld) (i : Nat) (j : Nat) : (s.wrap f i).ddEnt j = s.ddEnt j := rfl
@[simp] theorem State.wrap_csOf' (f : Fld) (i : Nat) (j : Nat) : (s.wrap f i).csOf j = s.csOf j := rfl
@[simp] theorem State.wrap_slipOf' (f : Fld) (i : Nat) (j : Nat) : (s.wrap f i).slipOf j = s.slipOf j := rfl
@[simp] theorem State.wrap_queue' (f : Fld) (i : Nat) (j : Nat) : (s.wrap f i).queue j = s.queue j := rfl
@[simp] theorem State.wrap_xlOf' (f : Fld) (i : Nat) (j : Nat) : (s.wrap f i).xlOf j = s.xlOf j := rfl
@[simp] theorem State.wrap_lendOf' (f : Fld) (i : Nat) (j : Nat) : (s.wrap f i).lendOf j = s.lendOf j := rfl
@[simp] theorem State.wrap_fn' (f : Fld) (i : Nat) (j : Nat) : (s.wrap f i).fn j = s.fn j := rfl
@[simp] theorem State.wrap_cage' (f : Fld) (i : Nat) (j : Nat) : (s.wrap f i).cage j = s.cage j := rfl
@[simp] theorem State.wrap_col' (f : Fld) (i : Nat) (j : Nat) : (s.wrap f i).col j = s.col j := rfl
@[simp] theorem State.wrap_qpOf' (f : Fld) (i : Nat) (j : Nat) : (s.wrap f i).qpOf j = s.qpOf j := rfl
@[simp] theorem State.wrap_wing' (f : Fld) (i : Nat) (j : Nat) : (s.wrap f i).wing j = s.wing j := rfl
@[simp] theorem State.wrap_partCount' (f : Fld) (i : Nat)  : (s.wrap f i).partCount  = s.partCount  := rfl
@[simp] theorem State.wrap_part' (f : Fld) (i : Nat) (j : Nat) : (s.wrap f i).part j = s.part j := rfl
@[simp] theorem State.wrap_slotsOf' (f : Fld) (i : Nat) (j : Nat) : (s.wrap f i).slotsOf j = s.slotsOf j := rfl
@[simp] theorem State.wrap_partOf' (f : Fld) (i : Nat) (j : Nat) : (s.wrap f i).partOf j = s.partOf j := rfl
@[simp] theorem State.wrap_owns' (f : Fld) (i : Nat) (j m : Nat) : (s.wrap f i).owns j m = s.owns j m := rfl
@[simp] theorem State.wrap_fnOf' (f : Fld) (i : Nat) (j : Nat) : (s.wrap f i).fnOf j = s.fnOf j := rfl

/-! ### `setSlot` -/

@[simp] theorem State.setSlot_rf (n : Nat) (x : SlotSt) : (s.setSlot n x).rf = s.rf := rfl
@[simp] theorem State.setSlot_car (n : Nat) (x : SlotSt) : (s.setSlot n x).car = s.car := rfl
@[simp] theorem State.setSlot_store (n : Nat) (x : SlotSt) : (s.setSlot n x).store = s.store := rfl
@[simp] theorem State.setSlot_rels (n : Nat) (x : SlotSt) : (s.setSlot n x).rels = s.rels := rfl
@[simp] theorem State.setSlot_starts (n : Nat) (x : SlotSt) : (s.setSlot n x).starts = s.starts := rfl
@[simp] theorem State.setSlot_dd (n : Nat) (x : SlotSt) : (s.setSlot n x).dd = s.dd := rfl
@[simp] theorem State.setSlot_stamp (n : Nat) (x : SlotSt) : (s.setSlot n x).stamp = s.stamp := rfl
@[simp] theorem State.setSlot_cs (n : Nat) (x : SlotSt) : (s.setSlot n x).cs = s.cs := rfl
@[simp] theorem State.setSlot_slipFr (n : Nat) (x : SlotSt) : (s.setSlot n x).slipFr = s.slipFr := rfl
@[simp] theorem State.setSlot_q (n : Nat) (x : SlotSt) : (s.setSlot n x).q = s.q := rfl
@[simp] theorem State.setSlot_xl (n : Nat) (x : SlotSt) : (s.setSlot n x).xl = s.xl := rfl
@[simp] theorem State.setSlot_hubBuf (n : Nat) (x : SlotSt) : (s.setSlot n x).hubBuf = s.hubBuf := rfl
@[simp] theorem State.setSlot_lend (n : Nat) (x : SlotSt) : (s.setSlot n x).lend = s.lend := rfl
@[simp] theorem State.setSlot_wings (n : Nat) (x : SlotSt) : (s.setSlot n x).wings = s.wings := rfl
@[simp] theorem State.setSlot_coh (n : Nat) (x : SlotSt) : (s.setSlot n x).coh = s.coh := rfl
@[simp] theorem State.setSlot_net (n : Nat) (x : SlotSt) : (s.setSlot n x).net = s.net := rfl
@[simp] theorem State.setSlot_dmem (n : Nat) (x : SlotSt) : (s.setSlot n x).dmem = s.dmem := rfl
@[simp] theorem State.setSlot_cas (n : Nat) (x : SlotSt) : (s.setSlot n x).cas = s.cas := rfl
@[simp] theorem State.setSlot_nic (n : Nat) (x : SlotSt) : (s.setSlot n x).nic = s.nic := rfl
@[simp] theorem State.setSlot_fns (n : Nat) (x : SlotSt) : (s.setSlot n x).fns = s.fns := rfl
@[simp] theorem State.setSlot_link (n : Nat) (x : SlotSt) : (s.setSlot n x).link = s.link := rfl
@[simp] theorem State.setSlot_cages (n : Nat) (x : SlotSt) : (s.setSlot n x).cages = s.cages := rfl
@[simp] theorem State.setSlot_cols (n : Nat) (x : SlotSt) : (s.setSlot n x).cols = s.cols := rfl
@[simp] theorem State.setSlot_flt (n : Nat) (x : SlotSt) : (s.setSlot n x).flt = s.flt := rfl
@[simp] theorem State.setSlot_evq (n : Nat) (x : SlotSt) : (s.setSlot n x).evq = s.evq := rfl
@[simp] theorem State.setSlot_dev (n : Nat) (x : SlotSt) : (s.setSlot n x).dev = s.dev := rfl
@[simp] theorem State.setSlot_arec (n : Nat) (x : SlotSt) : (s.setSlot n x).arec = s.arec := rfl
@[simp] theorem State.setSlot_pwr (n : Nat) (x : SlotSt) : (s.setSlot n x).pwr = s.pwr := rfl
@[simp] theorem State.setSlot_fw (n : Nat) (x : SlotSt) : (s.setSlot n x).fw = s.fw := rfl
@[simp] theorem State.setSlot_led (n : Nat) (x : SlotSt) : (s.setSlot n x).led = s.led := rfl
@[simp] theorem State.setSlot_fuses (n : Nat) (x : SlotSt) : (s.setSlot n x).fuses = s.fuses := rfl
@[simp] theorem State.setSlot_port (n : Nat) (x : SlotSt) : (s.setSlot n x).port = s.port := rfl
@[simp] theorem State.setSlot_nvm (n : Nat) (x : SlotSt) : (s.setSlot n x).nvm = s.nvm := rfl
@[simp] theorem State.setSlot_archSram (n : Nat) (x : SlotSt) : (s.setSlot n x).archSram = s.archSram := rfl
@[simp] theorem State.setSlot_time (n : Nat) (x : SlotSt) : (s.setSlot n x).time = s.time := rfl
@[simp] theorem State.setSlot_free (n : Nat) (x : SlotSt) : (s.setSlot n x).free = s.free := rfl
@[simp] theorem State.setSlot_out (n : Nat) (x : SlotSt) : (s.setSlot n x).out = s.out := rfl
@[simp] theorem State.setSlot_pending (n : Nat) (x : SlotSt) : (s.setSlot n x).pending = s.pending := rfl
@[simp] theorem State.setSlot_reg' (n : Nat) (x : SlotSt) (k' : RegKind) (j : Nat) : (s.setSlot n x).reg k' j = s.reg k' j := rfl
@[simp] theorem State.setSlot_g' (n : Nat) (x : SlotSt) (f' : Fld) (j : Nat) : (s.setSlot n x).g f' j = s.g f' j := rfl
@[simp] theorem State.setSlot_gb' (n : Nat) (x : SlotSt) (f' : Fld) (j : Nat) : (s.setSlot n x).gb f' j = s.gb f' j := rfl
@[simp] theorem State.setSlot_now' (n : Nat) (x : SlotSt)  : (s.setSlot n x).now  = s.now  := rfl
@[simp] theorem State.setSlot_carrel' (n : Nat) (x : SlotSt) (j : Nat) : (s.setSlot n x).carrel j = s.carrel j := rfl
@[simp] theorem State.setSlot_mem' (n : Nat) (x : SlotSt) (j : Nat) : (s.setSlot n x).mem j = s.mem j := rfl
@[simp] theorem State.setSlot_ddEnt' (n : Nat) (x : SlotSt) (j : Nat) : (s.setSlot n x).ddEnt j = s.ddEnt j := rfl
@[simp] theorem State.setSlot_csOf' (n : Nat) (x : SlotSt) (j : Nat) : (s.setSlot n x).csOf j = s.csOf j := rfl
@[simp] theorem State.setSlot_slipOf' (n : Nat) (x : SlotSt) (j : Nat) : (s.setSlot n x).slipOf j = s.slipOf j := rfl
@[simp] theorem State.setSlot_queue' (n : Nat) (x : SlotSt) (j : Nat) : (s.setSlot n x).queue j = s.queue j := rfl
@[simp] theorem State.setSlot_xlOf' (n : Nat) (x : SlotSt) (j : Nat) : (s.setSlot n x).xlOf j = s.xlOf j := rfl
@[simp] theorem State.setSlot_lendOf' (n : Nat) (x : SlotSt) (j : Nat) : (s.setSlot n x).lendOf j = s.lendOf j := rfl
@[simp] theorem State.setSlot_fn' (n : Nat) (x : SlotSt) (j : Nat) : (s.setSlot n x).fn j = s.fn j := rfl
@[simp] theorem State.setSlot_cage' (n : Nat) (x : SlotSt) (j : Nat) : (s.setSlot n x).cage j = s.cage j := rfl
@[simp] theorem State.setSlot_col' (n : Nat) (x : SlotSt) (j : Nat) : (s.setSlot n x).col j = s.col j := rfl
@[simp] theorem State.setSlot_qpOf' (n : Nat) (x : SlotSt) (j : Nat) : (s.setSlot n x).qpOf j = s.qpOf j := rfl
@[simp] theorem State.setSlot_wing' (n : Nat) (x : SlotSt) (j : Nat) : (s.setSlot n x).wing j = s.wing j := rfl
@[simp] theorem State.setSlot_partCount' (n : Nat) (x : SlotSt)  : (s.setSlot n x).partCount  = s.partCount  := rfl
@[simp] theorem State.setSlot_part' (n : Nat) (x : SlotSt) (j : Nat) : (s.setSlot n x).part j = s.part j := rfl
@[simp] theorem State.setSlot_slotsOf' (n : Nat) (x : SlotSt) (j : Nat) : (s.setSlot n x).slotsOf j = s.slotsOf j := rfl
@[simp] theorem State.setSlot_partOf' (n : Nat) (x : SlotSt) (j : Nat) : (s.setSlot n x).partOf j = s.partOf j := rfl
@[simp] theorem State.setSlot_owns' (n : Nat) (x : SlotSt) (j m : Nat) : (s.setSlot n x).owns j m = s.owns j m := rfl
@[simp] theorem State.setSlot_fnOf' (n : Nat) (x : SlotSt) (j : Nat) : (s.setSlot n x).fnOf j = s.fnOf j := rfl
@[simp] theorem State.setSlot_phys' (n : Nat) (x : SlotSt) (j : Nat) : (s.setSlot n x).phys j = s.phys j := rfl

/-! ### `setCarrel` -/

@[simp] theorem State.setCarrel_rf (n : Nat) (x : Carrel) : (s.setCarrel n x).rf = s.rf := rfl
@[simp] theorem State.setCarrel_store (n : Nat) (x : Carrel) : (s.setCarrel n x).store = s.store := rfl
@[simp] theorem State.setCarrel_slots (n : Nat) (x : Carrel) : (s.setCarrel n x).slots = s.slots := rfl
@[simp] theorem State.setCarrel_rels (n : Nat) (x : Carrel) : (s.setCarrel n x).rels = s.rels := rfl
@[simp] theorem State.setCarrel_starts (n : Nat) (x : Carrel) : (s.setCarrel n x).starts = s.starts := rfl
@[simp] theorem State.setCarrel_dd (n : Nat) (x : Carrel) : (s.setCarrel n x).dd = s.dd := rfl
@[simp] theorem State.setCarrel_stamp (n : Nat) (x : Carrel) : (s.setCarrel n x).stamp = s.stamp := rfl
@[simp] theorem State.setCarrel_cs (n : Nat) (x : Carrel) : (s.setCarrel n x).cs = s.cs := rfl
@[simp] theorem State.setCarrel_slipFr (n : Nat) (x : Carrel) : (s.setCarrel n x).slipFr = s.slipFr := rfl
@[simp] theorem State.setCarrel_q (n : Nat) (x : Carrel) : (s.setCarrel n x).q = s.q := rfl
@[simp] theorem State.setCarrel_xl (n : Nat) (x : Carrel) : (s.setCarrel n x).xl = s.xl := rfl
@[simp] theorem State.setCarrel_hubBuf (n : Nat) (x : Carrel) : (s.setCarrel n x).hubBuf = s.hubBuf := rfl
@[simp] theorem State.setCarrel_lend (n : Nat) (x : Carrel) : (s.setCarrel n x).lend = s.lend := rfl
@[simp] theorem State.setCarrel_wings (n : Nat) (x : Carrel) : (s.setCarrel n x).wings = s.wings := rfl
@[simp] theorem State.setCarrel_coh (n : Nat) (x : Carrel) : (s.setCarrel n x).coh = s.coh := rfl
@[simp] theorem State.setCarrel_net (n : Nat) (x : Carrel) : (s.setCarrel n x).net = s.net := rfl
@[simp] theorem State.setCarrel_dmem (n : Nat) (x : Carrel) : (s.setCarrel n x).dmem = s.dmem := rfl
@[simp] theorem State.setCarrel_cas (n : Nat) (x : Carrel) : (s.setCarrel n x).cas = s.cas := rfl
@[simp] theorem State.setCarrel_nic (n : Nat) (x : Carrel) : (s.setCarrel n x).nic = s.nic := rfl
@[simp] theorem State.setCarrel_fns (n : Nat) (x : Carrel) : (s.setCarrel n x).fns = s.fns := rfl
@[simp] theorem State.setCarrel_link (n : Nat) (x : Carrel) : (s.setCarrel n x).link = s.link := rfl
@[simp] theorem State.setCarrel_cages (n : Nat) (x : Carrel) : (s.setCarrel n x).cages = s.cages := rfl
@[simp] theorem State.setCarrel_cols (n : Nat) (x : Carrel) : (s.setCarrel n x).cols = s.cols := rfl
@[simp] theorem State.setCarrel_flt (n : Nat) (x : Carrel) : (s.setCarrel n x).flt = s.flt := rfl
@[simp] theorem State.setCarrel_evq (n : Nat) (x : Carrel) : (s.setCarrel n x).evq = s.evq := rfl
@[simp] theorem State.setCarrel_dev (n : Nat) (x : Carrel) : (s.setCarrel n x).dev = s.dev := rfl
@[simp] theorem State.setCarrel_arec (n : Nat) (x : Carrel) : (s.setCarrel n x).arec = s.arec := rfl
@[simp] theorem State.setCarrel_pwr (n : Nat) (x : Carrel) : (s.setCarrel n x).pwr = s.pwr := rfl
@[simp] theorem State.setCarrel_fw (n : Nat) (x : Carrel) : (s.setCarrel n x).fw = s.fw := rfl
@[simp] theorem State.setCarrel_led (n : Nat) (x : Carrel) : (s.setCarrel n x).led = s.led := rfl
@[simp] theorem State.setCarrel_fuses (n : Nat) (x : Carrel) : (s.setCarrel n x).fuses = s.fuses := rfl
@[simp] theorem State.setCarrel_port (n : Nat) (x : Carrel) : (s.setCarrel n x).port = s.port := rfl
@[simp] theorem State.setCarrel_nvm (n : Nat) (x : Carrel) : (s.setCarrel n x).nvm = s.nvm := rfl
@[simp] theorem State.setCarrel_archSram (n : Nat) (x : Carrel) : (s.setCarrel n x).archSram = s.archSram := rfl
@[simp] theorem State.setCarrel_time (n : Nat) (x : Carrel) : (s.setCarrel n x).time = s.time := rfl
@[simp] theorem State.setCarrel_free (n : Nat) (x : Carrel) : (s.setCarrel n x).free = s.free := rfl
@[simp] theorem State.setCarrel_out (n : Nat) (x : Carrel) : (s.setCarrel n x).out = s.out := rfl
@[simp] theorem State.setCarrel_pending (n : Nat) (x : Carrel) : (s.setCarrel n x).pending = s.pending := rfl
@[simp] theorem State.setCarrel_reg' (n : Nat) (x : Carrel) (k' : RegKind) (j : Nat) : (s.setCarrel n x).reg k' j = s.reg k' j := rfl
@[simp] theorem State.setCarrel_g' (n : Nat) (x : Carrel) (f' : Fld) (j : Nat) : (s.setCarrel n x).g f' j = s.g f' j := rfl
@[simp] theorem State.setCarrel_gb' (n : Nat) (x : Carrel) (f' : Fld) (j : Nat) : (s.setCarrel n x).gb f' j = s.gb f' j := rfl
@[simp] theorem State.setCarrel_now' (n : Nat) (x : Carrel)  : (s.setCarrel n x).now  = s.now  := rfl
@[simp] theorem State.setCarrel_slot' (n : Nat) (x : Carrel) (j : Nat) : (s.setCarrel n x).slot j = s.slot j := rfl
@[simp] theorem State.setCarrel_mem' (n : Nat) (x : Carrel) (j : Nat) : (s.setCarrel n x).mem j = s.mem j := rfl
@[simp] theorem State.setCarrel_ddEnt' (n : Nat) (x : Carrel) (j : Nat) : (s.setCarrel n x).ddEnt j = s.ddEnt j := rfl
@[simp] theorem State.setCarrel_csOf' (n : Nat) (x : Carrel) (j : Nat) : (s.setCarrel n x).csOf j = s.csOf j := rfl
@[simp] theorem State.setCarrel_slipOf' (n : Nat) (x : Carrel) (j : Nat) : (s.setCarrel n x).slipOf j = s.slipOf j := rfl
@[simp] theorem State.setCarrel_queue' (n : Nat) (x : Carrel) (j : Nat) : (s.setCarrel n x).queue j = s.queue j := rfl
@[simp] theorem State.setCarrel_xlOf' (n : Nat) (x : Carrel) (j : Nat) : (s.setCarrel n x).xlOf j = s.xlOf j := rfl
@[simp] theorem State.setCarrel_lendOf' (n : Nat) (x : Carrel) (j : Nat) : (s.setCarrel n x).lendOf j = s.lendOf j := rfl
@[simp] theorem State.setCarrel_fn' (n : Nat) (x : Carrel) (j : Nat) : (s.setCarrel n x).fn j = s.fn j := rfl
@[simp] theorem State.setCarrel_cage' (n : Nat) (x : Carrel) (j : Nat) : (s.setCarrel n x).cage j = s.cage j := rfl
@[simp] theorem State.setCarrel_col' (n : Nat) (x : Carrel) (j : Nat) : (s.setCarrel n x).col j = s.col j := rfl
@[simp] theorem State.setCarrel_qpOf' (n : Nat) (x : Carrel) (j : Nat) : (s.setCarrel n x).qpOf j = s.qpOf j := rfl
@[simp] theorem State.setCarrel_wing' (n : Nat) (x : Carrel) (j : Nat) : (s.setCarrel n x).wing j = s.wing j := rfl
@[simp] theorem State.setCarrel_partCount' (n : Nat) (x : Carrel)  : (s.setCarrel n x).partCount  = s.partCount  := rfl
@[simp] theorem State.setCarrel_part' (n : Nat) (x : Carrel) (j : Nat) : (s.setCarrel n x).part j = s.part j := rfl
@[simp] theorem State.setCarrel_slotsOf' (n : Nat) (x : Carrel) (j : Nat) : (s.setCarrel n x).slotsOf j = s.slotsOf j := rfl
@[simp] theorem State.setCarrel_partOf' (n : Nat) (x : Carrel) (j : Nat) : (s.setCarrel n x).partOf j = s.partOf j := rfl
@[simp] theorem State.setCarrel_owns' (n : Nat) (x : Carrel) (j m : Nat) : (s.setCarrel n x).owns j m = s.owns j m := rfl
@[simp] theorem State.setCarrel_fnOf' (n : Nat) (x : Carrel) (j : Nat) : (s.setCarrel n x).fnOf j = s.fnOf j := rfl
@[simp] theorem State.setCarrel_phys' (n : Nat) (x : Carrel) (j : Nat) : (s.setCarrel n x).phys j = s.phys j := rfl

/-! ### `setMem` -/

@[simp] theorem State.setMem_rf (n : Nat) (x : Memory) : (s.setMem n x).rf = s.rf := rfl
@[simp] theorem State.setMem_car (n : Nat) (x : Memory) : (s.setMem n x).car = s.car := rfl
@[simp] theorem State.setMem_slots (n : Nat) (x : Memory) : (s.setMem n x).slots = s.slots := rfl
@[simp] theorem State.setMem_rels (n : Nat) (x : Memory) : (s.setMem n x).rels = s.rels := rfl
@[simp] theorem State.setMem_starts (n : Nat) (x : Memory) : (s.setMem n x).starts = s.starts := rfl
@[simp] theorem State.setMem_dd (n : Nat) (x : Memory) : (s.setMem n x).dd = s.dd := rfl
@[simp] theorem State.setMem_stamp (n : Nat) (x : Memory) : (s.setMem n x).stamp = s.stamp := rfl
@[simp] theorem State.setMem_cs (n : Nat) (x : Memory) : (s.setMem n x).cs = s.cs := rfl
@[simp] theorem State.setMem_slipFr (n : Nat) (x : Memory) : (s.setMem n x).slipFr = s.slipFr := rfl
@[simp] theorem State.setMem_q (n : Nat) (x : Memory) : (s.setMem n x).q = s.q := rfl
@[simp] theorem State.setMem_xl (n : Nat) (x : Memory) : (s.setMem n x).xl = s.xl := rfl
@[simp] theorem State.setMem_hubBuf (n : Nat) (x : Memory) : (s.setMem n x).hubBuf = s.hubBuf := rfl
@[simp] theorem State.setMem_lend (n : Nat) (x : Memory) : (s.setMem n x).lend = s.lend := rfl
@[simp] theorem State.setMem_wings (n : Nat) (x : Memory) : (s.setMem n x).wings = s.wings := rfl
@[simp] theorem State.setMem_coh (n : Nat) (x : Memory) : (s.setMem n x).coh = s.coh := rfl
@[simp] theorem State.setMem_net (n : Nat) (x : Memory) : (s.setMem n x).net = s.net := rfl
@[simp] theorem State.setMem_dmem (n : Nat) (x : Memory) : (s.setMem n x).dmem = s.dmem := rfl
@[simp] theorem State.setMem_cas (n : Nat) (x : Memory) : (s.setMem n x).cas = s.cas := rfl
@[simp] theorem State.setMem_nic (n : Nat) (x : Memory) : (s.setMem n x).nic = s.nic := rfl
@[simp] theorem State.setMem_fns (n : Nat) (x : Memory) : (s.setMem n x).fns = s.fns := rfl
@[simp] theorem State.setMem_link (n : Nat) (x : Memory) : (s.setMem n x).link = s.link := rfl
@[simp] theorem State.setMem_cages (n : Nat) (x : Memory) : (s.setMem n x).cages = s.cages := rfl
@[simp] theorem State.setMem_cols (n : Nat) (x : Memory) : (s.setMem n x).cols = s.cols := rfl
@[simp] theorem State.setMem_flt (n : Nat) (x : Memory) : (s.setMem n x).flt = s.flt := rfl
@[simp] theorem State.setMem_evq (n : Nat) (x : Memory) : (s.setMem n x).evq = s.evq := rfl
@[simp] theorem State.setMem_dev (n : Nat) (x : Memory) : (s.setMem n x).dev = s.dev := rfl
@[simp] theorem State.setMem_arec (n : Nat) (x : Memory) : (s.setMem n x).arec = s.arec := rfl
@[simp] theorem State.setMem_pwr (n : Nat) (x : Memory) : (s.setMem n x).pwr = s.pwr := rfl
@[simp] theorem State.setMem_fw (n : Nat) (x : Memory) : (s.setMem n x).fw = s.fw := rfl
@[simp] theorem State.setMem_led (n : Nat) (x : Memory) : (s.setMem n x).led = s.led := rfl
@[simp] theorem State.setMem_fuses (n : Nat) (x : Memory) : (s.setMem n x).fuses = s.fuses := rfl
@[simp] theorem State.setMem_port (n : Nat) (x : Memory) : (s.setMem n x).port = s.port := rfl
@[simp] theorem State.setMem_nvm (n : Nat) (x : Memory) : (s.setMem n x).nvm = s.nvm := rfl
@[simp] theorem State.setMem_archSram (n : Nat) (x : Memory) : (s.setMem n x).archSram = s.archSram := rfl
@[simp] theorem State.setMem_time (n : Nat) (x : Memory) : (s.setMem n x).time = s.time := rfl
@[simp] theorem State.setMem_free (n : Nat) (x : Memory) : (s.setMem n x).free = s.free := rfl
@[simp] theorem State.setMem_out (n : Nat) (x : Memory) : (s.setMem n x).out = s.out := rfl
@[simp] theorem State.setMem_pending (n : Nat) (x : Memory) : (s.setMem n x).pending = s.pending := rfl
@[simp] theorem State.setMem_reg' (n : Nat) (x : Memory) (k' : RegKind) (j : Nat) : (s.setMem n x).reg k' j = s.reg k' j := rfl
@[simp] theorem State.setMem_g' (n : Nat) (x : Memory) (f' : Fld) (j : Nat) : (s.setMem n x).g f' j = s.g f' j := rfl
@[simp] theorem State.setMem_gb' (n : Nat) (x : Memory) (f' : Fld) (j : Nat) : (s.setMem n x).gb f' j = s.gb f' j := rfl
@[simp] theorem State.setMem_now' (n : Nat) (x : Memory)  : (s.setMem n x).now  = s.now  := rfl
@[simp] theorem State.setMem_slot' (n : Nat) (x : Memory) (j : Nat) : (s.setMem n x).slot j = s.slot j := rfl
@[simp] theorem State.setMem_carrel' (n : Nat) (x : Memory) (j : Nat) : (s.setMem n x).carrel j = s.carrel j := rfl
@[simp] theorem State.setMem_ddEnt' (n : Nat) (x : Memory) (j : Nat) : (s.setMem n x).ddEnt j = s.ddEnt j := rfl
@[simp] theorem State.setMem_csOf' (n : Nat) (x : Memory) (j : Nat) : (s.setMem n x).csOf j = s.csOf j := rfl
@[simp] theorem State.setMem_slipOf' (n : Nat) (x : Memory) (j : Nat) : (s.setMem n x).slipOf j = s.slipOf j := rfl
@[simp] theorem State.setMem_queue' (n : Nat) (x : Memory) (j : Nat) : (s.setMem n x).queue j = s.queue j := rfl
@[simp] theorem State.setMem_xlOf' (n : Nat) (x : Memory) (j : Nat) : (s.setMem n x).xlOf j = s.xlOf j := rfl
@[simp] theorem State.setMem_lendOf' (n : Nat) (x : Memory) (j : Nat) : (s.setMem n x).lendOf j = s.lendOf j := rfl
@[simp] theorem State.setMem_fn' (n : Nat) (x : Memory) (j : Nat) : (s.setMem n x).fn j = s.fn j := rfl
@[simp] theorem State.setMem_cage' (n : Nat) (x : Memory) (j : Nat) : (s.setMem n x).cage j = s.cage j := rfl
@[simp] theorem State.setMem_col' (n : Nat) (x : Memory) (j : Nat) : (s.setMem n x).col j = s.col j := rfl
@[simp] theorem State.setMem_qpOf' (n : Nat) (x : Memory) (j : Nat) : (s.setMem n x).qpOf j = s.qpOf j := rfl
@[simp] theorem State.setMem_wing' (n : Nat) (x : Memory) (j : Nat) : (s.setMem n x).wing j = s.wing j := rfl
@[simp] theorem State.setMem_partCount' (n : Nat) (x : Memory)  : (s.setMem n x).partCount  = s.partCount  := rfl
@[simp] theorem State.setMem_part' (n : Nat) (x : Memory) (j : Nat) : (s.setMem n x).part j = s.part j := rfl
@[simp] theorem State.setMem_slotsOf' (n : Nat) (x : Memory) (j : Nat) : (s.setMem n x).slotsOf j = s.slotsOf j := rfl
@[simp] theorem State.setMem_partOf' (n : Nat) (x : Memory) (j : Nat) : (s.setMem n x).partOf j = s.partOf j := rfl
@[simp] theorem State.setMem_owns' (n : Nat) (x : Memory) (j m : Nat) : (s.setMem n x).owns j m = s.owns j m := rfl
@[simp] theorem State.setMem_fnOf' (n : Nat) (x : Memory) (j : Nat) : (s.setMem n x).fnOf j = s.fnOf j := rfl
@[simp] theorem State.setMem_phys' (n : Nat) (x : Memory) (j : Nat) : (s.setMem n x).phys j = s.phys j := rfl

/-! ### `setDd` -/

@[simp] theorem State.setDd_rf (n : Nat) (x : DdEnt) : (s.setDd n x).rf = s.rf := rfl
@[simp] theorem State.setDd_car (n : Nat) (x : DdEnt) : (s.setDd n x).car = s.car := rfl
@[simp] theorem State.setDd_store (n : Nat) (x : DdEnt) : (s.setDd n x).store = s.store := rfl
@[simp] theorem State.setDd_slots (n : Nat) (x : DdEnt) : (s.setDd n x).slots = s.slots := rfl
@[simp] theorem State.setDd_rels (n : Nat) (x : DdEnt) : (s.setDd n x).rels = s.rels := rfl
@[simp] theorem State.setDd_starts (n : Nat) (x : DdEnt) : (s.setDd n x).starts = s.starts := rfl
@[simp] theorem State.setDd_stamp (n : Nat) (x : DdEnt) : (s.setDd n x).stamp = s.stamp := rfl
@[simp] theorem State.setDd_cs (n : Nat) (x : DdEnt) : (s.setDd n x).cs = s.cs := rfl
@[simp] theorem State.setDd_slipFr (n : Nat) (x : DdEnt) : (s.setDd n x).slipFr = s.slipFr := rfl
@[simp] theorem State.setDd_q (n : Nat) (x : DdEnt) : (s.setDd n x).q = s.q := rfl
@[simp] theorem State.setDd_xl (n : Nat) (x : DdEnt) : (s.setDd n x).xl = s.xl := rfl
@[simp] theorem State.setDd_hubBuf (n : Nat) (x : DdEnt) : (s.setDd n x).hubBuf = s.hubBuf := rfl
@[simp] theorem State.setDd_lend (n : Nat) (x : DdEnt) : (s.setDd n x).lend = s.lend := rfl
@[simp] theorem State.setDd_wings (n : Nat) (x : DdEnt) : (s.setDd n x).wings = s.wings := rfl
@[simp] theorem State.setDd_coh (n : Nat) (x : DdEnt) : (s.setDd n x).coh = s.coh := rfl
@[simp] theorem State.setDd_net (n : Nat) (x : DdEnt) : (s.setDd n x).net = s.net := rfl
@[simp] theorem State.setDd_dmem (n : Nat) (x : DdEnt) : (s.setDd n x).dmem = s.dmem := rfl
@[simp] theorem State.setDd_cas (n : Nat) (x : DdEnt) : (s.setDd n x).cas = s.cas := rfl
@[simp] theorem State.setDd_nic (n : Nat) (x : DdEnt) : (s.setDd n x).nic = s.nic := rfl
@[simp] theorem State.setDd_fns (n : Nat) (x : DdEnt) : (s.setDd n x).fns = s.fns := rfl
@[simp] theorem State.setDd_link (n : Nat) (x : DdEnt) : (s.setDd n x).link = s.link := rfl
@[simp] theorem State.setDd_cages (n : Nat) (x : DdEnt) : (s.setDd n x).cages = s.cages := rfl
@[simp] theorem State.setDd_cols (n : Nat) (x : DdEnt) : (s.setDd n x).cols = s.cols := rfl
@[simp] theorem State.setDd_flt (n : Nat) (x : DdEnt) : (s.setDd n x).flt = s.flt := rfl
@[simp] theorem State.setDd_evq (n : Nat) (x : DdEnt) : (s.setDd n x).evq = s.evq := rfl
@[simp] theorem State.setDd_dev (n : Nat) (x : DdEnt) : (s.setDd n x).dev = s.dev := rfl
@[simp] theorem State.setDd_arec (n : Nat) (x : DdEnt) : (s.setDd n x).arec = s.arec := rfl
@[simp] theorem State.setDd_pwr (n : Nat) (x : DdEnt) : (s.setDd n x).pwr = s.pwr := rfl
@[simp] theorem State.setDd_fw (n : Nat) (x : DdEnt) : (s.setDd n x).fw = s.fw := rfl
@[simp] theorem State.setDd_led (n : Nat) (x : DdEnt) : (s.setDd n x).led = s.led := rfl
@[simp] theorem State.setDd_fuses (n : Nat) (x : DdEnt) : (s.setDd n x).fuses = s.fuses := rfl
@[simp] theorem State.setDd_port (n : Nat) (x : DdEnt) : (s.setDd n x).port = s.port := rfl
@[simp] theorem State.setDd_nvm (n : Nat) (x : DdEnt) : (s.setDd n x).nvm = s.nvm := rfl
@[simp] theorem State.setDd_archSram (n : Nat) (x : DdEnt) : (s.setDd n x).archSram = s.archSram := rfl
@[simp] theorem State.setDd_time (n : Nat) (x : DdEnt) : (s.setDd n x).time = s.time := rfl
@[simp] theorem State.setDd_free (n : Nat) (x : DdEnt) : (s.setDd n x).free = s.free := rfl
@[simp] theorem State.setDd_out (n : Nat) (x : DdEnt) : (s.setDd n x).out = s.out := rfl
@[simp] theorem State.setDd_pending (n : Nat) (x : DdEnt) : (s.setDd n x).pending = s.pending := rfl
@[simp] theorem State.setDd_reg' (n : Nat) (x : DdEnt) (k' : RegKind) (j : Nat) : (s.setDd n x).reg k' j = s.reg k' j := rfl
@[simp] theorem State.setDd_g' (n : Nat) (x : DdEnt) (f' : Fld) (j : Nat) : (s.setDd n x).g f' j = s.g f' j := rfl
@[simp] theorem State.setDd_gb' (n : Nat) (x : DdEnt) (f' : Fld) (j : Nat) : (s.setDd n x).gb f' j = s.gb f' j := rfl
@[simp] theorem State.setDd_now' (n : Nat) (x : DdEnt)  : (s.setDd n x).now  = s.now  := rfl
@[simp] theorem State.setDd_slot' (n : Nat) (x : DdEnt) (j : Nat) : (s.setDd n x).slot j = s.slot j := rfl
@[simp] theorem State.setDd_carrel' (n : Nat) (x : DdEnt) (j : Nat) : (s.setDd n x).carrel j = s.carrel j := rfl
@[simp] theorem State.setDd_mem' (n : Nat) (x : DdEnt) (j : Nat) : (s.setDd n x).mem j = s.mem j := rfl
@[simp] theorem State.setDd_csOf' (n : Nat) (x : DdEnt) (j : Nat) : (s.setDd n x).csOf j = s.csOf j := rfl
@[simp] theorem State.setDd_slipOf' (n : Nat) (x : DdEnt) (j : Nat) : (s.setDd n x).slipOf j = s.slipOf j := rfl
@[simp] theorem State.setDd_queue' (n : Nat) (x : DdEnt) (j : Nat) : (s.setDd n x).queue j = s.queue j := rfl
@[simp] theorem State.setDd_xlOf' (n : Nat) (x : DdEnt) (j : Nat) : (s.setDd n x).xlOf j = s.xlOf j := rfl
@[simp] theorem State.setDd_lendOf' (n : Nat) (x : DdEnt) (j : Nat) : (s.setDd n x).lendOf j = s.lendOf j := rfl
@[simp] theorem State.setDd_fn' (n : Nat) (x : DdEnt) (j : Nat) : (s.setDd n x).fn j = s.fn j := rfl
@[simp] theorem State.setDd_cage' (n : Nat) (x : DdEnt) (j : Nat) : (s.setDd n x).cage j = s.cage j := rfl
@[simp] theorem State.setDd_col' (n : Nat) (x : DdEnt) (j : Nat) : (s.setDd n x).col j = s.col j := rfl
@[simp] theorem State.setDd_qpOf' (n : Nat) (x : DdEnt) (j : Nat) : (s.setDd n x).qpOf j = s.qpOf j := rfl
@[simp] theorem State.setDd_wing' (n : Nat) (x : DdEnt) (j : Nat) : (s.setDd n x).wing j = s.wing j := rfl
@[simp] theorem State.setDd_partCount' (n : Nat) (x : DdEnt)  : (s.setDd n x).partCount  = s.partCount  := rfl
@[simp] theorem State.setDd_part' (n : Nat) (x : DdEnt) (j : Nat) : (s.setDd n x).part j = s.part j := rfl
@[simp] theorem State.setDd_slotsOf' (n : Nat) (x : DdEnt) (j : Nat) : (s.setDd n x).slotsOf j = s.slotsOf j := rfl
@[simp] theorem State.setDd_partOf' (n : Nat) (x : DdEnt) (j : Nat) : (s.setDd n x).partOf j = s.partOf j := rfl
@[simp] theorem State.setDd_owns' (n : Nat) (x : DdEnt) (j m : Nat) : (s.setDd n x).owns j m = s.owns j m := rfl
@[simp] theorem State.setDd_fnOf' (n : Nat) (x : DdEnt) (j : Nat) : (s.setDd n x).fnOf j = s.fnOf j := rfl
@[simp] theorem State.setDd_phys' (n : Nat) (x : DdEnt) (j : Nat) : (s.setDd n x).phys j = s.phys j := rfl

/-! ### `setCs` -/

@[simp] theorem State.setCs_rf (n : Nat) (x : CsSt) : (s.setCs n x).rf = s.rf := rfl
@[simp] theorem State.setCs_car (n : Nat) (x : CsSt) : (s.setCs n x).car = s.car := rfl
@[simp] theorem State.setCs_store (n : Nat) (x : CsSt) : (s.setCs n x).store = s.store := rfl
@[simp] theorem State.setCs_slots (n : Nat) (x : CsSt) : (s.setCs n x).slots = s.slots := rfl
@[simp] theorem State.setCs_rels (n : Nat) (x : CsSt) : (s.setCs n x).rels = s.rels := rfl
@[simp] theorem State.setCs_starts (n : Nat) (x : CsSt) : (s.setCs n x).starts = s.starts := rfl
@[simp] theorem State.setCs_dd (n : Nat) (x : CsSt) : (s.setCs n x).dd = s.dd := rfl
@[simp] theorem State.setCs_stamp (n : Nat) (x : CsSt) : (s.setCs n x).stamp = s.stamp := rfl
@[simp] theorem State.setCs_slipFr (n : Nat) (x : CsSt) : (s.setCs n x).slipFr = s.slipFr := rfl
@[simp] theorem State.setCs_q (n : Nat) (x : CsSt) : (s.setCs n x).q = s.q := rfl
@[simp] theorem State.setCs_xl (n : Nat) (x : CsSt) : (s.setCs n x).xl = s.xl := rfl
@[simp] theorem State.setCs_hubBuf (n : Nat) (x : CsSt) : (s.setCs n x).hubBuf = s.hubBuf := rfl
@[simp] theorem State.setCs_lend (n : Nat) (x : CsSt) : (s.setCs n x).lend = s.lend := rfl
@[simp] theorem State.setCs_wings (n : Nat) (x : CsSt) : (s.setCs n x).wings = s.wings := rfl
@[simp] theorem State.setCs_coh (n : Nat) (x : CsSt) : (s.setCs n x).coh = s.coh := rfl
@[simp] theorem State.setCs_net (n : Nat) (x : CsSt) : (s.setCs n x).net = s.net := rfl
@[simp] theorem State.setCs_dmem (n : Nat) (x : CsSt) : (s.setCs n x).dmem = s.dmem := rfl
@[simp] theorem State.setCs_cas (n : Nat) (x : CsSt) : (s.setCs n x).cas = s.cas := rfl
@[simp] theorem State.setCs_nic (n : Nat) (x : CsSt) : (s.setCs n x).nic = s.nic := rfl
@[simp] theorem State.setCs_fns (n : Nat) (x : CsSt) : (s.setCs n x).fns = s.fns := rfl
@[simp] theorem State.setCs_link (n : Nat) (x : CsSt) : (s.setCs n x).link = s.link := rfl
@[simp] theorem State.setCs_cages (n : Nat) (x : CsSt) : (s.setCs n x).cages = s.cages := rfl
@[simp] theorem State.setCs_cols (n : Nat) (x : CsSt) : (s.setCs n x).cols = s.cols := rfl
@[simp] theorem State.setCs_flt (n : Nat) (x : CsSt) : (s.setCs n x).flt = s.flt := rfl
@[simp] theorem State.setCs_evq (n : Nat) (x : CsSt) : (s.setCs n x).evq = s.evq := rfl
@[simp] theorem State.setCs_dev (n : Nat) (x : CsSt) : (s.setCs n x).dev = s.dev := rfl
@[simp] theorem State.setCs_arec (n : Nat) (x : CsSt) : (s.setCs n x).arec = s.arec := rfl
@[simp] theorem State.setCs_pwr (n : Nat) (x : CsSt) : (s.setCs n x).pwr = s.pwr := rfl
@[simp] theorem State.setCs_fw (n : Nat) (x : CsSt) : (s.setCs n x).fw = s.fw := rfl
@[simp] theorem State.setCs_led (n : Nat) (x : CsSt) : (s.setCs n x).led = s.led := rfl
@[simp] theorem State.setCs_fuses (n : Nat) (x : CsSt) : (s.setCs n x).fuses = s.fuses := rfl
@[simp] theorem State.setCs_port (n : Nat) (x : CsSt) : (s.setCs n x).port = s.port := rfl
@[simp] theorem State.setCs_nvm (n : Nat) (x : CsSt) : (s.setCs n x).nvm = s.nvm := rfl
@[simp] theorem State.setCs_archSram (n : Nat) (x : CsSt) : (s.setCs n x).archSram = s.archSram := rfl
@[simp] theorem State.setCs_time (n : Nat) (x : CsSt) : (s.setCs n x).time = s.time := rfl
@[simp] theorem State.setCs_free (n : Nat) (x : CsSt) : (s.setCs n x).free = s.free := rfl
@[simp] theorem State.setCs_out (n : Nat) (x : CsSt) : (s.setCs n x).out = s.out := rfl
@[simp] theorem State.setCs_pending (n : Nat) (x : CsSt) : (s.setCs n x).pending = s.pending := rfl
@[simp] theorem State.setCs_reg' (n : Nat) (x : CsSt) (k' : RegKind) (j : Nat) : (s.setCs n x).reg k' j = s.reg k' j := rfl
@[simp] theorem State.setCs_g' (n : Nat) (x : CsSt) (f' : Fld) (j : Nat) : (s.setCs n x).g f' j = s.g f' j := rfl
@[simp] theorem State.setCs_gb' (n : Nat) (x : CsSt) (f' : Fld) (j : Nat) : (s.setCs n x).gb f' j = s.gb f' j := rfl
@[simp] theorem State.setCs_now' (n : Nat) (x : CsSt)  : (s.setCs n x).now  = s.now  := rfl
@[simp] theorem State.setCs_slot' (n : Nat) (x : CsSt) (j : Nat) : (s.setCs n x).slot j = s.slot j := rfl
@[simp] theorem State.setCs_carrel' (n : Nat) (x : CsSt) (j : Nat) : (s.setCs n x).carrel j = s.carrel j := rfl
@[simp] theorem State.setCs_mem' (n : Nat) (x : CsSt) (j : Nat) : (s.setCs n x).mem j = s.mem j := rfl
@[simp] theorem State.setCs_ddEnt' (n : Nat) (x : CsSt) (j : Nat) : (s.setCs n x).ddEnt j = s.ddEnt j := rfl
@[simp] theorem State.setCs_slipOf' (n : Nat) (x : CsSt) (j : Nat) : (s.setCs n x).slipOf j = s.slipOf j := rfl
@[simp] theorem State.setCs_queue' (n : Nat) (x : CsSt) (j : Nat) : (s.setCs n x).queue j = s.queue j := rfl
@[simp] theorem State.setCs_xlOf' (n : Nat) (x : CsSt) (j : Nat) : (s.setCs n x).xlOf j = s.xlOf j := rfl
@[simp] theorem State.setCs_lendOf' (n : Nat) (x : CsSt) (j : Nat) : (s.setCs n x).lendOf j = s.lendOf j := rfl
@[simp] theorem State.setCs_fn' (n : Nat) (x : CsSt) (j : Nat) : (s.setCs n x).fn j = s.fn j := rfl
@[simp] theorem State.setCs_cage' (n : Nat) (x : CsSt) (j : Nat) : (s.setCs n x).cage j = s.cage j := rfl
@[simp] theorem State.setCs_col' (n : Nat) (x : CsSt) (j : Nat) : (s.setCs n x).col j = s.col j := rfl
@[simp] theorem State.setCs_qpOf' (n : Nat) (x : CsSt) (j : Nat) : (s.setCs n x).qpOf j = s.qpOf j := rfl
@[simp] theorem State.setCs_wing' (n : Nat) (x : CsSt) (j : Nat) : (s.setCs n x).wing j = s.wing j := rfl
@[simp] theorem State.setCs_partCount' (n : Nat) (x : CsSt)  : (s.setCs n x).partCount  = s.partCount  := rfl
@[simp] theorem State.setCs_part' (n : Nat) (x : CsSt) (j : Nat) : (s.setCs n x).part j = s.part j := rfl
@[simp] theorem State.setCs_slotsOf' (n : Nat) (x : CsSt) (j : Nat) : (s.setCs n x).slotsOf j = s.slotsOf j := rfl
@[simp] theorem State.setCs_partOf' (n : Nat) (x : CsSt) (j : Nat) : (s.setCs n x).partOf j = s.partOf j := rfl
@[simp] theorem State.setCs_owns' (n : Nat) (x : CsSt) (j m : Nat) : (s.setCs n x).owns j m = s.owns j m := rfl
@[simp] theorem State.setCs_fnOf' (n : Nat) (x : CsSt) (j : Nat) : (s.setCs n x).fnOf j = s.fnOf j := rfl
@[simp] theorem State.setCs_phys' (n : Nat) (x : CsSt) (j : Nat) : (s.setCs n x).phys j = s.phys j := rfl

/-! ### `setSlip` -/

@[simp] theorem State.setSlip_rf (n : Nat) (x : SlipFr) : (s.setSlip n x).rf = s.rf := rfl
@[simp] theorem State.setSlip_car (n : Nat) (x : SlipFr) : (s.setSlip n x).car = s.car := rfl
@[simp] theorem State.setSlip_store (n : Nat) (x : SlipFr) : (s.setSlip n x).store = s.store := rfl
@[simp] theorem State.setSlip_slots (n : Nat) (x : SlipFr) : (s.setSlip n x).slots = s.slots := rfl
@[simp] theorem State.setSlip_rels (n : Nat) (x : SlipFr) : (s.setSlip n x).rels = s.rels := rfl
@[simp] theorem State.setSlip_starts (n : Nat) (x : SlipFr) : (s.setSlip n x).starts = s.starts := rfl
@[simp] theorem State.setSlip_dd (n : Nat) (x : SlipFr) : (s.setSlip n x).dd = s.dd := rfl
@[simp] theorem State.setSlip_stamp (n : Nat) (x : SlipFr) : (s.setSlip n x).stamp = s.stamp := rfl
@[simp] theorem State.setSlip_cs (n : Nat) (x : SlipFr) : (s.setSlip n x).cs = s.cs := rfl
@[simp] theorem State.setSlip_q (n : Nat) (x : SlipFr) : (s.setSlip n x).q = s.q := rfl
@[simp] theorem State.setSlip_xl (n : Nat) (x : SlipFr) : (s.setSlip n x).xl = s.xl := rfl
@[simp] theorem State.setSlip_hubBuf (n : Nat) (x : SlipFr) : (s.setSlip n x).hubBuf = s.hubBuf := rfl
@[simp] theorem State.setSlip_lend (n : Nat) (x : SlipFr) : (s.setSlip n x).lend = s.lend := rfl
@[simp] theorem State.setSlip_wings (n : Nat) (x : SlipFr) : (s.setSlip n x).wings = s.wings := rfl
@[simp] theorem State.setSlip_coh (n : Nat) (x : SlipFr) : (s.setSlip n x).coh = s.coh := rfl
@[simp] theorem State.setSlip_net (n : Nat) (x : SlipFr) : (s.setSlip n x).net = s.net := rfl
@[simp] theorem State.setSlip_dmem (n : Nat) (x : SlipFr) : (s.setSlip n x).dmem = s.dmem := rfl
@[simp] theorem State.setSlip_cas (n : Nat) (x : SlipFr) : (s.setSlip n x).cas = s.cas := rfl
@[simp] theorem State.setSlip_nic (n : Nat) (x : SlipFr) : (s.setSlip n x).nic = s.nic := rfl
@[simp] theorem State.setSlip_fns (n : Nat) (x : SlipFr) : (s.setSlip n x).fns = s.fns := rfl
@[simp] theorem State.setSlip_link (n : Nat) (x : SlipFr) : (s.setSlip n x).link = s.link := rfl
@[simp] theorem State.setSlip_cages (n : Nat) (x : SlipFr) : (s.setSlip n x).cages = s.cages := rfl
@[simp] theorem State.setSlip_cols (n : Nat) (x : SlipFr) : (s.setSlip n x).cols = s.cols := rfl
@[simp] theorem State.setSlip_flt (n : Nat) (x : SlipFr) : (s.setSlip n x).flt = s.flt := rfl
@[simp] theorem State.setSlip_evq (n : Nat) (x : SlipFr) : (s.setSlip n x).evq = s.evq := rfl
@[simp] theorem State.setSlip_dev (n : Nat) (x : SlipFr) : (s.setSlip n x).dev = s.dev := rfl
@[simp] theorem State.setSlip_arec (n : Nat) (x : SlipFr) : (s.setSlip n x).arec = s.arec := rfl
@[simp] theorem State.setSlip_pwr (n : Nat) (x : SlipFr) : (s.setSlip n x).pwr = s.pwr := rfl
@[simp] theorem State.setSlip_fw (n : Nat) (x : SlipFr) : (s.setSlip n x).fw = s.fw := rfl
@[simp] theorem State.setSlip_led (n : Nat) (x : SlipFr) : (s.setSlip n x).led = s.led := rfl
@[simp] theorem State.setSlip_fuses (n : Nat) (x : SlipFr) : (s.setSlip n x).fuses = s.fuses := rfl
@[simp] theorem State.setSlip_port (n : Nat) (x : SlipFr) : (s.setSlip n x).port = s.port := rfl
@[simp] theorem State.setSlip_nvm (n : Nat) (x : SlipFr) : (s.setSlip n x).nvm = s.nvm := rfl
@[simp] theorem State.setSlip_archSram (n : Nat) (x : SlipFr) : (s.setSlip n x).archSram = s.archSram := rfl
@[simp] theorem State.setSlip_time (n : Nat) (x : SlipFr) : (s.setSlip n x).time = s.time := rfl
@[simp] theorem State.setSlip_free (n : Nat) (x : SlipFr) : (s.setSlip n x).free = s.free := rfl
@[simp] theorem State.setSlip_out (n : Nat) (x : SlipFr) : (s.setSlip n x).out = s.out := rfl
@[simp] theorem State.setSlip_pending (n : Nat) (x : SlipFr) : (s.setSlip n x).pending = s.pending := rfl
@[simp] theorem State.setSlip_reg' (n : Nat) (x : SlipFr) (k' : RegKind) (j : Nat) : (s.setSlip n x).reg k' j = s.reg k' j := rfl
@[simp] theorem State.setSlip_g' (n : Nat) (x : SlipFr) (f' : Fld) (j : Nat) : (s.setSlip n x).g f' j = s.g f' j := rfl
@[simp] theorem State.setSlip_gb' (n : Nat) (x : SlipFr) (f' : Fld) (j : Nat) : (s.setSlip n x).gb f' j = s.gb f' j := rfl
@[simp] theorem State.setSlip_now' (n : Nat) (x : SlipFr)  : (s.setSlip n x).now  = s.now  := rfl
@[simp] theorem State.setSlip_slot' (n : Nat) (x : SlipFr) (j : Nat) : (s.setSlip n x).slot j = s.slot j := rfl
@[simp] theorem State.setSlip_carrel' (n : Nat) (x : SlipFr) (j : Nat) : (s.setSlip n x).carrel j = s.carrel j := rfl
@[simp] theorem State.setSlip_mem' (n : Nat) (x : SlipFr) (j : Nat) : (s.setSlip n x).mem j = s.mem j := rfl
@[simp] theorem State.setSlip_ddEnt' (n : Nat) (x : SlipFr) (j : Nat) : (s.setSlip n x).ddEnt j = s.ddEnt j := rfl
@[simp] theorem State.setSlip_csOf' (n : Nat) (x : SlipFr) (j : Nat) : (s.setSlip n x).csOf j = s.csOf j := rfl
@[simp] theorem State.setSlip_queue' (n : Nat) (x : SlipFr) (j : Nat) : (s.setSlip n x).queue j = s.queue j := rfl
@[simp] theorem State.setSlip_xlOf' (n : Nat) (x : SlipFr) (j : Nat) : (s.setSlip n x).xlOf j = s.xlOf j := rfl
@[simp] theorem State.setSlip_lendOf' (n : Nat) (x : SlipFr) (j : Nat) : (s.setSlip n x).lendOf j = s.lendOf j := rfl
@[simp] theorem State.setSlip_fn' (n : Nat) (x : SlipFr) (j : Nat) : (s.setSlip n x).fn j = s.fn j := rfl
@[simp] theorem State.setSlip_cage' (n : Nat) (x : SlipFr) (j : Nat) : (s.setSlip n x).cage j = s.cage j := rfl
@[simp] theorem State.setSlip_col' (n : Nat) (x : SlipFr) (j : Nat) : (s.setSlip n x).col j = s.col j := rfl
@[simp] theorem State.setSlip_qpOf' (n : Nat) (x : SlipFr) (j : Nat) : (s.setSlip n x).qpOf j = s.qpOf j := rfl
@[simp] theorem State.setSlip_wing' (n : Nat) (x : SlipFr) (j : Nat) : (s.setSlip n x).wing j = s.wing j := rfl
@[simp] theorem State.setSlip_partCount' (n : Nat) (x : SlipFr)  : (s.setSlip n x).partCount  = s.partCount  := rfl
@[simp] theorem State.setSlip_part' (n : Nat) (x : SlipFr) (j : Nat) : (s.setSlip n x).part j = s.part j := rfl
@[simp] theorem State.setSlip_slotsOf' (n : Nat) (x : SlipFr) (j : Nat) : (s.setSlip n x).slotsOf j = s.slotsOf j := rfl
@[simp] theorem State.setSlip_partOf' (n : Nat) (x : SlipFr) (j : Nat) : (s.setSlip n x).partOf j = s.partOf j := rfl
@[simp] theorem State.setSlip_owns' (n : Nat) (x : SlipFr) (j m : Nat) : (s.setSlip n x).owns j m = s.owns j m := rfl
@[simp] theorem State.setSlip_fnOf' (n : Nat) (x : SlipFr) (j : Nat) : (s.setSlip n x).fnOf j = s.fnOf j := rfl
@[simp] theorem State.setSlip_phys' (n : Nat) (x : SlipFr) (j : Nat) : (s.setSlip n x).phys j = s.phys j := rfl

/-! ### `setQueue` -/

@[simp] theorem State.setQueue_rf (n : Nat) (x : QSt) : (s.setQueue n x).rf = s.rf := rfl
@[simp] theorem State.setQueue_car (n : Nat) (x : QSt) : (s.setQueue n x).car = s.car := rfl
@[simp] theorem State.setQueue_store (n : Nat) (x : QSt) : (s.setQueue n x).store = s.store := rfl
@[simp] theorem State.setQueue_slots (n : Nat) (x : QSt) : (s.setQueue n x).slots = s.slots := rfl
@[simp] theorem State.setQueue_rels (n : Nat) (x : QSt) : (s.setQueue n x).rels = s.rels := rfl
@[simp] theorem State.setQueue_starts (n : Nat) (x : QSt) : (s.setQueue n x).starts = s.starts := rfl
@[simp] theorem State.setQueue_dd (n : Nat) (x : QSt) : (s.setQueue n x).dd = s.dd := rfl
@[simp] theorem State.setQueue_stamp (n : Nat) (x : QSt) : (s.setQueue n x).stamp = s.stamp := rfl
@[simp] theorem State.setQueue_cs (n : Nat) (x : QSt) : (s.setQueue n x).cs = s.cs := rfl
@[simp] theorem State.setQueue_slipFr (n : Nat) (x : QSt) : (s.setQueue n x).slipFr = s.slipFr := rfl
@[simp] theorem State.setQueue_xl (n : Nat) (x : QSt) : (s.setQueue n x).xl = s.xl := rfl
@[simp] theorem State.setQueue_hubBuf (n : Nat) (x : QSt) : (s.setQueue n x).hubBuf = s.hubBuf := rfl
@[simp] theorem State.setQueue_lend (n : Nat) (x : QSt) : (s.setQueue n x).lend = s.lend := rfl
@[simp] theorem State.setQueue_wings (n : Nat) (x : QSt) : (s.setQueue n x).wings = s.wings := rfl
@[simp] theorem State.setQueue_coh (n : Nat) (x : QSt) : (s.setQueue n x).coh = s.coh := rfl
@[simp] theorem State.setQueue_net (n : Nat) (x : QSt) : (s.setQueue n x).net = s.net := rfl
@[simp] theorem State.setQueue_dmem (n : Nat) (x : QSt) : (s.setQueue n x).dmem = s.dmem := rfl
@[simp] theorem State.setQueue_cas (n : Nat) (x : QSt) : (s.setQueue n x).cas = s.cas := rfl
@[simp] theorem State.setQueue_nic (n : Nat) (x : QSt) : (s.setQueue n x).nic = s.nic := rfl
@[simp] theorem State.setQueue_fns (n : Nat) (x : QSt) : (s.setQueue n x).fns = s.fns := rfl
@[simp] theorem State.setQueue_link (n : Nat) (x : QSt) : (s.setQueue n x).link = s.link := rfl
@[simp] theorem State.setQueue_cages (n : Nat) (x : QSt) : (s.setQueue n x).cages = s.cages := rfl
@[simp] theorem State.setQueue_cols (n : Nat) (x : QSt) : (s.setQueue n x).cols = s.cols := rfl
@[simp] theorem State.setQueue_flt (n : Nat) (x : QSt) : (s.setQueue n x).flt = s.flt := rfl
@[simp] theorem State.setQueue_evq (n : Nat) (x : QSt) : (s.setQueue n x).evq = s.evq := rfl
@[simp] theorem State.setQueue_dev (n : Nat) (x : QSt) : (s.setQueue n x).dev = s.dev := rfl
@[simp] theorem State.setQueue_arec (n : Nat) (x : QSt) : (s.setQueue n x).arec = s.arec := rfl
@[simp] theorem State.setQueue_pwr (n : Nat) (x : QSt) : (s.setQueue n x).pwr = s.pwr := rfl
@[simp] theorem State.setQueue_fw (n : Nat) (x : QSt) : (s.setQueue n x).fw = s.fw := rfl
@[simp] theorem State.setQueue_led (n : Nat) (x : QSt) : (s.setQueue n x).led = s.led := rfl
@[simp] theorem State.setQueue_fuses (n : Nat) (x : QSt) : (s.setQueue n x).fuses = s.fuses := rfl
@[simp] theorem State.setQueue_port (n : Nat) (x : QSt) : (s.setQueue n x).port = s.port := rfl
@[simp] theorem State.setQueue_nvm (n : Nat) (x : QSt) : (s.setQueue n x).nvm = s.nvm := rfl
@[simp] theorem State.setQueue_archSram (n : Nat) (x : QSt) : (s.setQueue n x).archSram = s.archSram := rfl
@[simp] theorem State.setQueue_time (n : Nat) (x : QSt) : (s.setQueue n x).time = s.time := rfl
@[simp] theorem State.setQueue_free (n : Nat) (x : QSt) : (s.setQueue n x).free = s.free := rfl
@[simp] theorem State.setQueue_out (n : Nat) (x : QSt) : (s.setQueue n x).out = s.out := rfl
@[simp] theorem State.setQueue_pending (n : Nat) (x : QSt) : (s.setQueue n x).pending = s.pending := rfl
@[simp] theorem State.setQueue_reg' (n : Nat) (x : QSt) (k' : RegKind) (j : Nat) : (s.setQueue n x).reg k' j = s.reg k' j := rfl
@[simp] theorem State.setQueue_g' (n : Nat) (x : QSt) (f' : Fld) (j : Nat) : (s.setQueue n x).g f' j = s.g f' j := rfl
@[simp] theorem State.setQueue_gb' (n : Nat) (x : QSt) (f' : Fld) (j : Nat) : (s.setQueue n x).gb f' j = s.gb f' j := rfl
@[simp] theorem State.setQueue_now' (n : Nat) (x : QSt)  : (s.setQueue n x).now  = s.now  := rfl
@[simp] theorem State.setQueue_slot' (n : Nat) (x : QSt) (j : Nat) : (s.setQueue n x).slot j = s.slot j := rfl
@[simp] theorem State.setQueue_carrel' (n : Nat) (x : QSt) (j : Nat) : (s.setQueue n x).carrel j = s.carrel j := rfl
@[simp] theorem State.setQueue_mem' (n : Nat) (x : QSt) (j : Nat) : (s.setQueue n x).mem j = s.mem j := rfl
@[simp] theorem State.setQueue_ddEnt' (n : Nat) (x : QSt) (j : Nat) : (s.setQueue n x).ddEnt j = s.ddEnt j := rfl
@[simp] theorem State.setQueue_csOf' (n : Nat) (x : QSt) (j : Nat) : (s.setQueue n x).csOf j = s.csOf j := rfl
@[simp] theorem State.setQueue_slipOf' (n : Nat) (x : QSt) (j : Nat) : (s.setQueue n x).slipOf j = s.slipOf j := rfl
@[simp] theorem State.setQueue_xlOf' (n : Nat) (x : QSt) (j : Nat) : (s.setQueue n x).xlOf j = s.xlOf j := rfl
@[simp] theorem State.setQueue_lendOf' (n : Nat) (x : QSt) (j : Nat) : (s.setQueue n x).lendOf j = s.lendOf j := rfl
@[simp] theorem State.setQueue_fn' (n : Nat) (x : QSt) (j : Nat) : (s.setQueue n x).fn j = s.fn j := rfl
@[simp] theorem State.setQueue_cage' (n : Nat) (x : QSt) (j : Nat) : (s.setQueue n x).cage j = s.cage j := rfl
@[simp] theorem State.setQueue_col' (n : Nat) (x : QSt) (j : Nat) : (s.setQueue n x).col j = s.col j := rfl
@[simp] theorem State.setQueue_qpOf' (n : Nat) (x : QSt) (j : Nat) : (s.setQueue n x).qpOf j = s.qpOf j := rfl
@[simp] theorem State.setQueue_wing' (n : Nat) (x : QSt) (j : Nat) : (s.setQueue n x).wing j = s.wing j := rfl
@[simp] theorem State.setQueue_partCount' (n : Nat) (x : QSt)  : (s.setQueue n x).partCount  = s.partCount  := rfl
@[simp] theorem State.setQueue_part' (n : Nat) (x : QSt) (j : Nat) : (s.setQueue n x).part j = s.part j := rfl
@[simp] theorem State.setQueue_slotsOf' (n : Nat) (x : QSt) (j : Nat) : (s.setQueue n x).slotsOf j = s.slotsOf j := rfl
@[simp] theorem State.setQueue_partOf' (n : Nat) (x : QSt) (j : Nat) : (s.setQueue n x).partOf j = s.partOf j := rfl
@[simp] theorem State.setQueue_owns' (n : Nat) (x : QSt) (j m : Nat) : (s.setQueue n x).owns j m = s.owns j m := rfl
@[simp] theorem State.setQueue_fnOf' (n : Nat) (x : QSt) (j : Nat) : (s.setQueue n x).fnOf j = s.fnOf j := rfl
@[simp] theorem State.setQueue_phys' (n : Nat) (x : QSt) (j : Nat) : (s.setQueue n x).phys j = s.phys j := rfl

/-! ### `setXl` -/

@[simp] theorem State.setXl_rf (n : Nat) (x : XlFn) : (s.setXl n x).rf = s.rf := rfl
@[simp] theorem State.setXl_car (n : Nat) (x : XlFn) : (s.setXl n x).car = s.car := rfl
@[simp] theorem State.setXl_store (n : Nat) (x : XlFn) : (s.setXl n x).store = s.store := rfl
@[simp] theorem State.setXl_slots (n : Nat) (x : XlFn) : (s.setXl n x).slots = s.slots := rfl
@[simp] theorem State.setXl_rels (n : Nat) (x : XlFn) : (s.setXl n x).rels = s.rels := rfl
@[simp] theorem State.setXl_starts (n : Nat) (x : XlFn) : (s.setXl n x).starts = s.starts := rfl
@[simp] theorem State.setXl_dd (n : Nat) (x : XlFn) : (s.setXl n x).dd = s.dd := rfl
@[simp] theorem State.setXl_stamp (n : Nat) (x : XlFn) : (s.setXl n x).stamp = s.stamp := rfl
@[simp] theorem State.setXl_cs (n : Nat) (x : XlFn) : (s.setXl n x).cs = s.cs := rfl
@[simp] theorem State.setXl_slipFr (n : Nat) (x : XlFn) : (s.setXl n x).slipFr = s.slipFr := rfl
@[simp] theorem State.setXl_q (n : Nat) (x : XlFn) : (s.setXl n x).q = s.q := rfl
@[simp] theorem State.setXl_hubBuf (n : Nat) (x : XlFn) : (s.setXl n x).hubBuf = s.hubBuf := rfl
@[simp] theorem State.setXl_lend (n : Nat) (x : XlFn) : (s.setXl n x).lend = s.lend := rfl
@[simp] theorem State.setXl_wings (n : Nat) (x : XlFn) : (s.setXl n x).wings = s.wings := rfl
@[simp] theorem State.setXl_coh (n : Nat) (x : XlFn) : (s.setXl n x).coh = s.coh := rfl
@[simp] theorem State.setXl_net (n : Nat) (x : XlFn) : (s.setXl n x).net = s.net := rfl
@[simp] theorem State.setXl_dmem (n : Nat) (x : XlFn) : (s.setXl n x).dmem = s.dmem := rfl
@[simp] theorem State.setXl_cas (n : Nat) (x : XlFn) : (s.setXl n x).cas = s.cas := rfl
@[simp] theorem State.setXl_nic (n : Nat) (x : XlFn) : (s.setXl n x).nic = s.nic := rfl
@[simp] theorem State.setXl_fns (n : Nat) (x : XlFn) : (s.setXl n x).fns = s.fns := rfl
@[simp] theorem State.setXl_link (n : Nat) (x : XlFn) : (s.setXl n x).link = s.link := rfl
@[simp] theorem State.setXl_cages (n : Nat) (x : XlFn) : (s.setXl n x).cages = s.cages := rfl
@[simp] theorem State.setXl_cols (n : Nat) (x : XlFn) : (s.setXl n x).cols = s.cols := rfl
@[simp] theorem State.setXl_flt (n : Nat) (x : XlFn) : (s.setXl n x).flt = s.flt := rfl
@[simp] theorem State.setXl_evq (n : Nat) (x : XlFn) : (s.setXl n x).evq = s.evq := rfl
@[simp] theorem State.setXl_dev (n : Nat) (x : XlFn) : (s.setXl n x).dev = s.dev := rfl
@[simp] theorem State.setXl_arec (n : Nat) (x : XlFn) : (s.setXl n x).arec = s.arec := rfl
@[simp] theorem State.setXl_pwr (n : Nat) (x : XlFn) : (s.setXl n x).pwr = s.pwr := rfl
@[simp] theorem State.setXl_fw (n : Nat) (x : XlFn) : (s.setXl n x).fw = s.fw := rfl
@[simp] theorem State.setXl_led (n : Nat) (x : XlFn) : (s.setXl n x).led = s.led := rfl
@[simp] theorem State.setXl_fuses (n : Nat) (x : XlFn) : (s.setXl n x).fuses = s.fuses := rfl
@[simp] theorem State.setXl_port (n : Nat) (x : XlFn) : (s.setXl n x).port = s.port := rfl
@[simp] theorem State.setXl_nvm (n : Nat) (x : XlFn) : (s.setXl n x).nvm = s.nvm := rfl
@[simp] theorem State.setXl_archSram (n : Nat) (x : XlFn) : (s.setXl n x).archSram = s.archSram := rfl
@[simp] theorem State.setXl_time (n : Nat) (x : XlFn) : (s.setXl n x).time = s.time := rfl
@[simp] theorem State.setXl_free (n : Nat) (x : XlFn) : (s.setXl n x).free = s.free := rfl
@[simp] theorem State.setXl_out (n : Nat) (x : XlFn) : (s.setXl n x).out = s.out := rfl
@[simp] theorem State.setXl_pending (n : Nat) (x : XlFn) : (s.setXl n x).pending = s.pending := rfl
@[simp] theorem State.setXl_reg' (n : Nat) (x : XlFn) (k' : RegKind) (j : Nat) : (s.setXl n x).reg k' j = s.reg k' j := rfl
@[simp] theorem State.setXl_g' (n : Nat) (x : XlFn) (f' : Fld) (j : Nat) : (s.setXl n x).g f' j = s.g f' j := rfl
@[simp] theorem State.setXl_gb' (n : Nat) (x : XlFn) (f' : Fld) (j : Nat) : (s.setXl n x).gb f' j = s.gb f' j := rfl
@[simp] theorem State.setXl_now' (n : Nat) (x : XlFn)  : (s.setXl n x).now  = s.now  := rfl
@[simp] theorem State.setXl_slot' (n : Nat) (x : XlFn) (j : Nat) : (s.setXl n x).slot j = s.slot j := rfl
@[simp] theorem State.setXl_carrel' (n : Nat) (x : XlFn) (j : Nat) : (s.setXl n x).carrel j = s.carrel j := rfl
@[simp] theorem State.setXl_mem' (n : Nat) (x : XlFn) (j : Nat) : (s.setXl n x).mem j = s.mem j := rfl
@[simp] theorem State.setXl_ddEnt' (n : Nat) (x : XlFn) (j : Nat) : (s.setXl n x).ddEnt j = s.ddEnt j := rfl
@[simp] theorem State.setXl_csOf' (n : Nat) (x : XlFn) (j : Nat) : (s.setXl n x).csOf j = s.csOf j := rfl
@[simp] theorem State.setXl_slipOf' (n : Nat) (x : XlFn) (j : Nat) : (s.setXl n x).slipOf j = s.slipOf j := rfl
@[simp] theorem State.setXl_queue' (n : Nat) (x : XlFn) (j : Nat) : (s.setXl n x).queue j = s.queue j := rfl
@[simp] theorem State.setXl_lendOf' (n : Nat) (x : XlFn) (j : Nat) : (s.setXl n x).lendOf j = s.lendOf j := rfl
@[simp] theorem State.setXl_fn' (n : Nat) (x : XlFn) (j : Nat) : (s.setXl n x).fn j = s.fn j := rfl
@[simp] theorem State.setXl_cage' (n : Nat) (x : XlFn) (j : Nat) : (s.setXl n x).cage j = s.cage j := rfl
@[simp] theorem State.setXl_col' (n : Nat) (x : XlFn) (j : Nat) : (s.setXl n x).col j = s.col j := rfl
@[simp] theorem State.setXl_qpOf' (n : Nat) (x : XlFn) (j : Nat) : (s.setXl n x).qpOf j = s.qpOf j := rfl
@[simp] theorem State.setXl_wing' (n : Nat) (x : XlFn) (j : Nat) : (s.setXl n x).wing j = s.wing j := rfl
@[simp] theorem State.setXl_partCount' (n : Nat) (x : XlFn)  : (s.setXl n x).partCount  = s.partCount  := rfl
@[simp] theorem State.setXl_part' (n : Nat) (x : XlFn) (j : Nat) : (s.setXl n x).part j = s.part j := rfl
@[simp] theorem State.setXl_slotsOf' (n : Nat) (x : XlFn) (j : Nat) : (s.setXl n x).slotsOf j = s.slotsOf j := rfl
@[simp] theorem State.setXl_partOf' (n : Nat) (x : XlFn) (j : Nat) : (s.setXl n x).partOf j = s.partOf j := rfl
@[simp] theorem State.setXl_owns' (n : Nat) (x : XlFn) (j m : Nat) : (s.setXl n x).owns j m = s.owns j m := rfl
@[simp] theorem State.setXl_fnOf' (n : Nat) (x : XlFn) (j : Nat) : (s.setXl n x).fnOf j = s.fnOf j := rfl
@[simp] theorem State.setXl_phys' (n : Nat) (x : XlFn) (j : Nat) : (s.setXl n x).phys j = s.phys j := rfl

/-! ### `setLend` -/

@[simp] theorem State.setLend_rf (n : Nat) (x : List LendEnt) : (s.setLend n x).rf = s.rf := rfl
@[simp] theorem State.setLend_car (n : Nat) (x : List LendEnt) : (s.setLend n x).car = s.car := rfl
@[simp] theorem State.setLend_store (n : Nat) (x : List LendEnt) : (s.setLend n x).store = s.store := rfl
@[simp] theorem State.setLend_slots (n : Nat) (x : List LendEnt) : (s.setLend n x).slots = s.slots := rfl
@[simp] theorem State.setLend_rels (n : Nat) (x : List LendEnt) : (s.setLend n x).rels = s.rels := rfl
@[simp] theorem State.setLend_starts (n : Nat) (x : List LendEnt) : (s.setLend n x).starts = s.starts := rfl
@[simp] theorem State.setLend_dd (n : Nat) (x : List LendEnt) : (s.setLend n x).dd = s.dd := rfl
@[simp] theorem State.setLend_stamp (n : Nat) (x : List LendEnt) : (s.setLend n x).stamp = s.stamp := rfl
@[simp] theorem State.setLend_cs (n : Nat) (x : List LendEnt) : (s.setLend n x).cs = s.cs := rfl
@[simp] theorem State.setLend_slipFr (n : Nat) (x : List LendEnt) : (s.setLend n x).slipFr = s.slipFr := rfl
@[simp] theorem State.setLend_q (n : Nat) (x : List LendEnt) : (s.setLend n x).q = s.q := rfl
@[simp] theorem State.setLend_xl (n : Nat) (x : List LendEnt) : (s.setLend n x).xl = s.xl := rfl
@[simp] theorem State.setLend_hubBuf (n : Nat) (x : List LendEnt) : (s.setLend n x).hubBuf = s.hubBuf := rfl
@[simp] theorem State.setLend_wings (n : Nat) (x : List LendEnt) : (s.setLend n x).wings = s.wings := rfl
@[simp] theorem State.setLend_coh (n : Nat) (x : List LendEnt) : (s.setLend n x).coh = s.coh := rfl
@[simp] theorem State.setLend_net (n : Nat) (x : List LendEnt) : (s.setLend n x).net = s.net := rfl
@[simp] theorem State.setLend_dmem (n : Nat) (x : List LendEnt) : (s.setLend n x).dmem = s.dmem := rfl
@[simp] theorem State.setLend_cas (n : Nat) (x : List LendEnt) : (s.setLend n x).cas = s.cas := rfl
@[simp] theorem State.setLend_nic (n : Nat) (x : List LendEnt) : (s.setLend n x).nic = s.nic := rfl
@[simp] theorem State.setLend_fns (n : Nat) (x : List LendEnt) : (s.setLend n x).fns = s.fns := rfl
@[simp] theorem State.setLend_link (n : Nat) (x : List LendEnt) : (s.setLend n x).link = s.link := rfl
@[simp] theorem State.setLend_cages (n : Nat) (x : List LendEnt) : (s.setLend n x).cages = s.cages := rfl
@[simp] theorem State.setLend_cols (n : Nat) (x : List LendEnt) : (s.setLend n x).cols = s.cols := rfl
@[simp] theorem State.setLend_flt (n : Nat) (x : List LendEnt) : (s.setLend n x).flt = s.flt := rfl
@[simp] theorem State.setLend_evq (n : Nat) (x : List LendEnt) : (s.setLend n x).evq = s.evq := rfl
@[simp] theorem State.setLend_dev (n : Nat) (x : List LendEnt) : (s.setLend n x).dev = s.dev := rfl
@[simp] theorem State.setLend_arec (n : Nat) (x : List LendEnt) : (s.setLend n x).arec = s.arec := rfl
@[simp] theorem State.setLend_pwr (n : Nat) (x : List LendEnt) : (s.setLend n x).pwr = s.pwr := rfl
@[simp] theorem State.setLend_fw (n : Nat) (x : List LendEnt) : (s.setLend n x).fw = s.fw := rfl
@[simp] theorem State.setLend_led (n : Nat) (x : List LendEnt) : (s.setLend n x).led = s.led := rfl
@[simp] theorem State.setLend_fuses (n : Nat) (x : List LendEnt) : (s.setLend n x).fuses = s.fuses := rfl
@[simp] theorem State.setLend_port (n : Nat) (x : List LendEnt) : (s.setLend n x).port = s.port := rfl
@[simp] theorem State.setLend_nvm (n : Nat) (x : List LendEnt) : (s.setLend n x).nvm = s.nvm := rfl
@[simp] theorem State.setLend_archSram (n : Nat) (x : List LendEnt) : (s.setLend n x).archSram = s.archSram := rfl
@[simp] theorem State.setLend_time (n : Nat) (x : List LendEnt) : (s.setLend n x).time = s.time := rfl
@[simp] theorem State.setLend_free (n : Nat) (x : List LendEnt) : (s.setLend n x).free = s.free := rfl
@[simp] theorem State.setLend_out (n : Nat) (x : List LendEnt) : (s.setLend n x).out = s.out := rfl
@[simp] theorem State.setLend_pending (n : Nat) (x : List LendEnt) : (s.setLend n x).pending = s.pending := rfl
@[simp] theorem State.setLend_reg' (n : Nat) (x : List LendEnt) (k' : RegKind) (j : Nat) : (s.setLend n x).reg k' j = s.reg k' j := rfl
@[simp] theorem State.setLend_g' (n : Nat) (x : List LendEnt) (f' : Fld) (j : Nat) : (s.setLend n x).g f' j = s.g f' j := rfl
@[simp] theorem State.setLend_gb' (n : Nat) (x : List LendEnt) (f' : Fld) (j : Nat) : (s.setLend n x).gb f' j = s.gb f' j := rfl
@[simp] theorem State.setLend_now' (n : Nat) (x : List LendEnt)  : (s.setLend n x).now  = s.now  := rfl
@[simp] theorem State.setLend_slot' (n : Nat) (x : List LendEnt) (j : Nat) : (s.setLend n x).slot j = s.slot j := rfl
@[simp] theorem State.setLend_carrel' (n : Nat) (x : List LendEnt) (j : Nat) : (s.setLend n x).carrel j = s.carrel j := rfl
@[simp] theorem State.setLend_mem' (n : Nat) (x : List LendEnt) (j : Nat) : (s.setLend n x).mem j = s.mem j := rfl
@[simp] theorem State.setLend_ddEnt' (n : Nat) (x : List LendEnt) (j : Nat) : (s.setLend n x).ddEnt j = s.ddEnt j := rfl
@[simp] theorem State.setLend_csOf' (n : Nat) (x : List LendEnt) (j : Nat) : (s.setLend n x).csOf j = s.csOf j := rfl
@[simp] theorem State.setLend_slipOf' (n : Nat) (x : List LendEnt) (j : Nat) : (s.setLend n x).slipOf j = s.slipOf j := rfl
@[simp] theorem State.setLend_queue' (n : Nat) (x : List LendEnt) (j : Nat) : (s.setLend n x).queue j = s.queue j := rfl
@[simp] theorem State.setLend_xlOf' (n : Nat) (x : List LendEnt) (j : Nat) : (s.setLend n x).xlOf j = s.xlOf j := rfl
@[simp] theorem State.setLend_fn' (n : Nat) (x : List LendEnt) (j : Nat) : (s.setLend n x).fn j = s.fn j := rfl
@[simp] theorem State.setLend_cage' (n : Nat) (x : List LendEnt) (j : Nat) : (s.setLend n x).cage j = s.cage j := rfl
@[simp] theorem State.setLend_col' (n : Nat) (x : List LendEnt) (j : Nat) : (s.setLend n x).col j = s.col j := rfl
@[simp] theorem State.setLend_qpOf' (n : Nat) (x : List LendEnt) (j : Nat) : (s.setLend n x).qpOf j = s.qpOf j := rfl
@[simp] theorem State.setLend_wing' (n : Nat) (x : List LendEnt) (j : Nat) : (s.setLend n x).wing j = s.wing j := rfl
@[simp] theorem State.setLend_partCount' (n : Nat) (x : List LendEnt)  : (s.setLend n x).partCount  = s.partCount  := rfl
@[simp] theorem State.setLend_part' (n : Nat) (x : List LendEnt) (j : Nat) : (s.setLend n x).part j = s.part j := rfl
@[simp] theorem State.setLend_slotsOf' (n : Nat) (x : List LendEnt) (j : Nat) : (s.setLend n x).slotsOf j = s.slotsOf j := rfl
@[simp] theorem State.setLend_partOf' (n : Nat) (x : List LendEnt) (j : Nat) : (s.setLend n x).partOf j = s.partOf j := rfl
@[simp] theorem State.setLend_owns' (n : Nat) (x : List LendEnt) (j m : Nat) : (s.setLend n x).owns j m = s.owns j m := rfl
@[simp] theorem State.setLend_fnOf' (n : Nat) (x : List LendEnt) (j : Nat) : (s.setLend n x).fnOf j = s.fnOf j := rfl
@[simp] theorem State.setLend_phys' (n : Nat) (x : List LendEnt) (j : Nat) : (s.setLend n x).phys j = s.phys j := rfl

/-! ### `setFn` -/

@[simp] theorem State.setFn_rf (n : Nat) (x : FnSt) : (s.setFn n x).rf = s.rf := rfl
@[simp] theorem State.setFn_car (n : Nat) (x : FnSt) : (s.setFn n x).car = s.car := rfl
@[simp] theorem State.setFn_store (n : Nat) (x : FnSt) : (s.setFn n x).store = s.store := rfl
@[simp] theorem State.setFn_slots (n : Nat) (x : FnSt) : (s.setFn n x).slots = s.slots := rfl
@[simp] theorem State.setFn_rels (n : Nat) (x : FnSt) : (s.setFn n x).rels = s.rels := rfl
@[simp] theorem State.setFn_starts (n : Nat) (x : FnSt) : (s.setFn n x).starts = s.starts := rfl
@[simp] theorem State.setFn_dd (n : Nat) (x : FnSt) : (s.setFn n x).dd = s.dd := rfl
@[simp] theorem State.setFn_stamp (n : Nat) (x : FnSt) : (s.setFn n x).stamp = s.stamp := rfl
@[simp] theorem State.setFn_cs (n : Nat) (x : FnSt) : (s.setFn n x).cs = s.cs := rfl
@[simp] theorem State.setFn_slipFr (n : Nat) (x : FnSt) : (s.setFn n x).slipFr = s.slipFr := rfl
@[simp] theorem State.setFn_q (n : Nat) (x : FnSt) : (s.setFn n x).q = s.q := rfl
@[simp] theorem State.setFn_xl (n : Nat) (x : FnSt) : (s.setFn n x).xl = s.xl := rfl
@[simp] theorem State.setFn_hubBuf (n : Nat) (x : FnSt) : (s.setFn n x).hubBuf = s.hubBuf := rfl
@[simp] theorem State.setFn_lend (n : Nat) (x : FnSt) : (s.setFn n x).lend = s.lend := rfl
@[simp] theorem State.setFn_wings (n : Nat) (x : FnSt) : (s.setFn n x).wings = s.wings := rfl
@[simp] theorem State.setFn_coh (n : Nat) (x : FnSt) : (s.setFn n x).coh = s.coh := rfl
@[simp] theorem State.setFn_net (n : Nat) (x : FnSt) : (s.setFn n x).net = s.net := rfl
@[simp] theorem State.setFn_dmem (n : Nat) (x : FnSt) : (s.setFn n x).dmem = s.dmem := rfl
@[simp] theorem State.setFn_cas (n : Nat) (x : FnSt) : (s.setFn n x).cas = s.cas := rfl
@[simp] theorem State.setFn_nic (n : Nat) (x : FnSt) : (s.setFn n x).nic = s.nic := rfl
@[simp] theorem State.setFn_link (n : Nat) (x : FnSt) : (s.setFn n x).link = s.link := rfl
@[simp] theorem State.setFn_cages (n : Nat) (x : FnSt) : (s.setFn n x).cages = s.cages := rfl
@[simp] theorem State.setFn_cols (n : Nat) (x : FnSt) : (s.setFn n x).cols = s.cols := rfl
@[simp] theorem State.setFn_flt (n : Nat) (x : FnSt) : (s.setFn n x).flt = s.flt := rfl
@[simp] theorem State.setFn_evq (n : Nat) (x : FnSt) : (s.setFn n x).evq = s.evq := rfl
@[simp] theorem State.setFn_dev (n : Nat) (x : FnSt) : (s.setFn n x).dev = s.dev := rfl
@[simp] theorem State.setFn_arec (n : Nat) (x : FnSt) : (s.setFn n x).arec = s.arec := rfl
@[simp] theorem State.setFn_pwr (n : Nat) (x : FnSt) : (s.setFn n x).pwr = s.pwr := rfl
@[simp] theorem State.setFn_fw (n : Nat) (x : FnSt) : (s.setFn n x).fw = s.fw := rfl
@[simp] theorem State.setFn_led (n : Nat) (x : FnSt) : (s.setFn n x).led = s.led := rfl
@[simp] theorem State.setFn_fuses (n : Nat) (x : FnSt) : (s.setFn n x).fuses = s.fuses := rfl
@[simp] theorem State.setFn_port (n : Nat) (x : FnSt) : (s.setFn n x).port = s.port := rfl
@[simp] theorem State.setFn_nvm (n : Nat) (x : FnSt) : (s.setFn n x).nvm = s.nvm := rfl
@[simp] theorem State.setFn_archSram (n : Nat) (x : FnSt) : (s.setFn n x).archSram = s.archSram := rfl
@[simp] theorem State.setFn_time (n : Nat) (x : FnSt) : (s.setFn n x).time = s.time := rfl
@[simp] theorem State.setFn_free (n : Nat) (x : FnSt) : (s.setFn n x).free = s.free := rfl
@[simp] theorem State.setFn_out (n : Nat) (x : FnSt) : (s.setFn n x).out = s.out := rfl
@[simp] theorem State.setFn_pending (n : Nat) (x : FnSt) : (s.setFn n x).pending = s.pending := rfl
@[simp] theorem State.setFn_reg' (n : Nat) (x : FnSt) (k' : RegKind) (j : Nat) : (s.setFn n x).reg k' j = s.reg k' j := rfl
@[simp] theorem State.setFn_g' (n : Nat) (x : FnSt) (f' : Fld) (j : Nat) : (s.setFn n x).g f' j = s.g f' j := rfl
@[simp] theorem State.setFn_gb' (n : Nat) (x : FnSt) (f' : Fld) (j : Nat) : (s.setFn n x).gb f' j = s.gb f' j := rfl
@[simp] theorem State.setFn_now' (n : Nat) (x : FnSt)  : (s.setFn n x).now  = s.now  := rfl
@[simp] theorem State.setFn_slot' (n : Nat) (x : FnSt) (j : Nat) : (s.setFn n x).slot j = s.slot j := rfl
@[simp] theorem State.setFn_carrel' (n : Nat) (x : FnSt) (j : Nat) : (s.setFn n x).carrel j = s.carrel j := rfl
@[simp] theorem State.setFn_mem' (n : Nat) (x : FnSt) (j : Nat) : (s.setFn n x).mem j = s.mem j := rfl
@[simp] theorem State.setFn_ddEnt' (n : Nat) (x : FnSt) (j : Nat) : (s.setFn n x).ddEnt j = s.ddEnt j := rfl
@[simp] theorem State.setFn_csOf' (n : Nat) (x : FnSt) (j : Nat) : (s.setFn n x).csOf j = s.csOf j := rfl
@[simp] theorem State.setFn_slipOf' (n : Nat) (x : FnSt) (j : Nat) : (s.setFn n x).slipOf j = s.slipOf j := rfl
@[simp] theorem State.setFn_queue' (n : Nat) (x : FnSt) (j : Nat) : (s.setFn n x).queue j = s.queue j := rfl
@[simp] theorem State.setFn_xlOf' (n : Nat) (x : FnSt) (j : Nat) : (s.setFn n x).xlOf j = s.xlOf j := rfl
@[simp] theorem State.setFn_lendOf' (n : Nat) (x : FnSt) (j : Nat) : (s.setFn n x).lendOf j = s.lendOf j := rfl
@[simp] theorem State.setFn_cage' (n : Nat) (x : FnSt) (j : Nat) : (s.setFn n x).cage j = s.cage j := rfl
@[simp] theorem State.setFn_col' (n : Nat) (x : FnSt) (j : Nat) : (s.setFn n x).col j = s.col j := rfl
@[simp] theorem State.setFn_qpOf' (n : Nat) (x : FnSt) (j : Nat) : (s.setFn n x).qpOf j = s.qpOf j := rfl
@[simp] theorem State.setFn_wing' (n : Nat) (x : FnSt) (j : Nat) : (s.setFn n x).wing j = s.wing j := rfl
@[simp] theorem State.setFn_partCount' (n : Nat) (x : FnSt)  : (s.setFn n x).partCount  = s.partCount  := rfl
@[simp] theorem State.setFn_part' (n : Nat) (x : FnSt) (j : Nat) : (s.setFn n x).part j = s.part j := rfl
@[simp] theorem State.setFn_slotsOf' (n : Nat) (x : FnSt) (j : Nat) : (s.setFn n x).slotsOf j = s.slotsOf j := rfl
@[simp] theorem State.setFn_partOf' (n : Nat) (x : FnSt) (j : Nat) : (s.setFn n x).partOf j = s.partOf j := rfl
@[simp] theorem State.setFn_owns' (n : Nat) (x : FnSt) (j m : Nat) : (s.setFn n x).owns j m = s.owns j m := rfl
@[simp] theorem State.setFn_fnOf' (n : Nat) (x : FnSt) (j : Nat) : (s.setFn n x).fnOf j = s.fnOf j := rfl
@[simp] theorem State.setFn_phys' (n : Nat) (x : FnSt) (j : Nat) : (s.setFn n x).phys j = s.phys j := rfl

/-! ### `setCage` -/

@[simp] theorem State.setCage_rf (n : Nat) (x : CageSt) : (s.setCage n x).rf = s.rf := rfl
@[simp] theorem State.setCage_car (n : Nat) (x : CageSt) : (s.setCage n x).car = s.car := rfl
@[simp] theorem State.setCage_store (n : Nat) (x : CageSt) : (s.setCage n x).store = s.store := rfl
@[simp] theorem State.setCage_slots (n : Nat) (x : CageSt) : (s.setCage n x).slots = s.slots := rfl
@[simp] theorem State.setCage_rels (n : Nat) (x : CageSt) : (s.setCage n x).rels = s.rels := rfl
@[simp] theorem State.setCage_starts (n : Nat) (x : CageSt) : (s.setCage n x).starts = s.starts := rfl
@[simp] theorem State.setCage_dd (n : Nat) (x : CageSt) : (s.setCage n x).dd = s.dd := rfl
@[simp] theorem State.setCage_stamp (n : Nat) (x : CageSt) : (s.setCage n x).stamp = s.stamp := rfl
@[simp] theorem State.setCage_cs (n : Nat) (x : CageSt) : (s.setCage n x).cs = s.cs := rfl
@[simp] theorem State.setCage_slipFr (n : Nat) (x : CageSt) : (s.setCage n x).slipFr = s.slipFr := rfl
@[simp] theorem State.setCage_q (n : Nat) (x : CageSt) : (s.setCage n x).q = s.q := rfl
@[simp] theorem State.setCage_xl (n : Nat) (x : CageSt) : (s.setCage n x).xl = s.xl := rfl
@[simp] theorem State.setCage_hubBuf (n : Nat) (x : CageSt) : (s.setCage n x).hubBuf = s.hubBuf := rfl
@[simp] theorem State.setCage_lend (n : Nat) (x : CageSt) : (s.setCage n x).lend = s.lend := rfl
@[simp] theorem State.setCage_wings (n : Nat) (x : CageSt) : (s.setCage n x).wings = s.wings := rfl
@[simp] theorem State.setCage_coh (n : Nat) (x : CageSt) : (s.setCage n x).coh = s.coh := rfl
@[simp] theorem State.setCage_net (n : Nat) (x : CageSt) : (s.setCage n x).net = s.net := rfl
@[simp] theorem State.setCage_dmem (n : Nat) (x : CageSt) : (s.setCage n x).dmem = s.dmem := rfl
@[simp] theorem State.setCage_cas (n : Nat) (x : CageSt) : (s.setCage n x).cas = s.cas := rfl
@[simp] theorem State.setCage_nic (n : Nat) (x : CageSt) : (s.setCage n x).nic = s.nic := rfl
@[simp] theorem State.setCage_fns (n : Nat) (x : CageSt) : (s.setCage n x).fns = s.fns := rfl
@[simp] theorem State.setCage_link (n : Nat) (x : CageSt) : (s.setCage n x).link = s.link := rfl
@[simp] theorem State.setCage_cols (n : Nat) (x : CageSt) : (s.setCage n x).cols = s.cols := rfl
@[simp] theorem State.setCage_flt (n : Nat) (x : CageSt) : (s.setCage n x).flt = s.flt := rfl
@[simp] theorem State.setCage_evq (n : Nat) (x : CageSt) : (s.setCage n x).evq = s.evq := rfl
@[simp] theorem State.setCage_dev (n : Nat) (x : CageSt) : (s.setCage n x).dev = s.dev := rfl
@[simp] theorem State.setCage_arec (n : Nat) (x : CageSt) : (s.setCage n x).arec = s.arec := rfl
@[simp] theorem State.setCage_pwr (n : Nat) (x : CageSt) : (s.setCage n x).pwr = s.pwr := rfl
@[simp] theorem State.setCage_fw (n : Nat) (x : CageSt) : (s.setCage n x).fw = s.fw := rfl
@[simp] theorem State.setCage_led (n : Nat) (x : CageSt) : (s.setCage n x).led = s.led := rfl
@[simp] theorem State.setCage_fuses (n : Nat) (x : CageSt) : (s.setCage n x).fuses = s.fuses := rfl
@[simp] theorem State.setCage_port (n : Nat) (x : CageSt) : (s.setCage n x).port = s.port := rfl
@[simp] theorem State.setCage_nvm (n : Nat) (x : CageSt) : (s.setCage n x).nvm = s.nvm := rfl
@[simp] theorem State.setCage_archSram (n : Nat) (x : CageSt) : (s.setCage n x).archSram = s.archSram := rfl
@[simp] theorem State.setCage_time (n : Nat) (x : CageSt) : (s.setCage n x).time = s.time := rfl
@[simp] theorem State.setCage_free (n : Nat) (x : CageSt) : (s.setCage n x).free = s.free := rfl
@[simp] theorem State.setCage_out (n : Nat) (x : CageSt) : (s.setCage n x).out = s.out := rfl
@[simp] theorem State.setCage_pending (n : Nat) (x : CageSt) : (s.setCage n x).pending = s.pending := rfl
@[simp] theorem State.setCage_reg' (n : Nat) (x : CageSt) (k' : RegKind) (j : Nat) : (s.setCage n x).reg k' j = s.reg k' j := rfl
@[simp] theorem State.setCage_g' (n : Nat) (x : CageSt) (f' : Fld) (j : Nat) : (s.setCage n x).g f' j = s.g f' j := rfl
@[simp] theorem State.setCage_gb' (n : Nat) (x : CageSt) (f' : Fld) (j : Nat) : (s.setCage n x).gb f' j = s.gb f' j := rfl
@[simp] theorem State.setCage_now' (n : Nat) (x : CageSt)  : (s.setCage n x).now  = s.now  := rfl
@[simp] theorem State.setCage_slot' (n : Nat) (x : CageSt) (j : Nat) : (s.setCage n x).slot j = s.slot j := rfl
@[simp] theorem State.setCage_carrel' (n : Nat) (x : CageSt) (j : Nat) : (s.setCage n x).carrel j = s.carrel j := rfl
@[simp] theorem State.setCage_mem' (n : Nat) (x : CageSt) (j : Nat) : (s.setCage n x).mem j = s.mem j := rfl
@[simp] theorem State.setCage_ddEnt' (n : Nat) (x : CageSt) (j : Nat) : (s.setCage n x).ddEnt j = s.ddEnt j := rfl
@[simp] theorem State.setCage_csOf' (n : Nat) (x : CageSt) (j : Nat) : (s.setCage n x).csOf j = s.csOf j := rfl
@[simp] theorem State.setCage_slipOf' (n : Nat) (x : CageSt) (j : Nat) : (s.setCage n x).slipOf j = s.slipOf j := rfl
@[simp] theorem State.setCage_queue' (n : Nat) (x : CageSt) (j : Nat) : (s.setCage n x).queue j = s.queue j := rfl
@[simp] theorem State.setCage_xlOf' (n : Nat) (x : CageSt) (j : Nat) : (s.setCage n x).xlOf j = s.xlOf j := rfl
@[simp] theorem State.setCage_lendOf' (n : Nat) (x : CageSt) (j : Nat) : (s.setCage n x).lendOf j = s.lendOf j := rfl
@[simp] theorem State.setCage_fn' (n : Nat) (x : CageSt) (j : Nat) : (s.setCage n x).fn j = s.fn j := rfl
@[simp] theorem State.setCage_col' (n : Nat) (x : CageSt) (j : Nat) : (s.setCage n x).col j = s.col j := rfl
@[simp] theorem State.setCage_qpOf' (n : Nat) (x : CageSt) (j : Nat) : (s.setCage n x).qpOf j = s.qpOf j := rfl
@[simp] theorem State.setCage_wing' (n : Nat) (x : CageSt) (j : Nat) : (s.setCage n x).wing j = s.wing j := rfl
@[simp] theorem State.setCage_partCount' (n : Nat) (x : CageSt)  : (s.setCage n x).partCount  = s.partCount  := rfl
@[simp] theorem State.setCage_part' (n : Nat) (x : CageSt) (j : Nat) : (s.setCage n x).part j = s.part j := rfl
@[simp] theorem State.setCage_slotsOf' (n : Nat) (x : CageSt) (j : Nat) : (s.setCage n x).slotsOf j = s.slotsOf j := rfl
@[simp] theorem State.setCage_partOf' (n : Nat) (x : CageSt) (j : Nat) : (s.setCage n x).partOf j = s.partOf j := rfl
@[simp] theorem State.setCage_owns' (n : Nat) (x : CageSt) (j m : Nat) : (s.setCage n x).owns j m = s.owns j m := rfl
@[simp] theorem State.setCage_fnOf' (n : Nat) (x : CageSt) (j : Nat) : (s.setCage n x).fnOf j = s.fnOf j := rfl
@[simp] theorem State.setCage_phys' (n : Nat) (x : CageSt) (j : Nat) : (s.setCage n x).phys j = s.phys j := rfl

/-! ### `setCol` -/

@[simp] theorem State.setCol_rf (n : Nat) (x : ColSt) : (s.setCol n x).rf = s.rf := rfl
@[simp] theorem State.setCol_car (n : Nat) (x : ColSt) : (s.setCol n x).car = s.car := rfl
@[simp] theorem State.setCol_store (n : Nat) (x : ColSt) : (s.setCol n x).store = s.store := rfl
@[simp] theorem State.setCol_slots (n : Nat) (x : ColSt) : (s.setCol n x).slots = s.slots := rfl
@[simp] theorem State.setCol_rels (n : Nat) (x : ColSt) : (s.setCol n x).rels = s.rels := rfl
@[simp] theorem State.setCol_starts (n : Nat) (x : ColSt) : (s.setCol n x).starts = s.starts := rfl
@[simp] theorem State.setCol_dd (n : Nat) (x : ColSt) : (s.setCol n x).dd = s.dd := rfl
@[simp] theorem State.setCol_stamp (n : Nat) (x : ColSt) : (s.setCol n x).stamp = s.stamp := rfl
@[simp] theorem State.setCol_cs (n : Nat) (x : ColSt) : (s.setCol n x).cs = s.cs := rfl
@[simp] theorem State.setCol_slipFr (n : Nat) (x : ColSt) : (s.setCol n x).slipFr = s.slipFr := rfl
@[simp] theorem State.setCol_q (n : Nat) (x : ColSt) : (s.setCol n x).q = s.q := rfl
@[simp] theorem State.setCol_xl (n : Nat) (x : ColSt) : (s.setCol n x).xl = s.xl := rfl
@[simp] theorem State.setCol_hubBuf (n : Nat) (x : ColSt) : (s.setCol n x).hubBuf = s.hubBuf := rfl
@[simp] theorem State.setCol_lend (n : Nat) (x : ColSt) : (s.setCol n x).lend = s.lend := rfl
@[simp] theorem State.setCol_wings (n : Nat) (x : ColSt) : (s.setCol n x).wings = s.wings := rfl
@[simp] theorem State.setCol_coh (n : Nat) (x : ColSt) : (s.setCol n x).coh = s.coh := rfl
@[simp] theorem State.setCol_net (n : Nat) (x : ColSt) : (s.setCol n x).net = s.net := rfl
@[simp] theorem State.setCol_dmem (n : Nat) (x : ColSt) : (s.setCol n x).dmem = s.dmem := rfl
@[simp] theorem State.setCol_cas (n : Nat) (x : ColSt) : (s.setCol n x).cas = s.cas := rfl
@[simp] theorem State.setCol_nic (n : Nat) (x : ColSt) : (s.setCol n x).nic = s.nic := rfl
@[simp] theorem State.setCol_fns (n : Nat) (x : ColSt) : (s.setCol n x).fns = s.fns := rfl
@[simp] theorem State.setCol_link (n : Nat) (x : ColSt) : (s.setCol n x).link = s.link := rfl
@[simp] theorem State.setCol_cages (n : Nat) (x : ColSt) : (s.setCol n x).cages = s.cages := rfl
@[simp] theorem State.setCol_flt (n : Nat) (x : ColSt) : (s.setCol n x).flt = s.flt := rfl
@[simp] theorem State.setCol_evq (n : Nat) (x : ColSt) : (s.setCol n x).evq = s.evq := rfl
@[simp] theorem State.setCol_dev (n : Nat) (x : ColSt) : (s.setCol n x).dev = s.dev := rfl
@[simp] theorem State.setCol_arec (n : Nat) (x : ColSt) : (s.setCol n x).arec = s.arec := rfl
@[simp] theorem State.setCol_pwr (n : Nat) (x : ColSt) : (s.setCol n x).pwr = s.pwr := rfl
@[simp] theorem State.setCol_fw (n : Nat) (x : ColSt) : (s.setCol n x).fw = s.fw := rfl
@[simp] theorem State.setCol_led (n : Nat) (x : ColSt) : (s.setCol n x).led = s.led := rfl
@[simp] theorem State.setCol_fuses (n : Nat) (x : ColSt) : (s.setCol n x).fuses = s.fuses := rfl
@[simp] theorem State.setCol_port (n : Nat) (x : ColSt) : (s.setCol n x).port = s.port := rfl
@[simp] theorem State.setCol_nvm (n : Nat) (x : ColSt) : (s.setCol n x).nvm = s.nvm := rfl
@[simp] theorem State.setCol_archSram (n : Nat) (x : ColSt) : (s.setCol n x).archSram = s.archSram := rfl
@[simp] theorem State.setCol_time (n : Nat) (x : ColSt) : (s.setCol n x).time = s.time := rfl
@[simp] theorem State.setCol_free (n : Nat) (x : ColSt) : (s.setCol n x).free = s.free := rfl
@[simp] theorem State.setCol_out (n : Nat) (x : ColSt) : (s.setCol n x).out = s.out := rfl
@[simp] theorem State.setCol_pending (n : Nat) (x : ColSt) : (s.setCol n x).pending = s.pending := rfl
@[simp] theorem State.setCol_reg' (n : Nat) (x : ColSt) (k' : RegKind) (j : Nat) : (s.setCol n x).reg k' j = s.reg k' j := rfl
@[simp] theorem State.setCol_g' (n : Nat) (x : ColSt) (f' : Fld) (j : Nat) : (s.setCol n x).g f' j = s.g f' j := rfl
@[simp] theorem State.setCol_gb' (n : Nat) (x : ColSt) (f' : Fld) (j : Nat) : (s.setCol n x).gb f' j = s.gb f' j := rfl
@[simp] theorem State.setCol_now' (n : Nat) (x : ColSt)  : (s.setCol n x).now  = s.now  := rfl
@[simp] theorem State.setCol_slot' (n : Nat) (x : ColSt) (j : Nat) : (s.setCol n x).slot j = s.slot j := rfl
@[simp] theorem State.setCol_carrel' (n : Nat) (x : ColSt) (j : Nat) : (s.setCol n x).carrel j = s.carrel j := rfl
@[simp] theorem State.setCol_mem' (n : Nat) (x : ColSt) (j : Nat) : (s.setCol n x).mem j = s.mem j := rfl
@[simp] theorem State.setCol_ddEnt' (n : Nat) (x : ColSt) (j : Nat) : (s.setCol n x).ddEnt j = s.ddEnt j := rfl
@[simp] theorem State.setCol_csOf' (n : Nat) (x : ColSt) (j : Nat) : (s.setCol n x).csOf j = s.csOf j := rfl
@[simp] theorem State.setCol_slipOf' (n : Nat) (x : ColSt) (j : Nat) : (s.setCol n x).slipOf j = s.slipOf j := rfl
@[simp] theorem State.setCol_queue' (n : Nat) (x : ColSt) (j : Nat) : (s.setCol n x).queue j = s.queue j := rfl
@[simp] theorem State.setCol_xlOf' (n : Nat) (x : ColSt) (j : Nat) : (s.setCol n x).xlOf j = s.xlOf j := rfl
@[simp] theorem State.setCol_lendOf' (n : Nat) (x : ColSt) (j : Nat) : (s.setCol n x).lendOf j = s.lendOf j := rfl
@[simp] theorem State.setCol_fn' (n : Nat) (x : ColSt) (j : Nat) : (s.setCol n x).fn j = s.fn j := rfl
@[simp] theorem State.setCol_cage' (n : Nat) (x : ColSt) (j : Nat) : (s.setCol n x).cage j = s.cage j := rfl
@[simp] theorem State.setCol_qpOf' (n : Nat) (x : ColSt) (j : Nat) : (s.setCol n x).qpOf j = s.qpOf j := rfl
@[simp] theorem State.setCol_wing' (n : Nat) (x : ColSt) (j : Nat) : (s.setCol n x).wing j = s.wing j := rfl
@[simp] theorem State.setCol_partCount' (n : Nat) (x : ColSt)  : (s.setCol n x).partCount  = s.partCount  := rfl
@[simp] theorem State.setCol_part' (n : Nat) (x : ColSt) (j : Nat) : (s.setCol n x).part j = s.part j := rfl
@[simp] theorem State.setCol_slotsOf' (n : Nat) (x : ColSt) (j : Nat) : (s.setCol n x).slotsOf j = s.slotsOf j := rfl
@[simp] theorem State.setCol_partOf' (n : Nat) (x : ColSt) (j : Nat) : (s.setCol n x).partOf j = s.partOf j := rfl
@[simp] theorem State.setCol_owns' (n : Nat) (x : ColSt) (j m : Nat) : (s.setCol n x).owns j m = s.owns j m := rfl
@[simp] theorem State.setCol_fnOf' (n : Nat) (x : ColSt) (j : Nat) : (s.setCol n x).fnOf j = s.fnOf j := rfl
@[simp] theorem State.setCol_phys' (n : Nat) (x : ColSt) (j : Nat) : (s.setCol n x).phys j = s.phys j := rfl

/-! ### `setQp` -/

@[simp] theorem State.setQp_rf (n : Nat) (x : QpSt) : (s.setQp n x).rf = s.rf := rfl
@[simp] theorem State.setQp_car (n : Nat) (x : QpSt) : (s.setQp n x).car = s.car := rfl
@[simp] theorem State.setQp_store (n : Nat) (x : QpSt) : (s.setQp n x).store = s.store := rfl
@[simp] theorem State.setQp_slots (n : Nat) (x : QpSt) : (s.setQp n x).slots = s.slots := rfl
@[simp] theorem State.setQp_rels (n : Nat) (x : QpSt) : (s.setQp n x).rels = s.rels := rfl
@[simp] theorem State.setQp_starts (n : Nat) (x : QpSt) : (s.setQp n x).starts = s.starts := rfl
@[simp] theorem State.setQp_dd (n : Nat) (x : QpSt) : (s.setQp n x).dd = s.dd := rfl
@[simp] theorem State.setQp_stamp (n : Nat) (x : QpSt) : (s.setQp n x).stamp = s.stamp := rfl
@[simp] theorem State.setQp_cs (n : Nat) (x : QpSt) : (s.setQp n x).cs = s.cs := rfl
@[simp] theorem State.setQp_slipFr (n : Nat) (x : QpSt) : (s.setQp n x).slipFr = s.slipFr := rfl
@[simp] theorem State.setQp_q (n : Nat) (x : QpSt) : (s.setQp n x).q = s.q := rfl
@[simp] theorem State.setQp_xl (n : Nat) (x : QpSt) : (s.setQp n x).xl = s.xl := rfl
@[simp] theorem State.setQp_hubBuf (n : Nat) (x : QpSt) : (s.setQp n x).hubBuf = s.hubBuf := rfl
@[simp] theorem State.setQp_lend (n : Nat) (x : QpSt) : (s.setQp n x).lend = s.lend := rfl
@[simp] theorem State.setQp_wings (n : Nat) (x : QpSt) : (s.setQp n x).wings = s.wings := rfl
@[simp] theorem State.setQp_coh (n : Nat) (x : QpSt) : (s.setQp n x).coh = s.coh := rfl
@[simp] theorem State.setQp_net (n : Nat) (x : QpSt) : (s.setQp n x).net = s.net := rfl
@[simp] theorem State.setQp_dmem (n : Nat) (x : QpSt) : (s.setQp n x).dmem = s.dmem := rfl
@[simp] theorem State.setQp_cas (n : Nat) (x : QpSt) : (s.setQp n x).cas = s.cas := rfl
@[simp] theorem State.setQp_fns (n : Nat) (x : QpSt) : (s.setQp n x).fns = s.fns := rfl
@[simp] theorem State.setQp_link (n : Nat) (x : QpSt) : (s.setQp n x).link = s.link := rfl
@[simp] theorem State.setQp_cages (n : Nat) (x : QpSt) : (s.setQp n x).cages = s.cages := rfl
@[simp] theorem State.setQp_cols (n : Nat) (x : QpSt) : (s.setQp n x).cols = s.cols := rfl
@[simp] theorem State.setQp_flt (n : Nat) (x : QpSt) : (s.setQp n x).flt = s.flt := rfl
@[simp] theorem State.setQp_evq (n : Nat) (x : QpSt) : (s.setQp n x).evq = s.evq := rfl
@[simp] theorem State.setQp_dev (n : Nat) (x : QpSt) : (s.setQp n x).dev = s.dev := rfl
@[simp] theorem State.setQp_arec (n : Nat) (x : QpSt) : (s.setQp n x).arec = s.arec := rfl
@[simp] theorem State.setQp_pwr (n : Nat) (x : QpSt) : (s.setQp n x).pwr = s.pwr := rfl
@[simp] theorem State.setQp_fw (n : Nat) (x : QpSt) : (s.setQp n x).fw = s.fw := rfl
@[simp] theorem State.setQp_led (n : Nat) (x : QpSt) : (s.setQp n x).led = s.led := rfl
@[simp] theorem State.setQp_fuses (n : Nat) (x : QpSt) : (s.setQp n x).fuses = s.fuses := rfl
@[simp] theorem State.setQp_port (n : Nat) (x : QpSt) : (s.setQp n x).port = s.port := rfl
@[simp] theorem State.setQp_nvm (n : Nat) (x : QpSt) : (s.setQp n x).nvm = s.nvm := rfl
@[simp] theorem State.setQp_archSram (n : Nat) (x : QpSt) : (s.setQp n x).archSram = s.archSram := rfl
@[simp] theorem State.setQp_time (n : Nat) (x : QpSt) : (s.setQp n x).time = s.time := rfl
@[simp] theorem State.setQp_free (n : Nat) (x : QpSt) : (s.setQp n x).free = s.free := rfl
@[simp] theorem State.setQp_out (n : Nat) (x : QpSt) : (s.setQp n x).out = s.out := rfl
@[simp] theorem State.setQp_pending (n : Nat) (x : QpSt) : (s.setQp n x).pending = s.pending := rfl
@[simp] theorem State.setQp_reg' (n : Nat) (x : QpSt) (k' : RegKind) (j : Nat) : (s.setQp n x).reg k' j = s.reg k' j := rfl
@[simp] theorem State.setQp_g' (n : Nat) (x : QpSt) (f' : Fld) (j : Nat) : (s.setQp n x).g f' j = s.g f' j := rfl
@[simp] theorem State.setQp_gb' (n : Nat) (x : QpSt) (f' : Fld) (j : Nat) : (s.setQp n x).gb f' j = s.gb f' j := rfl
@[simp] theorem State.setQp_now' (n : Nat) (x : QpSt)  : (s.setQp n x).now  = s.now  := rfl
@[simp] theorem State.setQp_slot' (n : Nat) (x : QpSt) (j : Nat) : (s.setQp n x).slot j = s.slot j := rfl
@[simp] theorem State.setQp_carrel' (n : Nat) (x : QpSt) (j : Nat) : (s.setQp n x).carrel j = s.carrel j := rfl
@[simp] theorem State.setQp_mem' (n : Nat) (x : QpSt) (j : Nat) : (s.setQp n x).mem j = s.mem j := rfl
@[simp] theorem State.setQp_ddEnt' (n : Nat) (x : QpSt) (j : Nat) : (s.setQp n x).ddEnt j = s.ddEnt j := rfl
@[simp] theorem State.setQp_csOf' (n : Nat) (x : QpSt) (j : Nat) : (s.setQp n x).csOf j = s.csOf j := rfl
@[simp] theorem State.setQp_slipOf' (n : Nat) (x : QpSt) (j : Nat) : (s.setQp n x).slipOf j = s.slipOf j := rfl
@[simp] theorem State.setQp_queue' (n : Nat) (x : QpSt) (j : Nat) : (s.setQp n x).queue j = s.queue j := rfl
@[simp] theorem State.setQp_xlOf' (n : Nat) (x : QpSt) (j : Nat) : (s.setQp n x).xlOf j = s.xlOf j := rfl
@[simp] theorem State.setQp_lendOf' (n : Nat) (x : QpSt) (j : Nat) : (s.setQp n x).lendOf j = s.lendOf j := rfl
@[simp] theorem State.setQp_fn' (n : Nat) (x : QpSt) (j : Nat) : (s.setQp n x).fn j = s.fn j := rfl
@[simp] theorem State.setQp_cage' (n : Nat) (x : QpSt) (j : Nat) : (s.setQp n x).cage j = s.cage j := rfl
@[simp] theorem State.setQp_col' (n : Nat) (x : QpSt) (j : Nat) : (s.setQp n x).col j = s.col j := rfl
@[simp] theorem State.setQp_wing' (n : Nat) (x : QpSt) (j : Nat) : (s.setQp n x).wing j = s.wing j := rfl
@[simp] theorem State.setQp_partCount' (n : Nat) (x : QpSt)  : (s.setQp n x).partCount  = s.partCount  := rfl
@[simp] theorem State.setQp_part' (n : Nat) (x : QpSt) (j : Nat) : (s.setQp n x).part j = s.part j := rfl
@[simp] theorem State.setQp_slotsOf' (n : Nat) (x : QpSt) (j : Nat) : (s.setQp n x).slotsOf j = s.slotsOf j := rfl
@[simp] theorem State.setQp_partOf' (n : Nat) (x : QpSt) (j : Nat) : (s.setQp n x).partOf j = s.partOf j := rfl
@[simp] theorem State.setQp_owns' (n : Nat) (x : QpSt) (j m : Nat) : (s.setQp n x).owns j m = s.owns j m := rfl
@[simp] theorem State.setQp_fnOf' (n : Nat) (x : QpSt) (j : Nat) : (s.setQp n x).fnOf j = s.fnOf j := rfl
@[simp] theorem State.setQp_phys' (n : Nat) (x : QpSt) (j : Nat) : (s.setQp n x).phys j = s.phys j := rfl

/-! ### `setWing` -/

@[simp] theorem State.setWing_rf (n : Nat) (x : WingSt) : (s.setWing n x).rf = s.rf := rfl
@[simp] theorem State.setWing_car (n : Nat) (x : WingSt) : (s.setWing n x).car = s.car := rfl
@[simp] theorem State.setWing_store (n : Nat) (x : WingSt) : (s.setWing n x).store = s.store := rfl
@[simp] theorem State.setWing_slots (n : Nat) (x : WingSt) : (s.setWing n x).slots = s.slots := rfl
@[simp] theorem State.setWing_rels (n : Nat) (x : WingSt) : (s.setWing n x).rels = s.rels := rfl
@[simp] theorem State.setWing_starts (n : Nat) (x : WingSt) : (s.setWing n x).starts = s.starts := rfl
@[simp] theorem State.setWing_dd (n : Nat) (x : WingSt) : (s.setWing n x).dd = s.dd := rfl
@[simp] theorem State.setWing_stamp (n : Nat) (x : WingSt) : (s.setWing n x).stamp = s.stamp := rfl
@[simp] theorem State.setWing_cs (n : Nat) (x : WingSt) : (s.setWing n x).cs = s.cs := rfl
@[simp] theorem State.setWing_slipFr (n : Nat) (x : WingSt) : (s.setWing n x).slipFr = s.slipFr := rfl
@[simp] theorem State.setWing_q (n : Nat) (x : WingSt) : (s.setWing n x).q = s.q := rfl
@[simp] theorem State.setWing_xl (n : Nat) (x : WingSt) : (s.setWing n x).xl = s.xl := rfl
@[simp] theorem State.setWing_hubBuf (n : Nat) (x : WingSt) : (s.setWing n x).hubBuf = s.hubBuf := rfl
@[simp] theorem State.setWing_lend (n : Nat) (x : WingSt) : (s.setWing n x).lend = s.lend := rfl
@[simp] theorem State.setWing_coh (n : Nat) (x : WingSt) : (s.setWing n x).coh = s.coh := rfl
@[simp] theorem State.setWing_net (n : Nat) (x : WingSt) : (s.setWing n x).net = s.net := rfl
@[simp] theorem State.setWing_dmem (n : Nat) (x : WingSt) : (s.setWing n x).dmem = s.dmem := rfl
@[simp] theorem State.setWing_cas (n : Nat) (x : WingSt) : (s.setWing n x).cas = s.cas := rfl
@[simp] theorem State.setWing_nic (n : Nat) (x : WingSt) : (s.setWing n x).nic = s.nic := rfl
@[simp] theorem State.setWing_fns (n : Nat) (x : WingSt) : (s.setWing n x).fns = s.fns := rfl
@[simp] theorem State.setWing_link (n : Nat) (x : WingSt) : (s.setWing n x).link = s.link := rfl
@[simp] theorem State.setWing_cages (n : Nat) (x : WingSt) : (s.setWing n x).cages = s.cages := rfl
@[simp] theorem State.setWing_cols (n : Nat) (x : WingSt) : (s.setWing n x).cols = s.cols := rfl
@[simp] theorem State.setWing_flt (n : Nat) (x : WingSt) : (s.setWing n x).flt = s.flt := rfl
@[simp] theorem State.setWing_evq (n : Nat) (x : WingSt) : (s.setWing n x).evq = s.evq := rfl
@[simp] theorem State.setWing_dev (n : Nat) (x : WingSt) : (s.setWing n x).dev = s.dev := rfl
@[simp] theorem State.setWing_arec (n : Nat) (x : WingSt) : (s.setWing n x).arec = s.arec := rfl
@[simp] theorem State.setWing_pwr (n : Nat) (x : WingSt) : (s.setWing n x).pwr = s.pwr := rfl
@[simp] theorem State.setWing_fw (n : Nat) (x : WingSt) : (s.setWing n x).fw = s.fw := rfl
@[simp] theorem State.setWing_led (n : Nat) (x : WingSt) : (s.setWing n x).led = s.led := rfl
@[simp] theorem State.setWing_fuses (n : Nat) (x : WingSt) : (s.setWing n x).fuses = s.fuses := rfl
@[simp] theorem State.setWing_port (n : Nat) (x : WingSt) : (s.setWing n x).port = s.port := rfl
@[simp] theorem State.setWing_nvm (n : Nat) (x : WingSt) : (s.setWing n x).nvm = s.nvm := rfl
@[simp] theorem State.setWing_archSram (n : Nat) (x : WingSt) : (s.setWing n x).archSram = s.archSram := rfl
@[simp] theorem State.setWing_time (n : Nat) (x : WingSt) : (s.setWing n x).time = s.time := rfl
@[simp] theorem State.setWing_free (n : Nat) (x : WingSt) : (s.setWing n x).free = s.free := rfl
@[simp] theorem State.setWing_out (n : Nat) (x : WingSt) : (s.setWing n x).out = s.out := rfl
@[simp] theorem State.setWing_pending (n : Nat) (x : WingSt) : (s.setWing n x).pending = s.pending := rfl
@[simp] theorem State.setWing_reg' (n : Nat) (x : WingSt) (k' : RegKind) (j : Nat) : (s.setWing n x).reg k' j = s.reg k' j := rfl
@[simp] theorem State.setWing_g' (n : Nat) (x : WingSt) (f' : Fld) (j : Nat) : (s.setWing n x).g f' j = s.g f' j := rfl
@[simp] theorem State.setWing_gb' (n : Nat) (x : WingSt) (f' : Fld) (j : Nat) : (s.setWing n x).gb f' j = s.gb f' j := rfl
@[simp] theorem State.setWing_now' (n : Nat) (x : WingSt)  : (s.setWing n x).now  = s.now  := rfl
@[simp] theorem State.setWing_slot' (n : Nat) (x : WingSt) (j : Nat) : (s.setWing n x).slot j = s.slot j := rfl
@[simp] theorem State.setWing_carrel' (n : Nat) (x : WingSt) (j : Nat) : (s.setWing n x).carrel j = s.carrel j := rfl
@[simp] theorem State.setWing_mem' (n : Nat) (x : WingSt) (j : Nat) : (s.setWing n x).mem j = s.mem j := rfl
@[simp] theorem State.setWing_ddEnt' (n : Nat) (x : WingSt) (j : Nat) : (s.setWing n x).ddEnt j = s.ddEnt j := rfl
@[simp] theorem State.setWing_csOf' (n : Nat) (x : WingSt) (j : Nat) : (s.setWing n x).csOf j = s.csOf j := rfl
@[simp] theorem State.setWing_slipOf' (n : Nat) (x : WingSt) (j : Nat) : (s.setWing n x).slipOf j = s.slipOf j := rfl
@[simp] theorem State.setWing_queue' (n : Nat) (x : WingSt) (j : Nat) : (s.setWing n x).queue j = s.queue j := rfl
@[simp] theorem State.setWing_xlOf' (n : Nat) (x : WingSt) (j : Nat) : (s.setWing n x).xlOf j = s.xlOf j := rfl
@[simp] theorem State.setWing_lendOf' (n : Nat) (x : WingSt) (j : Nat) : (s.setWing n x).lendOf j = s.lendOf j := rfl
@[simp] theorem State.setWing_fn' (n : Nat) (x : WingSt) (j : Nat) : (s.setWing n x).fn j = s.fn j := rfl
@[simp] theorem State.setWing_cage' (n : Nat) (x : WingSt) (j : Nat) : (s.setWing n x).cage j = s.cage j := rfl
@[simp] theorem State.setWing_col' (n : Nat) (x : WingSt) (j : Nat) : (s.setWing n x).col j = s.col j := rfl
@[simp] theorem State.setWing_qpOf' (n : Nat) (x : WingSt) (j : Nat) : (s.setWing n x).qpOf j = s.qpOf j := rfl
@[simp] theorem State.setWing_partCount' (n : Nat) (x : WingSt)  : (s.setWing n x).partCount  = s.partCount  := rfl
@[simp] theorem State.setWing_part' (n : Nat) (x : WingSt) (j : Nat) : (s.setWing n x).part j = s.part j := rfl
@[simp] theorem State.setWing_slotsOf' (n : Nat) (x : WingSt) (j : Nat) : (s.setWing n x).slotsOf j = s.slotsOf j := rfl
@[simp] theorem State.setWing_partOf' (n : Nat) (x : WingSt) (j : Nat) : (s.setWing n x).partOf j = s.partOf j := rfl
@[simp] theorem State.setWing_owns' (n : Nat) (x : WingSt) (j m : Nat) : (s.setWing n x).owns j m = s.owns j m := rfl
@[simp] theorem State.setWing_fnOf' (n : Nat) (x : WingSt) (j : Nat) : (s.setWing n x).fnOf j = s.fnOf j := rfl
@[simp] theorem State.setWing_phys' (n : Nat) (x : WingSt) (j : Nat) : (s.setWing n x).phys j = s.phys j := rfl

/-! ### `emit` -/

@[simp] theorem State.emit_rf (o : Out) : (s.emit o).rf = s.rf := rfl
@[simp] theorem State.emit_car (o : Out) : (s.emit o).car = s.car := rfl
@[simp] theorem State.emit_store (o : Out) : (s.emit o).store = s.store := rfl
@[simp] theorem State.emit_slots (o : Out) : (s.emit o).slots = s.slots := rfl
@[simp] theorem State.emit_rels (o : Out) : (s.emit o).rels = s.rels := rfl
@[simp] theorem State.emit_starts (o : Out) : (s.emit o).starts = s.starts := rfl
@[simp] theorem State.emit_dd (o : Out) : (s.emit o).dd = s.dd := rfl
@[simp] theorem State.emit_stamp (o : Out) : (s.emit o).stamp = s.stamp := rfl
@[simp] theorem State.emit_cs (o : Out) : (s.emit o).cs = s.cs := rfl
@[simp] theorem State.emit_slipFr (o : Out) : (s.emit o).slipFr = s.slipFr := rfl
@[simp] theorem State.emit_q (o : Out) : (s.emit o).q = s.q := rfl
@[simp] theorem State.emit_xl (o : Out) : (s.emit o).xl = s.xl := rfl
@[simp] theorem State.emit_hubBuf (o : Out) : (s.emit o).hubBuf = s.hubBuf := rfl
@[simp] theorem State.emit_lend (o : Out) : (s.emit o).lend = s.lend := rfl
@[simp] theorem State.emit_wings (o : Out) : (s.emit o).wings = s.wings := rfl
@[simp] theorem State.emit_coh (o : Out) : (s.emit o).coh = s.coh := rfl
@[simp] theorem State.emit_net (o : Out) : (s.emit o).net = s.net := rfl
@[simp] theorem State.emit_dmem (o : Out) : (s.emit o).dmem = s.dmem := rfl
@[simp] theorem State.emit_cas (o : Out) : (s.emit o).cas = s.cas := rfl
@[simp] theorem State.emit_nic (o : Out) : (s.emit o).nic = s.nic := rfl
@[simp] theorem State.emit_fns (o : Out) : (s.emit o).fns = s.fns := rfl
@[simp] theorem State.emit_link (o : Out) : (s.emit o).link = s.link := rfl
@[simp] theorem State.emit_cages (o : Out) : (s.emit o).cages = s.cages := rfl
@[simp] theorem State.emit_cols (o : Out) : (s.emit o).cols = s.cols := rfl
@[simp] theorem State.emit_flt (o : Out) : (s.emit o).flt = s.flt := rfl
@[simp] theorem State.emit_evq (o : Out) : (s.emit o).evq = s.evq := rfl
@[simp] theorem State.emit_dev (o : Out) : (s.emit o).dev = s.dev := rfl
@[simp] theorem State.emit_arec (o : Out) : (s.emit o).arec = s.arec := rfl
@[simp] theorem State.emit_pwr (o : Out) : (s.emit o).pwr = s.pwr := rfl
@[simp] theorem State.emit_fw (o : Out) : (s.emit o).fw = s.fw := rfl
@[simp] theorem State.emit_led (o : Out) : (s.emit o).led = s.led := rfl
@[simp] theorem State.emit_fuses (o : Out) : (s.emit o).fuses = s.fuses := rfl
@[simp] theorem State.emit_port (o : Out) : (s.emit o).port = s.port := rfl
@[simp] theorem State.emit_nvm (o : Out) : (s.emit o).nvm = s.nvm := rfl
@[simp] theorem State.emit_archSram (o : Out) : (s.emit o).archSram = s.archSram := rfl
@[simp] theorem State.emit_time (o : Out) : (s.emit o).time = s.time := rfl
@[simp] theorem State.emit_free (o : Out) : (s.emit o).free = s.free := rfl
@[simp] theorem State.emit_pending (o : Out) : (s.emit o).pending = s.pending := rfl
@[simp] theorem State.emit_reg' (o : Out) (k' : RegKind) (j : Nat) : (s.emit o).reg k' j = s.reg k' j := rfl
@[simp] theorem State.emit_g' (o : Out) (f' : Fld) (j : Nat) : (s.emit o).g f' j = s.g f' j := rfl
@[simp] theorem State.emit_gb' (o : Out) (f' : Fld) (j : Nat) : (s.emit o).gb f' j = s.gb f' j := rfl
@[simp] theorem State.emit_now' (o : Out)  : (s.emit o).now  = s.now  := rfl
@[simp] theorem State.emit_slot' (o : Out) (j : Nat) : (s.emit o).slot j = s.slot j := rfl
@[simp] theorem State.emit_carrel' (o : Out) (j : Nat) : (s.emit o).carrel j = s.carrel j := rfl
@[simp] theorem State.emit_mem' (o : Out) (j : Nat) : (s.emit o).mem j = s.mem j := rfl
@[simp] theorem State.emit_ddEnt' (o : Out) (j : Nat) : (s.emit o).ddEnt j = s.ddEnt j := rfl
@[simp] theorem State.emit_csOf' (o : Out) (j : Nat) : (s.emit o).csOf j = s.csOf j := rfl
@[simp] theorem State.emit_slipOf' (o : Out) (j : Nat) : (s.emit o).slipOf j = s.slipOf j := rfl
@[simp] theorem State.emit_queue' (o : Out) (j : Nat) : (s.emit o).queue j = s.queue j := rfl
@[simp] theorem State.emit_xlOf' (o : Out) (j : Nat) : (s.emit o).xlOf j = s.xlOf j := rfl
@[simp] theorem State.emit_lendOf' (o : Out) (j : Nat) : (s.emit o).lendOf j = s.lendOf j := rfl
@[simp] theorem State.emit_fn' (o : Out) (j : Nat) : (s.emit o).fn j = s.fn j := rfl
@[simp] theorem State.emit_cage' (o : Out) (j : Nat) : (s.emit o).cage j = s.cage j := rfl
@[simp] theorem State.emit_col' (o : Out) (j : Nat) : (s.emit o).col j = s.col j := rfl
@[simp] theorem State.emit_qpOf' (o : Out) (j : Nat) : (s.emit o).qpOf j = s.qpOf j := rfl
@[simp] theorem State.emit_wing' (o : Out) (j : Nat) : (s.emit o).wing j = s.wing j := rfl
@[simp] theorem State.emit_partCount' (o : Out)  : (s.emit o).partCount  = s.partCount  := rfl
@[simp] theorem State.emit_part' (o : Out) (j : Nat) : (s.emit o).part j = s.part j := rfl
@[simp] theorem State.emit_slotsOf' (o : Out) (j : Nat) : (s.emit o).slotsOf j = s.slotsOf j := rfl
@[simp] theorem State.emit_partOf' (o : Out) (j : Nat) : (s.emit o).partOf j = s.partOf j := rfl
@[simp] theorem State.emit_owns' (o : Out) (j m : Nat) : (s.emit o).owns j m = s.owns j m := rfl
@[simp] theorem State.emit_fnOf' (o : Out) (j : Nat) : (s.emit o).fnOf j = s.fnOf j := rfl
@[simp] theorem State.emit_phys' (o : Out) (j : Nat) : (s.emit o).phys j = s.phys j := rfl

/-! ### `raise` -/

@[simp] theorem State.raise_rf (e : Event) : (s.raise e).rf = s.rf := rfl
@[simp] theorem State.raise_car (e : Event) : (s.raise e).car = s.car := rfl
@[simp] theorem State.raise_store (e : Event) : (s.raise e).store = s.store := rfl
@[simp] theorem State.raise_slots (e : Event) : (s.raise e).slots = s.slots := rfl
@[simp] theorem State.raise_rels (e : Event) : (s.raise e).rels = s.rels := rfl
@[simp] theorem State.raise_starts (e : Event) : (s.raise e).starts = s.starts := rfl
@[simp] theorem State.raise_dd (e : Event) : (s.raise e).dd = s.dd := rfl
@[simp] theorem State.raise_stamp (e : Event) : (s.raise e).stamp = s.stamp := rfl
@[simp] theorem State.raise_cs (e : Event) : (s.raise e).cs = s.cs := rfl
@[simp] theorem State.raise_slipFr (e : Event) : (s.raise e).slipFr = s.slipFr := rfl
@[simp] theorem State.raise_q (e : Event) : (s.raise e).q = s.q := rfl
@[simp] theorem State.raise_xl (e : Event) : (s.raise e).xl = s.xl := rfl
@[simp] theorem State.raise_hubBuf (e : Event) : (s.raise e).hubBuf = s.hubBuf := rfl
@[simp] theorem State.raise_lend (e : Event) : (s.raise e).lend = s.lend := rfl
@[simp] theorem State.raise_wings (e : Event) : (s.raise e).wings = s.wings := rfl
@[simp] theorem State.raise_coh (e : Event) : (s.raise e).coh = s.coh := rfl
@[simp] theorem State.raise_net (e : Event) : (s.raise e).net = s.net := rfl
@[simp] theorem State.raise_dmem (e : Event) : (s.raise e).dmem = s.dmem := rfl
@[simp] theorem State.raise_cas (e : Event) : (s.raise e).cas = s.cas := rfl
@[simp] theorem State.raise_nic (e : Event) : (s.raise e).nic = s.nic := rfl
@[simp] theorem State.raise_fns (e : Event) : (s.raise e).fns = s.fns := rfl
@[simp] theorem State.raise_link (e : Event) : (s.raise e).link = s.link := rfl
@[simp] theorem State.raise_cages (e : Event) : (s.raise e).cages = s.cages := rfl
@[simp] theorem State.raise_cols (e : Event) : (s.raise e).cols = s.cols := rfl
@[simp] theorem State.raise_flt (e : Event) : (s.raise e).flt = s.flt := rfl
@[simp] theorem State.raise_dev (e : Event) : (s.raise e).dev = s.dev := rfl
@[simp] theorem State.raise_arec (e : Event) : (s.raise e).arec = s.arec := rfl
@[simp] theorem State.raise_pwr (e : Event) : (s.raise e).pwr = s.pwr := rfl
@[simp] theorem State.raise_fw (e : Event) : (s.raise e).fw = s.fw := rfl
@[simp] theorem State.raise_led (e : Event) : (s.raise e).led = s.led := rfl
@[simp] theorem State.raise_fuses (e : Event) : (s.raise e).fuses = s.fuses := rfl
@[simp] theorem State.raise_port (e : Event) : (s.raise e).port = s.port := rfl
@[simp] theorem State.raise_nvm (e : Event) : (s.raise e).nvm = s.nvm := rfl
@[simp] theorem State.raise_archSram (e : Event) : (s.raise e).archSram = s.archSram := rfl
@[simp] theorem State.raise_time (e : Event) : (s.raise e).time = s.time := rfl
@[simp] theorem State.raise_free (e : Event) : (s.raise e).free = s.free := rfl
@[simp] theorem State.raise_out (e : Event) : (s.raise e).out = s.out := rfl
@[simp] theorem State.raise_pending (e : Event) : (s.raise e).pending = s.pending := rfl
@[simp] theorem State.raise_reg' (e : Event) (k' : RegKind) (j : Nat) : (s.raise e).reg k' j = s.reg k' j := rfl
@[simp] theorem State.raise_g' (e : Event) (f' : Fld) (j : Nat) : (s.raise e).g f' j = s.g f' j := rfl
@[simp] theorem State.raise_gb' (e : Event) (f' : Fld) (j : Nat) : (s.raise e).gb f' j = s.gb f' j := rfl
@[simp] theorem State.raise_now' (e : Event)  : (s.raise e).now  = s.now  := rfl
@[simp] theorem State.raise_slot' (e : Event) (j : Nat) : (s.raise e).slot j = s.slot j := rfl
@[simp] theorem State.raise_carrel' (e : Event) (j : Nat) : (s.raise e).carrel j = s.carrel j := rfl
@[simp] theorem State.raise_mem' (e : Event) (j : Nat) : (s.raise e).mem j = s.mem j := rfl
@[simp] theorem State.raise_ddEnt' (e : Event) (j : Nat) : (s.raise e).ddEnt j = s.ddEnt j := rfl
@[simp] theorem State.raise_csOf' (e : Event) (j : Nat) : (s.raise e).csOf j = s.csOf j := rfl
@[simp] theorem State.raise_slipOf' (e : Event) (j : Nat) : (s.raise e).slipOf j = s.slipOf j := rfl
@[simp] theorem State.raise_queue' (e : Event) (j : Nat) : (s.raise e).queue j = s.queue j := rfl
@[simp] theorem State.raise_xlOf' (e : Event) (j : Nat) : (s.raise e).xlOf j = s.xlOf j := rfl
@[simp] theorem State.raise_lendOf' (e : Event) (j : Nat) : (s.raise e).lendOf j = s.lendOf j := rfl
@[simp] theorem State.raise_fn' (e : Event) (j : Nat) : (s.raise e).fn j = s.fn j := rfl
@[simp] theorem State.raise_cage' (e : Event) (j : Nat) : (s.raise e).cage j = s.cage j := rfl
@[simp] theorem State.raise_col' (e : Event) (j : Nat) : (s.raise e).col j = s.col j := rfl
@[simp] theorem State.raise_qpOf' (e : Event) (j : Nat) : (s.raise e).qpOf j = s.qpOf j := rfl
@[simp] theorem State.raise_wing' (e : Event) (j : Nat) : (s.raise e).wing j = s.wing j := rfl
@[simp] theorem State.raise_partCount' (e : Event)  : (s.raise e).partCount  = s.partCount  := rfl
@[simp] theorem State.raise_part' (e : Event) (j : Nat) : (s.raise e).part j = s.part j := rfl
@[simp] theorem State.raise_slotsOf' (e : Event) (j : Nat) : (s.raise e).slotsOf j = s.slotsOf j := rfl
@[simp] theorem State.raise_partOf' (e : Event) (j : Nat) : (s.raise e).partOf j = s.partOf j := rfl
@[simp] theorem State.raise_owns' (e : Event) (j m : Nat) : (s.raise e).owns j m = s.owns j m := rfl
@[simp] theorem State.raise_fnOf' (e : Event) (j : Nat) : (s.raise e).fnOf j = s.fnOf j := rfl
@[simp] theorem State.raise_phys' (e : Event) (j : Nat) : (s.raise e).phys j = s.phys j := rfl

/-! ### `inputsOf` -/

@[simp] theorem State.inputsOf_rf (t : State) : (s.inputsOf t).rf = s.rf := rfl
@[simp] theorem State.inputsOf_car (t : State) : (s.inputsOf t).car = s.car := rfl
@[simp] theorem State.inputsOf_store (t : State) : (s.inputsOf t).store = s.store := rfl
@[simp] theorem State.inputsOf_slots (t : State) : (s.inputsOf t).slots = s.slots := rfl
@[simp] theorem State.inputsOf_rels (t : State) : (s.inputsOf t).rels = s.rels := rfl
@[simp] theorem State.inputsOf_starts (t : State) : (s.inputsOf t).starts = s.starts := rfl
@[simp] theorem State.inputsOf_dd (t : State) : (s.inputsOf t).dd = s.dd := rfl
@[simp] theorem State.inputsOf_stamp (t : State) : (s.inputsOf t).stamp = s.stamp := rfl
@[simp] theorem State.inputsOf_cs (t : State) : (s.inputsOf t).cs = s.cs := rfl
@[simp] theorem State.inputsOf_slipFr (t : State) : (s.inputsOf t).slipFr = s.slipFr := rfl
@[simp] theorem State.inputsOf_q (t : State) : (s.inputsOf t).q = s.q := rfl
@[simp] theorem State.inputsOf_xl (t : State) : (s.inputsOf t).xl = s.xl := rfl
@[simp] theorem State.inputsOf_hubBuf (t : State) : (s.inputsOf t).hubBuf = s.hubBuf := rfl
@[simp] theorem State.inputsOf_lend (t : State) : (s.inputsOf t).lend = s.lend := rfl
@[simp] theorem State.inputsOf_wings (t : State) : (s.inputsOf t).wings = s.wings := rfl
@[simp] theorem State.inputsOf_coh (t : State) : (s.inputsOf t).coh = s.coh := rfl
@[simp] theorem State.inputsOf_net (t : State) : (s.inputsOf t).net = s.net := rfl
@[simp] theorem State.inputsOf_dmem (t : State) : (s.inputsOf t).dmem = s.dmem := rfl
@[simp] theorem State.inputsOf_cas (t : State) : (s.inputsOf t).cas = s.cas := rfl
@[simp] theorem State.inputsOf_nic (t : State) : (s.inputsOf t).nic = s.nic := rfl
@[simp] theorem State.inputsOf_fns (t : State) : (s.inputsOf t).fns = s.fns := rfl
@[simp] theorem State.inputsOf_link (t : State) : (s.inputsOf t).link = s.link := rfl
@[simp] theorem State.inputsOf_cages (t : State) : (s.inputsOf t).cages = s.cages := rfl
@[simp] theorem State.inputsOf_cols (t : State) : (s.inputsOf t).cols = s.cols := rfl
@[simp] theorem State.inputsOf_flt (t : State) : (s.inputsOf t).flt = s.flt := rfl
@[simp] theorem State.inputsOf_evq (t : State) : (s.inputsOf t).evq = s.evq := rfl
@[simp] theorem State.inputsOf_arec (t : State) : (s.inputsOf t).arec = s.arec := rfl
@[simp] theorem State.inputsOf_pwr (t : State) : (s.inputsOf t).pwr = s.pwr := rfl
@[simp] theorem State.inputsOf_fw (t : State) : (s.inputsOf t).fw = s.fw := rfl
@[simp] theorem State.inputsOf_led (t : State) : (s.inputsOf t).led = s.led := rfl
@[simp] theorem State.inputsOf_fuses (t : State) : (s.inputsOf t).fuses = s.fuses := rfl
@[simp] theorem State.inputsOf_port (t : State) : (s.inputsOf t).port = s.port := rfl
@[simp] theorem State.inputsOf_nvm (t : State) : (s.inputsOf t).nvm = s.nvm := rfl
@[simp] theorem State.inputsOf_archSram (t : State) : (s.inputsOf t).archSram = s.archSram := rfl
@[simp] theorem State.inputsOf_time (t : State) : (s.inputsOf t).time = s.time := rfl
@[simp] theorem State.inputsOf_free (t : State) : (s.inputsOf t).free = s.free := rfl
@[simp] theorem State.inputsOf_out (t : State) : (s.inputsOf t).out = s.out := rfl
@[simp] theorem State.inputsOf_reg' (t : State) (k' : RegKind) (j : Nat) : (s.inputsOf t).reg k' j = s.reg k' j := rfl
@[simp] theorem State.inputsOf_g' (t : State) (f' : Fld) (j : Nat) : (s.inputsOf t).g f' j = s.g f' j := rfl
@[simp] theorem State.inputsOf_gb' (t : State) (f' : Fld) (j : Nat) : (s.inputsOf t).gb f' j = s.gb f' j := rfl
@[simp] theorem State.inputsOf_now' (t : State)  : (s.inputsOf t).now  = s.now  := rfl
@[simp] theorem State.inputsOf_slot' (t : State) (j : Nat) : (s.inputsOf t).slot j = s.slot j := rfl
@[simp] theorem State.inputsOf_carrel' (t : State) (j : Nat) : (s.inputsOf t).carrel j = s.carrel j := rfl
@[simp] theorem State.inputsOf_mem' (t : State) (j : Nat) : (s.inputsOf t).mem j = s.mem j := rfl
@[simp] theorem State.inputsOf_ddEnt' (t : State) (j : Nat) : (s.inputsOf t).ddEnt j = s.ddEnt j := rfl
@[simp] theorem State.inputsOf_csOf' (t : State) (j : Nat) : (s.inputsOf t).csOf j = s.csOf j := rfl
@[simp] theorem State.inputsOf_slipOf' (t : State) (j : Nat) : (s.inputsOf t).slipOf j = s.slipOf j := rfl
@[simp] theorem State.inputsOf_queue' (t : State) (j : Nat) : (s.inputsOf t).queue j = s.queue j := rfl
@[simp] theorem State.inputsOf_xlOf' (t : State) (j : Nat) : (s.inputsOf t).xlOf j = s.xlOf j := rfl
@[simp] theorem State.inputsOf_lendOf' (t : State) (j : Nat) : (s.inputsOf t).lendOf j = s.lendOf j := rfl
@[simp] theorem State.inputsOf_fn' (t : State) (j : Nat) : (s.inputsOf t).fn j = s.fn j := rfl
@[simp] theorem State.inputsOf_cage' (t : State) (j : Nat) : (s.inputsOf t).cage j = s.cage j := rfl
@[simp] theorem State.inputsOf_col' (t : State) (j : Nat) : (s.inputsOf t).col j = s.col j := rfl
@[simp] theorem State.inputsOf_qpOf' (t : State) (j : Nat) : (s.inputsOf t).qpOf j = s.qpOf j := rfl
@[simp] theorem State.inputsOf_wing' (t : State) (j : Nat) : (s.inputsOf t).wing j = s.wing j := rfl
@[simp] theorem State.inputsOf_partCount' (t : State)  : (s.inputsOf t).partCount  = s.partCount  := rfl
@[simp] theorem State.inputsOf_part' (t : State) (j : Nat) : (s.inputsOf t).part j = s.part j := rfl
@[simp] theorem State.inputsOf_slotsOf' (t : State) (j : Nat) : (s.inputsOf t).slotsOf j = s.slotsOf j := rfl
@[simp] theorem State.inputsOf_partOf' (t : State) (j : Nat) : (s.inputsOf t).partOf j = s.partOf j := rfl
@[simp] theorem State.inputsOf_owns' (t : State) (j m : Nat) : (s.inputsOf t).owns j m = s.owns j m := rfl
@[simp] theorem State.inputsOf_fnOf' (t : State) (j : Nat) : (s.inputsOf t).fnOf j = s.fnOf j := rfl
@[simp] theorem State.inputsOf_phys' (t : State) (j : Nat) : (s.inputsOf t).phys j = s.phys j := rfl

end Sys2Proof.Machine
end

