-- ==== Sys2Proof/Laws/Tab.lean ====
section
/-!
SUPPORT. The laws of the sparse tables and of the byte memories: a read after a write, and that the canonical form is kept.
-/
namespace Sys2Proof

theorem tget_append_none {α : Type} (d : Nat → α) (t u : Tab α) (k : Nat) (h : ∀ e ∈ t, e.1 ≠ k) : tget d (t ++ u) k = tget d u k := by
  induction t with
  | nil => rfl
  | cons e t ih =>
    obtain ⟨i, a⟩ := e
    have h1 : i ≠ k := h (i, a) (by simp)
    simp only [List.cons_append, tget, h1, if_false]
    exact ih fun e he => h e (by simp [he])

theorem tget_none {α : Type} (d : Nat → α) (t : Tab α) (k : Nat) (h : ∀ e ∈ t, e.1 ≠ k) : tget d t k = d k := by
  have := tget_append_none d t [] k h
  simpa [tget] using this

theorem tget_filter {α : Type} (d : Nat → α) (p : Nat → Bool) (t : Tab α) (k : Nat) (h : p k = true) :
    tget d (t.filter fun e => p e.1) k = tget d t k := by
  induction t with
  | nil => rfl
  | cons e t ih =>
    obtain ⟨i, a⟩ := e
    by_cases hk : i = k
    · subst hk; simp [tget, h]
    · by_cases hp : p i = true <;> simp [hp, tget, hk, ih]

theorem tget_append {α : Type} (d : Nat → α) (t u : Tab α) (k : Nat) (h : ∀ e ∈ u, e.1 ≠ k) : tget d (t ++ u) k = tget d t k := by
  induction t with
  | nil => simpa [tget] using tget_none d u k h
  | cons e t ih =>
    obtain ⟨i, a⟩ := e
    by_cases hk : i = k <;> simp [tget, hk, ih]

/-- A read of the key just written. -/
@[simp] theorem tget_tset_same {α : Type} [DecidableEq α] (d : Nat → α) (t : Tab α) (k : Nat) (v : α) : tget d (tset d t k v) k = v := by
  have h1 : ∀ e ∈ t.filter (fun e => decide (e.1 < k)), e.1 ≠ k := by
    intro e he; simp at he; omega
  have h2 : ∀ e ∈ t.filter (fun e => decide (k < e.1)), e.1 ≠ k := by
    intro e he; simp at he; omega
  unfold tset
  rw [List.append_assoc, tget_append_none d _ _ k h1, tget_append d _ _ k h2]
  split
  · simp [tget, *]
  · simp [tget]

/-- A read of another key. -/
theorem tget_tset_ne {α : Type} [DecidableEq α] (d : Nat → α) (t : Tab α) (k j : Nat) (v : α) (h : j ≠ k) :
    tget d (tset d t k v) j = tget d t j := by
  have hm : ∀ e ∈ (if v = d k then [] else [(k, v)] : Tab α), e.1 ≠ j := by
    intro e he; split at he <;> simp at he; subst he; simpa using h.symm
  unfold tset
  rcases Nat.lt_or_gt_of_ne h with hlt | hgt
  · have h2 : ∀ e ∈ t.filter (fun e => decide (k < e.1)), e.1 ≠ j := by intro e he; simp at he; omega
    rw [tget_append d _ _ j h2, tget_append d _ _ j hm]
    exact tget_filter d (fun i => decide (i < k)) t j (by simpa using hlt)
  · have h1 : ∀ e ∈ t.filter (fun e => decide (e.1 < k)), e.1 ≠ j := by intro e he; simp at he; omega
    rw [List.append_assoc, tget_append_none d _ _ j h1, tget_append_none d _ _ j hm]
    exact tget_filter d (fun i => decide (k < i)) t j (by simpa using hgt)

/-- A read of any key. -/
theorem tget_tset {α : Type} [DecidableEq α] (d : Nat → α) (t : Tab α) (k j : Nat) (v : α) :
    tget d (tset d t k v) j = if j = k then v else tget d t j := by
  split
  · subst_vars; simp
  · exact tget_tset_ne d t k j v (by assumption)

/-- A later write of a key replaces an earlier one. -/
@[simp] theorem tset_tset {α : Type} [DecidableEq α] (d : Nat → α) (t : Tab α) (k : Nat) (u v : α) : tset d (tset d t k u) k v = tset d t k v := by
  have h1 : (tset d t k u).filter (fun e => decide (e.1 < k)) = t.filter (fun e => decide (e.1 < k)) := by
    unfold tset
    rw [List.filter_append, List.filter_append, List.filter_filter, List.filter_filter]
    have a : (if u = d k then [] else [(k, u)] : Tab α).filter (fun e => decide (e.1 < k)) = [] := by split <;> simp
    have b : t.filter (fun e => decide (e.1 < k) && decide (k < e.1)) = [] := by
      rw [List.filter_eq_nil_iff]; intro e _; simp; omega
    rw [a, b]; simp
  have h2 : (tset d t k u).filter (fun e => decide (k < e.1)) = t.filter (fun e => decide (k < e.1)) := by
    unfold tset
    rw [List.filter_append, List.filter_append, List.filter_filter, List.filter_filter]
    have a : (if u = d k then [] else [(k, u)] : Tab α).filter (fun e => decide (k < e.1)) = [] := by split <;> simp
    have b : t.filter (fun e => decide (k < e.1) && decide (e.1 < k)) = [] := by
      rw [List.filter_eq_nil_iff]; intro e _; simp; omega
    rw [a, b]; simp
  have e : tset d (tset d t k u) k v = (tset d t k u).filter (fun e => decide (e.1 < k)) ++ (if v = d k then [] else [(k, v)])
      ++ (tset d t k u).filter (fun e => decide (k < e.1)) := rfl
  rw [e, h1, h2]
  rfl

@[simp] theorem tget_nil {α : Type} (d : Nat → α) (k : Nat) : tget d [] k = d k := rfl

/-- A write keeps the canonical form. -/
theorem tset_wf {α : Type} [DecidableEq α] (d : Nat → α) (t : Tab α) (k : Nat) (v : α) (h : Tab.wf d t = true) :
    Tab.wf d (tset d t k v) = true := by
  simp only [Tab.wf, Bool.and_eq_true, decide_eq_true_eq, List.all_eq_true] at h ⊢
  obtain ⟨hp, ha⟩ := h
  refine ⟨?_, ?_⟩
  · unfold tset
    rw [List.pairwise_append, List.pairwise_append]
    refine ⟨⟨hp.filter _, ?_, ?_⟩, hp.filter _, ?_⟩
    · split <;> simp
    · intro a ha' b hb
      split at hb <;> simp at hb
      subst hb; simp at ha'; exact ha'.2
    · intro a ha' b hb
      simp at hb
      rcases List.mem_append.mp ha' with h1 | h1
      · simp at h1; omega
      · split at h1 <;> simp at h1
        subst h1; exact hb.2
  · intro e he
    unfold tset at he
    rcases List.mem_append.mp he with h1 | h1
    · rcases List.mem_append.mp h1 with h2 | h2
      · exact ha e (List.mem_filter.mp h2).1
      · split at h2 <;> simp at h2
        subst h2; simpa using ‹¬ v = d k›
    · exact ha e (List.mem_filter.mp h1).1

/-- A table whose values are all changed by `f`, which leaves what an unlisted key reads as. -/
theorem tget_map {α : Type} (d : Nat → α) (f : α → α) (k : Nat) (hf : f (d k) = d k) (t : Tab α) :
    tget d (t.map fun e => (e.1, f e.2)) k = f (tget d t k) := by
  induction t with
  | nil => simp [tget, hf]
  | cons e t ih =>
    obtain ⟨i, a⟩ := e
    by_cases hk : i = k <;> simp [tget, hk, ih]

/-! ### Byte memories -/

theorem cellsOf_ge (a : Nat) (bs : Bytes) : ∀ c ∈ cellsOf a bs, a ≤ c.1 ∧ c.1 < a + bs.length ∧ c.2 ≠ 0 := by
  induction bs generalizing a with
  | nil => simp [cellsOf]
  | cons b bs ih =>
    intro c hc
    have key : ∀ c ∈ cellsOf (a + 1) bs, a ≤ c.1 ∧ c.1 < a + (b :: bs).length ∧ c.2 ≠ 0 := by
      intro c hc
      have := ih (a + 1) c hc
      simp only [List.length_cons]
      exact ⟨by omega, by omega, this.2.2⟩
    unfold cellsOf at hc
    split at hc
    · exact key c hc
    · rcases List.mem_cons.mp hc with h | h
      · subst h; simp_all
      · exact key c h

theorem cellsOf_sorted (a : Nat) (bs : Bytes) : (cellsOf a bs).Pairwise (fun x y => x.1 < y.1) := by
  induction bs generalizing a with
  | nil => simp [cellsOf]
  | cons b bs ih =>
    unfold cellsOf
    split
    · exact ih (a + 1)
    · refine List.pairwise_cons.mpr ⟨fun c hc => ?_, ih (a + 1)⟩
      have := (cellsOf_ge (a + 1) bs c hc).1
      simp; omega

theorem tget_cellsOf (a : Nat) (bs : Bytes) (i : Nat) (h : i < bs.length) : tget (fun _ => 0) (cellsOf a bs) (a + i) = bs[i] := by
  induction bs generalizing a i with
  | nil => simp at h
  | cons b bs ih =>
    cases i with
    | zero =>
      unfold cellsOf
      split
      · rw [tget_none]
        · simp_all
        · intro c hc; have := (cellsOf_ge (a + 1) bs c hc).1; omega
      · simp [tget]
    | succ i =>
      have hi : i < bs.length := by simpa using h
      have := ih (a + 1) i hi
      rw [show a + (i + 1) = a + 1 + i by omega]
      unfold cellsOf
      split
      · simpa using this
      · simp only [tget]
        rw [if_neg (by omega)]
        simpa using this

/-- Every write of bytes keeps the canonical form. -/
theorem Memory.write_wf (m : Memory) (a : Nat) (bs : Bytes) (h : m.wf = true) : (m.write a bs).wf = true := by
  simp only [Memory.wf, Bool.and_eq_true, decide_eq_true_eq, List.all_eq_true] at h ⊢
  obtain ⟨hp, ha⟩ := h
  refine ⟨?_, ?_⟩
  · unfold Memory.write
    rw [List.pairwise_append, List.pairwise_append]
    refine ⟨⟨hp.filter _, cellsOf_sorted a bs, ?_⟩, hp.filter _, ?_⟩
    · intro x hx y hy
      have := (cellsOf_ge a bs y hy).1
      simp at hx; omega
    · intro x hx y hy
      simp at hy
      rcases List.mem_append.mp hx with h1 | h1
      · simp at h1; omega
      · have := (cellsOf_ge a bs x h1).2.1; omega
  · intro e he
    unfold Memory.write at he
    rcases List.mem_append.mp he with h1 | h1
    · rcases List.mem_append.mp h1 with h2 | h2
      · exact ha e (List.mem_filter.mp h2).1
      · exact (cellsOf_ge a bs e h2).2.2
    · exact ha e (List.mem_filter.mp h1).1

/-- Zeroing a range keeps the canonical form. -/
theorem Memory.zero_wf (m : Memory) (a n : Nat) (h : m.wf = true) : (m.zero a n).wf = true := by
  simp only [Memory.wf, Bool.and_eq_true, decide_eq_true_eq, List.all_eq_true] at h ⊢
  obtain ⟨hp, ha⟩ := h
  refine ⟨?_, ?_⟩
  · unfold Memory.zero
    rw [List.pairwise_append]
    refine ⟨hp.filter _, hp.filter _, ?_⟩
    intro x hx y hy; simp at hx hy; omega
  · intro e he
    unfold Memory.zero at he
    rcases List.mem_append.mp he with h1 | h1 <;> exact ha e (List.mem_filter.mp h1).1

/-- A byte that was written reads as written. -/
theorem Memory.byte_write_in (m : Memory) (a : Nat) (bs : Bytes) (i : Nat) (h : i < bs.length) :
    (m.write a bs).byte (a + i) = bs[i] := by
  unfold Memory.byte Memory.write
  have h1 : ∀ e ∈ m.filter (fun c => decide (c.1 < a)), e.1 ≠ a + i := by intro e he; simp at he; omega
  have h2 : ∀ e ∈ m.filter (fun c => decide (a + bs.length ≤ c.1)), e.1 ≠ a + i := by intro e he; simp at he; omega
  rw [List.append_assoc, tget_append_none _ _ _ _ h1, tget_append _ _ _ _ h2]
  exact tget_cellsOf a bs i h

/-- A byte outside the bytes written reads as before. -/
theorem Memory.byte_write_out (m : Memory) (a : Nat) (bs : Bytes) (b : Nat) (h : b < a ∨ a + bs.length ≤ b) :
    (m.write a bs).byte b = m.byte b := by
  unfold Memory.byte Memory.write
  have hm : ∀ e ∈ cellsOf a bs, e.1 ≠ b := by intro e he; have := cellsOf_ge a bs e he; omega
  rcases h with h | h
  · have h2 : ∀ e ∈ m.filter (fun c => decide (a + bs.length ≤ c.1)), e.1 ≠ b := by intro e he; simp at he; omega
    rw [tget_append _ _ _ _ h2, tget_append _ _ _ _ hm]
    exact tget_filter _ (fun i => decide (i < a)) m b (by simpa using h)
  · have h1 : ∀ e ∈ m.filter (fun c => decide (c.1 < a)), e.1 ≠ b := by intro e he; simp at he; omega
    rw [List.append_assoc, tget_append_none _ _ _ _ h1, tget_append_none _ _ _ _ hm]
    exact tget_filter _ (fun i => decide (a + bs.length ≤ i)) m b (by simpa using h)

/-- A byte of a zeroed range reads 0, another as before. -/
theorem Memory.byte_zero (m : Memory) (a n b : Nat) : (m.zero a n).byte b = if a ≤ b ∧ b < a + n then 0 else m.byte b := by
  unfold Memory.byte Memory.zero
  split
  · rw [tget_none]
    intro e he; simp at he; omega
  · by_cases h : b < a
    · have h2 : ∀ e ∈ m.filter (fun c => decide (a + n ≤ c.1)), e.1 ≠ b := by intro e he; simp at he; omega
      rw [tget_append _ _ _ _ h2]
      exact tget_filter _ (fun i => decide (i < a)) m b (by simpa using h)
    · have h1 : ∀ e ∈ m.filter (fun c => decide (c.1 < a)), e.1 ≠ b := by intro e he; simp at he; omega
      rw [tget_append_none _ _ _ _ h1]
      exact tget_filter _ (fun i => decide (a + n ≤ i)) m b (by simp; omega)

end Sys2Proof
end

