-- ==== Sys2Proof/Laws/Reg.lean ====
section
/-!
SUPPORT. The laws of the register file and of the named tables of the state: a read after a write.
-/
namespace Sys2Proof

/-- The list of registers has each at its code. -/
theorem RegKind.all_code (k : RegKind) : RegKind.all[k.code]? = some k := by cases k <;> rfl

theorem RegKind.code_inj {k j : RegKind} (h : k.code = j.code) : k = j := by
  have := RegKind.all_code k
  rw [h, RegKind.all_code j] at this
  exact (Option.some.inj this).symm

namespace Machine

theorem regKey_ne {k j : RegKind} {i n : Nat} (h : k ≠ j ∨ i % 65536 ≠ n % 65536) : regKey k i ≠ regKey j n := by
  unfold regKey
  intro e
  have hc : k.code = j.code := by omega
  rcases h with h | h
  · exact h (RegKind.code_inj hc)
  · omega

@[simp] theorem State.reg_setReg (s : State) (k : RegKind) (i : Nat) (v : BitVec 64) : (s.setReg k i v).reg k i = v := by
  simp [State.reg, State.setReg]

theorem State.reg_setReg_ne (s : State) (k j : RegKind) (i n : Nat) (v : BitVec 64) (h : j ≠ k ∨ n % 65536 ≠ i % 65536) :
    (s.setReg k i v).reg j n = s.reg j n := by
  simp only [State.reg, State.setReg]
  exact tget_tset_ne _ _ _ _ _ (regKey_ne h)

end Machine

theorem pack_lt {a b m n : Nat} (ha : a < m) (hb : b < n) : a * n + b < m * n := by
  have : (a + 1) * n ≤ m * n := Nat.mul_le_mul_right n ha
  rw [Nat.add_mul] at this
  omega

theorem bits_setBits (x hi lo v : Nat) (h : lo ≤ hi) : bits (setBits x hi lo v) hi lo = v % 2 ^ (hi + 1 - lo) := by
  unfold bits setBits
  have hl : (2 : Nat) ^ (hi + 1) = 2 ^ lo * 2 ^ (hi + 1 - lo) := by rw [← pow_add]; congr 1; omega
  have h2 : x % 2 ^ lo < 2 ^ lo := Nat.mod_lt _ (by positivity)
  rw [hl]
  have : x / (2 ^ lo * 2 ^ (hi + 1 - lo)) * (2 ^ lo * 2 ^ (hi + 1 - lo)) + v % 2 ^ (hi + 1 - lo) * 2 ^ lo + x % 2 ^ lo
      = x % 2 ^ lo + 2 ^ lo * (2 ^ (hi + 1 - lo) * (x / (2 ^ lo * 2 ^ (hi + 1 - lo))) + v % 2 ^ (hi + 1 - lo)) := by ring
  rw [this, Nat.add_mul_div_left _ _ (by positivity), Nat.div_eq_of_lt h2, zero_add, Nat.mul_add_mod, Nat.mod_mod]

theorem setBits_lt (x hi lo v n : Nat) (h : lo ≤ hi) (hn : hi < n) (hx : x < 2 ^ n) : setBits x hi lo v < 2 ^ n := by
  unfold setBits
  have h1 : x / 2 ^ (hi + 1) < 2 ^ (n - (hi + 1)) := by
    apply Nat.div_lt_of_lt_mul
    rw [← pow_add]; convert hx using 2; omega
  have h2 : v % 2 ^ (hi + 1 - lo) < 2 ^ (hi + 1 - lo) := Nat.mod_lt _ (by positivity)
  have h3 : x % 2 ^ lo < 2 ^ lo := Nat.mod_lt _ (by positivity)
  have e1 : (2 : Nat) ^ (hi + 1) = 2 ^ (hi + 1 - lo) * 2 ^ lo := by rw [← pow_add]; congr 1; omega
  have e2 : (2 : Nat) ^ n = 2 ^ (n - (hi + 1)) * 2 ^ (hi + 1) := by rw [← pow_add]; congr 1; omega
  have a1 : v % 2 ^ (hi + 1 - lo) * 2 ^ lo + x % 2 ^ lo < 2 ^ (hi + 1) := by
    rw [e1]; exact pack_lt h2 h3
  rw [e2, add_assoc]; exact pack_lt h1 a1

theorem bits_setBits_ne (x hi lo v hi' lo' : Nat) (h : lo ≤ hi) (hd : hi < lo' ∨ hi' < lo) (h' : lo' ≤ hi') :
    bits (setBits x hi lo v) hi' lo' = bits x hi' lo' := by
  unfold bits setBits
  have h3 : x % 2 ^ lo < 2 ^ lo := Nat.mod_lt _ (by positivity)
  have h2 : v % 2 ^ (hi + 1 - lo) < 2 ^ (hi + 1 - lo) := Nat.mod_lt _ (by positivity)
  have e1 : (2 : Nat) ^ (hi + 1) = 2 ^ (hi + 1 - lo) * 2 ^ lo := by rw [← pow_add]; congr 1; omega
  rcases hd with hd | hd
  · have a1 : v % 2 ^ (hi + 1 - lo) * 2 ^ lo + x % 2 ^ lo < 2 ^ (hi + 1) := by
      rw [e1]; exact pack_lt h2 h3
    have e2 : (2 : Nat) ^ lo' = 2 ^ (hi + 1) * 2 ^ (lo' - (hi + 1)) := by rw [← pow_add]; congr 1; omega
    rw [e2, ← Nat.div_div_eq_div_mul, ← Nat.div_div_eq_div_mul, add_assoc]
    congr 2
    rw [Nat.mul_comm, Nat.mul_add_div (by positivity), Nat.div_eq_of_lt a1, add_zero]
  · have e3 : (2 : Nat) ^ lo = 2 ^ (hi' + 1) * 2 ^ (lo - (hi' + 1)) := by rw [← pow_add]; congr 1; omega
    have hm : ∀ y : Nat, y / 2 ^ lo' % 2 ^ (hi' + 1 - lo') = y % 2 ^ (hi' + 1) / 2 ^ lo' := by
      intro y
      have : (2 : Nat) ^ (hi' + 1) = 2 ^ lo' * 2 ^ (hi' + 1 - lo') := by rw [← pow_add]; congr 1; omega
      rw [this, Nat.mod_mul_right_div_self]
    rw [hm, hm]
    congr 1
    have : x / 2 ^ (hi + 1) * 2 ^ (hi + 1) + v % 2 ^ (hi + 1 - lo) * 2 ^ lo + x % 2 ^ lo
        = x % 2 ^ lo + 2 ^ (hi' + 1) * (2 ^ (lo - (hi' + 1)) * (2 ^ (hi + 1 - lo) * (x / 2 ^ (hi + 1)) + v % 2 ^ (hi + 1 - lo))) := by
      rw [e1, e3]; ring
    rw [this, Nat.add_mul_mod_self_left, e3, Nat.mod_mul_right_mod]

namespace Machine

/-- A field reads as the low bits of what was put. -/
theorem State.g_p (s : State) (f : Fld) (i v : Nat) (h : f.lo ≤ f.hi) (h6 : f.hi < 64) :
    (s.p f i v).g f i = v % 2 ^ (f.hi + 1 - f.lo) := by
  unfold State.g State.p
  rw [State.reg_setReg, BitVec.toNat_ofNat, Nat.mod_eq_of_lt (setBits_lt _ _ _ _ _ h h6 (BitVec.isLt _)), bits_setBits _ _ _ _ h]

/-- A field of another register, or of another copy of it, reads as before. -/
theorem State.g_p_reg (s : State) (f f' : Fld) (i j v : Nat) (h : f'.reg ≠ f.reg ∨ j % 65536 ≠ i % 65536) :
    (s.p f i v).g f' j = s.g f' j := by
  unfold State.g State.p
  rw [State.reg_setReg_ne _ _ _ _ _ _ h]

/-- Another field of the same register reads as before. -/
theorem State.g_p_field (s : State) (f f' : Fld) (i v : Nat) (hr : f'.reg = f.reg) (h : f.lo ≤ f.hi) (h6 : f.hi < 64)
    (hd : f.hi < f'.lo ∨ f'.hi < f.lo) (h' : f'.lo ≤ f'.hi) : (s.p f i v).g f' i = s.g f' i := by
  unfold State.g State.p
  rw [hr, State.reg_setReg, BitVec.toNat_ofNat, Nat.mod_eq_of_lt (setBits_lt _ _ _ _ _ h h6 (BitVec.isLt _)),
    bits_setBits_ne _ _ _ _ _ _ h hd h']

theorem State.reg_p_ne (s : State) (f : Fld) (k : RegKind) (i j v : Nat) (h : k ≠ f.reg ∨ j % 65536 ≠ i % 65536) :
    (s.p f i v).reg k j = s.reg k j := by
  unfold State.p
  exact State.reg_setReg_ne _ _ _ _ _ _ h

@[simp] theorem State.slot_setSlot (s : State) (n : Nat) (x : SlotSt) : (s.setSlot n x).slot n = x := by simp [State.slot, State.setSlot]
@[simp] theorem State.carrel_setCarrel (s : State) (n : Nat) (x : Carrel) : (s.setCarrel n x).carrel n = x := by simp [State.carrel, State.setCarrel]
@[simp] theorem State.mem_setMem (s : State) (n : Nat) (x : Memory) : (s.setMem n x).mem n = x := by simp [State.mem, State.setMem]
@[simp] theorem State.ddEnt_setDd (s : State) (n : Nat) (x : DdEnt) : (s.setDd n x).ddEnt n = x := by simp [State.ddEnt, State.setDd]
@[simp] theorem State.csOf_setCs (s : State) (n : Nat) (x : CsSt) : (s.setCs n x).csOf n = x := by simp [State.csOf, State.setCs]
@[simp] theorem State.slipOf_setSlip (s : State) (n : Nat) (x : SlipFr) : (s.setSlip n x).slipOf n = x := by simp [State.slipOf, State.setSlip]
@[simp] theorem State.queue_setQueue (s : State) (n : Nat) (x : QSt) : (s.setQueue n x).queue n = x := by simp [State.queue, State.setQueue]
@[simp] theorem State.xlOf_setXl (s : State) (n : Nat) (x : XlFn) : (s.setXl n x).xlOf n = x := by simp [State.xlOf, State.setXl]
@[simp] theorem State.lendOf_setLend (s : State) (n : Nat) (x : List LendEnt) : (s.setLend n x).lendOf n = x := by simp [State.lendOf, State.setLend]
@[simp] theorem State.fn_setFn (s : State) (n : Nat) (x : FnSt) : (s.setFn n x).fn n = x := by simp [State.fn, State.setFn]
@[simp] theorem State.cage_setCage (s : State) (n : Nat) (x : CageSt) : (s.setCage n x).cage n = x := by simp [State.cage, State.setCage]
@[simp] theorem State.col_setCol (s : State) (n : Nat) (x : ColSt) : (s.setCol n x).col n = x := by simp [State.col, State.setCol]
@[simp] theorem State.qpOf_setQp (s : State) (n : Nat) (x : QpSt) : (s.setQp n x).qpOf n = x := by simp [State.qpOf, State.setQp]
@[simp] theorem State.wing_setWing (s : State) (n : Nat) (x : WingSt) : (s.setWing n x).wing n = x := by simp [State.wing, State.setWing]

theorem State.slot_setSlot_ne (s : State) (n m : Nat) (x : SlotSt) (h : m ≠ n) : (s.setSlot n x).slot m = s.slot m := tget_tset_ne _ _ _ _ _ h
theorem State.carrel_setCarrel_ne (s : State) (n m : Nat) (x : Carrel) (h : m ≠ n) : (s.setCarrel n x).carrel m = s.carrel m := tget_tset_ne _ _ _ _ _ h
theorem State.mem_setMem_ne (s : State) (n m : Nat) (x : Memory) (h : m ≠ n) : (s.setMem n x).mem m = s.mem m := tget_tset_ne _ _ _ _ _ h
theorem State.ddEnt_setDd_ne (s : State) (n m : Nat) (x : DdEnt) (h : m ≠ n) : (s.setDd n x).ddEnt m = s.ddEnt m := tget_tset_ne _ _ _ _ _ h
theorem State.csOf_setCs_ne (s : State) (n m : Nat) (x : CsSt) (h : m ≠ n) : (s.setCs n x).csOf m = s.csOf m := tget_tset_ne _ _ _ _ _ h
theorem State.slipOf_setSlip_ne (s : State) (n m : Nat) (x : SlipFr) (h : m ≠ n) : (s.setSlip n x).slipOf m = s.slipOf m := tget_tset_ne _ _ _ _ _ h
theorem State.queue_setQueue_ne (s : State) (n m : Nat) (x : QSt) (h : m ≠ n) : (s.setQueue n x).queue m = s.queue m := tget_tset_ne _ _ _ _ _ h
theorem State.xlOf_setXl_ne (s : State) (n m : Nat) (x : XlFn) (h : m ≠ n) : (s.setXl n x).xlOf m = s.xlOf m := tget_tset_ne _ _ _ _ _ h
theorem State.lendOf_setLend_ne (s : State) (n m : Nat) (x : List LendEnt) (h : m ≠ n) : (s.setLend n x).lendOf m = s.lendOf m := tget_tset_ne _ _ _ _ _ h
theorem State.fn_setFn_ne (s : State) (n m : Nat) (x : FnSt) (h : m ≠ n) : (s.setFn n x).fn m = s.fn m := tget_tset_ne _ _ _ _ _ h
theorem State.cage_setCage_ne (s : State) (n m : Nat) (x : CageSt) (h : m ≠ n) : (s.setCage n x).cage m = s.cage m := tget_tset_ne _ _ _ _ _ h
theorem State.col_setCol_ne (s : State) (n m : Nat) (x : ColSt) (h : m ≠ n) : (s.setCol n x).col m = s.col m := tget_tset_ne _ _ _ _ _ h
theorem State.qpOf_setQp_ne (s : State) (n m : Nat) (x : QpSt) (h : m ≠ n) : (s.setQp n x).qpOf m = s.qpOf m := tget_tset_ne _ _ _ _ _ h
theorem State.wing_setWing_ne (s : State) (n m : Nat) (x : WingSt) (h : m ≠ n) : (s.setWing n x).wing m = s.wing m := tget_tset_ne _ _ _ _ _ h

@[simp] theorem State.setSlot_setSlot (s : State) (n : Nat) (x y : SlotSt) : (s.setSlot n x).setSlot n y = s.setSlot n y := by simp [State.setSlot]
@[simp] theorem State.setCarrel_setCarrel (s : State) (n : Nat) (x y : Carrel) : (s.setCarrel n x).setCarrel n y = s.setCarrel n y := by simp [State.setCarrel]
@[simp] theorem State.setMem_setMem (s : State) (n : Nat) (x y : Memory) : (s.setMem n x).setMem n y = s.setMem n y := by simp [State.setMem]
@[simp] theorem State.setDd_setDd (s : State) (n : Nat) (x y : DdEnt) : (s.setDd n x).setDd n y = s.setDd n y := by simp [State.setDd]
@[simp] theorem State.setCs_setCs (s : State) (n : Nat) (x y : CsSt) : (s.setCs n x).setCs n y = s.setCs n y := by simp [State.setCs]
@[simp] theorem State.setSlip_setSlip (s : State) (n : Nat) (x y : SlipFr) : (s.setSlip n x).setSlip n y = s.setSlip n y := by simp [State.setSlip]
@[simp] theorem State.setQueue_setQueue (s : State) (n : Nat) (x y : QSt) : (s.setQueue n x).setQueue n y = s.setQueue n y := by simp [State.setQueue]
@[simp] theorem State.setXl_setXl (s : State) (n : Nat) (x y : XlFn) : (s.setXl n x).setXl n y = s.setXl n y := by simp [State.setXl]
@[simp] theorem State.setLend_setLend (s : State) (n : Nat) (x y : List LendEnt) : (s.setLend n x).setLend n y = s.setLend n y := by simp [State.setLend]
@[simp] theorem State.setFn_setFn (s : State) (n : Nat) (x y : FnSt) : (s.setFn n x).setFn n y = s.setFn n y := by simp [State.setFn]
@[simp] theorem State.setCage_setCage (s : State) (n : Nat) (x y : CageSt) : (s.setCage n x).setCage n y = s.setCage n y := by simp [State.setCage]
@[simp] theorem State.setCol_setCol (s : State) (n : Nat) (x y : ColSt) : (s.setCol n x).setCol n y = s.setCol n y := by simp [State.setCol]
@[simp] theorem State.setWing_setWing (s : State) (n : Nat) (x y : WingSt) : (s.setWing n x).setWing n y = s.setWing n y := by simp [State.setWing]

end Machine
end Sys2Proof
end

