-- ==== Sys2Proof/Laws/Act.lean ====
section
/-!
SUPPORT. What the end of a command leaves and sets, and the two forms of a meaning: a command that acts, and one that finds no supply.
-/
namespace Sys2Proof.Machine

/-! ### The interrupt outputs -/

/-- What the interrupt outputs may change: the level signalled, the outbox, the state of the in-band interrupt. -/
theorem State.lines_eq (s : State) : ∃ l o x, s.lines = { s with link := { s.link with intx := l }, out := o, port := x } := by
  have h1 : ∃ l o, s.intxSync = { s with link := { s.link with intx := l }, out := o } := by
    unfold State.intxSync
    dsimp only
    split
    · exact ⟨s.link.intx, s.out, rfl⟩
    · exact ⟨_, _, rfl⟩
  obtain ⟨l, o, h1⟩ := h1
  have h2 : ∀ t : State, ∃ o x, t.ibiSync = { t with out := o, port := x } := by
    intro t
    unfold State.ibiSync
    split_ifs
    · exact ⟨t.out, _, rfl⟩
    · exact ⟨t.out, t.port, rfl⟩
    · exact ⟨_, _, rfl⟩
  obtain ⟨o', x, h2⟩ := h2 s.intxSync
  refine ⟨l, o', x, ?_⟩
  unfold State.lines
  rw [h2, h1]

@[simp] theorem State.lines_rf (s : State) : s.lines.rf = s.rf := by obtain ⟨l, o, x, h⟩ := s.lines_eq; rw [h]
@[simp] theorem State.lines_car (s : State) : s.lines.car = s.car := by obtain ⟨l, o, x, h⟩ := s.lines_eq; rw [h]
@[simp] theorem State.lines_store (s : State) : s.lines.store = s.store := by obtain ⟨l, o, x, h⟩ := s.lines_eq; rw [h]
@[simp] theorem State.lines_slots (s : State) : s.lines.slots = s.slots := by obtain ⟨l, o, x, h⟩ := s.lines_eq; rw [h]
@[simp] theorem State.lines_rels (s : State) : s.lines.rels = s.rels := by obtain ⟨l, o, x, h⟩ := s.lines_eq; rw [h]
@[simp] theorem State.lines_starts (s : State) : s.lines.starts = s.starts := by obtain ⟨l, o, x, h⟩ := s.lines_eq; rw [h]
@[simp] theorem State.lines_dd (s : State) : s.lines.dd = s.dd := by obtain ⟨l, o, x, h⟩ := s.lines_eq; rw [h]
@[simp] theorem State.lines_stamp (s : State) : s.lines.stamp = s.stamp := by obtain ⟨l, o, x, h⟩ := s.lines_eq; rw [h]
@[simp] theorem State.lines_cs (s : State) : s.lines.cs = s.cs := by obtain ⟨l, o, x, h⟩ := s.lines_eq; rw [h]
@[simp] theorem State.lines_slipFr (s : State) : s.lines.slipFr = s.slipFr := by obtain ⟨l, o, x, h⟩ := s.lines_eq; rw [h]
@[simp] theorem State.lines_q (s : State) : s.lines.q = s.q := by obtain ⟨l, o, x, h⟩ := s.lines_eq; rw [h]
@[simp] theorem State.lines_xl (s : State) : s.lines.xl = s.xl := by obtain ⟨l, o, x, h⟩ := s.lines_eq; rw [h]
@[simp] theorem State.lines_hubBuf (s : State) : s.lines.hubBuf = s.hubBuf := by obtain ⟨l, o, x, h⟩ := s.lines_eq; rw [h]
@[simp] theorem State.lines_lend (s : State) : s.lines.lend = s.lend := by obtain ⟨l, o, x, h⟩ := s.lines_eq; rw [h]
@[simp] theorem State.lines_wings (s : State) : s.lines.wings = s.wings := by obtain ⟨l, o, x, h⟩ := s.lines_eq; rw [h]
@[simp] theorem State.lines_coh (s : State) : s.lines.coh = s.coh := by obtain ⟨l, o, x, h⟩ := s.lines_eq; rw [h]
@[simp] theorem State.lines_net (s : State) : s.lines.net = s.net := by obtain ⟨l, o, x, h⟩ := s.lines_eq; rw [h]
@[simp] theorem State.lines_dmem (s : State) : s.lines.dmem = s.dmem := by obtain ⟨l, o, x, h⟩ := s.lines_eq; rw [h]
@[simp] theorem State.lines_cas (s : State) : s.lines.cas = s.cas := by obtain ⟨l, o, x, h⟩ := s.lines_eq; rw [h]
@[simp] theorem State.lines_nic (s : State) : s.lines.nic = s.nic := by obtain ⟨l, o, x, h⟩ := s.lines_eq; rw [h]
@[simp] theorem State.lines_fns (s : State) : s.lines.fns = s.fns := by obtain ⟨l, o, x, h⟩ := s.lines_eq; rw [h]
@[simp] theorem State.lines_cages (s : State) : s.lines.cages = s.cages := by obtain ⟨l, o, x, h⟩ := s.lines_eq; rw [h]
@[simp] theorem State.lines_cols (s : State) : s.lines.cols = s.cols := by obtain ⟨l, o, x, h⟩ := s.lines_eq; rw [h]
@[simp] theorem State.lines_flt (s : State) : s.lines.flt = s.flt := by obtain ⟨l, o, x, h⟩ := s.lines_eq; rw [h]
@[simp] theorem State.lines_evq (s : State) : s.lines.evq = s.evq := by obtain ⟨l, o, x, h⟩ := s.lines_eq; rw [h]
@[simp] theorem State.lines_dev (s : State) : s.lines.dev = s.dev := by obtain ⟨l, o, x, h⟩ := s.lines_eq; rw [h]
@[simp] theorem State.lines_arec (s : State) : s.lines.arec = s.arec := by obtain ⟨l, o, x, h⟩ := s.lines_eq; rw [h]
@[simp] theorem State.lines_pwr (s : State) : s.lines.pwr = s.pwr := by obtain ⟨l, o, x, h⟩ := s.lines_eq; rw [h]
@[simp] theorem State.lines_fw (s : State) : s.lines.fw = s.fw := by obtain ⟨l, o, x, h⟩ := s.lines_eq; rw [h]
@[simp] theorem State.lines_led (s : State) : s.lines.led = s.led := by obtain ⟨l, o, x, h⟩ := s.lines_eq; rw [h]
@[simp] theorem State.lines_fuses (s : State) : s.lines.fuses = s.fuses := by obtain ⟨l, o, x, h⟩ := s.lines_eq; rw [h]
@[simp] theorem State.lines_nvm (s : State) : s.lines.nvm = s.nvm := by obtain ⟨l, o, x, h⟩ := s.lines_eq; rw [h]
@[simp] theorem State.lines_time (s : State) : s.lines.time = s.time := by obtain ⟨l, o, x, h⟩ := s.lines_eq; rw [h]
@[simp] theorem State.lines_free (s : State) : s.lines.free = s.free := by obtain ⟨l, o, x, h⟩ := s.lines_eq; rw [h]
@[simp] theorem State.lines_pending (s : State) : s.lines.pending = s.pending := by obtain ⟨l, o, x, h⟩ := s.lines_eq; rw [h]
@[simp] theorem State.lines_reg' (s : State) (k : RegKind) (j : Nat) : s.lines.reg k j = s.reg k j := by obtain ⟨l, o, x, h⟩ := s.lines_eq; rw [h]; rfl
@[simp] theorem State.lines_g' (s : State) (f : Fld) (j : Nat) : s.lines.g f j = s.g f j := by obtain ⟨l, o, x, h⟩ := s.lines_eq; rw [h]; rfl
@[simp] theorem State.lines_gb' (s : State) (f : Fld) (j : Nat) : s.lines.gb f j = s.gb f j := by obtain ⟨l, o, x, h⟩ := s.lines_eq; rw [h]; rfl
@[simp] theorem State.lines_now' (s : State)  : s.lines.now  = s.now  := by obtain ⟨l, o, x, h⟩ := s.lines_eq; rw [h]; rfl
@[simp] theorem State.lines_slot' (s : State) (j : Nat) : s.lines.slot j = s.slot j := by obtain ⟨l, o, x, h⟩ := s.lines_eq; rw [h]; rfl
@[simp] theorem State.lines_carrel' (s : State) (j : Nat) : s.lines.carrel j = s.carrel j := by obtain ⟨l, o, x, h⟩ := s.lines_eq; rw [h]; rfl
@[simp] theorem State.lines_mem' (s : State) (j : Nat) : s.lines.mem j = s.mem j := by obtain ⟨l, o, x, h⟩ := s.lines_eq; rw [h]; rfl
@[simp] theorem State.lines_ddEnt' (s : State) (j : Nat) : s.lines.ddEnt j = s.ddEnt j := by obtain ⟨l, o, x, h⟩ := s.lines_eq; rw [h]; rfl
@[simp] theorem State.lines_csOf' (s : State) (j : Nat) : s.lines.csOf j = s.csOf j := by obtain ⟨l, o, x, h⟩ := s.lines_eq; rw [h]; rfl
@[simp] theorem State.lines_slipOf' (s : State) (j : Nat) : s.lines.slipOf j = s.slipOf j := by obtain ⟨l, o, x, h⟩ := s.lines_eq; rw [h]; rfl
@[simp] theorem State.lines_queue' (s : State) (j : Nat) : s.lines.queue j = s.queue j := by obtain ⟨l, o, x, h⟩ := s.lines_eq; rw [h]; rfl
@[simp] theorem State.lines_xlOf' (s : State) (j : Nat) : s.lines.xlOf j = s.xlOf j := by obtain ⟨l, o, x, h⟩ := s.lines_eq; rw [h]; rfl
@[simp] theorem State.lines_lendOf' (s : State) (j : Nat) : s.lines.lendOf j = s.lendOf j := by obtain ⟨l, o, x, h⟩ := s.lines_eq; rw [h]; rfl
@[simp] theorem State.lines_fn' (s : State) (j : Nat) : s.lines.fn j = s.fn j := by obtain ⟨l, o, x, h⟩ := s.lines_eq; rw [h]; rfl
@[simp] theorem State.lines_cage' (s : State) (j : Nat) : s.lines.cage j = s.cage j := by obtain ⟨l, o, x, h⟩ := s.lines_eq; rw [h]; rfl
@[simp] theorem State.lines_col' (s : State) (j : Nat) : s.lines.col j = s.col j := by obtain ⟨l, o, x, h⟩ := s.lines_eq; rw [h]; rfl
@[simp] theorem State.lines_qpOf' (s : State) (j : Nat) : s.lines.qpOf j = s.qpOf j := by obtain ⟨l, o, x, h⟩ := s.lines_eq; rw [h]; rfl
@[simp] theorem State.lines_wing' (s : State) (j : Nat) : s.lines.wing j = s.wing j := by obtain ⟨l, o, x, h⟩ := s.lines_eq; rw [h]; rfl
@[simp] theorem State.lines_partCount' (s : State)  : s.lines.partCount  = s.partCount  := by obtain ⟨l, o, x, h⟩ := s.lines_eq; rw [h]; rfl
@[simp] theorem State.lines_part' (s : State) (j : Nat) : s.lines.part j = s.part j := by obtain ⟨l, o, x, h⟩ := s.lines_eq; rw [h]; rfl
@[simp] theorem State.lines_slotsOf' (s : State) (j : Nat) : s.lines.slotsOf j = s.slotsOf j := by obtain ⟨l, o, x, h⟩ := s.lines_eq; rw [h]; rfl
@[simp] theorem State.lines_partOf' (s : State) (j : Nat) : s.lines.partOf j = s.partOf j := by obtain ⟨l, o, x, h⟩ := s.lines_eq; rw [h]; rfl
@[simp] theorem State.lines_owns' (s : State) (j m : Nat) : s.lines.owns j m = s.owns j m := by obtain ⟨l, o, x, h⟩ := s.lines_eq; rw [h]; rfl
@[simp] theorem State.lines_fnOf' (s : State) (j : Nat) : s.lines.fnOf j = s.fnOf j := by obtain ⟨l, o, x, h⟩ := s.lines_eq; rw [h]; rfl
@[simp] theorem State.lines_phys' (s : State) (j : Nat) : s.lines.phys j = s.phys j := by obtain ⟨l, o, x, h⟩ := s.lines_eq; rw [h]; rfl

@[simp] theorem State.lines_up (s : State) : s.lines.link.up = s.link.up := by obtain ⟨l, o, x, h⟩ := s.lines_eq; rw [h]
@[simp] theorem State.lines_reqs (s : State) : s.lines.link.reqs = s.link.reqs := by obtain ⟨l, o, x, h⟩ := s.lines_eq; rw [h]
@[simp] theorem State.lines_intLevel (s : State) : s.lines.intLevel = s.intLevel := by obtain ⟨l, o, x, h⟩ := s.lines_eq; rw [h]; rfl

/-- What had been sent stays sent. -/
theorem State.lines_out (s : State) : s.out <+: s.lines.out := by
  have h1 : s.out <+: s.intxSync.out := by
    unfold State.intxSync; dsimp only; split
    · exact List.prefix_refl _
    · exact List.prefix_append _ _
  have h2 : ∀ t : State, t.out <+: t.ibiSync.out := by
    intro t; unfold State.ibiSync; split_ifs
    · exact List.prefix_refl _
    · exact List.prefix_refl _
    · exact List.prefix_append _ _
  exact h1.trans (h2 _)

/-- While the link is up the signalled level is the live one. -/
theorem State.lines_intx (s : State) (h : s.link.up = true) : s.lines.link.intx = (s.intLevel && !(s.fn 0).intDis) := by
  have h1 : s.intxSync.link.intx = (s.intLevel && !(s.fn 0).intDis) := by
    unfold State.intxSync; dsimp only
    split
    · rename_i h'
      rcases h' with h' | h'
      · exact h'.symm
      · simp [h] at h'
    · rfl
  have h2 : ∀ t : State, t.ibiSync.link = t.link := by
    intro t; unfold State.ibiSync; split_ifs <;> rfl
  unfold State.lines
  rw [h2, h1]

/-! ### The end of a command -/

/-- A ledger record changes the ledger alone. -/
theorem State.ledger_eq (s : State) (t : Nat) (b : Bytes) : ∃ l, s.ledger t b = { s with led := l } := by
  have hp : ∀ (s : State) (r : LRec), ∃ l, s.putLRec r = { s with led := l } := fun s r => ⟨_, rfl⟩
  have hf : ∀ (xs : List Nat) (s : State) (g : State → Nat → LRec),
      ∃ l, xs.foldl (fun s f => s.putLRec (g s f)) s = { s with led := l } := by
    intro xs
    induction xs with
    | nil => intro s g; exact ⟨s.led, rfl⟩
    | cons x xs ih =>
      intro s g
      obtain ⟨l, h⟩ := hp s (g s x)
      obtain ⟨l', h'⟩ := ih (s.putLRec (g s x)) g
      exact ⟨l', by rw [List.foldl_cons, h', h]⟩
  unfold State.ledger
  split
  · exact ⟨s.led, rfl⟩
  · exact hf s.ledgerFmts s fun s f => { seq := 0, typ := t, fmt := f, stamp := s.now, cal := s.calendar s.now, body := slice b 0 224 }

theorem State.safeLedger_quiet (s : State) (h : s.dev.safeRec = false) : s.safeLedger = s := by
  unfold State.safeLedger; rw [if_neg (by simp [h])]

theorem State.safeLedger_evq (s : State) : s.safeLedger.evq = s.evq ∧ s.safeLedger.dev.safeRec = false := by
  unfold State.safeLedger
  split
  · dsimp only
    obtain ⟨l, h⟩ := State.ledger_eq { s with dev := { s.dev with safeRec := false } } 0xB (natLe 8 (s.reg .SAFE_CAUSE 0).toNat)
    have h' : ({ s with dev := { s.dev with safeRec := false } } : State).reg .SAFE_CAUSE 0 = s.reg .SAFE_CAUSE 0 := rfl
    rw [h', h]
    exact ⟨rfl, rfl⟩
  · exact ⟨rfl, by cases hs : s.dev.safeRec <;> simp_all⟩

theorem State.collectN_evq (n : Nat) (s : State) : (s.collectN n).evq = [] := by
  induction n generalizing s with
  | zero => rfl
  | succ n ih =>
    unfold State.collectN
    split
    · assumption
    · exact ih _

theorem State.collectN_nil (n : Nat) (s : State) (h : s.evq = []) : s.collectN n = s := by
  cases n with
  | zero => unfold State.collectN; cases s; simp_all
  | succ n => unfold State.collectN; rw [h]

theorem State.evSort_nil (s : State) (h : s.evq = []) : s.evSort = s := by
  unfold State.evSort; rw [h]; cases s; simp_all

theorem State.evSort_one (s : State) (e : Event) (h : s.evq = [e]) : s.evSort = s := by
  unfold State.evSort; rw [h]; cases s; simp_all [evInsert]

/-- Where nothing waits the end of a command only lets the interrupt outputs follow. -/
theorem State.fin_quiet (s : State) (h : s.Quiet) : s.fin = s.lines := by
  unfold State.fin
  rw [State.evSort_nil _ h.1, State.collectN_nil _ _ h.1, State.safeLedger_quiet _ h.2]

theorem State.fin_settled (s : State) : s.fin.Settled := by
  unfold State.fin State.Settled State.Quiet
  have h := State.safeLedger_evq (s.evSort.collectN (64 + 8 * s.evq.length))
  refine ⟨⟨?_, ?_⟩, ?_⟩
  · rw [State.lines_evq, h.1, State.collectN_evq]
  · rw [State.lines_dev, h.2]
  · intro hu
    rw [State.lines_up] at hu
    rw [State.lines_intx _ hu]
    simp

theorem State.settled_inputsOf (t s : State) (h : t.Settled) : (t.inputsOf s).Settled := h

/-! ### The meanings -/

/-- Without supply, or with COLD_RST_N asserted, nothing happens. -/
theorem act_unpowered (s : State) (f : State → State) (h : ¬ s.Powered) : act s f = .next s := by
  unfold act
  rw [if_pos]
  unfold State.Powered at h
  cases hc : s.dev.cold <;> cases ho : s.pwr.off <;> simp_all

theorem act_powered (s : State) (f : State → State) (h : s.Powered) : act s f = .next ((f s).fin.inputsOf s) := by
  unfold act
  rw [if_neg]
  simp [h.1, h.2]

/-- The next state of a command that raises no event: what it does, the interrupt outputs following. -/
theorem act_quiet (s : State) (f : State → State) (h : s.Powered) (hq : (f s).Quiet) (hp : (f s).pending = s.pending)
    (hc : (f s).dev.cold = false) : act s f = .next (f s).lines := by
  rw [act_powered s f h, State.fin_quiet _ hq]
  congr 1
  have h1 : (f s).lines.pending = s.pending := by rw [State.lines_pending, hp]
  have h2 : (f s).lines.dev.cold = s.dev.cold := by rw [State.lines_dev, hc, h.1]
  unfold State.inputsOf
  rw [← h1, ← h2]

/-- A command leaves the queue and COLD_RST_N, which only their own rows drive. -/
theorem act_inputs (s t : State) (f : State → State) (h : act s f = .next t) : t.pending = s.pending ∧ t.dev.cold = s.dev.cold := by
  unfold act at h
  split at h <;> cases h <;> exact ⟨rfl, rfl⟩

theorem act_settled (s t : State) (f : State → State) (hs : s.Settled) (h : act s f = .next t) : t.Settled := by
  unfold act at h
  split at h <;> cases h
  · exact hs
  · exact State.settled_inputsOf _ _ (State.fin_settled _)

/-- A command that changes nothing of a settled device changes nothing at all but the in-band interrupt, which may be due. -/
theorem hostReg_open (s : State) (fn off : Nat) (f : State → State) (h : s.hostMay fn off = true) : hostReg s fn off f = act s f := by
  unfold hostReg act
  simp [h]

end Sys2Proof.Machine
end

