-- ==== Sys2Proof/Laws/Exec.lean ====
section
/-!
SUPPORT. The form of every arm of `exec`: apart from the rows of input pins, a command acts under supply and not otherwise.
-/
namespace Sys2Proof.Machine

/-- Every command but the rows of the input pins has the form `act`. -/
theorem exec_act (c : Instr) (h : actsUnpowered c = false) : ∃ f : State → State, ∀ s, exec c s = act s f := by
  cases c
  case coldResetAssert => exact absurd h (by decide)
  case capInFall => exact absurd h (by simp [actsUnpowered])
  case capInRise => exact absurd h (by simp [actsUnpowered])
  case serdesRefclkLoss => exact absurd h (by simp [actsUnpowered])
  case serdesRefclkReturn => exact absurd h (by simp [actsUnpowered])
  case coldResetRelease => exact absurd h (by simp [actsUnpowered])
  case vin44Undervoltage => exact absurd h (by decide)
  case vin44Overvoltage => exact absurd h (by decide)
  case vin44Loss => exact absurd h (by decide)
  case vin44PowerUp => exact absurd h (by decide)
  all_goals exact ⟨_, fun _ => rfl⟩

end Sys2Proof.Machine
end

