-- ==== Sys2Proof/Laws/Line.lean ====
section
/-!
SUPPORT. What one line of a folio does: the operations of its slots, its registers and its stores (02 R48 to R69, R79).
-/
namespace Sys2Proof.Machine

/-! ### Registers of a carrel -/

theorem regVal_sset (x : Carrel) (d v : Nat) (r : RegName) (h : r ≠ .S d) : regVal (sset x d v) r = regVal x r := by
  cases r <;> simp only [regVal, sset, sget, pget, vget, aget] <;> split_ifs <;> try rfl
  rename_i n h1 h2
  rw [tget_tset_ne]; rintro rfl; exact h rfl

theorem regVal_pset (x : Carrel) (d v : Nat) (r : RegName) (h : r ≠ .P d) : regVal (pset x d v) r = regVal x r := by
  cases r <;> simp only [regVal, pset, sget, pget, vget, aget] <;> split_ifs <;> try rfl
  rename_i n h1 h2
  rw [tget_tset_ne]; rintro rfl; exact h rfl

theorem regVal_vset (x : Carrel) (d v : Nat) (r : RegName) (h : r ≠ .V d) : regVal (vset x d v) r = regVal x r := by
  cases r <;> simp only [regVal, vset, sget, pget, vget, aget]
  rename_i n
  rw [tget_tset_ne]; rintro rfl; exact h rfl

theorem regVal_aset (x : Carrel) (d v : Nat) (r : RegName) (h : r ≠ .A d) : regVal (aset x d v) r = regVal x r := by
  cases r <;> simp only [regVal, aset, sget, pget, vget, aget]
  rename_i n
  rw [tget_tset_ne]; rintro rfl; exact h rfl

theorem regVal_addTroubles (x : Carrel) (t : Troubles) (r : RegName) : regVal (addTroubles x t) r = regVal x r := by cases r <;> rfl

@[simp] theorem sget_zero (x : Carrel) : sget x 0 = 0 := rfl
@[simp] theorem pget_zero (x : Carrel) : pget x 0 = 2 ^ 64 - 1 := rfl

theorem sget_sset (x : Carrel) (d v : Nat) : sget (sset x d v) d = if d = 0 then 0 else v % 2 ^ 64 := by
  unfold sget sset; split_ifs
  · rfl
  · simp

theorem pget_pset (x : Carrel) (d v : Nat) : pget (pset x d v) d = if d = 0 then 2 ^ 64 - 1 else v % 2 ^ 64 := by
  unfold pget pset; split_ifs
  · rfl
  · simp

theorem vget_vset (x : Carrel) (d v : Nat) : vget (vset x d v) d = (BitVec.ofNat 512 v).toNat := by
  unfold vget vset; rw [tget_tset_same]

theorem aget_aset (x : Carrel) (d v : Nat) : aget (aset x d v) d = (BitVec.ofNat 32768 v).toNat := by
  unfold aget aset; rw [tget_tset_same]

/-! ### What an operation may touch -/

/-- What a carrel holds beside its registers and a line may change. -/
inductive Aspect where
  | lp | run | arrived | xfers | trb | pass
deriving DecidableEq, Repr

/-- That part of a carrel alone. -/
def Aspect.of (a : Aspect) (x : Carrel) : Carrel :=
  match a with
  | .lp => { lp := x.lp } | .run => { run := x.run } | .arrived => { arrived := x.arrived } | .xfers => { xfers := x.xfers }
  | .trb => { trb := x.trb } | .pass => { pass := x.pass }

/-- `t` differs from `s` at most in the registers `R`, the bytes `M` and the parts `A` of the physical carrel `p`, and in the pass counters of other
carrels. -/
def Touches (p : Nat) (R : RegName → Prop) (M : Nat → Prop) (A : Aspect → Prop) (s t : State) : Prop :=
  t = { s with car := t.car, store := t.store } ∧
  (∀ r, ¬ R r → regVal (t.carrel p) r = regVal (s.carrel p) r) ∧
  (∀ a, ¬ M a → (t.mem p).byte a = (s.mem p).byte a) ∧
  (∀ q, q ≠ p → t.mem q = s.mem q ∧ t.carrel q = { s.carrel q with pass := (t.carrel q).pass }) ∧
  (∀ a, ¬ A a → a.of (t.carrel p) = a.of (s.carrel p)) ∧
  (t.carrel p).cycles = (s.carrel p).cycles

theorem Touches.refl (p : Nat) (R : RegName → Prop) (M : Nat → Prop) (A : Aspect → Prop) (s : State) : Touches p R M A s s :=
  ⟨rfl, fun _ _ => rfl, fun _ _ => rfl, fun _ _ => ⟨rfl, rfl⟩, fun _ _ => rfl, rfl⟩

theorem Touches.trans {p : Nat} {R R' : RegName → Prop} {M M' : Nat → Prop} {A A' : Aspect → Prop} {s t u : State}
    (h : Touches p R M A s t) (h' : Touches p R' M' A' t u) :
    Touches p (fun r => R r ∨ R' r) (fun a => M a ∨ M' a) (fun a => A a ∨ A' a) s u := by
  refine ⟨?_, ?_, ?_, ?_, ?_, ?_⟩
  · rw [h'.1, h.1]
  · intro r hr; rw [h'.2.1 r (fun x => hr (Or.inr x)), h.2.1 r (fun x => hr (Or.inl x))]
  · intro a ha; rw [h'.2.2.1 a (fun x => ha (Or.inr x)), h.2.2.1 a (fun x => ha (Or.inl x))]
  · intro q hq
    obtain ⟨m1, c1⟩ := h.2.2.2.1 q hq
    obtain ⟨m2, c2⟩ := h'.2.2.2.1 q hq
    refine ⟨by rw [m2, m1], ?_⟩
    rw [c2, c1]
  · intro a ha; rw [h'.2.2.2.2.1 a (fun x => ha (Or.inr x)), h.2.2.2.2.1 a (fun x => ha (Or.inl x))]
  · rw [h'.2.2.2.2.2, h.2.2.2.2.2]

theorem Touches.mono {p : Nat} {R R' : RegName → Prop} {M M' : Nat → Prop} {A A' : Aspect → Prop} {s t : State} (h : Touches p R M A s t)
    (hr : ∀ r, R r → R' r) (hm : ∀ a, M a → M' a) (ha : ∀ a, A a → A' a) : Touches p R' M' A' s t :=
  ⟨h.1, fun r x => h.2.1 r (fun y => x (hr r y)), fun a x => h.2.2.1 a (fun y => x (hm a y)), h.2.2.2.1,
    fun a x => h.2.2.2.2.1 a (fun y => x (ha a y)), h.2.2.2.2.2⟩

theorem touches_onCar (k : Ctx) (R : RegName → Prop) (M : Nat → Prop) (A : Aspect → Prop) (s : State) (f : Carrel → Carrel)
    (h : ∀ x r, ¬ R r → regVal (f x) r = regVal x r) (ha : ∀ x a, ¬ A a → a.of (f x) = a.of x) (hc : ∀ x, (f x).cycles = x.cycles) :
    Touches k.p R M A s (s.onCar k f) := by
  refine ⟨rfl, ?_, fun _ _ => rfl, ?_, ?_, ?_⟩
  · intro r hr; simp [State.onCar, h _ r hr]
  · intro q hq; refine ⟨rfl, ?_⟩
    simp [State.onCar, State.carrel_setCarrel_ne _ _ _ _ hq]
  · intro a hA; simp [State.onCar, ha _ a hA]
  · simp [State.onCar, hc]

theorem touches_onMem (k : Ctx) (R : RegName → Prop) (M : Nat → Prop) (A : Aspect → Prop) (s : State) (f : Memory → Memory)
    (h : ∀ m a, ¬ M a → (f m).byte a = m.byte a) : Touches k.p R M A s (s.onMem k f) := by
  refine ⟨rfl, fun _ _ => rfl, ?_, ?_, fun _ _ => rfl, rfl⟩
  · intro a ha; simp [State.onMem, h _ a ha]
  · intro q hq; refine ⟨?_, rfl⟩
    simp [State.onMem, State.mem_setMem_ne _ _ _ _ hq]

theorem foldl_write_out (xs : List Nat) (a : Nat) (g : Nat → Bytes) (m : Memory) (b : Nat)
    (h : ∀ i ∈ xs, b < a + 8 * i ∨ a + 8 * i + (g i).length ≤ b) :
    (xs.foldl (fun m i => m.write (a + 8 * i) (g i)) m).byte b = m.byte b := by
  induction xs generalizing m with
  | nil => rfl
  | cons x xs ih =>
    rw [List.foldl_cons, ih _ (fun i hi => h i (List.mem_cons_of_mem _ hi)), Memory.byte_write_out _ _ _ _ (h x (by simp))]

theorem natLe_length (n x : Nat) : (natLe n x).length = n := by
  induction n generalizing x with
  | zero => rfl
  | succ n ih => simp [natLe, ih]

theorem touch_S (k : Ctx) (s : State) (d : Nat) (v : Carrel → Nat) {R : RegName → Prop} {M : Nat → Prop} {A : Aspect → Prop} (h : R (.S d)) :
    Touches k.p R M A s (s.onCar k fun x => sset x d (v x)) :=
  touches_onCar k R M A s _ (fun x r hr => regVal_sset x d (v x) r (by rintro rfl; exact hr h)) (fun x a _ => by unfold sset; split <;> cases a <;> rfl) (fun x => by unfold sset; split <;> rfl)

theorem touch_P (k : Ctx) (s : State) (d : Nat) (v : Carrel → Nat) {R : RegName → Prop} {M : Nat → Prop} {A : Aspect → Prop} (h : R (.P d)) :
    Touches k.p R M A s (s.onCar k fun x => pset x d (v x)) :=
  touches_onCar k R M A s _ (fun x r hr => regVal_pset x d (v x) r (by rintro rfl; exact hr h)) (fun x a _ => by unfold pset; split <;> cases a <;> rfl) (fun x => by unfold pset; split <;> rfl)

theorem touch_V (k : Ctx) (s : State) (d : Nat) (v : Carrel → Nat) {R : RegName → Prop} {M : Nat → Prop} {A : Aspect → Prop} (h : R (.V d)) :
    Touches k.p R M A s (s.onCar k fun x => vset x d (v x)) :=
  touches_onCar k R M A s _ (fun x r hr => regVal_vset x d (v x) r (by rintro rfl; exact hr h)) (fun x a _ => by cases a <;> rfl) (fun _ => rfl)

theorem touch_A (k : Ctx) (s : State) (d : Nat) (v : Carrel → Nat) {R : RegName → Prop} {M : Nat → Prop} {A : Aspect → Prop} (h : R (.A d)) :
    Touches k.p R M A s (s.onCar k fun x => aset x d (v x)) :=
  touches_onCar k R M A s _ (fun x r hr => regVal_aset x d (v x) r (by rintro rfl; exact hr h)) (fun x a _ => by cases a <;> rfl) (fun _ => rfl)

/-- A change of what is no register. -/
theorem touch_none (k : Ctx) (s : State) (f : Carrel → Carrel) {R : RegName → Prop} {M : Nat → Prop} {A : Aspect → Prop}
    (h : ∀ x r, regVal (f x) r = regVal x r) (ha : ∀ x a, ¬ A a → a.of (f x) = a.of x) (hc : ∀ x, (f x).cycles = x.cycles) :
    Touches k.p R M A s (s.onCar k f) :=
  touches_onCar k R M A s f (fun x r _ => h x r) ha hc

theorem touch_write (k : Ctx) (s : State) (a : Nat) (bs : Bytes) {R : RegName → Prop} {M : Nat → Prop} {A : Aspect → Prop}
    (h : ∀ b, a ≤ b → b < a + bs.length → M b) : Touches k.p R M A s (s.onMem k fun m => m.write a bs) :=
  touches_onMem k R M A s _ fun m b hb => Memory.byte_write_out m a bs b (by
    by_contra hn; apply hb; apply h <;> omega)

theorem touch_pass (k : Ctx) (s : State) (p d v : Nat) {R : RegName → Prop} {M : Nat → Prop} {A : Aspect → Prop} (hA : A .pass) :
    Touches k.p R M A s (s.setCarrel p (passSet (s.carrel p) d v)) := by
  have hv : ∀ x r, regVal (passSet x d v) r = regVal x r := by intro x r; cases r <;> rfl
  refine ⟨rfl, ?_, fun _ _ => rfl, ?_, ?_, ?_⟩
  · intro r _
    by_cases h : k.p = p
    · rw [h, State.carrel_setCarrel, hv]
    · rw [State.carrel_setCarrel_ne _ _ _ _ h]
  · intro q hq; refine ⟨rfl, ?_⟩
    by_cases h : q = p
    · rw [h, State.carrel_setCarrel]; rfl
    · rw [State.carrel_setCarrel_ne _ _ _ _ h]
  · intro a ha
    by_cases h : k.p = p
    · rw [h, State.carrel_setCarrel]; cases a <;> first | rfl | exact absurd hA ha
    · rw [State.carrel_setCarrel_ne _ _ _ _ h]
  · by_cases h : k.p = p
    · rw [h, State.carrel_setCarrel]; rfl
    · rw [State.carrel_setCarrel_ne _ _ _ _ h]

/-- The registers that an operation of a line may set; S0 and P0 keep their constants. -/
def inWrites (o : Op) (w : Nat) (n : RegName) : Prop := n ∈ Op.writes o w ∨ n = .S 0 ∨ n = .P 0

/-- What an operation may change beside registers and store. -/
def opAspects : Op → List Aspect
  | .BR | .LOOP => [.lp]
  | .HALT => [.run]
  | .BAR => [.run, .arrived]
  | .MLD | .MST | .MLD2 | .MST2 | .MTOUCH | .LCOPY => [.xfers]
  | .PASS => [.xfers, .pass]
  | .VCVT | .MMA | .MMAM => [.trb]
  | _ => []

theorem inS {o : Op} {w d : Nat} (h : Op.writes o w = if d = 0 then [] else [.S d]) : inWrites o w (.S d) := by
  unfold inWrites; rw [h]; by_cases hd : d = 0 <;> simp [hd]

theorem inP {o : Op} {w d : Nat} (h : Op.writes o w = if d = 0 then [] else [.P d]) : inWrites o w (.P d) := by
  unfold inWrites; rw [h]; by_cases hd : d = 0 <;> simp [hd]

/-- The bytes of the store that an operation may set. -/
def inStores (s : State) (k : Ctx) (o : Op) (w : Nat) (a : Nat) : Prop := ∃ e ∈ (s.opRanges k o w).2, e.1 ≤ a ∧ a < e.2

theorem simm_add (a w : Nat) : (a + simm w) % 2 ^ 64 = (a + (cImm w + (if cImm w < 2 ^ 31 then 0 else 2 ^ 64 - 2 ^ 32))) % 2 ^ 64 := by
  unfold simm; rw [Nat.add_mod_mod]

theorem simm16_add (a w : Nat) :
    (a + simm16 w) % 2 ^ 64 = (a + lImm w + (if lImm w < 2 ^ 15 then 0 else 2 ^ 64 - 2 ^ 16)) % 2 ^ 64 := by
  unfold simm16; rw [Nat.add_mod_mod, Nat.add_assoc]

theorem touches_ADD (k : Ctx) (r : Src) (w : Nat) (s s0 : State) :
    Touches k.p (inWrites .ADD w) (inStores s0 k .ADD w) (· ∈ opAspects .ADD) s (effAdd k r w s) := by
  unfold effAdd effAlu
  exact touch_S k s (cD w) _ (inS rfl)


theorem touches_SUB (k : Ctx) (r : Src) (w : Nat) (s s0 : State) :
    Touches k.p (inWrites .SUB w) (inStores s0 k .SUB w) (· ∈ opAspects .SUB) s (effSub k r w s) := by
  unfold effSub effAlu
  exact touch_S k s (cD w) _ (inS rfl)


theorem touches_MUL (k : Ctx) (r : Src) (w : Nat) (s s0 : State) :
    Touches k.p (inWrites .MUL w) (inStores s0 k .MUL w) (· ∈ opAspects .MUL) s (effMul k r w s) := by
  unfold effMul effAlu
  exact touch_S k s (cD w) _ (inS rfl)


theorem touches_AND (k : Ctx) (r : Src) (w : Nat) (s s0 : State) :
    Touches k.p (inWrites .AND w) (inStores s0 k .AND w) (· ∈ opAspects .AND) s (effAnd k r w s) := by
  unfold effAnd effAlu
  exact touch_S k s (cD w) _ (inS rfl)


theorem touches_OR (k : Ctx) (r : Src) (w : Nat) (s s0 : State) :
    Touches k.p (inWrites .OR w) (inStores s0 k .OR w) (· ∈ opAspects .OR) s (effOr k r w s) := by
  unfold effOr effAlu
  exact touch_S k s (cD w) _ (inS rfl)


theorem touches_XOR (k : Ctx) (r : Src) (w : Nat) (s s0 : State) :
    Touches k.p (inWrites .XOR w) (inStores s0 k .XOR w) (· ∈ opAspects .XOR) s (effXor k r w s) := by
  unfold effXor effAlu
  exact touch_S k s (cD w) _ (inS rfl)


theorem touches_SHL (k : Ctx) (r : Src) (w : Nat) (s s0 : State) :
    Touches k.p (inWrites .SHL w) (inStores s0 k .SHL w) (· ∈ opAspects .SHL) s (effShl k r w s) := by
  unfold effShl effAlu
  exact touch_S k s (cD w) _ (inS rfl)


theorem touches_SHR (k : Ctx) (r : Src) (w : Nat) (s s0 : State) :
    Touches k.p (inWrites .SHR w) (inStores s0 k .SHR w) (· ∈ opAspects .SHR) s (effShr k r w s) := by
  unfold effShr effAlu
  exact touch_S k s (cD w) _ (inS rfl)


theorem touches_SRA (k : Ctx) (r : Src) (w : Nat) (s s0 : State) :
    Touches k.p (inWrites .SRA w) (inStores s0 k .SRA w) (· ∈ opAspects .SRA) s (effSra k r w s) := by
  unfold effSra effAlu
  exact touch_S k s (cD w) _ (inS rfl)


theorem touches_LI (k : Ctx) (r : Src) (w : Nat) (s s0 : State) :
    Touches k.p (inWrites .LI w) (inStores s0 k .LI w) (· ∈ opAspects .LI) s (effLi k r w s) := by
  unfold effLi
  exact touch_S k s (cD w) _ (inS rfl)


theorem touches_LUI (k : Ctx) (r : Src) (w : Nat) (s s0 : State) :
    Touches k.p (inWrites .LUI w) (inStores s0 k .LUI w) (· ∈ opAspects .LUI) s (effLui k r w s) := by
  unfold effLui
  exact touch_S k s (cD w) _ (inS rfl)


theorem touches_SEL (k : Ctx) (r : Src) (w : Nat) (s s0 : State) :
    Touches k.p (inWrites .SEL w) (inStores s0 k .SEL w) (· ∈ opAspects .SEL) s (effSel k r w s) := by
  unfold effSel
  exact touch_S k s (cD w) _ (inS rfl)


theorem touches_LD (k : Ctx) (r : Src) (w : Nat) (s s0 : State) :
    Touches k.p (inWrites .LD w) (inStores s0 k .LD w) (· ∈ opAspects .LD) s (effLd k r w s) := by
  unfold effLd
  exact touch_S k s (cD w) _ (inS rfl)


theorem touches_RDSR (k : Ctx) (r : Src) (w : Nat) (s s0 : State) :
    Touches k.p (inWrites .RDSR w) (inStores s0 k .RDSR w) (· ∈ opAspects .RDSR) s (effRdsr k r w s) := by
  unfold effRdsr
  exact touch_S k s (cD w) _ (inS rfl)


theorem touches_CMP (k : Ctx) (r : Src) (w : Nat) (s s0 : State) :
    Touches k.p (inWrites .CMP w) (inStores s0 k .CMP w) (· ∈ opAspects .CMP) s (effCmp k r w s) := by
  unfold effCmp
  exact touch_P k s (cD w) _ (inP rfl)


theorem touches_PLOG (k : Ctx) (r : Src) (w : Nat) (s s0 : State) :
    Touches k.p (inWrites .PLOG w) (inStores s0 k .PLOG w) (· ∈ opAspects .PLOG) s (effPlog k r w s) := by
  unfold effPlog
  exact touch_P k s (cD w) _ (inP rfl)


theorem touches_VCMP (k : Ctx) (r : Src) (w : Nat) (s s0 : State) :
    Touches k.p (inWrites .VCMP w) (inStores s0 k .VCMP w) (· ∈ opAspects .VCMP) s (effVcmp k r w s) := by
  unfold effVcmp
  exact touch_P k s (vD w) _ (inP rfl)


theorem touches_VLD (k : Ctx) (r : Src) (w : Nat) (s s0 : State) :
    Touches k.p (inWrites .VLD w) (inStores s0 k .VLD w) (· ∈ opAspects .VLD) s (effVld k r w s) := by
  unfold effVld
  exact touch_V k s (lV w) _ (Or.inl (List.mem_singleton.mpr rfl))


theorem touches_VGATHER (k : Ctx) (r : Src) (w : Nat) (s s0 : State) :
    Touches k.p (inWrites .VGATHER w) (inStores s0 k .VGATHER w) (· ∈ opAspects .VGATHER) s (effVgather k r w s) := by
  unfold effVgather
  exact touch_V k s (lV w) _ (Or.inl (List.mem_singleton.mpr rfl))


theorem touches_VADD (k : Ctx) (r : Src) (w : Nat) (s s0 : State) :
    Touches k.p (inWrites .VADD w) (inStores s0 k .VADD w) (· ∈ opAspects .VADD) s (effVadd k r w s) := by
  unfold effVadd effVec
  exact touch_V k s (vD w) _ (Or.inl (List.mem_singleton.mpr rfl))


theorem touches_VSUB (k : Ctx) (r : Src) (w : Nat) (s s0 : State) :
    Touches k.p (inWrites .VSUB w) (inStores s0 k .VSUB w) (· ∈ opAspects .VSUB) s (effVsub k r w s) := by
  unfold effVsub effVec
  exact touch_V k s (vD w) _ (Or.inl (List.mem_singleton.mpr rfl))


theorem touches_VMUL (k : Ctx) (r : Src) (w : Nat) (s s0 : State) :
    Touches k.p (inWrites .VMUL w) (inStores s0 k .VMUL w) (· ∈ opAspects .VMUL) s (effVmul k r w s) := by
  unfold effVmul effVec
  exact touch_V k s (vD w) _ (Or.inl (List.mem_singleton.mpr rfl))


theorem touches_VFMA (k : Ctx) (r : Src) (w : Nat) (s s0 : State) :
    Touches k.p (inWrites .VFMA w) (inStores s0 k .VFMA w) (· ∈ opAspects .VFMA) s (effVfma k r w s) := by
  unfold effVfma effVec
  exact touch_V k s (vD w) _ (Or.inl (List.mem_singleton.mpr rfl))


theorem touches_VMAX (k : Ctx) (r : Src) (w : Nat) (s s0 : State) :
    Touches k.p (inWrites .VMAX w) (inStores s0 k .VMAX w) (· ∈ opAspects .VMAX) s (effVmax k r w s) := by
  unfold effVmax effVec
  exact touch_V k s (vD w) _ (Or.inl (List.mem_singleton.mpr rfl))


theorem touches_VMIN (k : Ctx) (r : Src) (w : Nat) (s s0 : State) :
    Touches k.p (inWrites .VMIN w) (inStores s0 k .VMIN w) (· ∈ opAspects .VMIN) s (effVmin k r w s) := by
  unfold effVmin effVec
  exact touch_V k s (vD w) _ (Or.inl (List.mem_singleton.mpr rfl))


theorem touches_VAND (k : Ctx) (r : Src) (w : Nat) (s s0 : State) :
    Touches k.p (inWrites .VAND w) (inStores s0 k .VAND w) (· ∈ opAspects .VAND) s (effVand k r w s) := by
  unfold effVand effVec
  exact touch_V k s (vD w) _ (Or.inl (List.mem_singleton.mpr rfl))


theorem touches_VOR (k : Ctx) (r : Src) (w : Nat) (s s0 : State) :
    Touches k.p (inWrites .VOR w) (inStores s0 k .VOR w) (· ∈ opAspects .VOR) s (effVor k r w s) := by
  unfold effVor effVec
  exact touch_V k s (vD w) _ (Or.inl (List.mem_singleton.mpr rfl))


theorem touches_VXOR (k : Ctx) (r : Src) (w : Nat) (s s0 : State) :
    Touches k.p (inWrites .VXOR w) (inStores s0 k .VXOR w) (· ∈ opAspects .VXOR) s (effVxor k r w s) := by
  unfold effVxor effVec
  exact touch_V k s (vD w) _ (Or.inl (List.mem_singleton.mpr rfl))


theorem touches_VSH (k : Ctx) (r : Src) (w : Nat) (s s0 : State) :
    Touches k.p (inWrites .VSH w) (inStores s0 k .VSH w) (· ∈ opAspects .VSH) s (effVsh k r w s) := by
  unfold effVsh effVec
  exact touch_V k s (vD w) _ (Or.inl (List.mem_singleton.mpr rfl))


theorem touches_VMOV (k : Ctx) (r : Src) (w : Nat) (s s0 : State) :
    Touches k.p (inWrites .VMOV w) (inStores s0 k .VMOV w) (· ∈ opAspects .VMOV) s (effVmov k r w s) := by
  unfold effVmov effVec
  exact touch_V k s (vD w) _ (Or.inl (List.mem_singleton.mpr rfl))


theorem touches_VBCAST (k : Ctx) (r : Src) (w : Nat) (s s0 : State) :
    Touches k.p (inWrites .VBCAST w) (inStores s0 k .VBCAST w) (· ∈ opAspects .VBCAST) s (effVbcast k r w s) := by
  unfold effVbcast effVec
  exact touch_V k s (vD w) _ (Or.inl (List.mem_singleton.mpr rfl))


theorem touches_VPERM (k : Ctx) (r : Src) (w : Nat) (s s0 : State) :
    Touches k.p (inWrites .VPERM w) (inStores s0 k .VPERM w) (· ∈ opAspects .VPERM) s (effVperm k r w s) := by
  unfold effVperm effVec
  exact touch_V k s (vD w) _ (Or.inl (List.mem_singleton.mpr rfl))


theorem touches_VSEL (k : Ctx) (r : Src) (w : Nat) (s s0 : State) :
    Touches k.p (inWrites .VSEL w) (inStores s0 k .VSEL w) (· ∈ opAspects .VSEL) s (effVsel k r w s) := by
  unfold effVsel effVec
  exact touch_V k s (vD w) _ (Or.inl (List.mem_singleton.mpr rfl))


theorem touches_VACT (k : Ctx) (r : Src) (w : Nat) (s s0 : State) :
    Touches k.p (inWrites .VACT w) (inStores s0 k .VACT w) (· ∈ opAspects .VACT) s (effVact k r w s) := by
  unfold effVact effVec
  exact touch_V k s (vD w) _ (Or.inl (List.mem_singleton.mpr rfl))


theorem touches_VSCALE (k : Ctx) (r : Src) (w : Nat) (s s0 : State) :
    Touches k.p (inWrites .VSCALE w) (inStores s0 k .VSCALE w) (· ∈ opAspects .VSCALE) s (effVscale k r w s) := by
  unfold effVscale effVec
  exact touch_V k s (vD w) _ (Or.inl (List.mem_singleton.mpr rfl))


theorem touches_TLD (k : Ctx) (r : Src) (w : Nat) (s s0 : State) :
    Touches k.p (inWrites .TLD w) (inStores s0 k .TLD w) (· ∈ opAspects .TLD) s (effTld k r w s) := by
  unfold effTld
  exact touch_A k s (lV w) _ (Or.inl (List.mem_singleton.mpr rfl))


theorem touches_TZERO (k : Ctx) (r : Src) (w : Nat) (s s0 : State) :
    Touches k.p (inWrites .TZERO w) (inStores s0 k .TZERO w) (· ∈ opAspects .TZERO) s (effTzero k r w s) := by
  unfold effTzero
  exact touch_A k s (xTD w) _ (Or.inl (List.mem_singleton.mpr rfl))


theorem touches_TCOPY (k : Ctx) (r : Src) (w : Nat) (s s0 : State) :
    Touches k.p (inWrites .TCOPY w) (inStores s0 k .TCOPY w) (· ∈ opAspects .TCOPY) s (effTcopy k r w s) := by
  unfold effTcopy
  exact touch_A k s (xTD w) _ (Or.inl (List.mem_singleton.mpr rfl))


theorem touches_TPUT (k : Ctx) (r : Src) (w : Nat) (s s0 : State) :
    Touches k.p (inWrites .TPUT w) (inStores s0 k .TPUT w) (· ∈ opAspects .TPUT) s (effTput k r w s) := by
  unfold effTput
  exact touch_A k s (xTD w) _ (Or.inl (List.mem_singleton.mpr rfl))


theorem touches_TGET (k : Ctx) (r : Src) (w : Nat) (s s0 : State) :
    Touches k.p (inWrites .TGET w) (inStores s0 k .TGET w) (· ∈ opAspects .TGET) s (effTget k r w s) := by
  unfold effTget
  exact touch_V k s (xVR w) _ (Or.inl (List.mem_singleton.mpr rfl))


theorem touches_WAITS (k : Ctx) (r : Src) (w : Nat) (s s0 : State) :
    Touches k.p (inWrites .WAITS w) (inStores s0 k .WAITS w) (· ∈ opAspects .WAITS) s (effNone k r w s) := by
  exact Touches.refl _ _ _ _ _


theorem touches_HALT (k : Ctx) (r : Src) (w : Nat) (s s0 : State) :
    Touches k.p (inWrites .HALT w) (inStores s0 k .HALT w) (· ∈ opAspects .HALT) s (effHalt k r w s) := by
  unfold effHalt
  exact touch_none k s _ (fun _ r => by cases r <;> rfl) (fun x a ha => by cases a <;> first | rfl | exact absurd (by decide) ha) (fun _ => rfl)


theorem touches_BR (k : Ctx) (r : Src) (w : Nat) (s s0 : State) :
    Touches k.p (inWrites .BR w) (inStores s0 k .BR w) (· ∈ opAspects .BR) s (effBr k r w s) := by
  unfold effBr
  exact touch_none k s _ (fun _ r => by cases r <;> rfl) (fun x a ha => by cases a <;> first | rfl | exact absurd (by decide) ha) (fun _ => rfl)


theorem touches_WRSR (k : Ctx) (r : Src) (w : Nat) (s s0 : State) :
    Touches k.p (inWrites .WRSR w) (inStores s0 k .WRSR w) (· ∈ opAspects .WRSR) s (effWrsr k r w s) := by
  unfold effWrsr
  refine touches_onCar k _ _ _ s _ (fun x n hn => ?_) (fun x a ha => by cases a <;> rfl) (fun _ => rfl)
  cases n <;> first | rfl | exact absurd (Or.inl (List.mem_singleton.mpr rfl)) hn


theorem touch_loop (k : Ctx) (s : State) (d v q : Nat) {R : RegName → Prop} {M : Nat → Prop} {A : Aspect → Prop} (h : R (.S d)) (hA : A .lp) :
    Touches k.p R M A s (s.onCar k fun x => let x := sset x d v; if v = 0 then x else { x with lp := q }) := by
  refine touches_onCar k _ _ _ s _ (fun x n hn => ?_) (fun x a ha => ?_) (fun x => ?_)
  · have hne : n ≠ .S d := by rintro rfl; exact hn h
    dsimp only
    split
    · exact regVal_sset _ _ _ _ hne
    · rw [← regVal_sset x d v n hne]; cases n <;> rfl
  · dsimp only; unfold sset; split_ifs <;> cases a <;> first | rfl | exact absurd hA ha
  · dsimp only; unfold sset; split_ifs <;> rfl

theorem touches_LOOP (k : Ctx) (r : Src) (w : Nat) (s s0 : State) :
    Touches k.p (inWrites .LOOP w) (inStores s0 k .LOOP w) (· ∈ opAspects .LOOP) s (effLoop k r w s) := by
  unfold effLoop
  exact touch_loop k s (cD w) _ _ (inS rfl) (by decide)

theorem touches_BAR (k : Ctx) (r : Src) (w : Nat) (s s0 : State) :
    Touches k.p (inWrites .BAR w) (inStores s0 k .BAR w) (· ∈ opAspects .BAR) s (effBar k r w s) := by
  unfold effBar
  dsimp only
  split
  · exact touch_none k s _ (fun _ r => by cases r <;> rfl) (fun x a ha => by cases a <;> first | rfl | exact absurd (by decide) ha) (fun _ => rfl)
  · exact touch_none k s _ (fun _ r => by cases r <;> rfl) (fun x a ha => by cases a <;> first | rfl | exact absurd (by decide) ha) (fun _ => rfl)
  · split
    · exact touch_none k s _ (fun _ r => by cases r <;> rfl) (fun x a ha => by cases a <;> first | rfl | exact absurd (by decide) ha) (fun _ => rfl)
    · exact Touches.refl _ _ _ _ _


theorem touches_ST (k : Ctx) (r : Src) (w : Nat) (s s0 : State) (hr : r.x = s0.carrel k.p) :
    Touches k.p (inWrites .ST w) (inStores s0 k .ST w) (· ∈ opAspects .ST) s (effSt k r w s) := by
  unfold effSt
  refine touch_write k s _ _ fun b h1 h2 => ?_
  rw [natLe_length] at h2
  rw [simm_add, hr] at h1 h2
  exact ⟨_, List.mem_singleton.mpr rfl, h1, h2⟩


theorem touches_TST (k : Ctx) (r : Src) (w : Nat) (s s0 : State) (hr : r.x = s0.carrel k.p) :
    Touches k.p (inWrites .TST w) (inStores s0 k .TST w) (· ∈ opAspects .TST) s (effTst k r w s) := by
  unfold effTst
  refine touch_write k s _ _ fun b h1 h2 => ?_
  rw [natLe_length] at h2
  rw [hr] at h1 h2
  exact ⟨_, List.mem_singleton.mpr rfl, h1, h2⟩


theorem touches_VST (k : Ctx) (r : Src) (w : Nat) (s s0 : State) (hr : r.x = s0.carrel k.p) :
    Touches k.p (inWrites .VST w) (inStores s0 k .VST w) (· ∈ opAspects .VST) s (effVst k r w s) := by
  unfold effVst
  dsimp only
  refine touches_onMem k _ _ _ s _ fun m b hb => ?_
  refine foldl_write_out _ _ (fun i => natLe 8 (lane 64 (vget r.x (lV w)) i)) m b fun i hi => ?_
  rw [natLe_length]
  by_contra hn
  apply hb
  have h8 : i < 8 := by simp [setBitsOf] at hi; exact hi.1
  refine ⟨_, List.mem_singleton.mpr rfl, ?_, ?_⟩
  · rw [← hr, ← simm16_add]; omega
  · rw [← hr, ← simm16_add]; omega


theorem touches_xfer (kind : XKind) (two : Bool) (k : Ctx) (r : Src) (w : Nat) (s : State) (R : RegName → Prop) (M : Nat → Prop) (A : Aspect → Prop) (hA : A .xfers) :
    Touches k.p R M A s (effXfer kind two k r w s) := by
  unfold effXfer
  dsimp only
  generalize rowsOf two (if kind = .mtouch then 0 else sget r.x (mL w)) (sget r.x (mO w)) (sget r.x (mN w)) (sget r.x (mQ w)) = rs
  by_cases h : rs.rows = []
  · rw [if_pos h]; exact Touches.refl _ _ _ _ _
  · rw [if_neg h]; exact touch_none k s _ (fun _ r => by cases r <;> rfl) (fun x a ha => by cases a <;> first | rfl | exact absurd hA ha) (fun _ => rfl)


theorem touches_MLD (k : Ctx) (r : Src) (w : Nat) (s s0 : State) :
    Touches k.p (inWrites .MLD w) (inStores s0 k .MLD w) (· ∈ opAspects .MLD) s (effMld k r w s) := by
  exact touches_xfer _ _ _ _ _ _ _ _ _ (by decide)


theorem touches_MST (k : Ctx) (r : Src) (w : Nat) (s s0 : State) :
    Touches k.p (inWrites .MST w) (inStores s0 k .MST w) (· ∈ opAspects .MST) s (effMst k r w s) := by
  exact touches_xfer _ _ _ _ _ _ _ _ _ (by decide)


theorem touches_MLD2 (k : Ctx) (r : Src) (w : Nat) (s s0 : State) :
    Touches k.p (inWrites .MLD2 w) (inStores s0 k .MLD2 w) (· ∈ opAspects .MLD2) s (effMld2 k r w s) := by
  exact touches_xfer _ _ _ _ _ _ _ _ _ (by decide)


theorem touches_MST2 (k : Ctx) (r : Src) (w : Nat) (s s0 : State) :
    Touches k.p (inWrites .MST2 w) (inStores s0 k .MST2 w) (· ∈ opAspects .MST2) s (effMst2 k r w s) := by
  exact touches_xfer _ _ _ _ _ _ _ _ _ (by decide)


theorem touches_MTOUCH (k : Ctx) (r : Src) (w : Nat) (s s0 : State) :
    Touches k.p (inWrites .MTOUCH w) (inStores s0 k .MTOUCH w) (· ∈ opAspects .MTOUCH) s (effMtouch k r w s) := by
  exact touches_xfer _ _ _ _ _ _ _ _ _ (by decide)


theorem touches_LCOPY (k : Ctx) (r : Src) (w : Nat) (s s0 : State) :
    Touches k.p (inWrites .LCOPY w) (inStores s0 k .LCOPY w) (· ∈ opAspects .LCOPY) s (effLcopy k r w s) := by
  unfold effLcopy
  dsimp only
  split
  · exact Touches.refl _ _ _ _ _
  · exact touch_none k s _ (fun _ r => by cases r <;> rfl) (fun x a ha => by cases a <;> first | rfl | exact absurd (by decide) ha) (fun _ => rfl)


theorem touches_PASS (k : Ctx) (r : Src) (w : Nat) (s s0 : State) :
    Touches k.p (inWrites .PASS w) (inStores s0 k .PASS w) (· ∈ opAspects .PASS) s (effPass k r w s) := by
  unfold effPass
  dsimp only
  split
  · split
    · exact touch_pass k s _ _ _ (by decide)
    · exact Touches.refl _ _ _ _ _
  · exact touch_none k s _ (fun _ r => by cases r <;> rfl) (fun x a ha => by cases a <;> first | rfl | exact absurd (by decide) ha) (fun _ => rfl)


theorem touches_VEXT (k : Ctx) (r : Src) (w : Nat) (s s0 : State) :
    Touches k.p (inWrites .VEXT w) (inStores s0 k .VEXT w) (· ∈ opAspects .VEXT) s (effVext k r w s) := by
  unfold effVext
  split
  · exact touch_S k s (vD w) _ (inS rfl)
  · exact Touches.refl _ _ _ _ _


theorem touches_VRED (k : Ctx) (r : Src) (w : Nat) (s s0 : State) :
    Touches k.p (inWrites .VRED w) (inStores s0 k .VRED w) (· ∈ opAspects .VRED) s (effVred k r w s) := by
  unfold effVred
  split
  · exact touch_V k s (vD w) _ (Or.inl (List.mem_singleton.mpr rfl))
  · exact Touches.refl _ _ _ _ _


theorem touches_VCVT (k : Ctx) (r : Src) (w : Nat) (s s0 : State) :
    Touches k.p (inWrites .VCVT w) (inStores s0 k .VCVT w) (· ∈ opAspects .VCVT) s (effVcvt k r w s) := by
  unfold effVcvt
  refine touches_onCar k _ _ _ s _ (fun x n hn => ?_) (fun x a ha => ?_) (fun x => ?_)
  · have hv : n ≠ .V (vD w) := by rintro rfl; exact hn (Or.inl (List.mem_cons_self ..))
    dsimp only
    split
    · rename_i h
      have hs : n ≠ .SEED := by rintro rfl; exact hn (Or.inl (by simp [Op.writes, h]))
      have : ∀ (y : Carrel) (z : Nat), regVal { y with seed := z } n = regVal y n := by
        intro y z; cases n <;> first | rfl | exact absurd rfl hs
      rw [this, regVal_addTroubles, regVal_vset _ _ _ _ hv]
    · rw [regVal_addTroubles, regVal_vset _ _ _ _ hv]
  · dsimp only; split <;> cases a <;> first | rfl | exact absurd (by decide) ha
  · dsimp only; split <;> rfl


theorem touches_MMA (k : Ctx) (r : Src) (w : Nat) (s s0 : State) :
    Touches k.p (inWrites .MMA w) (inStores s0 k .MMA w) (· ∈ opAspects .MMA) s (effMma k r w s) := by
  unfold effMma
  refine touches_onCar k _ _ _ s _ (fun x n hn => ?_) (fun x a ha => by cases a <;> first | rfl | exact absurd (by decide) ha) (fun _ => rfl)
  have hv : n ≠ .A (xTD w) := by rintro rfl; exact hn (Or.inl (List.mem_cons_self ..))
  rw [regVal_addTroubles, regVal_aset _ _ _ _ hv]


theorem touches_MMAM (k : Ctx) (r : Src) (w : Nat) (s s0 : State) :
    Touches k.p (inWrites .MMAM w) (inStores s0 k .MMAM w) (· ∈ opAspects .MMAM) s (effMmam k r w s) := by
  unfold effMmam
  refine touches_onCar k _ _ _ s _ (fun x n hn => ?_) (fun x a ha => by cases a <;> first | rfl | exact absurd (by decide) ha) (fun _ => rfl)
  have hv : n ≠ .A (xTD w) := by rintro rfl; exact hn (Or.inl (List.mem_cons_self ..))
  have hv' : n ≠ .A (xTD w + 1) := by rintro rfl; exact hn (Or.inl (List.mem_cons_of_mem _ (List.mem_cons_self ..)))
  rw [regVal_addTroubles, regVal_aset _ _ _ _ hv', regVal_aset _ _ _ _ hv]


/-- Every operation touches only the registers it names and the range it writes, and no other carrel but for a pass counter. -/
theorem eff_touches (o : Op) (k : Ctx) (r : Src) (w : Nat) (s s0 : State) (hr : r.x = s0.carrel k.p) :
    Touches k.p (inWrites o w) (inStores s0 k o w) (· ∈ opAspects o) s (Op.eff o k r w s) := by
  cases o
  · exact touches_HALT k r w s s0
  · exact touches_BR k r w s s0
  · exact touches_LOOP k r w s s0
  · exact touches_BAR k r w s s0
  · exact Touches.refl _ _ _ _ _
  · exact touches_ADD k r w s s0
  · exact touches_SUB k r w s s0
  · exact touches_MUL k r w s s0
  · exact touches_AND k r w s s0
  · exact touches_OR k r w s s0
  · exact touches_XOR k r w s s0
  · exact touches_SHL k r w s s0
  · exact touches_SHR k r w s s0
  · exact touches_SRA k r w s s0
  · exact touches_LI k r w s s0
  · exact touches_LUI k r w s s0
  · exact touches_CMP k r w s s0
  · exact touches_SEL k r w s s0
  · exact touches_PLOG k r w s s0
  · exact touches_LD k r w s s0
  · exact touches_ST k r w s s0 hr
  · exact touches_RDSR k r w s s0
  · exact touches_WRSR k r w s s0
  · exact touches_MLD k r w s s0
  · exact touches_MST k r w s s0
  · exact touches_MLD2 k r w s s0
  · exact touches_MST2 k r w s s0
  · exact touches_LCOPY k r w s s0
  · exact touches_PASS k r w s s0
  · exact Touches.refl _ _ _ _ _
  · exact Touches.refl _ _ _ _ _
  · exact touches_MTOUCH k r w s s0
  · exact touches_VLD k r w s s0
  · exact touches_VST k r w s s0 hr
  · exact touches_VGATHER k r w s s0
  · exact touches_TLD k r w s s0
  · exact touches_TST k r w s s0 hr
  · exact touches_VADD k r w s s0
  · exact touches_VSUB k r w s s0
  · exact touches_VMUL k r w s s0
  · exact touches_VFMA k r w s s0
  · exact touches_VMAX k r w s s0
  · exact touches_VMIN k r w s s0
  · exact touches_VAND k r w s s0
  · exact touches_VOR k r w s s0
  · exact touches_VXOR k r w s s0
  · exact touches_VSH k r w s s0
  · exact touches_VMOV k r w s s0
  · exact touches_VBCAST k r w s s0
  · exact touches_VEXT k r w s s0
  · exact touches_VPERM k r w s s0
  · exact touches_VRED k r w s s0
  · exact touches_VCMP k r w s s0
  · exact touches_VSEL k r w s s0
  · exact touches_VCVT k r w s s0
  · exact touches_VACT k r w s s0
  · exact touches_VSCALE k r w s s0
  · exact touches_MMA k r w s s0
  · exact touches_MMAM k r w s s0
  · exact touches_TZERO k r w s s0
  · exact touches_TCOPY k r w s s0
  · exact touches_TGET k r w s s0
  · exact touches_TPUT k r w s s0

/-! ### A line -/

/-- The registers, store bytes and parts that a slot may change. -/
def slotRegs (x : SlotOp) (a : Bool) (r : RegName) : Prop := (r ∈ if a then x.writes else []) ∨ r = .S 0 ∨ r = .P 0

def slotStores (s : State) (k : Ctx) (x : SlotOp) (a : Bool) (b : Nat) : Prop :=
  ∃ e : Nat × Nat, e ∈ (match x with | .op o w => if a then (s.opRanges k o w).2 else [] | _ => []) ∧ e.1 ≤ b ∧ b < e.2

def slotAspects (x : SlotOp) (a : Bool) (p : Aspect) : Prop :=
  match x with
  | .op o _ => a = true ∧ p ∈ opAspects o
  | _ => False

theorem slotEff_touches (x : SlotOp) (a : Bool) (k : Ctx) (r : Src) (s s0 : State) (hr : r.x = s0.carrel k.p) :
    Touches k.p (slotRegs x a) (slotStores s0 k x a) (slotAspects x a) s (slotEff k r x a s) := by
  cases x with
  | nop => exact Touches.refl _ _ _ _ _
  | ill => exact Touches.refl _ _ _ _ _
  | op o w =>
    unfold slotEff
    cases a with
    | false => exact Touches.refl _ _ _ _ _
    | true =>
      refine (eff_touches o k r w s s0 hr).mono ?_ ?_ ?_
      · intro n hn; simpa [slotRegs, SlotOp.writes, inWrites] using hn
      · intro b hb; simpa [slotStores, inStores] using hb
      · intro p hp; exact ⟨rfl, hp⟩

/-- The state in which the operations of a line begin to act. -/
def State.lineStart (s : State) (k : Ctx) : State := s.onCar k fun x => { x with lp := x.lp + 1 }

/-- What is left once the operations have acted: `HALT` is complete where no tag is out. -/
def State.lineEnd (s : State) (k : Ctx) : State := s.onCar k fun x => if x.run = .halting ∧ x.xfers = [] then { x with run := .halted } else x

theorem lineStart_touches (s : State) (k : Ctx) : Touches k.p (fun _ => False) (fun _ => False) (· = .lp) s (s.lineStart k) :=
  touch_none k s _ (fun _ r => by cases r <;> rfl) (fun x a ha => by cases a <;> first | rfl | exact absurd rfl ha) (fun _ => rfl)

theorem lineEnd_touches (s : State) (k : Ctx) : Touches k.p (fun _ => False) (fun _ => False) (· = .run) s (s.lineEnd k) := by
  refine touch_none k s _ (fun x r => ?_) (fun x a ha => ?_) (fun x => ?_)
  · split
    · cases r <;> rfl
    · rfl
  · split
    · cases a <;> first | rfl | exact absurd rfl ha
    · rfl
  · split <;> rfl

/-- The line's operations in the order of its slots. -/
theorem runLine_eq (s : State) (k : Ctx) (l : Line) :
    s.runLine k l =
      (slotEff k ⟨s.carrel k.p, s.mem k.p⟩ l.mat (s.slotActs k l.mat)
        (slotEff k ⟨s.carrel k.p, s.mem k.p⟩ l.vec (s.slotActs k l.vec)
          (slotEff k ⟨s.carrel k.p, s.mem k.p⟩ l.mov (s.slotActs k l.mov)
            (slotEff k ⟨s.carrel k.p, s.mem k.p⟩ l.ctl (s.slotActs k l.ctl) (s.lineStart k))))).lineEnd k := rfl

/-- Everything a line may change. -/
theorem slots_touch (s : State) (k : Ctx) (l : Line) :
    Touches k.p
      (fun r => ((slotRegs l.ctl (s.slotActs k l.ctl) r ∨ slotRegs l.mov (s.slotActs k l.mov) r) ∨ slotRegs l.vec (s.slotActs k l.vec) r) ∨
        slotRegs l.mat (s.slotActs k l.mat) r)
      (fun b => ((slotStores s k l.ctl (s.slotActs k l.ctl) b ∨ slotStores s k l.mov (s.slotActs k l.mov) b) ∨
        slotStores s k l.vec (s.slotActs k l.vec) b) ∨ slotStores s k l.mat (s.slotActs k l.mat) b)
      (fun a => ((slotAspects l.ctl (s.slotActs k l.ctl) a ∨ slotAspects l.mov (s.slotActs k l.mov) a) ∨
        slotAspects l.vec (s.slotActs k l.vec) a) ∨ slotAspects l.mat (s.slotActs k l.mat) a)
      (s.lineStart k)
      (slotEff k ⟨s.carrel k.p, s.mem k.p⟩ l.mat (s.slotActs k l.mat)
        (slotEff k ⟨s.carrel k.p, s.mem k.p⟩ l.vec (s.slotActs k l.vec)
          (slotEff k ⟨s.carrel k.p, s.mem k.p⟩ l.mov (s.slotActs k l.mov)
            (slotEff k ⟨s.carrel k.p, s.mem k.p⟩ l.ctl (s.slotActs k l.ctl) (s.lineStart k))))) :=
  (((slotEff_touches l.ctl _ k _ _ s rfl).trans (slotEff_touches l.mov _ k _ _ s rfl)).trans (slotEff_touches l.vec _ k _ _ s rfl)).trans
    (slotEff_touches l.mat _ k _ _ s rfl)

theorem mem_lineWrites (s : State) (k : Ctx) (l : Line) (x : SlotOp) (hx : x ∈ [l.ctl, l.mov, l.vec, l.mat]) (r : RegName)
    (h : slotRegs x (s.slotActs k x) r) : r ∈ s.lineWrites k l ∨ r = .S 0 ∨ r = .P 0 := by
  rcases h with h | h
  · left; unfold State.lineWrites; exact List.mem_flatMap.mpr ⟨x, hx, h⟩
  · right; exact h

theorem mem_lineStores (s : State) (k : Ctx) (l : Line) (x : SlotOp) (hx : x ∈ [l.ctl, l.mov, l.vec, l.mat]) (b : Nat)
    (h : slotStores s k x (s.slotActs k x) b) : ∃ e ∈ s.lineStores k l, e.1 ≤ b ∧ b < e.2 := by
  obtain ⟨e, he, hb⟩ := h
  refine ⟨e, ?_, hb⟩
  unfold State.lineStores
  refine List.mem_flatMap.mpr ⟨x, hx, ?_⟩
  cases x <;> exact he

/-- What a line changes. -/
theorem runLine_touches (s : State) (k : Ctx) (l : Line) :
    Touches k.p (fun r => r ∈ s.lineWrites k l ∨ r = .S 0 ∨ r = .P 0) (fun b => ∃ e ∈ s.lineStores k l, e.1 ≤ b ∧ b < e.2)
      (fun a => a = .lp ∨ a = .run ∨ ∃ x ∈ [l.ctl, l.mov, l.vec, l.mat], slotAspects x (s.slotActs k x) a) s (s.runLine k l) := by
  rw [runLine_eq]
  refine (((lineStart_touches s k).trans (slots_touch s k l)).trans (lineEnd_touches _ k)).mono ?_ ?_ ?_
  · rintro r ((h | ((h | h) | h) | h) | h)
    · exact h.elim
    · exact mem_lineWrites s k l _ (by simp) r h
    · exact mem_lineWrites s k l _ (by simp) r h
    · exact mem_lineWrites s k l _ (by simp) r h
    · exact mem_lineWrites s k l _ (by simp) r h
    · exact h.elim
  · rintro r ((h | ((h | h) | h) | h) | h)
    · exact h.elim
    · exact mem_lineStores s k l _ (by simp) r h
    · exact mem_lineStores s k l _ (by simp) r h
    · exact mem_lineStores s k l _ (by simp) r h
    · exact mem_lineStores s k l _ (by simp) r h
    · exact h.elim
  · rintro a ((h | ((h | h) | h) | h) | h)
    · exact Or.inl h
    · exact Or.inr (Or.inr ⟨_, by simp, h⟩)
    · exact Or.inr (Or.inr ⟨_, by simp, h⟩)
    · exact Or.inr (Or.inr ⟨_, by simp, h⟩)
    · exact Or.inr (Or.inr ⟨_, by simp, h⟩)
    · exact Or.inr (Or.inl h)

/-- A part that the operations of a line leave as the start of the line set it. -/
theorem runLine_aspect (s : State) (k : Ctx) (l : Line) (a : Aspect) (h : a ≠ .run)
    (hn : ∀ x ∈ [l.ctl, l.mov, l.vec, l.mat], ¬ slotAspects x (s.slotActs k x) a) :
    a.of ((s.runLine k l).carrel k.p) = a.of ((s.lineStart k).carrel k.p) := by
  rw [runLine_eq, (lineEnd_touches _ k).2.2.2.2.1 a h, (slots_touch s k l).2.2.2.2.1 a]
  rintro (((h | h) | h) | h)
  · exact hn _ (by simp) h
  · exact hn _ (by simp) h
  · exact hn _ (by simp) h
  · exact hn _ (by simp) h

/-- Where no slot writes twice, an operation's registers hold what the operation gives, whatever else the line holds. -/
theorem runLine_writes (s : State) (k : Ctx) (l : Line) (o : Op) (w : Nat) (r : RegName) (hd : l.doubleWrite = false)
    (hm : SlotOp.op o w ∈ [l.ctl, l.mov, l.vec, l.mat]) (ha : s.opActs k o w = true) (hr : r ∈ Op.writes o w) (h0 : r ≠ .S 0) (h0' : r ≠ .P 0) :
    ∃ t, t = { s with car := t.car, store := t.store } ∧
      regVal ((s.runLine k l).carrel k.p) r = regVal ((Op.eff o k ⟨s.carrel k.p, s.mem k.p⟩ w t).carrel k.p) r := by
  have hnd : (l.ctl.writes ++ l.mov.writes ++ l.vec.writes ++ l.mat.writes).Nodup := by
    simpa [Line.doubleWrite] using hd
  rw [runLine_eq, (lineEnd_touches _ k).2.1 r (by simp)]
  have hs : (s.lineStart k) = { s with car := (s.lineStart k).car, store := (s.lineStart k).store } := (lineStart_touches s k).1
  have key : ∀ (x : SlotOp), x = .op o w → ∀ t, slotEff k ⟨s.carrel k.p, s.mem k.p⟩ x (s.slotActs k x) t = Op.eff o k ⟨s.carrel k.p, s.mem k.p⟩ w t := by
    rintro x rfl t; simp [slotEff, State.slotActs, ha]
  have out : ∀ (x : SlotOp) (t : State), r ∉ x.writes →
      regVal ((slotEff k ⟨s.carrel k.p, s.mem k.p⟩ x (s.slotActs k x) t).carrel k.p) r = regVal (t.carrel k.p) r := by
    intro x t hx
    refine (slotEff_touches x _ k _ t s rfl).2.1 r ?_
    rintro (h | h | h)
    · split at h
      · exact hx h
      · simp at h
    · exact h0 h
    · exact h0' h
  have keep : ∀ (x : SlotOp) (t : State), t = { s with car := t.car, store := t.store } →
      slotEff k ⟨s.carrel k.p, s.mem k.p⟩ x (s.slotActs k x) t
        = { s with car := (slotEff k ⟨s.carrel k.p, s.mem k.p⟩ x (s.slotActs k x) t).car,
                   store := (slotEff k ⟨s.carrel k.p, s.mem k.p⟩ x (s.slotActs k x) t).store } := by
    intro x t ht
    rw [(slotEff_touches x _ k _ t s rfl).1, ht]
  rw [List.nodup_append, List.nodup_append, List.nodup_append] at hnd
  obtain ⟨⟨⟨-, -, d1⟩, -, d2⟩, -, d3⟩ := hnd
  have hw : ∀ x : SlotOp, x = .op o w → r ∈ x.writes := by rintro x rfl; exact hr
  simp only [List.mem_cons, List.not_mem_nil, or_false] at hm
  rcases hm with h | h | h | h
  · have hx := hw _ h.symm
    refine ⟨_, hs, ?_⟩
    rw [out l.mat _ (fun y => d3 r (by simp [hx]) r y rfl), out l.vec _ (fun y => d2 r (by simp [hx]) r y rfl),
      out l.mov _ (fun y => d1 r hx r y rfl), key _ h.symm]
  · have hx := hw _ h.symm
    refine ⟨_, keep l.ctl _ hs, ?_⟩
    rw [out l.mat _ (fun y => d3 r (by simp [hx]) r y rfl), out l.vec _ (fun y => d2 r (by simp [hx]) r y rfl), key _ h.symm]
  · have hx := hw _ h.symm
    refine ⟨_, keep l.mov _ (keep l.ctl _ hs), ?_⟩
    rw [out l.mat _ (fun y => d3 r (by simp [hx]) r y rfl), key _ h.symm]
  · refine ⟨_, keep l.vec _ (keep l.mov _ (keep l.ctl _ hs)), ?_⟩
    rw [key _ h.symm]

/-- The row of an operation that a line holds carries the line out. -/
theorem lineGives (s : State) (k : Ctx) (l : Line) (P : State → Prop) (c : Nat) (row : Instr) (sel : Op → Nat → Bool)
    (hrow : exec row s = carRow c sel s) (hp : s.Powered) (hi : s.Issues c k l) (hs : l.sat sel = true) (hP : P (s.runLine k l)) :
    LineGives s c l row P := by
  refine ⟨_, ?_, hP⟩
  obtain ⟨h1, h2, h3, h4, h5, h6, h7, h8, h9⟩ := hi
  have hf : s.front c = some (k, l) := by
    unfold State.front; rw [h1]; simp [h2, h4, h5]
  have hl : s.issueLine k = s.runLine k l := by
    unfold State.issueLine
    simp only [h3, h5]
    simp [h6, h7, h8, h9, not_le.mpr h4]
  have hi : s.issueIf c sel = s.runLine k l := by
    unfold State.issueIf; rw [hf]; simp only; rw [if_pos hs, hl]
  rw [hrow]
  unfold carRow
  rw [act_powered _ _ hp]
  simp only [hf, hi]
  rfl

theorem sat_of_mem (l : Line) (o : Op) (w : Nat) (sel : Op → Nat → Bool) (h : SlotOp.op o w ∈ [l.ctl, l.mov, l.vec, l.mat])
    (hs : sel o w = true) : l.sat sel = true := by
  unfold Line.sat
  simp only [List.mem_cons, List.not_mem_nil, or_false] at h
  rcases h with h | h | h | h <;> rw [← h] <;> simp [SlotOp.sat, hs]

/-- What a decoded operation satisfies. -/
theorem decodeSlot_form {port x w : Nat} {o : Op} (h : decodeSlot port x = .op o w) : Op.formOk o w = true := by
  unfold decodeSlot at h
  split at h
  · cases h
  · split at h
    · cases h
    · split_ifs at h
      cases h; assumption

theorem issues_form {s : State} {c : Nat} {k : Ctx} {l : Line} {o : Op} {w : Nat} (hi : s.Issues c k l)
    (h : SlotOp.op o w ∈ [l.ctl, l.mov, l.vec, l.mat]) : Op.formOk o w = true := by
  have hl := hi.2.2.2.2.1
  unfold State.lineAt decodeLine at hl
  subst hl
  simp only [List.mem_cons, List.not_mem_nil, or_false] at h
  rcases h with h | h | h | h <;> exact decodeSlot_form h.symm

/-- The row of the command table for an operation selects it. -/
theorem lineRow_exec (o : Op) (w c : Nat) (h : Op.formOk o w = true) :
    ∃ sel : Op → Nat → Bool, sel o w = true ∧ ∀ s, exec (lineRow o w c) s = carRow c sel s := by
  cases o
  case BAR =>
    have h3 : cFunc w % 4 ≠ 3 := by
      simp [Op.formOk] at h; exact h.2.2
    unfold lineRow
    dsimp only
    split
    · exact ⟨fun o w => decide (o = .BAR) && decide (cFunc w % 4 = 0), by simp [*], fun _ => rfl⟩
    · exact ⟨fun o w => decide (o = .BAR) && decide (cFunc w % 4 = 1), by simp [*], fun _ => rfl⟩
    · rename_i _ h0 h1
      have h0 : cFunc w % 4 ≠ 0 := h0
      have h1 : cFunc w % 4 ≠ 1 := h1
      have h2 : cFunc w % 4 = 2 := by omega
      exact ⟨fun o w => decide (o = .BAR) && decide (cFunc w % 4 = 2), by simp [h2], fun _ => rfl⟩
  all_goals exact ⟨_, by simp, fun _ => rfl⟩

/-- An operation's register holds what its effect gives, for every line that issues. -/
theorem line_reg {s : State} {c : Nat} {k : Ctx} {l : Line} {o : Op} {w : Nat} (hp : s.Powered) (hi : s.Issues c k l)
    (hm : SlotOp.op o w ∈ [l.ctl, l.mov, l.vec, l.mat]) (ha : s.opActs k o w = true) (r : RegName) (v : Nat)
    (h0 : r = .S 0 → v = 0) (h0' : r = .P 0 → v = 2 ^ 64 - 1) (hr : r ≠ .S 0 → r ≠ .P 0 → r ∈ Op.writes o w)
    (hv : ∀ t : State, regVal ((Op.eff o k ⟨s.carrel k.p, s.mem k.p⟩ w { s with car := t.car, store := t.store }).carrel k.p) r = v ∨ r = .S 0 ∨ r = .P 0) :
    LineGives s c l (lineRow o w c) fun t => regVal (t.carrel k.p) r = v := by
  obtain ⟨sel, h1, h2⟩ := lineRow_exec o w c (issues_form hi hm)
  refine lineGives s k l _ c _ sel (h2 s) hp hi (sat_of_mem l o w sel hm h1) ?_
  by_cases e : r = .S 0
  · subst e; rw [h0 rfl]; rfl
  · by_cases e' : r = .P 0
    · subst e'; rw [h0' rfl]; rfl
    · obtain ⟨t, ht, hw⟩ := runLine_writes s k l o w r hi.2.2.2.2.2.2.1 hm ha (hr e e') e e'
      rw [hw]
      rcases hv t with h | h | h
      · rw [ht]; exact h
      · exact absurd h e
      · exact absurd h e'

theorem issues_acts_slot {s : State} {k : Ctx} {o : Op} {w : Nat} (ho : o ≠ .BAR) (ho' : o ≠ .VLD) (ho'' : o ≠ .VST)
    (hf : fOp w / 64 ≠ 2) (h : acts (s.carrel k.p) w = true) : s.opActs k o w = true := by
  unfold State.opActs; rw [if_neg (by simp [*]), h]

/-! ### The port of an operation -/

/-- The port of an operation (R47). -/
def opPort : Op → Nat
  | .HALT | .BR | .LOOP | .BAR | .WAITS | .ADD | .SUB | .MUL | .AND | .OR | .XOR | .SHL | .SHR | .SRA | .LI | .LUI | .CMP | .SEL | .PLOG
  | .LD | .ST | .RDSR | .WRSR => 0
  | .MLD | .MST | .MLD2 | .MST2 | .LCOPY | .PASS | .PWAIT | .MWAIT | .MTOUCH | .VLD | .VST | .VGATHER | .TLD | .TST => 1
  | .MMA | .MMAM | .TZERO | .TCOPY | .TGET | .TPUT => 3
  | _ => 2

theorem ofCode_port (n : Nat) (o : Op) (h : Op.ofCode n = some o) : n / 64 = opPort o := by
  unfold Op.ofCode at h
  split at h <;> cases h <;> rfl

theorem fOp_port (w : Nat) : bits w 63 62 = fOp w / 64 := by
  unfold fOp bits
  norm_num
  omega

theorem decodeSlot_port {port x w : Nat} {o : Op} (h : decodeSlot port x = .op o w) : opPort o = port ∧ fOp w / 64 = port ∧ w = x := by
  unfold decodeSlot at h
  split at h
  · cases h
  · split at h
    · cases h
    · rename_i o' ho
      split_ifs at h with h1
      cases h
      have := ofCode_port _ _ ho
      have h2 := fOp_port x
      simp only [ne_eq, not_not] at h1
      omega

theorem issues_port {s : State} {c : Nat} {k : Ctx} {l : Line} (hi : s.Issues c k l) {o : Op} {w : Nat} :
    (l.ctl = .op o w → opPort o = 0 ∧ fOp w / 64 = 0) ∧ (l.mov = .op o w → opPort o = 1 ∧ fOp w / 64 = 1) ∧
      (l.vec = .op o w → opPort o = 2 ∧ fOp w / 64 = 2) ∧ (l.mat = .op o w → opPort o = 3 ∧ fOp w / 64 = 3) := by
  have hl := hi.2.2.2.2.1
  unfold State.lineAt decodeLine at hl
  subst hl
  refine ⟨fun h => ?_, fun h => ?_, fun h => ?_, fun h => ?_⟩ <;>
    exact ⟨(decodeSlot_port h).1, (decodeSlot_port h).2.1⟩

theorem issues_ctl {s : State} {c : Nat} {k : Ctx} {l : Line} (hi : s.Issues c k l) {o : Op} {w : Nat} (h : l.ctl = .op o w)
    (ha : acts (s.carrel k.p) w = true) : s.opActs k o w = true := by
  have := (issues_port hi).1 h
  unfold State.opActs; split_ifs <;> simp_all

theorem issues_mem_ctl {l : Line} {o : Op} {w : Nat} (h : l.ctl = .op o w) : SlotOp.op o w ∈ [l.ctl, l.mov, l.vec, l.mat] := by simp [h]
theorem issues_mem_mov {l : Line} {o : Op} {w : Nat} (h : l.mov = .op o w) : SlotOp.op o w ∈ [l.ctl, l.mov, l.vec, l.mat] := by simp [h]
theorem issues_mem_vec {l : Line} {o : Op} {w : Nat} (h : l.vec = .op o w) : SlotOp.op o w ∈ [l.ctl, l.mov, l.vec, l.mat] := by simp [h]
theorem issues_mem_mat {l : Line} {o : Op} {w : Nat} (h : l.mat = .op o w) : SlotOp.op o w ∈ [l.ctl, l.mov, l.vec, l.mat] := by simp [h]

theorem stores_port (s : State) (k : Ctx) (o : Op) (w : Nat) (h : opPort o = 2 ∨ opPort o = 3) : (s.opRanges k o w).2 = [] := by
  cases o <;> first | rfl | (exfalso; revert h; decide)

/-- The bytes of the store after a line: what the move slot, then the control slot leaves; the other slots store nothing. -/
theorem runLine_byte_ctl {s : State} {c : Nat} {k : Ctx} {l : Line} (hi : s.Issues c k l) (b : Nat)
    (hb : ¬ slotStores s k l.mov (s.slotActs k l.mov) b) :
    ((s.runLine k l).mem k.p).byte b =
      ((slotEff k ⟨s.carrel k.p, s.mem k.p⟩ l.ctl (s.slotActs k l.ctl) (s.lineStart k)).mem k.p).byte b := by
  have hn : ∀ x, (x = l.vec ∨ x = l.mat) → ¬ slotStores s k x (s.slotActs k x) b := by
    rintro x hx ⟨e, he, -⟩
    cases x with
    | nop => simp at he
    | ill => simp at he
    | op o w =>
      have hp := issues_port hi (o := o) (w := w)
      have : opPort o = 2 ∨ opPort o = 3 := by
        rcases hx with h | h
        · exact Or.inl (hp.2.2.1 h.symm).1
        · exact Or.inr (hp.2.2.2 h.symm).1
      simp only [stores_port s k o w this] at he
      split at he <;> simp at he
  rw [runLine_eq, (lineEnd_touches _ k).2.2.1 b (by simp), (slotEff_touches l.mat _ k _ _ s rfl).2.2.1 b (hn _ (Or.inr rfl)),
    (slotEff_touches l.vec _ k _ _ s rfl).2.2.1 b (hn _ (Or.inl rfl)), (slotEff_touches l.mov _ k _ _ s rfl).2.2.1 b hb]

theorem runLine_mem_mov {s : State} {c : Nat} {k : Ctx} {l : Line} (hi : s.Issues c k l) (b : Nat) :
    ∃ t : State, (l.ctl = .nop → t.mem k.p = s.mem k.p) ∧ ((s.runLine k l).mem k.p).byte b =
      ((slotEff k ⟨s.carrel k.p, s.mem k.p⟩ l.mov (s.slotActs k l.mov) t).mem k.p).byte b := by
  refine ⟨slotEff k ⟨s.carrel k.p, s.mem k.p⟩ l.ctl (s.slotActs k l.ctl) (s.lineStart k), fun h => by rw [h]; rfl, ?_⟩
  have hn : ∀ x, (x = l.vec ∨ x = l.mat) → ¬ slotStores s k x (s.slotActs k x) b := by
    rintro x hx ⟨e, he, -⟩
    cases x with
    | nop => simp at he
    | ill => simp at he
    | op o w =>
      have hp := issues_port hi (o := o) (w := w)
      have : opPort o = 2 ∨ opPort o = 3 := by
        rcases hx with h | h
        · exact Or.inl (hp.2.2.1 h.symm).1
        · exact Or.inr (hp.2.2.2 h.symm).1
      simp only [stores_port s k o w this] at he
      split at he <;> simp at he
  rw [runLine_eq, (lineEnd_touches _ k).2.2.1 b (by simp), (slotEff_touches l.mat _ k _ _ s rfl).2.2.1 b (hn _ (Or.inr rfl)),
    (slotEff_touches l.vec _ k _ _ s rfl).2.2.1 b (hn _ (Or.inl rfl))]

/-- The row of an operation that a line holds carries the line out, and the state that its operations leave is `runLine`. -/
theorem line_run {s : State} {c : Nat} {k : Ctx} {l : Line} {o : Op} {w : Nat} (hp : s.Powered) (hi : s.Issues c k l)
    (hm : SlotOp.op o w ∈ [l.ctl, l.mov, l.vec, l.mat]) {P : State → Prop} (h : P (s.runLine k l)) : LineGives s c l (lineRow o w c) P := by
  obtain ⟨sel, h1, h2⟩ := lineRow_exec o w c (issues_form hi hm)
  exact lineGives s k l _ c _ sel (h2 s) hp hi (sat_of_mem l o w sel hm h1) h

theorem of_lp {x y : Carrel} (h : Aspect.lp.of x = Aspect.lp.of y) : x.lp = y.lp := by
  have := congrArg Carrel.lp h; exact this

theorem of_run {x y : Carrel} (h : Aspect.run.of x = Aspect.run.of y) : x.run = y.run := by
  have := congrArg Carrel.run h; exact this

theorem of_arrived {x y : Carrel} (h : Aspect.arrived.of x = Aspect.arrived.of y) : x.arrived = y.arrived := by
  have := congrArg Carrel.arrived h; exact this

theorem of_xfers {x y : Carrel} (h : Aspect.xfers.of x = Aspect.xfers.of y) : x.xfers = y.xfers := by
  have := congrArg Carrel.xfers h; exact this

theorem of_trb {x y : Carrel} (h : Aspect.trb.of x = Aspect.trb.of y) : x.trb = y.trb := by
  have := congrArg Carrel.trb h; exact this

theorem of_pass {x y : Carrel} (h : Aspect.pass.of x = Aspect.pass.of y) : x.pass = y.pass := by
  have := congrArg Carrel.pass h; exact this

theorem slotEff_op (k : Ctx) (r : Src) (o : Op) (w : Nat) (s : State) : slotEff k r (.op o w) true s = Op.eff o k r w s := rfl

theorem aspect_port (o : Op) (a : Aspect) (h : a ∈ opAspects o) :
    (a = .lp ∨ a = .run ∨ a = .arrived) ∧ opPort o = 0 ∨ (a = .xfers ∨ a = .pass) ∧ opPort o = 1 ∨ a = .trb ∧ (opPort o = 2 ∨ opPort o = 3) := by
  cases o <;> cases a <;> first | (exact absurd h (by decide)) | decide

/-- The line pointer, the gate and the barrier flags after a line's slots are what the control slot leaves. -/
theorem line_ctl_aspect {s : State} {c : Nat} {k : Ctx} {l : Line} (hi : s.Issues c k l) (a : Aspect) (ha : a = .lp ∨ a = .run ∨ a = .arrived) :
    a.of ((slotEff k ⟨s.carrel k.p, s.mem k.p⟩ l.mat (s.slotActs k l.mat)
        (slotEff k ⟨s.carrel k.p, s.mem k.p⟩ l.vec (s.slotActs k l.vec)
          (slotEff k ⟨s.carrel k.p, s.mem k.p⟩ l.mov (s.slotActs k l.mov)
            (slotEff k ⟨s.carrel k.p, s.mem k.p⟩ l.ctl (s.slotActs k l.ctl) (s.lineStart k))))).carrel k.p) =
      a.of ((slotEff k ⟨s.carrel k.p, s.mem k.p⟩ l.ctl (s.slotActs k l.ctl) (s.lineStart k)).carrel k.p) := by
  have hn : ∀ x, (x = l.mov ∨ x = l.vec ∨ x = l.mat) → ¬ slotAspects x (s.slotActs k x) a := by
    intro x hx hs
    unfold slotAspects at hs
    split at hs
    · rename_i o w
      have hp := issues_port hi (o := o) (w := w)
      have h1 := aspect_port o a hs.2
      have h0 : opPort o = 0 := by rcases ha with rfl | rfl | rfl <;> simpa using h1
      rcases hx with h | h | h
      · have := (hp.2.1 h.symm).1; omega
      · have := (hp.2.2.1 h.symm).1; omega
      · have := (hp.2.2.2 h.symm).1; omega
    · exact hs
  rw [(slotEff_touches l.mat _ k _ _ s rfl).2.2.2.2.1 a (hn _ (by simp)), (slotEff_touches l.vec _ k _ _ s rfl).2.2.2.2.1 a (hn _ (by simp)),
    (slotEff_touches l.mov _ k _ _ s rfl).2.2.2.2.1 a (hn _ (by simp))]

/-- The transfers after a line's slots are what the move slot leaves of the transfers before the line. -/
theorem line_mov_xfers {s : State} {c : Nat} {k : Ctx} {l : Line} (hi : s.Issues c k l) :
    ∃ t : State, t = { s with car := t.car, store := t.store } ∧ (t.carrel k.p).xfers = (s.carrel k.p).xfers ∧
      ((s.runLine k l).carrel k.p).xfers =
        ((slotEff k ⟨s.carrel k.p, s.mem k.p⟩ l.mov (s.slotActs k l.mov) t).carrel k.p).xfers := by
  have hn : ∀ x, (x = l.ctl ∨ x = l.vec ∨ x = l.mat) → ¬ slotAspects x (s.slotActs k x) .xfers := by
    intro x hx hs
    unfold slotAspects at hs
    split at hs
    · rename_i o w
      have hp := issues_port hi (o := o) (w := w)
      have h1 := aspect_port o .xfers hs.2
      have h0 : opPort o = 1 := by simpa using h1
      rcases hx with h | h | h
      · have := (hp.1 h.symm).1; omega
      · have := (hp.2.2.1 h.symm).1; omega
      · have := (hp.2.2.2 h.symm).1; omega
    · exact hs
  refine ⟨slotEff k ⟨s.carrel k.p, s.mem k.p⟩ l.ctl (s.slotActs k l.ctl) (s.lineStart k), ?_, ?_, ?_⟩
  · rw [(slotEff_touches l.ctl _ k _ _ s rfl).1, (lineStart_touches s k).1]
  · refine (of_xfers ((slotEff_touches l.ctl _ k _ _ s rfl).2.2.2.2.1 .xfers (hn _ (by simp)))).trans ?_
    simp [State.lineStart, State.onCar]
  · rw [runLine_eq]
    refine (of_xfers ((lineEnd_touches _ k).2.2.2.2.1 .xfers (by simp))).trans ?_
    refine (of_xfers ((slotEff_touches l.mat _ k _ _ s rfl).2.2.2.2.1 .xfers (hn _ (by simp)))).trans ?_
    exact of_xfers ((slotEff_touches l.vec _ k _ _ s rfl).2.2.2.2.1 .xfers (hn _ (by simp)))

theorem lineEnd_run (s : State) (k : Ctx) : ((s.lineEnd k).carrel k.p).run =
    if (s.carrel k.p).run = .halting ∧ (s.carrel k.p).xfers = [] then .halted else (s.carrel k.p).run := by
  simp only [State.lineEnd, State.onCar, State.carrel_setCarrel]
  split <;> rfl

/-- The line pointer and the barrier flags after a line. -/
theorem line_lp {s : State} {c : Nat} {k : Ctx} {l : Line} (hi : s.Issues c k l) :
    ((s.runLine k l).carrel k.p).lp = ((slotEff k ⟨s.carrel k.p, s.mem k.p⟩ l.ctl (s.slotActs k l.ctl) (s.lineStart k)).carrel k.p).lp := by
  rw [runLine_eq]
  exact of_lp (((lineEnd_touches _ k).2.2.2.2.1 .lp (by simp)).trans (line_ctl_aspect hi .lp (by simp)))

theorem line_arrived {s : State} {c : Nat} {k : Ctx} {l : Line} (hi : s.Issues c k l) :
    ((s.runLine k l).carrel k.p).arrived =
      ((slotEff k ⟨s.carrel k.p, s.mem k.p⟩ l.ctl (s.slotActs k l.ctl) (s.lineStart k)).carrel k.p).arrived := by
  rw [runLine_eq]
  exact of_arrived (((lineEnd_touches _ k).2.2.2.2.1 .arrived (by simp)).trans (line_ctl_aspect hi .arrived (by simp)))

theorem line_run_state {s : State} {c : Nat} {k : Ctx} {l : Line} (hi : s.Issues c k l) :
    ((s.runLine k l).carrel k.p).run =
      let r := ((slotEff k ⟨s.carrel k.p, s.mem k.p⟩ l.ctl (s.slotActs k l.ctl) (s.lineStart k)).carrel k.p).run
      if r = .halting ∧ ((s.runLine k l).carrel k.p).xfers = [] then .halted else r := by
  have h2 := of_run (line_ctl_aspect hi .run (by simp))
  rw [runLine_eq, lineEnd_run, of_xfers ((lineEnd_touches _ k).2.2.2.2.1 .xfers (by simp)), h2]

theorem issues_run {s : State} {c : Nat} {k : Ctx} {l : Line} (hi : s.Issues c k l) : (s.carrel k.p).run = .active := by
  have h2 := hi.2.1
  unfold State.mayIssue at h2; simp at h2; exact h2.1.1.2

end Sys2Proof.Machine
end

