-- ==== Sys2Proof/Laws/Row.lean ====
section
/-!
SUPPORT. What a row of the command table answers: a state without events, with one recorded event, with an entry into the safe state (12 R428 to R440).
-/
namespace Sys2Proof.Machine

/-! ### The next state of a command that raises no event -/

/-- A command whose meaning leads to `t`. -/
theorem act_to {s t : State} {row : Instr} {f : State → State} (hr : exec row s = act s f) (hp : s.Powered) (hf : f s = t) (hq : t.Quiet)
    (hpend : t.pending = s.pending := by rfl) (hc : t.dev.cold = s.dev.cold := by rfl) : exec row s = .next t.lines := by
  subst hf
  rw [hr]
  exact act_quiet s f hp hq hpend (hc.trans hp.1)

/-- A host's register write that leads to `t`. -/
theorem host_to {s t : State} {row : Instr} {fn off : Nat} {f : State → State} (hr : exec row s = hostReg s fn off f) (hp : s.Powered)
    (hm : s.hostMay fn off = true) (hf : f s = t) (hq : t.Quiet)
    (hpend : t.pending = s.pending := by rfl) (hc : t.dev.cold = s.dev.cold := by rfl) : exec row s = .next t.lines :=
  act_to (hr.trans (hostReg_open s fn off f hm)) hp hf hq hpend hc

/-- A host's write of a configuration field that leads to `t`. -/
theorem cfg_to {s t : State} {row : Instr} {fn : Nat} {f : State → State} (hr : exec row s = cfgRow s fn f) (hp : s.Powered)
    (hm : s.cfgMay fn = true) (hf : f s = t) (hq : t.Quiet)
    (hpend : t.pending = s.pending := by rfl) (hc : t.dev.cold = s.dev.cold := by rfl) : exec row s = .next t.lines := by
  refine act_to (hr.trans ?_) hp hf hq hpend hc
  unfold State.cfgMay at hm
  unfold cfgRow act
  simp only [hm, if_true]

/-- A host's register read that leads to `t`. -/
theorem get_to {s t : State} {row : Instr} {fn off : Nat} {f : State → State} (hr : exec row s = hostGet s fn off f) (hp : s.Powered)
    (hm : s.hostSees fn off = true) (hf : f s = t) (hq : t.Quiet)
    (hpend : t.pending = s.pending := by rfl) (hc : t.dev.cold = s.dev.cold := by rfl) : exec row s = .next t.lines := by
  refine act_to (hr.trans ?_) hp hf hq hpend hc
  unfold State.hostSees at hm
  unfold hostGet act
  simp only [hm, if_true]

/-- What leaves the events and the record of the safe state alone stays quiet. -/
theorem State.quiet_of {s t : State} (h : s.Quiet) (h1 : t.evq = s.evq := by rfl) (h2 : t.dev.safeRec = s.dev.safeRec := by rfl) : t.Quiet :=
  ⟨h1.trans h.1, h2.trans h.2⟩

/-! ### Commands that raise one event -/

/-- Registers of other kinds keep their fields. -/
theorem State.g_p_other (s : State) (f f' : Fld) (i j v : Nat) (h : f'.reg ≠ f.reg) : (s.p f i v).g f' j = s.g f' j := by
  unfold State.g; rw [State.reg_p_ne _ _ _ _ _ _ (.inl h)]

theorem State.recorded_congr {s t : State} {e : Event} (h : s.Recorded e)
    (hr : ∀ k j, k ∈ [RegKind.DEV_STATUS, .COL_SEV, .COL_REACT, .COL_REACT_W1, .COL_REACT_W2] → t.reg k j = s.reg k j) : t.Recorded e := by
  have hg : ∀ f j, f.reg ∈ [RegKind.DEV_STATUS, .COL_SEV, .COL_REACT, .COL_REACT_W1, .COL_REACT_W2] → t.g f j = s.g f j := by
    intro f j hf; unfold State.g; rw [hr _ _ hf]
  obtain ⟨h1, h2, h3⟩ := h
  refine ⟨?_, ?_, h3⟩
  · rw [← h1]
    unfold State.effSev State.gb
    simp only [hg COL_SEV.ENABLE _ (by decide), hg DEV_STATUS.STATE _ (by decide), hg COL_SEV.CE_AS _ (by decide),
      hg COL_SEV.UC_AS _ (by decide), hg COL_SEV.FATAL_AS _ (by decide)]
  · refine Eq.trans ?_ h2
    unfold State.maskOf
    simp only [hg COL_REACT_W1.CE_MASK _ (by decide), hg COL_REACT_W1.UC_MASK _ (by decide), hg COL_REACT_W1.FATAL_MASK _ (by decide),
      hg COL_REACT_W2.CE_MASK _ (by decide), hg COL_REACT_W2.UC_MASK _ (by decide), hg COL_REACT_W2.FATAL_MASK _ (by decide),
      hg COL_REACT.CE_MASK _ (by decide), hg COL_REACT.UC_MASK _ (by decide), hg COL_REACT.FATAL_MASK _ (by decide)]

/-- An event that is only recorded. -/
theorem State.collect_recorded {s : State} {e : Event} (h : s.Recorded e) : s.collect e = s.record e 0 false 0 := by
  obtain ⟨h1, h2, h3⟩ := h
  unfold State.collect
  simp only [h1, h2]
  have hb : ∀ j, bit 0 j = false := by intro j; simp [bit]
  have hm : reactTaken 0 0 (s.gb DEV_STATUS.SAFE) = 0 := by unfold reactTaken; cases s.gb DEV_STATUS.SAFE <;> rfl
  simp [hm, hb, h3.1, h3.2]

theorem State.p_eq (s : State) (f : Fld) (i v : Nat) : s.p f i v = { s with rf := (s.p f i v).rf } := rfl

/-- A record changes registers and the collector's history alone. -/
theorem State.record_eq (s : State) (e : Event) (sev : Nat) (ovr : Bool) (react : Nat) :
    ∃ r c, s.record e sev ovr react = { s with rf := r, cols := c } := by
  have hp : ∀ {t : State}, (∃ r c, t = { s with rf := r, cols := c }) → ∀ f i v, ∃ r c, t.p f i v = { s with rf := r, cols := c } := by
    rintro t ⟨r, c, rfl⟩ f i v
    exact ⟨_, _, rfl⟩
  have hb : ∀ {t : State}, (∃ r c, t = { s with rf := r, cols := c }) → ∀ f i, ∃ r c, t.bump f i = { s with rf := r, cols := c } :=
    fun h f i => hp h _ _ _
  have hi : ∀ {t : State} (b : Bool), (∃ r c, t = { s with rf := r, cols := c }) → ∀ f i,
      ∃ r c, (if b then t.bump f i else t) = { s with rf := r, cols := c } := by
    intro t b h f i; split
    · exact hb h f i
    · exact h
  unfold State.record
  extract_lets c r x h ip s1 s2 s3 s4 s5
  have h1 : ∃ r c, s1 = { s with rf := r, cols := c } := ⟨_, _, rfl⟩
  have h4 := hp (hi h.2 (hp h1 COL_STATUS.DEPTH c h.1.length) COL_STATUS.OVERFLOW c) COL_STATUS.FORCED c (b2n e.forced.isSome)
  have h5 : ∃ r c, s5 = { s with rf := r, cols := c } := by
    simp only [s5]
    split
    · exact hp (hb h4 _ _) _ _ _
    · exact hp (hb h4 _ _) _ _ _
    · exact hp (hb h4 _ _) _ _ _
    · exact h4
  split
  · exact hp h5 _ _ _
  · exact h5

/-- A command that raises an event which is only recorded. -/
theorem act_raise {s t : State} {row : Instr} {f : State → State} {e : Event} (hr : exec row s = act s f) (hp : s.Powered)
    (hf : f s = t.raise e) (hq : t.Quiet) (he : t.Recorded e) (hpend : t.pending = s.pending := by rfl)
    (hc : t.dev.cold = s.dev.cold := by rfl) : exec row s = .next (t.record e 0 false 0).lines := by
  rw [hr, act_powered s f hp, hf]
  obtain ⟨r, c, h⟩ := State.record_eq t e 0 false 0
  have h1 : (t.raise e).fin = (t.record e 0 false 0).lines := by
    unfold State.fin
    have h2 : (t.raise e).evSort.collectN (64 + 8 * (t.raise e).evq.length) = t.record e 0 false 0 := by
      have h3 : (t.raise e).evq = [e] := by unfold State.raise; simp [hq.1]
      rw [State.evSort_one _ _ h3]
      have h4 : ({ t.raise e with evq := [] } : State) = t := by
        unfold State.raise; rw [← hq.1]
      rw [h3]
      show State.collectN (71 + 1) (t.raise e) = _
      unfold State.collectN
      simp only [h3]
      rw [h4, State.collect_recorded he, State.collectN_nil]
      rw [h]; exact hq.1
    rw [h2, State.safeLedger_quiet]
    rw [h]; exact hq.2
  rw [h1]
  congr 1
  have h5 : (t.record e 0 false 0).lines.pending = s.pending := by rw [State.lines_pending, h]; exact hpend
  have h6 : (t.record e 0 false 0).lines.dev.cold = s.dev.cold := by rw [State.lines_dev, h]; exact hc
  unfold State.inputsOf
  rw [← h5, ← h6]

/-! ### Operations over a list of numbers -/

/-- What every step keeps holds at the end. -/
theorem foldl_keeps {α β : Type} (P : α → Prop) (f : α → β → α) (xs : List β) (a : α) (h0 : P a) (hs : ∀ t x, x ∈ xs → P t → P (f t x)) :
    P (xs.foldl f a) := by
  induction xs generalizing a with
  | nil => exact h0
  | cons x xs ih =>
    rw [List.foldl_cons]
    exact ih _ (hs a x (by simp) h0) fun t y hy ht => hs t y (by simp [hy]) ht

/-- What each element's step sets, and the others' steps keep, holds at the end for every element. -/
theorem foldl_sets {α β : Type} (P : α → Prop) (D : β → α → Prop) (f : α → β → α) (xs : List β) (a : α) (h0 : P a)
    (hs : ∀ t x, x ∈ xs → P t → P (f t x)) (hd : ∀ t x, x ∈ xs → P t → D x (f t x))
    (hk : ∀ t x y, x ∈ xs → P t → D y t → D y (f t x)) : P (xs.foldl f a) ∧ ∀ x ∈ xs, D x (xs.foldl f a) := by
  induction xs generalizing a with
  | nil => exact ⟨h0, by simp⟩
  | cons x xs ih =>
    rw [List.foldl_cons]
    have h1 := ih _ (hs a x (by simp) h0) (fun t y hy ht => hs t y (by simp [hy]) ht) (fun t y hy ht => hd t y (by simp [hy]) ht)
      fun t y z hy ht hz => hk t y z (by simp [hy]) ht hz
    refine ⟨h1.1, ?_⟩
    intro y hy
    rcases List.mem_cons.1 hy with rfl | hy
    · have := foldl_keeps (fun t => P t ∧ D y t) f xs (f a y) ⟨hs a y (by simp) h0, hd a y (by simp) h0⟩
        fun t z hz ht => ⟨hs t z (by simp [hz]) ht.1, hk t z y (by simp [hz]) ht.1 ht.2⟩
      exact this.2
    · exact h1.2 y hy

/-- Where only registers differ, the end of a command leaves the rest. -/
theorem regs_refl (s : State) : ∃ r, s = { s with rf := r } := ⟨s.rf, rfl⟩
theorem regs_p {s t : State} (h : ∃ r, t = { s with rf := r }) (f : Fld) (i v : Nat) : ∃ r, t.p f i v = { s with rf := r } := by
  obtain ⟨r, rfl⟩ := h; exact ⟨_, rfl⟩
theorem regs_setReg {s t : State} (h : ∃ r, t = { s with rf := r }) (k : RegKind) (i : Nat) (v : BitVec 64) :
    ∃ r, t.setReg k i v = { s with rf := r } := by
  obtain ⟨r, rfl⟩ := h; exact ⟨_, rfl⟩
theorem lines_regs {s t : State} (h : ∃ r, t = { s with rf := r }) :
    t.lines = { s with rf := t.lines.rf, link := t.lines.link, out := t.lines.out, port := t.lines.port } := by
  obtain ⟨r, rfl⟩ := h
  obtain ⟨l, o, x, h⟩ := State.lines_eq ({ s with rf := r } : State)
  rw [h]

theorem State.g_setReg_other (s : State) (k : RegKind) (f : Fld) (i j : Nat) (v : BitVec 64) (h : f.reg ≠ k) : (s.setReg k i v).g f j = s.g f j := by
  unfold State.g; rw [State.reg_setReg_ne _ _ _ _ _ _ (.inl h)]
theorem State.reg_p_other (s : State) (f : Fld) (k : RegKind) (i j v : Nat) (h : k ≠ f.reg) : (s.p f i v).reg k j = s.reg k j :=
  State.reg_p_ne _ _ _ _ _ _ (.inl h)
theorem State.gb_p_field (s : State) (f f' : Fld) (i v : Nat) (hr : f'.reg = f.reg) (h : f.lo ≤ f.hi) (h6 : f.hi < 64)
    (hd : f.hi < f'.lo ∨ f'.hi < f.lo) (h' : f'.lo ≤ f'.hi) : (s.p f i v).gb f' i = s.gb f' i := by
  unfold State.gb; rw [State.g_p_field _ _ _ _ _ hr h h6 hd h']
theorem State.gb_p_other (s : State) (f f' : Fld) (i j v : Nat) (h : f'.reg ≠ f.reg) : (s.p f i v).gb f' j = s.gb f' j := by
  unfold State.gb; rw [State.g_p_other _ _ _ _ _ _ h]
theorem State.g_p_self (s : State) (f : Fld) (i v : Nat) (h : f.lo ≤ f.hi) (h6 : f.hi < 64) (hv : v < 2 ^ (f.hi + 1 - f.lo)) : (s.p f i v).g f i = v := by
  rw [State.g_p _ _ _ _ h h6, Nat.mod_eq_of_lt hv]

/-- Nothing goes on in a queue whose front has not failed, where no install starts and whose intake has nothing to ask for. -/
theorem State.queueGo_idle (s : State) (q : Nat) (h1 : s.frontFail q = none) (h2 : s.frontGo q = s) (h3 : s.intakeGo q = s) : s.queueGo q = s := by
  unfold State.queueGo State.queueGoN
  rw [h1]
  dsimp only
  rw [h2, h3, h1]
  rfl

/-- An intake that may not fetch asks for nothing. -/
theorem State.intakeGo_barred (s : State) (q : Nat) (h : s.mayFetch q = false) : s.intakeGo q = s := by
  unfold State.intakeGo
  dsimp only
  rw [if_pos (by rw [h]; rfl)]

/-- While an invocation of a descriptor runs, while the queue is off or a record is held, no descriptor of the queue completes. -/
theorem State.frontFail_barred (s : State) (q : Nat) (h : s.descRunning q = true ∨ s.g Q_STATUS.STATE q = 0 ∨ (s.queue q).hold ≠ none) :
    s.frontFail q = none := by
  unfold State.frontFail
  dsimp only
  rw [if_pos (by simpa [or_assoc] using h)]

/-- In the same states no install starts. -/
theorem State.frontGo_barred (s : State) (q : Nat) (h : s.descRunning q = true ∨ s.g Q_STATUS.STATE q = 0 ∨ (s.queue q).hold ≠ none) :
    s.frontGo q = s := by
  unfold State.frontGo
  dsimp only
  rw [if_pos (by simpa [or_assoc] using h)]

/-- A queue that is off does nothing. -/
theorem State.queueGo_off (s : State) (q : Nat) (h : s.g Q_STATUS.STATE q = 0) : s.queueGo q = s := by
  refine s.queueGo_idle q (s.frontFail_barred q (.inr (.inl h))) (s.frontGo_barred q (.inr (.inl h))) (s.intakeGo_barred q ?_)
  unfold State.mayFetch
  rw [h]; rfl

/-- The carrel map is its registers. -/
theorem State.phys_congr {s t : State} (h : ∀ j, t.reg .WING_CMAP j = s.reg .WING_CMAP j) (c : Nat) : t.phys c = s.phys c := by
  have h1 : ∀ f j, f.reg = RegKind.WING_CMAP → t.g f j = s.g f j := by intro f j hf; unfold State.g; rw [hf, h]
  unfold State.phys
  simp only [h1 WING_CMAP.PHYS_LO _ rfl, h1 WING_CMAP.PHYS_HI _ rfl]
@[reducible] def relT (s : State) (n trel : Nat) : Release :=
  { slot := n, bar := none, trel := trel, spread := decide (16 < (s.slot n).allot.length), stride := s.g STAMP_CTL.WAVE_STRIDE,
    prio := s.g SLOT_CFG.PRIORITY n, formed := s.time }

theorem setUp_spec (s : State) (n start : Nat) (block : Bytes) :
    (∃ car st, s.setUp n start block = { s with car := car, store := st }) ∧
    ∀ c ∈ carrelsOf (s.slot n).allot, ((s.setUp n start block).carrel (s.phys c)).run = .waiting ∧ ((s.setUp n start block).carrel (s.phys c)).lp = start ∧
      ((s.setUp n start block).carrel (s.phys c)).cycles = 0 ∧ ((s.setUp n start block).carrel (s.phys c)).trb = {} ∧
      sget ((s.setUp n start block).carrel (s.phys c)) 1 = 0 := by
  unfold State.setUp State.each
  dsimp only
  refine foldl_sets (fun t : State => ∃ car st, t = { s with car := car, store := st })
    (fun c t => (t.carrel (s.phys c)).run = .waiting ∧ (t.carrel (s.phys c)).lp = start ∧
      (t.carrel (s.phys c)).cycles = 0 ∧ (t.carrel (s.phys c)).trb = {} ∧ sget (t.carrel (s.phys c)) 1 = 0) _ _ s ⟨s.car, s.store, rfl⟩ ?_ ?_ ?_
  · rintro t c - ⟨car, st, rfl⟩; exact ⟨_, _, rfl⟩
  · rintro t c - ⟨car, st, rfl⟩
    rw [show ({ s with car := car, store := st } : State).phys c = s.phys c from rfl, State.carrel_setCarrel]
    exact ⟨rfl, rfl, rfl, rfl, rfl⟩
  · rintro t c d - ⟨car, st, rfl⟩ h
    rw [show ({ s with car := car, store := st } : State).phys c = s.phys c from rfl]
    by_cases hq : s.phys d = s.phys c
    · rw [hq, State.carrel_setCarrel]
      exact ⟨rfl, rfl, rfl, rfl, rfl⟩
    · rw [State.carrel_setCarrel_ne _ _ _ _ hq]
      exact h

theorem dispatch_spec (s : State) (n entry : Nat) (src : Source) (block : Bytes) (trel i : Nat) (e : Entry)
    (hf : findEntry (s.slot n).folios entry = some (i, e)) (ho : (match src with | .slip _ _ => e.bySlip | _ => e.byDesc) = true) :
    let x : SlotSt := { s.slot n with inv := some ⟨src, entry, i, e.budget⟩, gates := 0, hubArr := [], gated := s.g SLOT_CFG.GATED n,
                                      group := s.g SLOT_CFG.GROUP_BAR n, prio := s.g SLOT_CFG.PRIORITY n, grpWait := 0, grpRel := [],
                                      left := none, ending := none, endMark := false }
    ∃ car st, s.dispatch n entry src block trel = ({ s.setSlot n x with
        car := car, store := st, rels := s.rels ++ [relT s n trel] } : State).p SLOT_STATUS.STATE n 3 ∧
      ∀ c ∈ carrelsOf (s.slot n).allot, (tget carDef car (s.phys c)).run = .waiting ∧
        (tget carDef car (s.phys c)).lp = e.start ∧ (tget carDef car (s.phys c)).cycles = 0 ∧
        (tget carDef car (s.phys c)).trb = {} ∧ sget (tget carDef car (s.phys c)) 1 = 0 := by
  intro x
  obtain ⟨⟨car, st, h1⟩, h2⟩ := setUp_spec (s.setSlot n x) n e.start block
  refine ⟨car, st, ?_, ?_⟩
  · unfold State.dispatch
    dsimp only
    rw [hf]
    dsimp only
    rw [if_neg (by cases src <;> simp_all)]
    rw [h1]
    unfold State.formRelease
    dsimp only
    have h3 : (({ s.setSlot n x with car := car, store := st } : State).p SLOT_STATUS.STATE n 3).slot n = x := State.slot_setSlot s n x
    have h4 : (({ s.setSlot n x with car := car, store := st } : State).p SLOT_STATUS.STATE n 3).g STAMP_CTL.WAVE_STRIDE = s.g STAMP_CTL.WAVE_STRIDE :=
      State.g_p_other _ _ _ _ _ _ (by decide)
    rw [h3, h4]
    rfl
  · intro c hc
    have := h2 c (by rw [State.slot_setSlot]; exact hc)
    rw [h1] at this
    exact this
theorem State.recordedUc_congr {s t : State} {e : Event} (h : s.RecordedUc e)
    (hr : ∀ k j, k ∈ [RegKind.DEV_STATUS, .COL_SEV, .COL_REACT, .COL_REACT_W1, .COL_REACT_W2] → t.reg k j = s.reg k j) : t.RecordedUc e := by
  have hg : ∀ f j, f.reg ∈ [RegKind.DEV_STATUS, .COL_SEV, .COL_REACT, .COL_REACT_W1, .COL_REACT_W2] → t.g f j = s.g f j := by
    intro f j hf; unfold State.g; rw [hr _ _ hf]
  obtain ⟨h1, h2, h3⟩ := h
  refine ⟨?_, ?_, h3⟩
  · rw [← h1]
    unfold State.effSev State.gb
    simp only [hg COL_SEV.ENABLE _ (by decide), hg DEV_STATUS.STATE _ (by decide), hg COL_SEV.CE_AS _ (by decide),
      hg COL_SEV.UC_AS _ (by decide), hg COL_SEV.FATAL_AS _ (by decide)]
  · refine Eq.trans ?_ h2
    unfold State.maskOf
    simp only [hg COL_REACT_W1.CE_MASK _ (by decide), hg COL_REACT_W1.UC_MASK _ (by decide), hg COL_REACT_W1.FATAL_MASK _ (by decide),
      hg COL_REACT_W2.CE_MASK _ (by decide), hg COL_REACT_W2.UC_MASK _ (by decide), hg COL_REACT_W2.FATAL_MASK _ (by decide),
      hg COL_REACT.CE_MASK _ (by decide), hg COL_REACT.UC_MASK _ (by decide), hg COL_REACT.FATAL_MASK _ (by decide)]

theorem State.collect_recordedUc {s : State} {e : Event} (h : s.RecordedUc e) : s.collect e = s.record e 1 false 0 := by
  obtain ⟨h1, h2, h3, h4⟩ := h
  simp only [List.mem_cons, List.not_mem_nil, or_false, not_or] at h3
  obtain ⟨c0, c2, c8⟩ := h3
  unfold State.collect
  simp only [h1, h2]
  have hb : ∀ j, bit 0 j = false := by intro j; simp [bit]
  have hm : reactTaken 0 1 (s.gb DEV_STATUS.SAFE) = 0 := by unfold reactTaken; cases s.gb DEV_STATUS.SAFE <;> rfl
  simp [hm, hb, c0, c2, h4]
  intro _ _
  unfold State.contain
  split
  · exact absurd ‹_› c0
  · exact absurd ‹_› c2
  · exact absurd ‹_› c8
  · rfl

/-- A command that raises an uncorrected event which is only recorded. -/
theorem act_raiseUc {s t : State} {row : Instr} {f : State → State} {e : Event} (hr : exec row s = act s f) (hp : s.Powered)
    (hf : f s = t.raise e) (hq : t.Quiet) (he : t.RecordedUc e) (hpend : t.pending = s.pending := by rfl)
    (hc : t.dev.cold = s.dev.cold := by rfl) : exec row s = .next (t.noted e 1) := by
  rw [hr, act_powered s f hp, hf]
  obtain ⟨r, c, h⟩ := State.record_eq t e 1 false 0
  have h1 : (t.raise e).fin = (t.record e 1 false 0).lines := by
    unfold State.fin
    have h2 : (t.raise e).evSort.collectN (64 + 8 * (t.raise e).evq.length) = t.record e 1 false 0 := by
      have h3 : (t.raise e).evq = [e] := by unfold State.raise; simp [hq.1]
      rw [State.evSort_one _ _ h3]
      have h4 : ({ t.raise e with evq := [] } : State) = t := by
        unfold State.raise; rw [← hq.1]
      rw [h3]
      show State.collectN (71 + 1) (t.raise e) = _
      unfold State.collectN
      simp only [h3]
      rw [h4, State.collect_recordedUc he, State.collectN_nil]
      rw [h]; exact hq.1
    rw [h2, State.safeLedger_quiet]
    rw [h]; exact hq.2
  rw [h1]
  unfold State.noted
  congr 1
  have h5 : (t.record e 1 false 0).lines.pending = s.pending := by rw [State.lines_pending, h]; exact hpend
  have h6 : (t.record e 1 false 0).lines.dev.cold = s.dev.cold := by rw [State.lines_dev, h]; exact hc
  unfold State.inputsOf
  rw [← h5, ← h6]

end Sys2Proof.Machine
end

