-- ==== Sys2Proof/Laws/Due.lean ====
section
/-!
SUPPORT. The due dates: entries, frames, what firing does (04 R120 to R140).
-/
namespace Sys2Proof.Machine

theorem ddFirst_none (s : State) (p : Nat → Bool) (h : ∀ i < 256, p i = false) : s.ddFirst p = none := by
  unfold State.ddFirst
  have : (List.range 256).filter p = [] := by
    rw [List.filter_eq_nil_iff]; intro i hi; simp [h i (List.mem_range.1 hi)]
  simp only [this]; rfl

theorem ddFireMarked_none (s : State) (k : Nat) (h : ∀ i, (s.ddEnt i).state = 1 → (s.ddEnt i).pend = none) : s.ddFireMarked k = s := by
  cases k with
  | zero => rfl
  | succ k => unfold State.ddFireMarked; rw [ddFirst_none]; intro i _; by_cases h1 : (s.ddEnt i).state = 1 <;> simp [h1, h i]

theorem ddEach_none (s : State) (p : Nat → DdEnt → Bool) (f : DdEnt → DdEnt) (h : ∀ i, p i (s.ddEnt i) = false) : s.ddEach p f = s := by
  unfold State.ddEach
  generalize List.range 256 = xs
  induction xs with
  | nil => rfl
  | cons x xs ih =>
    rw [List.foldl_cons]
    simp only [h x]
    exact ih

theorem bump_stamp (s : State) (x : StampSt) (f : Fld) (i : Nat) :
    ({ s with stamp := x } : State).bump f i = { s.bump f i with stamp := x } := rfl

theorem badFrame_eq (s : State) (h : s.stamp.missRun + 1 < s.g STAMP_CTL.SYNC_MISS_LIMIT) :
    s.badFrame = { s with stamp := { s.stamp with missRun := s.stamp.missRun + 1 } } := by
  unfold State.badFrame
  extract_lets r _ u
  rw [if_neg]
  rintro ⟨h', -⟩
  have h5 : u.g STAMP_CTL.SYNC_MISS_LIMIT = s.g STAMP_CTL.SYNC_MISS_LIMIT := rfl
  have h6 : r = s.stamp.missRun + 1 := rfl
  omega

theorem frameMissed_eq (s : State) (h1 : s.gb STAMP_STATUS.SYNC_OK = true) (h2 : 65600 ≤ s.stamp.sinceGood)
    (h3 : s.stamp.missRun + 1 < s.g STAMP_CTL.SYNC_MISS_LIMIT) :
    s.frameMissed = { s.bump STAMP_COUNTS.MISSED 0 with
        stamp := { s.stamp with sinceGood := ((s.stamp.sinceGood : Int) - 65536).toNat, badSeen := false,
                                missRun := s.stamp.missRun + b2n (!s.stamp.badSeen) } } := by
  unfold State.frameMissed
  rw [if_pos ⟨h1, h2⟩]
  dsimp only
  rw [bump_stamp]
  cases hb : s.stamp.badSeen
  swap
  · rfl
  rw [if_neg (by decide), badFrame_eq]
  · rfl
  show _ < (s.bump STAMP_COUNTS.MISSED 0).g STAMP_CTL.SYNC_MISS_LIMIT
  unfold State.bump
  rw [State.g_p_other _ _ _ _ _ _ (by decide)]
  exact h3

theorem ddEach_eq (s : State) (p : Nat → DdEnt → Bool) (f : DdEnt → DdEnt) : ∃ d, s.ddEach p f = { s with dd := d } := by
  unfold State.ddEach
  generalize List.range 256 = xs
  suffices ∀ t : State, (∃ d, t = { s with dd := d }) → ∃ d, xs.foldl (fun (s : State) i => if p i (s.ddEnt i) then s.setDd i (f (s.ddEnt i)) else s) t = { s with dd := d } from
    this s ⟨s.dd, rfl⟩
  induction xs with
  | nil => intro t h; exact h
  | cons x xs ih =>
    intro t h
    rw [List.foldl_cons]
    apply ih
    obtain ⟨d, rfl⟩ := h
    split
    · exact ⟨_, rfl⟩
    · exact ⟨_, rfl⟩

theorem ddEach_ent (s : State) (p : Nat → DdEnt → Bool) (f : DdEnt → DdEnt) (i : Nat) :
    (s.ddEach p f).ddEnt i = if i < 256 ∧ p i (s.ddEnt i) = true then f (s.ddEnt i) else s.ddEnt i := by
  unfold State.ddEach
  have hn : (List.range 256).Nodup := List.nodup_range
  have hm : i < 256 ↔ i ∈ List.range 256 := List.mem_range.symm
  simp only [hm]
  generalize List.range 256 = xs at hn ⊢
  clear hm
  induction xs generalizing s with
  | nil => simp
  | cons x xs ih =>
    rw [List.foldl_cons, ih _ (List.nodup_cons.1 hn).2]
    have hx := (List.nodup_cons.1 hn).1
    by_cases h : p x (s.ddEnt x) = true
    · simp only [h, if_true]
      by_cases hi : i = x
      · subst hi
        rw [if_neg (by simp [hx]), State.ddEnt_setDd, if_pos ⟨by simp, h⟩]
      · rw [State.ddEnt_setDd_ne _ _ _ _ hi]
        simp [hi]
    · simp only [h]
      by_cases hi : i = x
      · subst hi
        simp [hx, h]
      · simp [hi]

/-- An action that is no release, start or interrupt takes effect in its tick (R130). -/
theorem ddAct_soon (s : State) (i t a spec m : Nat) (h1 : ddAction spec ≠ 1) (h2 : ddAction spec ≠ 2) (h7 : ddAction spec ≠ 7) :
    s.ddAct i t a spec m = ((false, false), s.ddSoon a i spec) := by
  unfold State.ddAct; dsimp only; split <;> first | rfl | contradiction

theorem ddAct_7 (s : State) (i t a spec m : Nat) (h : ddAction spec = 7) (h1 : s.ddFn i (ddArg spec) ≤ s.partCount) :
    s.ddAct i t a spec m = ((false, false), s.ddSoon a i spec) := by
  unfold State.ddAct; simp only [h]; rw [if_neg (by omega)]

/-- An action of a tick that is to come waits for it. -/
theorem ddSoon_later (s : State) (a i spec : Nat) (h : s.now < a) :
    s.ddSoon a i spec = { s with stamp := { s.stamp with acts := s.stamp.acts ++ [(s.timeOf a, i, spec)] } } := by
  unfold State.ddSoon; rw [if_neg (by omega)]

theorem ddSoon_now (s : State) (a i spec : Nat) (h : a ≤ s.now) : s.ddSoon a i spec = s.ddEffect i spec := by
  unfold State.ddSoon; rw [if_pos h]

/-- Where no entry has been issued for a tick from `base` on, an entry takes effect at `base` (R131). -/
theorem ddTick_free (s : State) (base : Nat) (h : (s.stamp.actAt.filter fun x => decide (x = s.timeOf base)).length < 16) : s.ddTick base = base := by
  unfold State.ddTick
  dsimp only
  rw [List.range_succ_eq_map, List.find?_cons_of_pos]
  · rfl
  · simpa using h

theorem ddFire_eq (s : State) (i a : Nat) (t : State) (h : (s.ddEnt i).pend = none) (htk : s.ddTick (max (s.ddEnt i).stamp s.now) = a)
    (ha : s.ddAct i (s.ddEnt i).stamp a (s.ddEnt i).spec 0 = ((false, false), t)) :
    s.ddFire i = ({ t.setDd i { s.ddEnt i with
        busy := false, noTarget := false, late := false, skipped := false, susp := false, missed := 0, pend := none, firedAt := a,
        state := if (s.ddEnt i).period = 0 then 2 else 1,
        stamp := if (s.ddEnt i).period = 0 then (s.ddEnt i).stamp else ((s.ddEnt i).stamp + (s.ddEnt i).period) % 2 ^ 64 } with
      stamp := { t.stamp with actAt := t.stamp.actAt ++ [s.timeOf a] } } : State) := by
  have hb : bit 0 0 = false ∧ bit 0 1 = false ∧ bit 0 2 = false := ⟨by decide, by decide, by decide⟩
  unfold State.ddFire
  simp only [h, Option.getD_none, if_true, htk, ha, hb.1, hb.2.1, hb.2.2]
  rfl

theorem ddArm_eq (s : State) (i stamp spec period : Nat) (h3 : s.now + 2 ≤ stamp) (h4 : ∀ j, (s.ddEnt j).pend = none) :
    s.ddArm i stamp spec period = s.setDd i
      { stamp := stamp, spec := spec, period := period, state := if s.isGroupEnt i spec && s.gb STAMP_STATUS.GROUP_SUSPENDED then 3 else 1 } := by
  unfold State.ddArm
  extract_lets u la en
  have hl : la = false := by simp only [la]; simp [show ¬ stamp < s.now + 2 by omega]
  have he : en = { stamp := stamp, spec := spec, period := period, state := if u then 3 else 1 } := by
    simp only [en, hl]; rfl
  rw [ddFireMarked_none, he]
  intro j _
  by_cases hj : j = i
  · subst hj; rw [State.ddEnt_setDd, he]
  · rw [State.ddEnt_setDd_ne _ _ _ _ hj]; exact h4 j

theorem ddCmd_1 (s : State) : s.ddCmd 1 = (s.ddCommit none (s.g DD_INDEX.INDEX) (s.g DD_STAMP.STAMP) (s.reg .DD_SPEC 0).toNat (s.g DD_PERIOD.PERIOD)).2.p
    DD_RESULT.RESULT 0 (s.ddCommit none (s.g DD_INDEX.INDEX) (s.g DD_STAMP.STAMP) (s.reg .DD_SPEC 0).toNat (s.g DD_PERIOD.PERIOD)).1 := rfl

theorem ddCmd_2 (s : State) : s.ddCmd 2 = (s.ddCancel none (s.g DD_INDEX.INDEX)).2.p DD_RESULT.RESULT 0 (s.ddCancel none (s.g DD_INDEX.INDEX)).1 := rfl

theorem ddCmd_3 (s : State) (h : s.ddOwn none (s.g DD_INDEX.INDEX) = 0) :
    let e := s.ddEnt (s.g DD_INDEX.INDEX)
    s.ddCmd 3 = (((((((((((s.p DD_STAMP.STAMP 0 e.stamp).setReg .DD_SPEC 0 (BitVec.ofNat 64 e.spec)).p DD_PERIOD.PERIOD 0 e.period).p DD_RESULT.MISSED 0 e.missed).p
      DD_RESULT.NO_TARGET 0 (b2n e.noTarget)).p DD_RESULT.BUSY 0 (b2n e.busy)).p DD_RESULT.SUSPENDED 0 (b2n e.susp)).p DD_RESULT.SKIPPED 0 (b2n e.skipped)).p
      DD_RESULT.LATE 0 (b2n e.late)).p DD_RESULT.STATE 0 e.state).p DD_RESULT.RESULT 0 0).p DD_FIRED_AT.STAMP 0 e.firedAt := by
  intro e
  unfold State.ddCmd
  simp only
  rw [if_neg (by rw [h]; simp)]

end Sys2Proof.Machine
end

