-- ==== Sys2Proof/Laws/Queue.lean ====
section
/-!
SUPPORT. Queues, completion records and lending (05 R180 to R200, 08 R327 to R337).
-/
namespace Sys2Proof.Machine

theorem setQueue_setQueue (s : State) (q : Nat) (a b : QSt) : (s.setQueue q a).setQueue q b = s.setQueue q b := by
  unfold State.setQueue; simp only [tset_tset]

theorem setCs_setCs (s : State) (q : Nat) (a b : CsSt) : (s.setCs q a).setCs q b = s.setCs q b := by
  unfold State.setCs; simp only [tset_tset]

theorem setSlip_self (s : State) (q : Nat) (a : SlipFr) : (s.setSlip q a).slipOf q = a := by
  unfold State.setSlip State.slipOf; simp only [tget_tset_same]

theorem bfalse {b : Bool} (h : b = false) : ¬b = true := by rw [h]; decide

theorem intakeGo_idle (s : State) (q : Nat) (h : s.NoFetch q) : s.intakeGo q = s := by
  unfold State.intakeGo
  dsimp only
  rcases h with h | ⟨h1, h2⟩
  · rw [if_pos (by rw [h]; decide)]
  · split
    · rfl
    · rw [h1]
      dsimp only
      rw [if_neg (by omega)]

/-- The accessioned descriptors of a queue neither complete by themselves nor start: none has failed, none is an `INSTALL`. -/
theorem queueGo_plain (s : State) (q : Nat) (h1 : ∀ d ∈ (s.queue q).accs, d.fail = none ∧ descOp d.bytes ≠ 2) (h2 : s.NoFetch q) : s.queueGo q = s := by
  refine s.queueGo_idle q ?_ ?_ (intakeGo_idle s q h2)
  · unfold State.frontFail
    dsimp only
    split
    · rfl
    · cases hx : (s.queue q).accs with
      | nil => rfl
      | cons d ds => exact (h1 d (by rw [hx]; exact List.mem_cons_self)).1
  · unfold State.frontGo
    dsimp only
    split
    · rfl
    · cases hx : (s.queue q).accs with
      | nil => rfl
      | cons d ds => exact if_neg (h1 d (by rw [hx]; exact List.mem_cons_self)).2

theorem queueGo_empty (s : State) (q : Nat) (h1 : (s.queue q).accs = []) (h2 : s.NoFetch q) : s.queueGo q = s :=
  queueGo_plain s q (by rw [h1]; simp) h2

theorem flushRecs_none (u : State) (q : Nat) (h1 : (u.queue q).hold = none) (h2 : (u.queue q).owed = []) :
    u.flushRecs q = u := by
  unfold State.flushRecs
  rw [h1]
  dsimp only
  rw [if_pos h2, ite_self]

theorem mayFetch_off (u : State) (q : Nat) (h : u.g Q_STATUS.STATE q ≠ 1) : u.mayFetch q = false := by
  unfold State.mayFetch
  rw [decide_eq_false h, Bool.false_and, Bool.false_and, Bool.false_and, Bool.false_and]

theorem ownsQ_of {s : State} {p q : Nat} (hq : q < 64) (hp : p < 8) (ho : s.owns p q = true) : s.ownsQ p q = true := by
  unfold State.ownsQ
  rw [if_neg (by omega), ho]; simp [hp]

theorem partFn_of {p : Nat} (hp : p < 8) : partFn p = p + 1 := by unfold partFn; rw [if_neg (by omega)]

theorem mayFetch_congr {s t : State} {q : Nat} (h1 : t.g Q_STATUS.STATE q = s.g Q_STATUS.STATE q) (h2 : (t.queue q).hold = (s.queue q).hold)
    (h3 : t.dev = s.dev) (h4 : t.g DEV_STATUS.STATE 0 = s.g DEV_STATUS.STATE 0) (h5 : t.gb DEV_STATUS.SAFE 0 = s.gb DEV_STATUS.SAFE 0) (h6 : t.fns = s.fns)
    (h7 : t.arec = s.arec) : t.mayFetch q = s.mayFetch q := by
  unfold State.mayFetch State.inService State.mayRequest State.queueFn State.fnOf State.partOf State.partCount State.slotsOf State.partCount State.part
    State.fn
  rw [h1, h2, h3, h4, h5, h6, h7]

theorem finishDesc_hold (t : State) (q : Nat) (b : Bytes) (e : Ending) (hr : t.RingFull q) (h : reports b e) :
    t.finishDesc q b e [0, 0, 0, 0] = t.setQueue q { t.queue q with hold := some (t.recOf q b e) } := by
  obtain ⟨h1, h2, h3, h4, h5⟩ := hr
  unfold State.finishDesc
  dsimp only
  rw [if_neg (by rintro ⟨a, c⟩; rcases h with h | h; · rw [h] at a; exact absurd a (by decide)
                 · exact h c)]
  unfold State.writeRec
  rw [if_neg (by rw [h5]; rintro (h | h); exacts [h1 h, absurd h (by decide)]), if_neg (by rw [h2]; simp), if_neg (by rw [h4]; decide)]
  dsimp only
  rw [if_pos h3]
  rfl

theorem mayFetch_hold (t : State) (q : Nat) (h : (t.queue q).hold ≠ none) : t.mayFetch q = false := by
  unfold State.mayFetch
  rw [decide_eq_false h, Bool.and_false, Bool.false_and, Bool.false_and, Bool.false_and]

/-- A queue that holds a record does nothing (05 R191). -/
theorem queueGo_hold (t : State) (q : Nat) (h : (t.queue q).hold ≠ none) : t.queueGo q = t :=
  t.queueGo_idle q (t.frontFail_barred q (.inr (.inr h))) (t.frontGo_barred q (.inr (.inr h))) (t.intakeGo_barred q (mayFetch_hold t q h))

/-- While an invocation of a descriptor runs, only the intake of its queue goes on (05 R185). -/
theorem queueGo_running (t : State) (q : Nat) (h : t.descRunning q = true) (h2 : t.NoFetch q) : t.queueGo q = t :=
  t.queueGo_idle q (t.frontFail_barred q (.inl h)) (t.frontGo_barred q (.inl h)) (intakeGo_idle t q h2)

theorem RingFull.of {s t : State} {q : Nat} (h : s.RingFull q) (h1 : t.g Q_STATUS.STATE q = s.g Q_STATUS.STATE q) (h2 : t.g Q_CFG.CQ_LOG2 q = s.g Q_CFG.CQ_LOG2 q)
    (h3 : (t.queue q).owed = (s.queue q).owed) (h4 : (t.queue q).hold = (s.queue q).hold) (h5 : (t.queue q).used = (s.queue q).used)
    (h6 : t.gb DEV_STATUS.SAFE = s.gb DEV_STATUS.SAFE := by rfl) : t.RingFull q := by
  obtain ⟨a, b, c, d, e⟩ := h
  refine ⟨by rw [h1]; exact a, by rw [h3]; exact b, by rw [h4]; exact c, ?_, by rw [h6]; exact e⟩
  unfold State.cqRoom at *; rw [h5, h2]; exact d

theorem recOf_congr {s t : State} {q : Nat} (b : Bytes) (e : Ending) (h1 : t.gb Q_CFG.ERR_IRQ q = s.gb Q_CFG.ERR_IRQ q)
    (h2 : t.g Q_CFG.ERR_VEC q = s.g Q_CFG.ERR_VEC q) : t.recOf q b e = s.recOf q b e := by
  unfold State.recOf State.recIrqs
  rw [h1, h2]

theorem endDesc_hold {s t : State} {q : Nat} {b : Bytes} {e : Ending} {d : Desc} {ds : List Desc} (ha : (t.queue q).accs = d :: ds) (hb : d.bytes = b)
    (hr : t.RingFull q) (h : reports b e) (h1 : t.gb Q_CFG.ERR_IRQ q = s.gb Q_CFG.ERR_IRQ q) (h2 : t.g Q_CFG.ERR_VEC q = s.g Q_CFG.ERR_VEC q) :
    (t.endDesc q e).queueGo q = t.setQueue q { t.queue q with
      accs := ds, lend := {}, re := none, hold := some (s.recOf q b e) } := by
  unfold State.endDesc
  dsimp only
  rw [ha]
  dsimp only
  have hr' : (t.setQueue q { t.queue q with accs := ds, lend := {}, re := none }).RingFull q :=
    RingFull.of hr rfl rfl (by rw [State.queue_setQueue]) (by rw [State.queue_setQueue]) (by rw [State.queue_setQueue])
  rw [hb, finishDesc_hold _ _ _ _ hr' h]
  have hx : (t.setQueue q { t.queue q with accs := ds, lend := {}, re := none }).recOf q b e = s.recOf q b e :=
    recOf_congr b e h1 h2
  rw [hx, State.queue_setQueue, setQueue_setQueue, queueGo_hold]
  rw [State.queue_setQueue]
  exact Option.some_ne_none _

theorem descRunning_congr {s t : State} (q : Nat) (h : t.slots = s.slots) : t.descRunning q = s.descRunning q := by
  unfold State.descRunning State.slot; rw [h]

theorem dueDesc_cancel (u : State) (p : Nat) (b : Bytes) (h6 : le b 0x11 1 < (u.part p).ddCount) (h5 : le b 0x10 1 = 2)
    (h7 : u.ddPart ((u.part p).ddBase + le b 0x11 1) = some p) (h8 : (u.ddEnt ((u.part p).ddBase + le b 0x11 1)).state = 1) (h9 : u.arec.role ≠ 1) :
    u.dueDesc p b = (0, u.setDd ((u.part p).ddBase + le b 0x11 1) {}) := by
  unfold State.dueDesc
  dsimp only
  rw [if_neg (by omega), if_pos h5]
  unfold State.ddCancel
  dsimp only
  have e1 : u.ddOwn (some p) ((u.part p).ddBase + le b 0x11 1) = 0 := by
    unfold State.ddOwn
    exact if_pos h7
  have e2 : u.sendPlan ((u.part p).ddBase + le b 0x11 1) false 0 0 0 = u := by
    unfold State.sendPlan
    rw [if_neg]
    exact fun h => h9 h.1
  rw [e1, if_neg (by simp), if_pos (.inl h8), e2]

/-- The queues after step 3 of R341: their accessioned descriptors marked, the translations under way begun anew. -/
def QSt.Marks (x y : QSt) : Prop := ∃ (f : List Desc → List Desc) (a b : Option PreSt), y = { x with accs := f x.accs, pre := a, re := b }

theorem markWork_eq (s : State) (part : Nat) (glob : Bool) (pasid va size : Nat) : ∃ q fns, s.markWork part glob pasid va size =
      { s with q := q, fns := fns } ∧ ∀ n, QSt.Marks (s.queue n) (tget (fun _ => ({} : QSt)) q n) := by
  unfold State.markWork State.each
  dsimp only
  have := foldl_keeps (fun t : State => ∃ q, t = { s with q := q } ∧ ∀ n, QSt.Marks (s.queue n) (tget (fun _ => ({} : QSt)) q n))
    (fun (s : State) n => if glob = true ∨ s.g SLOT_CFG.PASID n = pasid then
      s.setQueue n { s.queue n with pre := none, re := none,
                                    accs := (s.queue n).accs.map fun d => if glob || Desc.touches d va size then { d with marked := true } else d }
    else s) (s.slotsOf part) s ⟨s.q, rfl, fun n => ⟨id, _, _, rfl⟩⟩ (by
      rintro t y - ⟨q, rfl, h⟩
      dsimp only
      split
      · refine ⟨_, rfl, fun n => ?_⟩
        by_cases hn : n = y
        · subst hn
          obtain ⟨f, a, b, e⟩ := h n
          rw [tget_tset_same]
          have e' : ({ s with q := q } : State).queue n = { s.queue n with accs := f (s.queue n).accs, pre := a, re := b } := e
          rw [e']
          exact ⟨fun l => (f l).map _, _, _, rfl⟩
        · rw [tget_tset_ne _ _ _ _ _ hn]
          exact h n
      · exact ⟨q, rfl, h⟩)
  obtain ⟨q, e1, e2⟩ := this
  rw [e1]
  exact ⟨q, _, rfl, e2⟩

theorem withdraw_eq (s : State) (part : Nat) (glob : Bool) (pasid va size : Nat) : ∃ hb car wg q fns xl, s.withdraw part glob pasid va size =
      { s.wrap XL_STATUS.EPOCH part with hubBuf := hb, car := car, wings := wg, q := q, fns := fns, xl := xl } ∧
    ∀ n, QSt.Marks (s.queue n) (tget (fun _ => ({} : QSt)) q n) := by
  unfold State.withdraw
  obtain ⟨q, fns, e1, e2⟩ := markWork_eq ((s.wrap XL_STATUS.EPOCH part).purge (part + 1) glob pasid va size) part glob pasid va size
  rw [e1]
  exact ⟨_, _, _, q, fns, _, rfl, e2⟩

theorem frontDesc_eq {s : State} {q : Nat} {d : Desc} {ds : List Desc} {op : Nat} (ha : (s.queue q).accs = d :: ds) (h1 : descOp d.bytes = op)
    (h2 : d.fail = none) (hrun : s.descRunning q = false) (hst : s.g Q_STATUS.STATE q ≠ 0) (hhold : (s.queue q).hold = none)
    (hserv : s.inService = true) : s.frontDesc q op = some d := by
  unfold State.frontDesc
  dsimp only
  rw [if_neg (by simp [hrun, hst, hserv]; exact hhold), ha]
  dsimp only
  rw [if_pos ⟨h1, h2⟩]

/-- A lending operation ends once its last granule is done (R346, R352). -/
theorem lendGo_last {s : State} {q k : Nat} {d : Desc} {ds : List Desc} (ha : (s.queue q).accs = d :: ds) (hf : (s.queue q).lend.fault = none)
    (hp : (s.queue q).lend.phase = 0 ∨ (s.queue q).lend.phase = 4) (hn : (s.queue q).lend.pos = le d.bytes 0x18 4)
    (hm : s.mayRequest (s.lendPart q d.bytes + 1) = true) : s.lendGo (k + 1) q = s.lendEnd q 0 0 := by
  rw [State.lendGo]
  dsimp only
  rw [ha]
  dsimp only
  rw [if_neg (by rw [hm]; decide), hf]
  dsimp only
  rw [if_pos ⟨hp, hn⟩]

/-- The record of a lending operation that ends while the ring is full goes into the hold. -/
theorem lendEnd_hold {s : State} {q st r : Nat} {d : Desc} {ds : List Desc} (ha : (s.queue q).accs = d :: ds) (hr : s.RingFull q)
    (h : reports d.bytes { status := st, detail := r * 2 ^ 28 + (s.queue q).lend.changed % 2 ^ 28 }) :
    s.lendEnd q st r = s.setQueue q { s.queue q with
      accs := ds, lend := {}, re := none,
      hold := some (s.recOf q d.bytes { status := st, detail := r * 2 ^ 28 + (s.queue q).lend.changed % 2 ^ 28 }) } :=
  endDesc_hold ha rfl hr h rfl rfl

end Sys2Proof.Machine
end

