-- ==== Sys2Proof/Laws/Stop.lean ====
section
/-!
SUPPORT. Lines that stall, raise an exception or end the invocation (02 R52, R71, R78).
-/
namespace Sys2Proof.Machine

/-! ### Issue stops in an allotment -/

theorem State.stopCarrels_eq (s : State) (n : Nat) : ∃ car, s.stopCarrels n = { s with car := car } := by
  have h : ∀ (cs : List Nat) (t : State), (∃ car, t = { s with car := car }) → ∃ car, cs.foldl (fun (s : State) c =>
        match (s.carrel (s.phys c)).run with
        | .halted => s
        | .idle => s
        | _ => s.setCarrel (s.phys c) { s.carrel (s.phys c) with run := .stopped }) t = { s with car := car } := by
    intro cs
    induction cs with
    | nil => intro t ht; exact ht
    | cons c cs ih =>
      intro t ht
      rw [List.foldl_cons]
      apply ih
      obtain ⟨car, rfl⟩ := ht
      split
      · exact ⟨_, rfl⟩
      · exact ⟨_, rfl⟩
      · exact ⟨_, rfl⟩
  exact h _ _ ⟨s.car, rfl⟩

/-- No carrel of the allotment may issue again. -/
theorem State.stopCarrels_run (s : State) (n d : Nat) (hd : d ∈ carrelsOf (s.slot n).allot) :
    ((s.stopCarrels n).carrel (s.phys d)).run ∈ [Run.idle, .halted, .stopped] := by
  have key : ∀ (cs : List Nat) (t : State), (∃ car, t = { s with car := car }) →
      (d ∈ cs ∨ (t.carrel (s.phys d)).run ∈ [Run.idle, .halted, .stopped]) →
      ((cs.foldl (fun (s : State) c =>
        match (s.carrel (s.phys c)).run with
        | .halted => s
        | .idle => s
        | _ => s.setCarrel (s.phys c) { s.carrel (s.phys c) with run := .stopped }) t).carrel (s.phys d)).run ∈ [Run.idle, .halted, .stopped] := by
    intro cs
    induction cs with
    | nil => intro t _ h; rcases h with h | h; cases h; exact h
    | cons c cs ih =>
      intro t ht h
      rw [List.foldl_cons]
      obtain ⟨car, rfl⟩ := ht
      have hph : ∀ e, ({ s with car := car } : State).phys e = s.phys e := fun _ => rfl
      apply ih
      · split
        · exact ⟨_, rfl⟩
        · exact ⟨_, rfl⟩
        · exact ⟨_, rfl⟩
      · rw [hph]
        by_cases hc : s.phys d = s.phys c
        · right
          rw [hc]
          split
          · rename_i h; rw [h]; simp
          · rename_i h; rw [h]; simp
          · rw [State.carrel_setCarrel]; simp
        · rcases h with h | h
          · rcases List.mem_cons.1 h with h | h
            · exact absurd (by rw [h]) hc
            · exact .inl h
          · right
            split
            · exact h
            · exact h
            · rw [State.carrel_setCarrel_ne _ _ _ _ hc]; exact h
  exact key _ s ⟨s.car, rfl⟩ (.inl hd)

/-- What the end of an invocation leaves: its registers, its slot, its carrels, its release (R71, R148). -/
theorem State.folioExc_eq (s : State) (k : Ctx) (code line : Nat) (hst : s.g SLOT_STATUS.STATE k.n = 3 ∨ s.g SLOT_STATUS.STATE k.n = 4)
    (hi : (s.slot k.n).inv ≠ none) (he : (s.slot k.n).ending = none) (hsafe : s.gb DEV_STATUS.SAFE = false) :
    ∃ car, s.folioExc k code line =
      ({ s.setSlot k.n { s.slot k.n with ending := some (s.excReport k code line) } with
        car := car, rels := s.rels.filter fun r => decide (r.slot ≠ k.n) } : State).p SLOT_STATUS.STATE k.n 6 ∧
      ∀ d ∈ carrelsOf (s.slot k.n).allot, (tget carDef car (s.phys d)).run ∈ [Run.idle, .halted, .stopped] := by
  obtain ⟨car, h1⟩ := s.stopCarrels_eq k.n
  have hs1 : (s.stopCarrels k.n).slot k.n = s.slot k.n := by rw [h1]; rfl
  have hg1 : (s.stopCarrels k.n).g SLOT_STATUS.STATE k.n = s.g SLOT_STATUS.STATE k.n := by rw [h1]; rfl
  have hr1 : (s.stopCarrels k.n).rels = s.rels := by rw [h1]
  have hb1 : (s.stopCarrels k.n).gb DEV_STATUS.SAFE = false := by rw [h1]; exact hsafe
  unfold State.folioExc State.endSlot
  dsimp only
  rw [hs1, hg1, if_neg (by simp [hi, he, hb1]), if_pos hst]
  obtain ⟨car', h2⟩ := ((s.stopCarrels k.n).setSlot k.n
    { s.slot k.n with ending := some (s.excReport k code line) }).stopCarrels_eq k.n
  refine ⟨car', ?_, ?_⟩
  · rw [h2, h1]; rfl
  · intro d hd
    have := ((s.stopCarrels k.n).setSlot k.n
      { s.slot k.n with ending := some (s.excReport k code line) }).stopCarrels_run k.n d
      (by rw [State.slot_setSlot]; exact hd)
    rw [h2] at this
    have hp : ((s.stopCarrels k.n).setSlot k.n
      { s.slot k.n with ending := some (s.excReport k code line) }).phys d = s.phys d := by rw [h1]; rfl
    rw [hp] at this
    exact this

end Sys2Proof.Machine
end

