-- ==== Sys2Proof/Laws/Slot.lean ====
section
/-!
SUPPORT. Slots and their invocations (04 R143 to R148, 05 R173, 02 R78).
-/
namespace Sys2Proof.Machine

theorem tellTakes_alone (s : State) (n : Nat) (old : List Bool) (h : s.arec.role = 0) : s.tellTakes n old = s := by
  unfold State.tellTakes; rw [if_pos (Or.inl h)]

theorem wipeShelves_eq (s : State) (hs : List Nat) : (∃ st, s.wipeShelves hs = { s with store := st }) ∧
    ∀ c ∈ carrelsOf hs, (s.wipeShelves hs).mem (s.phys c) = [] := by
  unfold State.wipeShelves State.each
  refine foldl_sets (fun t : State => ∃ st, t = { s with store := st }) (fun c t => t.mem (s.phys c) = []) _ _ s ⟨s.store, rfl⟩ ?_ ?_ ?_
  · rintro t c - ⟨st, rfl⟩; exact ⟨_, rfl⟩
  · rintro t c - ⟨st, rfl⟩; exact State.mem_setMem _ _ _
  · rintro t c d - ⟨st, rfl⟩ h
    by_cases hq : s.phys d = s.phys c
    · rw [hq]; exact State.mem_setMem _ _ _
    · exact (State.mem_setMem_ne _ _ _ _ hq).trans h

theorem slotCfg_same (s : State) (p n v : Nat) (ho : s.owns p n = true) (hst : s.g SLOT_STATUS.STATE n = 0 ∨ s.g SLOT_STATUS.STATE n = 2)
    (hi : (s.slot n).imgJob = false) (hp : bits v 43 24 = s.g SLOT_CFG.PASID n) :
    s.slotCfgWrite p n v =
      (let t := (((s.p SLOT_CFG.PASID n (bits v 43 24)).p SLOT_CFG.GROUP_BAR n (bits v 23 20)).p SLOT_CFG.GATED n (bits v 19 16)).p
          SLOT_CFG.PRIORITY n (bits v 13 12)
       (if bits v 8 0 = s.g SLOT_CFG.SHELVES n ∧ (s.g SLOT_STATUS.STATE n = 2 ∨ bits v 8 0 = 0) then t else t.allot p n (bits v 8 0)).tellTakes n (s.takesOf n)) := by
  unfold State.slotCfgWrite
  rw [if_neg (by simp [ho])]
  dsimp only
  rw [if_neg (by
    rintro (⟨h1, h2⟩ | h | ⟨h, -⟩)
    · rcases hst with h | h
      · exact h1 h
      · exact h2 h
    · rw [hi] at h; exact absurd h (by decide)
    · exact absurd h (by simp [hp]))]
  have hf : decide (bits v 43 24 ≠ s.g SLOT_CFG.PASID n) = false := by simp [hp]
  simp only [hf, Bool.false_eq_true, if_false]
  have hg : ((((s.p SLOT_CFG.PASID n (bits v 43 24)).p SLOT_CFG.GROUP_BAR n (bits v 23 20)).p SLOT_CFG.GATED n (bits v 19 16)).p
          SLOT_CFG.PRIORITY n (bits v 13 12)).g SLOT_CFG.SHELVES n = s.g SLOT_CFG.SHELVES n := by
    simp (disch := decide) only [State.g_p_field]
  rw [hg]

theorem dropAllot_empty (t : State) (n : Nat) (h1 : (t.slot n).allot = []) (h2 : (t.slot n).folios = []) :
    t.dropAllot n = (t.setSlot n { t.slot n with latch := none }).p SLOT_STATUS.START_PENDING n 0 := by
  unfold State.dropAllot State.removeFolios
  rw [h2]
  simp only [List.foldl_nil]
  unfold State.wipeShelves State.each
  rw [h1]
  have : carrelsOf [] = [] := rfl
  rw [this]
  simp only [List.foldl_nil]

theorem allot_fresh (t : State) (p n k : Nat) (h1 : (t.slot n).allot = []) (h2 : (t.slot n).folios = []) (hk : k ≠ 0)
    (hf : k ≤ ((t.dropAllot n).freeShelves p).length) :
    t.allot p n k =
      (let u := (t.setSlot n { t.slot n with latch := none }).p SLOT_STATUS.START_PENDING n 0
       let hs := ((List.range 256).filter fun h => decide (h ∈ (t.dropAllot n).freeShelves p)).take k
       (((u.setSlot n { t.slot n with latch := none, allot := hs, prio := u.g SLOT_CFG.PRIORITY n }).wipeShelves hs).p SLOT_CFG.SHELVES n k).p SLOT_STATUS.STATE n 1) := by
  have h3 := dropAllot_empty t n h1 h2
  unfold State.allot
  dsimp only
  rw [if_neg hk, if_neg (by omega), h3]
  have : ((t.setSlot n { t.slot n with latch := none }).p SLOT_STATUS.START_PENDING n 0).slot n = { t.slot n with latch := none } := State.slot_setSlot _ _ _
  rw [this]

theorem find_congr {p q : Nat → Bool} (xs : List Nat) (h : ∀ x, p x = q x) : xs.find? p = xs.find? q := by
  congr 1; funext x; exact h x

theorem freeShelves_slots (s t : State) (p : Nat) (ha : t.arec = s.arec) (hf : t.flt = s.flt) (hs : ∀ n, (t.slot n).allot = (s.slot n).allot)
    (hr : ∀ h, t.shelfRepair h = s.shelfRepair h) : t.freeShelves p = s.freeShelves p := by
  unfold State.freeShelves State.idleShelves State.part State.slotOfShelf
  rw [ha, hf]
  simp only [hr]
  congr 2
  funext h
  rw [find_congr (p := fun n => decide (h ∈ (t.slot n).allot)) (q := fun n => decide (h ∈ (s.slot n).allot)) _ (by intro x; rw [hs])]

theorem trbClear_spec (s : State) (p mask : Nat) : (∃ r, s.trbClear p mask = { s with rf := r }) ∧
    ∀ f ∈ [TRB_TOTAL_SAT.COUNT, TRB_TOTAL_FIN.COUNT, TRB_TOTAL_FOUT.COUNT, TRB_TOTAL_NAN.COUNT], ∀ m < 64,
      (s.trbClear p mask).g f m = if bit mask m = true ∧ s.owns p m = true then 0 else s.g f m := by
  have step : ∀ (t : State) (n : Nat), n < 64 → (∃ r, t = { s with rf := r }) →
      (∃ r, (if t.owns p n then (((t.p TRB_TOTAL_SAT.COUNT n 0).p TRB_TOTAL_FIN.COUNT n 0).p TRB_TOTAL_FOUT.COUNT n 0).p TRB_TOTAL_NAN.COUNT n 0 else t) = { s with rf := r }) ∧
      ∀ f ∈ [TRB_TOTAL_SAT.COUNT, TRB_TOTAL_FIN.COUNT, TRB_TOTAL_FOUT.COUNT, TRB_TOTAL_NAN.COUNT], ∀ m < 64,
        (if t.owns p n then (((t.p TRB_TOTAL_SAT.COUNT n 0).p TRB_TOTAL_FIN.COUNT n 0).p TRB_TOTAL_FOUT.COUNT n 0).p TRB_TOTAL_NAN.COUNT n 0 else t).g f m =
          if m = n ∧ s.owns p m = true then 0 else t.g f m := by
    intro t n hn ht
    have ho : t.owns p n = s.owns p n := by obtain ⟨r, rfl⟩ := ht; rfl
    rw [ho]
    refine ⟨?_, ?_⟩
    · split
      · exact regs_p (regs_p (regs_p (regs_p ht _ _ _) _ _ _) _ _ _) _ _ _
      · exact ht
    · intro f hf m hm
      by_cases hmn : m = n
      · subst hmn
        by_cases hh : s.owns p m = true
        · rw [if_pos hh, if_pos ⟨rfl, hh⟩]
          simp only [List.mem_cons, List.not_mem_nil, or_false] at hf
          rcases hf with rfl | rfl | rfl | rfl <;> simp (disch := decide) only [State.g_p_other, State.g_p, Nat.zero_mod]
        · rw [if_neg hh, if_neg (fun h => hh h.2)]
      · rw [if_neg (show ¬(m = n ∧ s.owns p m = true) from fun h => hmn h.1)]
        split
        · unfold State.g
          rw [State.reg_p_ne _ _ _ _ _ _ (.inr (by omega)), State.reg_p_ne _ _ _ _ _ _ (.inr (by omega)), State.reg_p_ne _ _ _ _ _ _ (.inr (by omega)),
            State.reg_p_ne _ _ _ _ _ _ (.inr (by omega))]
        · rfl
  unfold State.trbClear setBitsOf
  have hlt : ∀ n ∈ (List.range 64).filter (bit mask), n < 64 := by intro n hn; exact List.mem_range.1 (List.mem_filter.1 hn).1
  have hmem : ∀ m < 64, (bit mask m = true ↔ m ∈ (List.range 64).filter (bit mask)) := by
    intro m hm; rw [List.mem_filter]; exact ⟨fun h => ⟨List.mem_range.2 hm, h⟩, fun h => h.2⟩
  suffices ∀ (xs : List Nat) (t : State), (∀ n ∈ xs, n < 64) → (∃ r, t = { s with rf := r }) →
      (∃ r, xs.foldl (fun s n => if s.owns p n then (((s.p TRB_TOTAL_SAT.COUNT n 0).p TRB_TOTAL_FIN.COUNT n 0).p TRB_TOTAL_FOUT.COUNT n 0).p TRB_TOTAL_NAN.COUNT n 0 else s) t = { s with rf := r }) ∧
      ∀ f ∈ [TRB_TOTAL_SAT.COUNT, TRB_TOTAL_FIN.COUNT, TRB_TOTAL_FOUT.COUNT, TRB_TOTAL_NAN.COUNT], ∀ m < 64,
        (xs.foldl (fun s n => if s.owns p n then (((s.p TRB_TOTAL_SAT.COUNT n 0).p TRB_TOTAL_FIN.COUNT n 0).p TRB_TOTAL_FOUT.COUNT n 0).p TRB_TOTAL_NAN.COUNT n 0 else s) t).g f m =
          if m ∈ xs ∧ s.owns p m = true then 0 else t.g f m by
    obtain ⟨h1, h2⟩ := this _ s hlt (regs_refl s)
    refine ⟨h1, fun f hf m hm => ?_⟩
    rw [h2 f hf m hm]
    by_cases hb : bit mask m = true
    · rw [if_congr (and_congr_left' (hmem m hm).symm) rfl rfl]
    · rw [if_neg (fun h => hb ((hmem m hm).2 h.1)), if_neg (fun h => hb h.1)]
  intro xs
  induction xs with
  | nil => intro t _ ht; exact ⟨ht, fun f _ m _ => by simp⟩
  | cons x xs ih =>
    intro t hx ht
    rw [List.foldl_cons]
    obtain ⟨h1, h2⟩ := step t x (hx x (by simp)) ht
    obtain ⟨h3, h4⟩ := ih _ (fun n hn => hx n (by simp [hn])) h1
    refine ⟨h3, fun f hf m hm => ?_⟩
    rw [h4 f hf m hm, h2 f hf m hm]
    by_cases ho : s.owns p m = true
    · by_cases h5 : m ∈ xs
      · simp [h5, ho]
      · by_cases h6 : m = x
        · simp [h6, ho]
          subst h6; simp [ho]
        · simp [h5, h6, ho]
    · simp [ho]

theorem endSlot_eq (s : State) (n : Nat) (e : Ending) (hst : s.g SLOT_STATUS.STATE n = 3 ∨ s.g SLOT_STATUS.STATE n = 4)
    (hi : (s.slot n).inv ≠ none) (he : (s.slot n).ending = none) (hsafe : s.gb DEV_STATUS.SAFE = false) :
    ∃ car, s.endSlot n e = ({ s.setSlot n { s.slot n with ending := some e } with
        car := car, rels := s.rels.filter fun r => decide (r.slot ≠ n) } : State).p SLOT_STATUS.STATE n 6 ∧
      ∀ d ∈ carrelsOf (s.slot n).allot, (tget carDef car (s.phys d)).run ∈ [Run.idle, .halted, .stopped] := by
  unfold State.endSlot
  dsimp only
  rw [if_neg (by simp [hi, he, hsafe]), if_pos hst]
  obtain ⟨car', h2⟩ := (s.setSlot n { s.slot n with ending := some e }).stopCarrels_eq n
  refine ⟨car', ?_, ?_⟩
  · rw [h2]; rfl
  · intro d hd
    have := (s.setSlot n { s.slot n with ending := some e }).stopCarrels_run n d (by rw [State.slot_setSlot]; exact hd)
    rw [h2] at this
    exact this

theorem startCarrels_spec (s : State) (n : Nat) (bar : Option Nat) (w : Nat) : ∃ car, s.startCarrels n bar w = { s with car := car } ∧
    ∀ q, (tget carDef car q).run = if q ∈ ((s.slot n).allot.map fun h => s.phys (16 * h + w)) ∧
      (s.carrel q).run = relRun bar then .active else (s.carrel q).run := by
  unfold State.startCarrels State.each
  have hm : ((s.slot n).allot.map fun h => s.phys (16 * h + w)) = ((s.slot n).allot.map fun h => 16 * h + w).map s.phys := by
    rw [List.map_map]; rfl
  rw [hm]
  generalize ((s.slot n).allot.map fun h => 16 * h + w) = xs
  suffices ∀ (t : State), (∃ car, t = { s with car := car }) → ∃ car, xs.foldl (fun s c =>
      let p := s.phys c
      let y := s.carrel p
      if y.run = relRun bar then s.setCarrel p { y with run := .active } else s) t = { t with car := car } ∧
      ∀ q, (tget carDef car q).run = if q ∈ xs.map s.phys ∧
      (t.carrel q).run = relRun bar then .active else (t.carrel q).run from this s ⟨s.car, rfl⟩
  induction xs with
  | nil => intro t ht; exact ⟨t.car, rfl, fun q => by simp; rfl⟩
  | cons x xs ih =>
    intro t ht
    obtain ⟨car0, rfl⟩ := ht
    rw [List.foldl_cons]
    have hph : ∀ c, ({ s with car := car0 } : State).phys c = s.phys c := fun _ => rfl
    dsimp only
    rw [hph]
    by_cases hr : (({ s with car := car0 } : State).carrel (s.phys x)).run = relRun bar
    · rw [if_pos hr]
      obtain ⟨car, h1, h2⟩ := ih (({ s with car := car0 } : State).setCarrel (s.phys x) { ({ s with car := car0 } : State).carrel (s.phys x) with run := .active }) ⟨_, rfl⟩
      refine ⟨car, h1, fun q => ?_⟩
      rw [h2 q]
      by_cases hq : q = s.phys x
      · subst hq
        rw [State.carrel_setCarrel]
        simp [hr]
      · rw [State.carrel_setCarrel_ne _ _ _ _ hq]
        simp [hq]
    · rw [if_neg hr]
      obtain ⟨car, h1, h2⟩ := ih ({ s with car := car0 } : State) ⟨_, rfl⟩
      refine ⟨car, h1, fun q => ?_⟩
      rw [h2 q]
      by_cases hq : q = s.phys x
      · subst hq
        rw [if_neg (fun h => hr h.2), if_neg (fun h => hr h.2)]
      · simp [hq]

theorem idleCarrels_spec (s : State) (n : Nat) : ∃ car, s.idleCarrels n = { s with car := car } ∧
    ∀ c ∈ carrelsOf (s.slot n).allot, (tget carDef car (s.phys c)).run = .idle ∧
      (tget carDef car (s.phys c)).xfers = [] := by
  have := foldl_sets (fun t : State => ∃ car, t = { s with car := car })
    (fun c t => (t.carrel (s.phys c)).run = .idle ∧ (t.carrel (s.phys c)).xfers = [])
    (fun (s : State) c =>
    let p := s.phys c
    s.setCarrel p { s.carrel p with run := .idle, xfers := [] }) (carrelsOf (s.slot n).allot) s ⟨s.car, rfl⟩
    (by rintro t c - ⟨car, rfl⟩; exact ⟨_, rfl⟩)
    (by rintro t c - ⟨car, rfl⟩
        rw [show ({ s with car := car } : State).phys c = s.phys c from rfl, State.carrel_setCarrel]
        exact ⟨rfl, rfl⟩)
    (by rintro t c d - ⟨car, rfl⟩ h
        rw [show ({ s with car := car } : State).phys c = s.phys c from rfl]
        by_cases hq : s.phys d = s.phys c
        · rw [hq, State.carrel_setCarrel]
          exact ⟨rfl, rfl⟩
        · rw [State.carrel_setCarrel_ne _ _ _ _ hq]
          exact h)
  obtain ⟨⟨car, h1⟩, h2⟩ := this
  refine ⟨car, h1, fun c hc => ?_⟩
  have h3 := h2 c hc
  rw [h1] at h3
  exact h3

theorem deliveryLine_congr {s t : State} (n seq : Nat) (e : Ending) (trb : List Nat) (h1 : ∀ c, t.phys c = s.phys c) (h2 : t.store = s.store)
    (h3 : t.slots = s.slots) : t.deliveryLine n seq e trb = s.deliveryLine n seq e trb := by
  unfold State.deliveryLine State.mem State.slot
  simp only [h1, h2, h3]

theorem addTotals_regs (s : State) (n : Nat) (trb : List Nat) : (∃ r, s.addTotals n trb = { s with rf := r }) ∧
    ∀ j, (s.addTotals n trb).reg .WING_CMAP j = s.reg .WING_CMAP j := by
  unfold State.addTotals State.bump
  refine ⟨regs_p (regs_p (regs_p (regs_p (regs_refl s) _ _ _) _ _ _) _ _ _) _ _ _, ?_⟩
  intro j
  simp (disch := decide) only [State.reg_p_other]

theorem forgetWaits_eq (s : State) (n : Nat) : ∃ xl, s.forgetWaits n = { s with xl := xl } := by
  unfold State.forgetWaits State.forgetWho State.forgetThose; split
  · exact ⟨_, rfl⟩
  · exact ⟨_, rfl⟩

theorem endInv_spec (s : State) (n seq : Nat) (v : Inv) (e : Ending) (hi : (s.slot n).inv = some v) (hv : v.src = .slip seq true) :
    ∃ T x' car xl, s.endInvocation n e 2 = T.p SLOT_STATUS.STATE n 2 ∧ T = { s.addTotals n (s.troubleSums n) with
        car := car, xl := xl, cs := (s.setCs n { s.csOf n with report := some (s.deliveryLine n seq e (s.troubleSums n)) }).cs,
        slots := (s.setSlot n x').slots, rels := s.rels.filter fun r => decide (r.slot ≠ n) } ∧
      x'.inv = none ∧ x'.allot = (s.slot n).allot ∧ x'.folios = (s.slot n).folios ∧ x'.shelfLost = (s.slot n).shelfLost ∧ x'.repair = (s.slot n).repair ∧
      ∀ c ∈ carrelsOf (s.slot n).allot, (tget carDef car (s.phys c)).run = .idle ∧
      (tget carDef car (s.phys c)).xfers = [] := by
  unfold State.endInvocation
  rw [hi]
  dsimp only
  generalize s.troubleSums n = trb
  obtain ⟨⟨rf, hU⟩, hm⟩ := addTotals_regs s n trb
  rw [hU]
  rw [hU] at hm
  have hph : ∀ c, ({ s with rf := rf } : State).phys c = s.phys c := State.phys_congr hm
  have hdl := deliveryLine_congr n seq e trb hph rfl rfl
  have h3 : ({ s with rf := rf } : State).reportTo n v.src e trb = ({ s with rf := rf } : State).setCs n
        { s.csOf n with report := some (s.deliveryLine n seq e trb) } := by
    rw [hv]
    unfold State.reportTo
    dsimp only
    rw [if_pos rfl, hdl]
    rfl
  obtain ⟨car, h1, h2⟩ := idleCarrels_spec (({ s with rf := rf } : State).setCs n
    { s.csOf n with report := some (s.deliveryLine n seq e trb) }) n
  obtain ⟨xl, h4⟩ := forgetWaits_eq ((({ s with rf := rf } : State).setCs n
    { s.csOf n with report := some (s.deliveryLine n seq e trb) }).idleCarrels n) n
  refine ⟨_, { s.slot n with inv := none, ending := none, endMark := false, left := none, hubArr := [], gates := 0, grpWait := 0, clear := [],
                             handles := (s.slot n).handles.filter fun h => decide (32 ≤ h.1) }, car, xl, ?_, rfl, rfl, rfl, rfl, rfl, rfl, ?_⟩
  · rw [h3, h4, h1]
    rfl
  · intro c hc
    have := h2 c hc
    rw [State.phys_congr (s := { s with rf := rf }) (fun j => by rfl), hph] at this
    exact this

end Sys2Proof.Machine
end

