-- ==== Sys2Proof/Laws/Func.lean ====
section
/-!
SUPPORT. Resets of the device, functions and their configuration space (06 R205 to R240, 13 R465).
-/
namespace Sys2Proof.Machine

theorem coverWings_spec (s : State) : (∃ rf, s.coverWings = { s with rf := rf }) ∧
    (∀ (f : Fld) j, f.reg ≠ .WING_STATUS → f.reg ≠ .WING_CACHE_STATUS → f.reg ≠ .RES_STATUS → s.coverWings.g f j = s.g f j) ∧
    ∀ w ∈ List.range 32, w < 32 → s.coverWings.g WING_STATUS.STATE w = 1 ∨ s.coverWings.g WING_STATUS.STATE w = 3 := by
  unfold State.coverWings
  have := foldl_sets (fun t : State => (∃ rf, t = { s with rf := rf }) ∧ ∀ (f : Fld) j, f.reg ≠ .WING_STATUS → f.reg ≠ .WING_CACHE_STATUS → t.g f j = s.g f j)
    (fun w t => w < 32 → t.g WING_STATUS.STATE w = 1 ∨ t.g WING_STATUS.STATE w = 3)
    (fun (s : State) w => if s.g WING_STATUS.STATE w = 3 then s.p WING_CACHE_STATUS.STATE w 5 else (s.p WING_STATUS.STATE w 1).p WING_CACHE_STATUS.STATE w 0)
    (List.range 32) s ⟨⟨s.rf, rfl⟩, fun _ _ _ _ => rfl⟩ (by
      rintro t w - ⟨h1, h2⟩
      split
      · exact ⟨regs_p h1 _ _ _, fun f j a b => (State.g_p_other _ _ _ _ _ _ b).trans (h2 f j a b)⟩
      · exact ⟨regs_p (regs_p h1 _ _ _) _ _ _, fun f j a b => (State.g_p_other _ _ _ _ _ _ b).trans ((State.g_p_other _ _ _ _ _ _ a).trans (h2 f j a b))⟩) (by
      rintro t w - - -
      split
      · rename_i h
        rw [State.g_p_other _ _ _ _ _ _ (by decide)]; exact .inr h
      · rw [State.g_p_other _ _ _ _ _ _ (by decide)]
        left; exact State.g_p_self _ _ _ _ (by decide) (by decide) (by decide)) (by
      rintro t w v hw - h h32
      have hw' := List.mem_range.1 hw
      replace h := h h32
      split
      · rw [State.g_p_other _ _ _ _ _ _ (by decide)]; exact h
      · rw [State.g_p_other _ _ _ _ _ _ (by decide)]
        by_cases hv : v = w
        · subst hv
          left; exact State.g_p_self _ _ _ _ (by decide) (by decide) (by decide)
        · unfold State.g
          rw [State.reg_p_ne _ _ _ _ _ _ (.inr (by rw [Nat.mod_eq_of_lt (by omega), Nat.mod_eq_of_lt (by omega)]; exact hv))]
          exact h)
  refine ⟨regs_p this.1.1 _ _ _, fun f j a b c => (State.g_p_other _ _ _ _ _ _ c).trans (this.1.2 f j a b), fun w hw h => ?_⟩
  rw [State.g_p_other _ _ _ _ _ _ (by decide)]
  exact this.2 w hw h

theorem groupStart_spec (s : State) : ∃ rf, s.groupStart = { s with rf := rf } := by
  unfold State.groupStart
  split
  · exact regs_refl s
  · refine foldl_keeps (fun t : State => ∃ rf, t = { s with rf := rf }) _ _ _ (regs_p (regs_p (regs_refl s) _ _ _) _ _ _) ?_
    rintro t l - h
    split
    · exact regs_p h _ _ _
    · exact h

theorem regs_trans {s u v : State} (h1 : ∃ rf, u = { s with rf := rf }) (h2 : ∃ rf, v = { u with rf := rf }) : ∃ rf, v = { s with rf := rf } := by
  obtain ⟨r, rfl⟩ := h1
  obtain ⟨r', rfl⟩ := h2
  exact ⟨r', rfl⟩

theorem loadSoft_spec (s : State) : ∃ rf, s.loadSoft = { s with rf := rf } := by
  unfold State.loadSoft State.each
  refine regs_trans ?_ (groupStart_spec _)
  refine foldl_keeps (fun t : State => ∃ rf, t = { s with rf := rf }) _ _ _ ?_ ?_
  · exact regs_p (regs_p (regs_p (regs_p (regs_p (regs_p (regs_p (regs_p (regs_p (regs_refl s) _ _ _) _ _ _) _ _ _) _ _ _) _ _ _) _ _ _) _ _ _) _ _ _) _ _ _
  · rintro t p - h
    refine foldl_keeps (fun t : State => ∃ rf, t = { s with rf := rf }) _ _ _ h ?_
    rintro t k - h
    split
    · exact regs_p (regs_p h _ _ _) _ _ _
    · exact regs_p (regs_p h _ _ _) _ _ _

theorem mapoutReset_spec (s : State) : ∃ rf d l q, s.mapoutReset = { s with rf := rf, dmem := d, led := l, evq := q } ∧ d.dram = s.dmem.dram ∧
    (s.dmem.mapout = none → q = s.evq) := by
  unfold State.mapoutReset
  split
  · exact ⟨s.rf, s.dmem, s.led, s.evq, rfl, rfl, fun _ => rfl⟩
  · rename_i col hc
    have h1 : ∀ (b : Bool), ∃ rf, (if b then s else (List.range 8).foldl (fun (s : State) p => (s.p MEM_PART.TOTAL p (s.g MEM_PART.TOTAL p - s.g MEM_PART.CUT p)).p MEM_PART.CUT p 0) s) = { s with rf := rf } := by
      intro b
      split
      · exact ⟨s.rf, rfl⟩
      · refine foldl_keeps (fun t : State => ∃ rf, t = { s with rf := rf }) _ _ _ ⟨s.rf, rfl⟩ ?_
        rintro t p - h
        exact regs_p (regs_p h _ _ _) _ _ _
    obtain ⟨rf, h2⟩ := h1 (decide (s.g MEM_MAPOUT.STATE = 3))
    simp only [decide_eq_true_eq] at h2 ⊢
    rw [h2]
    exact ⟨_, _, _, _, rfl, rfl, fun h => absurd h (by simp [hc])⟩

/-- The test port changes its selected instruction at most. -/
theorem tapShut_spec (s : State) : ∃ po, s.tapShut = { s with port := po } := by
  unfold State.tapShut
  split
  · exact ⟨s.port, rfl⟩
  · exact ⟨_, rfl⟩

theorem recover_tail (U : State) (cause : Nat) (hc : cause < 16) (safe : Bool) (staging : Prop) [Decidable staging] :
    let u := (U.resetCause cause 0 safe).p DEV_STATUS.STATE 0 6
    let v := if staging then u.p UPD_STATUS.RESULT 0 0xE else u
    let w : State := { v with dev := { v.dev with archRun := false, deskRun := false, intakePause := false, ready := false, resetRun := true, pendSafe := none, safeN := true, wiped := false, lcStep := 0, safeRec := false } }
    (∃ r po, w.tapShut.coverWings = { U with rf := r, port := po, dev := { U.dev with archRun := false, deskRun := false, intakePause := false, ready := false, resetRun := true, pendSafe := none, safeN := true, wiped := false, lcStep := 0, safeRec := false } }) ∧
    w.tapShut.coverWings.g DEV_STATUS.STATE = 6 ∧ w.tapShut.coverWings.g RESET_CAUSE.CAUSE = cause ∧ w.tapShut.coverWings.gb RESET_CAUSE.WAS_SAFE = safe ∧
    (∀ k < 32, w.tapShut.coverWings.g WING_STATUS.STATE k = 1 ∨ w.tapShut.coverWings.g WING_STATUS.STATE k = 3) := by
  intro u v w
  obtain ⟨po, hpo⟩ := tapShut_spec w
  have hu : ∃ r, u = { U with rf := r } := by
    exact regs_p (regs_p (regs_p (regs_p (regs_refl U) _ _ _) _ _ _) _ _ _) _ _ _
  have hvr : ∃ r, v = { U with rf := r } := by
    show ∃ rf, (if staging then u.p UPD_STATUS.RESULT 0 0xE else u) = _
    split
    · exact regs_p hu _ _ _
    · exact hu
  have hv : ∀ f j, f.reg ≠ .UPD_STATUS → v.g f j = u.g f j := by
    intro f j hf
    show (if staging then u.p UPD_STATUS.RESULT 0 0xE else u).g f j = _
    split
    · exact State.g_p_other _ _ _ _ _ _ hf
    · rfl
  obtain ⟨⟨rf4, c1⟩, c2, c3⟩ := coverWings_spec w.tapShut
  have hw : ∀ f j, w.tapShut.g f j = v.g f j := fun _ _ => by rw [hpo]; rfl
  have hgu : ∀ (f : Fld) j, f.reg ≠ .WING_STATUS → f.reg ≠ .WING_CACHE_STATUS → f.reg ≠ .UPD_STATUS → f.reg ≠ .RES_STATUS → w.tapShut.coverWings.g f j = u.g f j := by
    intro f j a b c d
    rw [c2 f j a b d, hw, hv f j c]
  refine ⟨?_, ?_, ?_, ?_, ?_⟩
  · obtain ⟨r, hvr⟩ := hvr
    refine ⟨rf4, po, ?_⟩
    rw [c1, hpo]
    clear_value v
    subst hvr
    rfl
  · rw [hgu _ _ (by decide) (by decide) (by decide) (by decide)]
    exact State.g_p_self _ _ _ _ (by decide) (by decide) (by decide)
  · rw [hgu _ _ (by decide) (by decide) (by decide) (by decide)]
    refine (State.g_p_other _ _ _ _ _ _ (by decide)).trans ?_
    unfold State.resetCause
    rw [State.g_p_field _ _ _ _ _ (by decide) (by decide) (by decide) (by decide) (by decide),
      State.g_p_field _ _ _ _ _ (by decide) (by decide) (by decide) (by decide) (by decide)]
    refine State.g_p_self _ _ _ _ (by decide) (by decide) ?_
    exact hc
  · unfold State.gb
    rw [hgu _ _ (by decide) (by decide) (by decide) (by decide)]
    have : u.g RESET_CAUSE.WAS_SAFE 0 = b2n safe := by
      refine (State.g_p_other _ _ _ _ _ _ (by decide)).trans ?_
      unfold State.resetCause
      refine State.g_p_self _ _ _ _ (by decide) (by decide) ?_
      cases safe <;> decide
    rw [this]
    cases safe <;> decide
  · intro k hk
    exact c3 k (List.mem_range.2 hk) hk

theorem recover_spec (s : State) (cause : Nat) (hc : cause < 16) (hq : s.Quiet) (hm : s.dmem.mapout = none) :
    let t := s.recover cause 0 kLink
    (t.Quiet ∧ t.pending = s.pending ∧ t.dev.cold = s.dev.cold ∧ t.dev.started = s.dev.started) ∧
    t.g DEV_STATUS.STATE = 6 ∧ t.g RESET_CAUSE.CAUSE = cause ∧ t.gb RESET_CAUSE.WAS_SAFE = s.gb DEV_STATUS.SAFE ∧
        t.link.up = false ∧ t.slots = [] ∧ t.q = [] ∧ t.cs = [] ∧ t.xl = [] ∧ t.fns = [] ∧ t.coh = {} ∧ t.net = [] ∧ t.nic = {} ∧
        t.dev.archRun = false ∧ t.dev.deskRun = false ∧ t.dev.resetRun = true ∧
        (∀ w < 32, t.g WING_STATUS.STATE w = 1 ∨ t.g WING_STATUS.STATE w = 3) ∧
        t.store = s.store ∧ t.dmem.dram = s.dmem.dram ∧ t.lend = s.lend ∧ t.dd = s.dd ∧ t.arec = s.arec ∧ t.nvm = s.nvm ∧ t.fuses = s.fuses := by
  intro t
  obtain ⟨rf1, d1, l1, q1, e1, hd, hq1⟩ := mapoutReset_spec s
  have e2 : ∀ u : State, ∃ l, u.debugEnd = { u with led := l } := by
    intro u; unfold State.debugEnd; split
    · exact ⟨_, rfl⟩
    · exact ⟨u.led, rfl⟩
  obtain ⟨l2, e2⟩ := e2 s.mapoutReset
  obtain ⟨rf3, e3⟩ := loadSoft_spec (s.mapoutReset.debugEnd.endWork.restoreRegs kLink fun _ _ => true)
  obtain ⟨⟨r, po, f1⟩, f2, f3, f4, f5⟩ := recover_tail (s.mapoutReset.debugEnd.endWork.restoreRegs kLink fun _ _ => true).loadSoft cause hc (s.gb DEV_STATUS.SAFE)
    (s.g UPD_STATUS.STATE = 1 ∨ s.g UPD_STATUS.STATE = 2)
  refine ⟨?_, f2, f3, f4, ?_⟩
  · rw [show t = _ from f1, e3, e2, e1]
    exact ⟨⟨(hq1 hm).trans hq.1, rfl⟩, rfl, rfl, rfl⟩
  · refine ⟨?_, ?_, ?_, ?_, ?_, ?_, ?_, ?_, ?_, ?_, ?_, ?_, f5, ?_⟩
    all_goals rw [show t = _ from f1, e3, e2, e1]
    all_goals try rfl
    exact ⟨rfl, hd, rfl, rfl, rfl, rfl, rfl⟩

theorem regate_same (t s : State) (hp : t.partCount = s.partCount) (h : ∀ f ≤ s.partCount, t.mayRequest f = s.mayRequest f) : t.regate s = t := by
  unfold State.regate
  refine foldl_keeps (fun u => u = t) _ _ _ rfl ?_
  rintro u f hf rfl
  have h1 := h f (by have := List.mem_range.1 hf; omega)
  rw [if_neg, if_neg]
  · rintro ⟨a, b⟩; rw [h1] at b; rw [b] at a; exact absurd a (by decide)
  · rintro ⟨a, b⟩; rw [h1, a] at b; exact absurd b (by decide)

theorem foldl_once {α β : Type} [DecidableEq β] (F : α → β → α) (xs : List β) (hn : xs.Nodup) (x : β) (hx : x ∈ xs) (a : α)
    (h1 : ∀ y ∈ xs, y ≠ x → F a y = a) (h2 : ∀ y ∈ xs, y ≠ x → F (F a x) y = F a x) : xs.foldl F a = F a x := by
  induction xs with
  | nil => cases hx
  | cons z zs ih =>
    rw [List.foldl_cons]
    by_cases hz : z = x
    · subst hz
      have : ∀ y ∈ zs, F (F a z) y = F a z := by
        intro y hy
        refine h2 y (List.mem_cons_of_mem _ hy) ?_
        rintro rfl
        exact (List.nodup_cons.1 hn).1 hy
      exact foldl_keeps (fun u => u = F a z) F zs (F a z) rfl (by rintro u y hy rfl; exact this y hy)
    · rw [h1 z (by simp) hz]
      refine ih (List.nodup_cons.1 hn).2 ?_ (fun y hy => h1 y (List.mem_cons_of_mem _ hy)) (fun y hy => h2 y (List.mem_cons_of_mem _ hy))
      rcases List.mem_cons.1 hx with h | h
      · exact absurd h.symm hz
      · exact h

theorem hasFn_of {s : State} {fn : Nat} (h : s.cfgMay fn = true) : s.hasFn fn = true ∧ (s.fn fn).flr = false ∧ s.link.up = true ∧ s.dev.resetRun = false ∧
    ¬ (s.dev.held = true ∧ fn ≠ 0) := by
  unfold State.cfgMay at h
  simp only [Bool.and_eq_true, Bool.not_eq_true', Bool.and_eq_false_iff, decide_eq_false_iff_not, not_not] at h
  refine ⟨h.1.1.1.2, h.1.2, h.1.1.1.1, h.2, ?_⟩
  rintro ⟨a, b⟩
  rcases h.1.1.2 with c | c
  · rw [a] at c; exact absurd c (by decide)
  · exact b c

theorem slotsOf_nodup (s : State) (p : Nat) : (s.slotsOf p).Nodup := by
  unfold State.slotsOf
  split
  · refine List.Nodup.map ?_ List.nodup_range
    intro a b h; simpa using h
  · exact List.nodup_nil

theorem pauseFn_spec (t : State) (fn : Nat) (h0 : fn ≠ 0) (hle : fn ≤ t.partCount) (h64 : ∀ n ∈ t.slotsOf (fn - 1), n < 64) :
    (∃ r sl, t.pauseFn fn = { t with rf := r, slots := sl }) ∧ (t.pauseFn fn).g PART_STATUS.PAUSED (fn - 1) = 1 ∧
    (∀ j, (t.pauseFn fn).reg .DEV_STATUS j = t.reg .DEV_STATUS j) ∧
    (∀ n ∈ t.slotsOf (fn - 1), t.g SLOT_STATUS.STATE n ∈ [3, 4, 6] →
            (t.pauseFn fn).g SLOT_STATUS.STATE n = 5 ∧ (t.pauseFn fn).slot n = { t.slot n with left := some (t.g SLOT_STATUS.STATE n) }) ∧
          (∀ n < 64, n ∉ t.slotsOf (fn - 1) ∨ t.g SLOT_STATUS.STATE n ∉ [3, 4, 6] →
            (t.pauseFn fn).g SLOT_STATUS.STATE n = t.g SLOT_STATUS.STATE n ∧ (t.pauseFn fn).slot n = t.slot n) := by
  let F := fun (s : State) n =>
      let st := s.g SLOT_STATUS.STATE n
      if st = 3 ∨ st = 4 ∨ st = 6 then (s.setSlot n { s.slot n with left := some st }).p SLOT_STATUS.STATE n 5 else s
  have key : ∀ (xs : List Nat) (u : State), xs.Nodup → (∀ n ∈ xs, n < 64) →
      (∃ r sl, xs.foldl F u = { u with rf := r, slots := sl }) ∧ (∀ k j, k ≠ RegKind.SLOT_STATUS → (xs.foldl F u).reg k j = u.reg k j) ∧
      (∀ n ∈ xs, u.g SLOT_STATUS.STATE n ∈ [3, 4, 6] →
        (xs.foldl F u).g SLOT_STATUS.STATE n = 5 ∧ (xs.foldl F u).slot n = { u.slot n with left := some (u.g SLOT_STATUS.STATE n) }) ∧
      (∀ n < 64, n ∉ xs ∨ u.g SLOT_STATUS.STATE n ∉ [3, 4, 6] →
        (xs.foldl F u).g SLOT_STATUS.STATE n = u.g SLOT_STATUS.STATE n ∧ (xs.foldl F u).slot n = u.slot n) := by
    intro xs
    induction xs with
    | nil => intro u _ _; exact ⟨⟨u.rf, u.slots, rfl⟩, fun _ _ _ => rfl, fun n hn => by simp at hn, fun _ _ _ => ⟨rfl, rfl⟩⟩
    | cons z zs ih =>
      intro u hn hl
      rw [List.foldl_cons]
      have hz := hl z (by simp)
      obtain ⟨⟨r, sl, i1⟩, i2, i3, i4⟩ := ih (F u z) (List.nodup_cons.1 hn).2 (fun n h => hl n (by simp [h]))
      have hnz := (List.nodup_cons.1 hn).1
      have hF : (u.g SLOT_STATUS.STATE z ∈ [3, 4, 6] ∧ F u z = (u.setSlot z { u.slot z with left := some (u.g SLOT_STATUS.STATE z) }).p SLOT_STATUS.STATE z 5) ∨
          (u.g SLOT_STATUS.STATE z ∉ [3, 4, 6] ∧ F u z = u) := by
        by_cases h : u.g SLOT_STATUS.STATE z = 3 ∨ u.g SLOT_STATUS.STATE z = 4 ∨ u.g SLOT_STATUS.STATE z = 6
        · left; exact ⟨by simpa using h, if_pos h⟩
        · right; exact ⟨by simpa using h, if_neg h⟩
      have hoth : ∀ n < 64, n ≠ z → (F u z).g SLOT_STATUS.STATE n = u.g SLOT_STATUS.STATE n ∧ (F u z).slot n = u.slot n := by
        intro n hn hne
        rcases hF with ⟨-, h⟩ | ⟨-, h⟩
        · rw [h]
          refine ⟨?_, ?_⟩
          · unfold State.g
            rw [State.reg_p_ne _ _ _ _ _ _ (.inr (by rw [Nat.mod_eq_of_lt (by omega), Nat.mod_eq_of_lt (by omega)]; exact hne))]
            rfl
          · exact State.slot_setSlot_ne _ _ _ _ hne
        · rw [h]; exact ⟨rfl, rfl⟩
      refine ⟨?_, ?_, ?_, ?_⟩
      · rw [i1]
        rcases hF with ⟨-, h⟩ | ⟨-, h⟩
        · rw [h]; exact ⟨r, sl, rfl⟩
        · rw [h]; exact ⟨r, sl, rfl⟩
      · intro k j hk
        rw [i2 k j hk]
        rcases hF with ⟨-, h⟩ | ⟨-, h⟩
        · rw [h, State.reg_p_other _ _ _ _ _ _ hk]; rfl
        · rw [h]
      · intro n hm hst
        rcases List.mem_cons.1 hm with rfl | hm2
        · have := i4 n hz (.inl hnz)
          rw [this.1, this.2]
          rcases hF with ⟨-, h⟩ | ⟨h, -⟩
          · rw [h]
            exact ⟨State.g_p_self _ _ _ _ (by decide) (by decide) (by decide), State.slot_setSlot _ _ _⟩
          · exact absurd hst h
        · have hne : n ≠ z := by rintro rfl; exact hnz hm2
          have h64 := hl n (by simp [hm2])
          have := i3 n hm2 (by rw [(hoth n h64 hne).1]; exact hst)
          rw [(hoth n h64 hne).1, (hoth n h64 hne).2] at this
          exact this
      · intro n hn64 hor
        by_cases hne : n = z
        · subst hne
          have hst : u.g SLOT_STATUS.STATE n ∉ [3, 4, 6] := by
            rcases hor with h | h
            · exact absurd (by simp) h
            · exact h
          have hFu : F u n = u := by
            rcases hF with ⟨h, -⟩ | ⟨-, h⟩
            · exact absurd h hst
            · exact h
          have := i4 n hn64 (.inl hnz)
          rw [hFu] at this ⊢
          exact this
        · have := i4 n hn64 (by
            rcases hor with h | h
            · left; intro hm; exact h (by simp [hm])
            · right; rw [(hoth n hn64 hne).1]; exact h)
          rw [(hoth n hn64 hne).1, (hoth n hn64 hne).2] at this
          exact this
  obtain ⟨⟨r, sl, k1⟩, k2, k3, k4⟩ := key (t.slotsOf (fn - 1)) t (slotsOf_nodup _ _) h64

  have hx : ∃ u : State, t.pauseFn fn = u ∧ (u = ((t.slotsOf (fn - 1)).foldl F t).p PART_STATUS.PAUSED (fn - 1) 1 ∨
      u = (((t.slotsOf (fn - 1)).foldl F t).p PART_STATUS.PAUSED (fn - 1) 1).p PART_STATUS.HELD_WRITES (fn - 1) 1) := by
    refine ⟨_, rfl, ?_⟩
    unfold State.pauseFn
    rw [if_neg (by omega)]
    dsimp only
    split
    · exact .inl rfl
    · unfold State.heldMark; split
      · exact .inl rfl
      · exact .inr rfl
  obtain ⟨u, hu, hx⟩ := hx
  rw [hu]
  refine ⟨?_, ?_, ?_, ?_, ?_⟩
  · rcases hx with rfl | rfl <;> rw [k1] <;> exact ⟨_, _, rfl⟩
  · rcases hx with rfl | rfl
    · exact State.g_p_self _ _ _ _ (by decide) (by decide) (by decide)
    · rw [State.g_p_field _ _ _ _ _ (by decide) (by decide) (by decide) (by decide) (by decide)]
      exact State.g_p_self _ _ _ _ (by decide) (by decide) (by decide)
  · intro j
    rcases hx with rfl | rfl
    · rw [State.reg_p_other _ _ _ _ _ _ (by decide)]; exact k2 _ _ (by decide)
    · rw [State.reg_p_other _ _ _ _ _ _ (by decide), State.reg_p_other _ _ _ _ _ _ (by decide)]; exact k2 _ _ (by decide)
  · intro n hn hst
    rcases hx with rfl | rfl
    · rw [State.g_p_other _ _ _ _ _ _ (by decide)]; exact k3 n hn hst
    · rw [State.g_p_other _ _ _ _ _ _ (by decide), State.g_p_other _ _ _ _ _ _ (by decide)]; exact k3 n hn hst
  · intro n hn hst
    rcases hx with rfl | rfl
    · rw [State.g_p_other _ _ _ _ _ _ (by decide)]; exact k4 n hn hst
    · rw [State.g_p_other _ _ _ _ _ _ (by decide), State.g_p_other _ _ _ _ _ _ (by decide)]; exact k4 n hn hst

theorem abandon_spec (u : State) (n : Nat) : ∃ car rels cas, u.abandonSlot n = ((({ u with car := car, rels := rels, cas := cas } : State).setSlot n
    { u.slot n with inv := none, ending := none, endMark := false, left := none, latch := none, imgJob := false, clear := [] }).setQueue n {}).p SLOT_STATUS.STATE n 8 := by
  unfold State.abandonSlot State.each
  have := foldl_keeps (fun t : State => ∃ car, t = { u with car := car }) (fun (s : State) c =>
    let p := s.phys c
    s.setCarrel p { s.carrel p with run := .stopped, xfers := [] }) (carrelsOf (u.slot n).allot) u ⟨u.car, rfl⟩ (by
      rintro t c - ⟨car, rfl⟩; exact ⟨_, rfl⟩)
  obtain ⟨car, h⟩ := this
  rw [h]
  exact ⟨_, _, _, rfl⟩

theorem flr_fold (u : State) (xs : List Nat) (hn : xs.Nodup) (hl : ∀ n ∈ xs, n < 64 ∧ (u.csOf n).slipS = false ∧ (u.csOf n).dlv = 0) :
    let F := fun (s : State) n =>
      (((((s.dropSlip n true).dropDlv n true).engForget n 1).engForget n 2).setCs n {}).abandonSlot n
    (∃ rf car rels cas slots q cs coh, xs.foldl F u = { u with rf := rf, car := car, rels := rels, cas := cas, slots := slots, q := q, cs := cs, coh := coh }) ∧
    (∀ k j, k ≠ RegKind.SLOT_STATUS → (xs.foldl F u).reg k j = u.reg k j) ∧
    (∀ n ∈ xs, (xs.foldl F u).g SLOT_STATUS.STATE n = 8 ∧ ((xs.foldl F u).slot n).inv = none ∧ (xs.foldl F u).queue n = {} ∧ (xs.foldl F u).csOf n = {}) ∧
    (∀ n < 64, n ∉ xs → (xs.foldl F u).g SLOT_STATUS.STATE n = u.g SLOT_STATUS.STATE n ∧ (xs.foldl F u).slot n = u.slot n ∧
      (xs.foldl F u).queue n = u.queue n ∧ (xs.foldl F u).csOf n = u.csOf n) := by
  intro F
  induction xs generalizing u with
  | nil => exact ⟨⟨u.rf, u.car, u.rels, u.cas, u.slots, u.q, u.cs, u.coh, rfl⟩, fun _ _ _ => rfl, fun n hn => by simp at hn, fun _ _ _ => ⟨rfl, rfl, rfl, rfl⟩⟩
  | cons z zs ih =>
    rw [List.foldl_cons]
    have hz := hl z (by simp)
    have hnz := (List.nodup_cons.1 hn).1
    have hFz : ∃ car rels cas coh, F u z = ((({ u.setCs z {} with car := car, rels := rels, cas := cas, coh := coh } : State).setSlot z
        { u.slot z with inv := none, ending := none, endMark := false, left := none, latch := none, imgJob := false, clear := [] }).setQueue z {}).p SLOT_STATUS.STATE z 8 := by
      have hd : u.dropSlip z true = u := by
        unfold State.dropSlip; dsimp only; split
        · rw [if_neg (bfalse hz.2.1)]
        · rfl
      have he : u.dropDlv z true = u := by
        unfold State.dropDlv; dsimp only; split
        · rw [if_pos hz.2.2]
        · rfl
      show ∃ car rels cas coh, (((((u.dropSlip z true).dropDlv z true).engForget z 1).engForget z 2).setCs z {}).abandonSlot z = _
      rw [hd, he]
      obtain ⟨car, rels, cas, h⟩ := abandon_spec (((u.engForget z 1).engForget z 2).setCs z {}) z
      exact ⟨car, rels, cas, ((u.engForget z 1).engForget z 2).coh, h⟩
    obtain ⟨car, rels, cas, coh, hFz⟩ := hFz
    have hoth : ∀ n < 64, n ≠ z → (F u z).g SLOT_STATUS.STATE n = u.g SLOT_STATUS.STATE n ∧ (F u z).slot n = u.slot n ∧ (F u z).queue n = u.queue n ∧ (F u z).csOf n = u.csOf n := by
      intro n hn64 hne
      rw [hFz]
      refine ⟨?_, ?_, ?_, ?_⟩
      · unfold State.g
        rw [State.reg_p_ne _ _ _ _ _ _ (.inr (by rw [Nat.mod_eq_of_lt (by omega), Nat.mod_eq_of_lt (by omega)]; exact hne))]
        rfl
      · exact State.slot_setSlot_ne _ _ _ _ hne
      · exact State.queue_setQueue_ne _ _ _ _ hne
      · exact State.csOf_setCs_ne _ _ _ _ hne
    have hself : (F u z).g SLOT_STATUS.STATE z = 8 ∧ ((F u z).slot z).inv = none ∧ (F u z).queue z = {} ∧ (F u z).csOf z = {} := by
      rw [hFz]
      refine ⟨State.g_p_self _ _ _ _ (by decide) (by decide) (by decide), ?_, ?_, ?_⟩
      · exact congrArg SlotSt.inv (State.slot_setSlot _ _ _)
      · exact State.queue_setQueue _ _ _
      · exact State.csOf_setCs _ _ _
    obtain ⟨⟨rf, car2, rels2, cas2, sl2, q2, cs2, coh2, i1⟩, i2, i3, i4⟩ := ih (F u z) (List.nodup_cons.1 hn).2 (fun n h => by
      have hne : n ≠ z := by rintro rfl; exact hnz h
      have h64 := (hl n (by simp [h])).1
      rw [(hoth n h64 hne).2.2.2]
      exact hl n (by simp [h]))
    refine ⟨?_, ?_, ?_, ?_⟩
    · rw [i1, hFz]; exact ⟨_, _, _, _, _, _, _, _, rfl⟩
    · intro k j hk
      rw [i2 k j hk, hFz, State.reg_p_other _ _ _ _ _ _ hk]; rfl
    · intro n hm
      rcases List.mem_cons.1 hm with rfl | hm2
      · have := i4 n hz.1 hnz
        rw [this.1, this.2.1, this.2.2.1, this.2.2.2]
        exact hself
      · exact i3 n hm2
    · intro n hn64 hnot
      have hne : n ≠ z := by rintro rfl; exact hnot (by simp)
      have := i4 n hn64 (fun h => hnot (by simp [h]))
      rw [this.1, this.2.1, this.2.2.1, this.2.2.2]
      exact hoth n hn64 hne

theorem be1 (n v : Nat) (h : n < 4294967296) : setBits n (8 * 0 + 7) (8 * 0) (v / 256 ^ 0) < 4294967296 ∧
    setBits n (8 * 0 + 7) (8 * 0) (v / 256 ^ 0) % 256 = v % 256 := by
  unfold setBits; norm_num; omega

theorem be2 (n v : Nat) (h : n < 4294967296) (h1 : n % 256 = v % 256) : setBits n (8 * 1 + 7) (8 * 1) (v / 256 ^ 1) < 4294967296 ∧
    setBits n (8 * 1 + 7) (8 * 1) (v / 256 ^ 1) % 65536 = v % 65536 := by
  unfold setBits; norm_num; omega

theorem be3 (n v : Nat) (h : n < 4294967296) (h1 : n % 65536 = v % 65536) : setBits n (8 * 2 + 7) (8 * 2) (v / 256 ^ 2) < 4294967296 ∧
    setBits n (8 * 2 + 7) (8 * 2) (v / 256 ^ 2) % 16777216 = v % 16777216 := by
  unfold setBits; norm_num; omega

theorem be4 (n v : Nat) (h : n < 4294967296) (hv : v < 4294967296) (h1 : n % 16777216 = v % 16777216) : setBits n (8 * 3 + 7) (8 * 3) (v / 256 ^ 3) = v := by
  unfold setBits; norm_num; omega

theorem be_bits : ∀ i < 4, bit 15 i = true := by decide

theorem be_range : List.range 4 = [0, 1, 2, 3] := by decide

theorem be_fold (old : Nat) (f : Nat → Nat → Nat) :
    [0, 1, 2, 3].foldl (fun a i => if bit 15 i then f a i else a) old = f (f (f (f old 0) 1) 2) 3 := by
  simp only [List.foldl_cons, List.foldl_nil, be_bits 0 (by decide), be_bits 1 (by decide), be_bits 2 (by decide), be_bits 3 (by decide), if_true]

theorem be_list (old v : Nat) : beMerge old 15 v =
    [0, 1, 2, 3].foldl (fun a i => if bit 15 i then setBits a (8 * i + 7) (8 * i) (v / 256 ^ i) else a) (old % 2 ^ 32) := by
  unfold beMerge; rw [be_range]

theorem beMerge_full (old v : Nat) (hv : v < 2 ^ 32) : beMerge old 15 v = v := by
  rw [be_list, be_fold _ (fun a i => setBits a (8 * i + 7) (8 * i) (v / 256 ^ i))]
  have h1 := be1 (old % 2 ^ 32) v (by norm_num; omega)
  have h2 := be2 _ v h1.1 h1.2
  have h3 := be3 _ v h2.1 h2.2
  exact be4 _ v h3.1 (by norm_num at hv; exact hv) h3.2

theorem cfg_split {s : State} {fn off be v : Nat} {w : Bool} (hm : s.cfgMay fn = true) : s.cfgReq fn off w be v =
    (let o := off % 4096 / 4 * 4
     if w then (s.cfgPut fn o (beMerge (s.cfgRead fn o) be v) (beMerge 0 be v) be).emit (.cpl fn 0 0)
     else s.emit (.cpl fn 0 (s.cfgRead fn o % 2 ^ 32))) := by
  obtain ⟨h1, h2, h3, h4, h5⟩ := hasFn_of hm
  unfold State.cfgReq
  unfold State.hasFn at h1
  rw [decide_eq_true_iff] at h1
  rw [if_neg (by rw [h3]; decide), if_neg (by rintro (h | h); · omega
                                              · exact h5 h), if_neg (by rw [h2, h4]; decide)]

end Sys2Proof.Machine
end

