-- ==== Sys2Proof/Laws/Sem.lean ====
section
/-!
SUPPORT. The results of the operations of a line, over bit vectors and lanes (02 R55 to R69, 03 R95 to R107).
-/
namespace Sys2Proof.Machine

theorem onCar_carrel (s : State) (k : Ctx) (f : Carrel → Carrel) : (s.onCar k f).carrel k.p = f (s.carrel k.p) := by simp [State.onCar]

theorem sget_lt (x : Carrel) (n : Nat) : sget x n < 2 ^ 64 := by
  unfold sget; split
  · decide
  · exact BitVec.isLt _

theorem srcB_eq (x : Carrel) (w : Nat) : srcB x w = (ctlB x w).toNat := by
  unfold srcB ctlB
  split
  · unfold simm ctlImm
    rw [BitVec.toNat_signExtend]
    have h : cImm w < 2 ^ 32 := by unfold cImm bits; exact Nat.mod_lt _ (by decide)
    simp only [BitVec.toNat_setWidth, BitVec.toNat_ofNat, BitVec.msb_eq_decide, Nat.mod_eq_of_lt h]
    split_ifs <;> simp_all <;> omega
  · rw [BitVec.toNat_ofNat, Nat.mod_eq_of_lt (sget_lt _ _)]

theorem ctlA_eq (x : Carrel) (w : Nat) : sget x (cA w) = (ctlA x w).toNat := by
  unfold ctlA; rw [BitVec.toNat_ofNat, Nat.mod_eq_of_lt (sget_lt _ _)]

theorem simm_eq (w : Nat) : simm w = (ctlImm w).toNat := by
  unfold simm ctlImm
  rw [BitVec.toNat_signExtend]
  have h : cImm w < 2 ^ 32 := by unfold cImm bits; exact Nat.mod_lt _ (by decide)
  simp only [BitVec.toNat_setWidth, BitVec.toNat_ofNat, BitVec.msb_eq_decide, Nat.mod_eq_of_lt h]
  split_ifs <;> simp_all
  all_goals omega
theorem alu_S (s : State) (k : Ctx) (d n : Nat) (v : BitVec 64) (h : n % 2 ^ 64 = v.toNat) :
    sget ((s.onCar k fun x => sset x d n).carrel k.p) d = toS d v := by
  rw [onCar_carrel, sget_sset, h]; rfl

theorem mod_toNat (v : BitVec 64) : v.toNat % 2 ^ 64 = v.toNat := Nat.mod_eq_of_lt v.isLt

theorem sshift_eq (a : BitVec 64) (n : Nat) : unsgn 64 (sgn 64 a.toNat / (2 ^ n : Nat)) = (a.sshiftRight n).toNat := by
  have h : sgn 64 a.toNat = a.toInt := by
    unfold sgn; rw [BitVec.toInt_eq_toNat_cond, mod_toNat]
    have := a.isLt
    split_ifs <;> omega
  rw [h]
  have h2 : (a.sshiftRight n).toInt = a.toInt / (2 ^ n : Nat) := by
    rw [BitVec.toInt_sshiftRight, Int.shiftRight_eq_div_pow]
  rw [← h2]
  unfold unsgn
  have := (a.sshiftRight n).isLt
  rw [BitVec.toInt_eq_toNat_cond]
  split_ifs <;> omega

theorem alu_eff (u : State) (k : Ctx) (o : Op) (w : Nat) (v : BitVec 64) (m : Memory) (x : Carrel)
    (hv : aluResult o x w = some v) : sget ((Op.eff o k ⟨x, m⟩ w u).carrel k.p) (cD w) = toS (cD w) v := by
  have hA := ctlA_eq x w
  have hB := srcB_eq x w
  cases o <;> simp only [aluResult, Option.some.injEq, reduceCtorEq] at hv
  case ADD => subst hv; unfold Op.eff effAdd effAlu; refine alu_S _ _ _ _ _ ?_; simp only [hA, hB, BitVec.toNat_add, Nat.mod_mod]
  case SUB =>
    subst hv; unfold Op.eff effSub effAlu; refine alu_S _ _ _ _ _ ?_
    simp only [hA, hB, BitVec.toNat_sub, Nat.mod_mod]
    congr 1; exact Nat.add_comm _ _
  case MUL => subst hv; unfold Op.eff effMul effAlu; refine alu_S _ _ _ _ _ ?_; simp only [hA, hB, BitVec.toNat_mul, Nat.mod_mod]
  case AND => subst hv; unfold Op.eff effAnd effAlu; refine alu_S _ _ _ _ _ ?_; simp only [hA, hB, ← BitVec.toNat_and, mod_toNat]
  case OR => subst hv; unfold Op.eff effOr effAlu; refine alu_S _ _ _ _ _ ?_; simp only [hA, hB, ← BitVec.toNat_or, mod_toNat]
  case XOR => subst hv; unfold Op.eff effXor effAlu; refine alu_S _ _ _ _ _ ?_; simp only [hA, hB, ← BitVec.toNat_xor, mod_toNat]
  case SHL =>
    subst hv; unfold Op.eff effShl effAlu; refine alu_S _ _ _ _ _ ?_
    simp only [hA, hB, BitVec.toNat_shiftLeft, Nat.shiftLeft_eq, Nat.mod_mod]
  case SHR =>
    subst hv; unfold Op.eff effShr effAlu; refine alu_S _ _ _ _ _ ?_
    simp only [hA, hB, ← Nat.shiftRight_eq_div_pow, ← BitVec.toNat_ushiftRight, mod_toNat]
  case SRA =>
    subst hv; unfold Op.eff effSra effAlu; refine alu_S _ _ _ _ _ ?_
    simp only [hA, hB, sshift_eq, mod_toNat]
  case LI => subst hv; unfold Op.eff effLi; refine alu_S _ _ _ _ _ ?_; simp only [simm_eq, mod_toNat]
  case LUI =>
    subst hv; unfold Op.eff effLui; refine alu_S _ _ _ _ _ ?_
    have h : cImm w < 2 ^ 32 := by unfold cImm bits; exact Nat.mod_lt _ (by decide)
    simp only [hA, BitVec.toNat_append, BitVec.toNat_setWidth, BitVec.toNat_ofNat, Nat.mod_eq_of_lt h]
    have h2 : (ctlA x w).toNat % 2 ^ 32 < 2 ^ 32 := Nat.mod_lt _ (by decide)
    rw [Nat.shiftLeft_eq, Nat.mul_comm (cImm w), ← Nat.two_pow_add_eq_or_of_lt h2]
    omega
  case SEL =>
    subst hv; unfold Op.eff effSel; refine alu_S _ _ _ _ _ ?_
    dsimp only
    split
    · rw [hA, mod_toNat]
    · rw [BitVec.toNat_ofNat]

theorem pget_lt (x : Carrel) (n : Nat) : pget x n < 2 ^ 64 := by
  unfold pget; split
  · decide
  · exact BitVec.isLt _

theorem alu_P (s : State) (k : Ctx) (d n : Nat) (v : BitVec 64) (h : n % 2 ^ 64 = v.toNat) :
    pget ((s.onCar k fun x => pset x d n).carrel k.p) d = toP d v := by
  rw [onCar_carrel, pget_pset, h]; rfl

theorem sgn_toInt (v : BitVec 64) : sgn 64 v.toNat = v.toInt := by
  unfold sgn; rw [BitVec.toInt_eq_toNat_cond, mod_toNat]
  have := v.isLt
  split_ifs <;> omega

theorem condI_eq (fn : Nat) (a b : BitVec 64) : condI 64 fn a.toNat b.toNat = cmpHolds fn a b := by
  unfold condI cmpHolds
  split <;> simp only [sgn_toInt, BitVec.slt, BitVec.sle, BitVec.ult, BitVec.ule, BitVec.toNat_inj, ne_eq]

theorem ofBits_lt (n : Nat) (f : Nat → Bool) : ofBits n f < 2 ^ n ∧ ∀ i, (ofBits n f).testBit i = (decide (i < n) && f i) := by
  unfold ofBits
  induction n with
  | zero => simp
  | succ n ih =>
    rw [List.range_succ, List.foldl_append, List.foldl_cons, List.foldl_nil]
    obtain ⟨h1, h2⟩ := ih
    generalize (List.range n).foldl (fun a i => if f i then a + 2 ^ i else a) 0 = q at h1 h2
    constructor
    · split <;> rw [pow_succ] <;> omega
    · intro i
      have hb : ∀ v, v < 2 ^ (n + 1) → n < i → v.testBit i = false := by
        intro v hv hi
        exact Nat.testBit_lt_two_pow (lt_of_lt_of_le hv (Nat.pow_le_pow_right (by decide) hi))
      have hq : q < 2 ^ (n + 1) := by rw [pow_succ]; omega
      split
      · rename_i hf
        rw [Nat.add_comm]
        rcases Nat.lt_trichotomy i n with h | h | h
        · rw [Nat.testBit_two_pow_add_gt h, h2]; simp [h]; omega
        · subst h; rw [Nat.testBit_two_pow_add_eq, h2]; simp [hf]
        · rw [hb (2 ^ n + q) (by rw [pow_succ]; omega) h]
          have : ¬ i < n + 1 := by omega
          simp [this]
      · rename_i hf
        rw [h2]
        rcases Nat.lt_trichotomy i n with h | h | h
        · simp [h]; omega
        · subst h; simp [hf]
        · have h1 : ¬ i < n := by omega
          have h2 : ¬ i < n + 1 := by omega
          simp [h1, h2]

theorem range_eq (f : Nat → Bool) : (BitVec.ofFnLE fun i : Fin 64 => f i.val) = BitVec.ofNat 64 (ofBits 64 f) := by
  apply BitVec.eq_of_getLsbD_eq
  intro i hi
  rw [BitVec.getLsbD_ofNat, (ofBits_lt 64 f).2]
  simp [hi]

theorem ctlAddr_eq (x : Carrel) (w : Nat) : (sget x (cA w) + simm w) % 2 ^ 64 = ctlAddr x w := by
  unfold ctlAddr; rw [simm_eq, ctlA_eq, BitVec.toNat_add]

theorem leNat_lt (bs : Bytes) : leNat bs < 256 ^ bs.length := by
  induction bs with
  | nil => simp [leNat]
  | cons b bs ih =>
    simp only [leNat, List.length_cons, pow_succ]
    have := b.isLt
    omega

theorem read_eq (m : Memory) (a n : Nat) : m.read a n = (List.range n).map fun i => m.byte (a + i) := by
  unfold Memory.read
  apply List.map_congr_left
  intro i hi
  have hi := List.mem_range.mp hi
  have h := tget_filter (fun _ => (0 : Byte)) (fun b => decide (a ≤ b) && decide (b < a + n)) m (a + i) (by simp; omega)
  exact h

theorem natLe_get (n v i : Nat) (h : i < n) : (natLe n v)[i]'(by rw [natLe_length]; exact h) = BitVec.ofNat 8 (v / 256 ^ i) := by
  induction n generalizing v i with
  | zero => omega
  | succ n ih =>
    cases i with
    | zero => simp [natLe]
    | succ i =>
      simp only [natLe, List.getElem_cons_succ]
      rw [ih _ _ (by omega), Nat.div_div_eq_div_mul, pow_succ, Nat.mul_comm]

theorem lineStart_carrel (s : State) (k : Ctx) : (s.lineStart k).carrel k.p = { s.carrel k.p with lp := (s.carrel k.p).lp + 1 } := by
  simp [State.lineStart, State.onCar]

theorem tgt_eq (w : Nat) : sgn 32 (cImm w) = (BitVec.ofNat 32 (cImm w)).toInt := by
  have h : cImm w < 2 ^ 32 := by unfold cImm bits; exact Nat.mod_lt _ (by decide)
  unfold sgn; rw [BitVec.toInt_eq_toNat_cond, BitVec.toNat_ofNat]
  split_ifs <;> omega

theorem slotStall_of {s : State} {c : Nat} {k : Ctx} {l : Line} (hi : s.Issues c k l) :
    s.slotStall k l.ctl = false ∧ s.slotStall k l.mov = false := by
  have := hi.2.2.2.2.2.2.2.1
  unfold State.lineStall at this
  simp at this
  exact ⟨this.1.1.1, this.1.1.2⟩

theorem bit_setBit (x i : Nat) : bit (setBit x i true) i = true := by
  have h := bits_setBits x i i 1 (le_refl i)
  unfold bit setBit
  unfold bits at h
  rw [Nat.testBit_eq_decide_div_mod_eq]
  simpa using h

theorem issues_mov {s : State} {c : Nat} {k : Ctx} {l : Line} (hi : s.Issues c k l) {o : Op} {w : Nat} (h : l.mov = .op o w)
    (ha : acts (s.carrel k.p) w = true) : s.opActs k o w = true := by
  have := (issues_port hi).2.1 h
  unfold State.opActs; split_ifs <;> simp_all


/-! ### Lanes -/

theorem ofLanes_spec (w n : Nat) (f : Nat → Nat) : ofLanes w n f < 2 ^ (w * n) ∧ ∀ i, i < n → lane w (ofLanes w n f) i = f i % 2 ^ w := by
  unfold ofLanes
  induction n with
  | zero => simp
  | succ n ih =>
    rw [List.range_succ, List.foldl_append, List.foldl_cons, List.foldl_nil]
    obtain ⟨h1, h2⟩ := ih
    generalize (List.range n).foldl (fun a i => a + (f i % 2 ^ w) * 2 ^ (w * i)) 0 = q at h1 h2
    have hf : f n % 2 ^ w < 2 ^ w := Nat.mod_lt _ (by positivity)
    constructor
    · have e : (2 : Nat) ^ (w * (n + 1)) = 2 ^ w * 2 ^ (w * n) := by rw [← pow_add]; congr 1; ring
      rw [e, Nat.add_comm]; exact pack_lt hf h1
    · intro i hi
      unfold lane
      rcases Nat.lt_or_ge i n with h | h
      · rw [← h2 i h]
        unfold lane
        have e : (2 : Nat) ^ (w * n) = 2 ^ (w * i) * (2 ^ w * 2 ^ (w * (n - 1 - i))) := by
          rw [← pow_add, ← pow_add]; congr 1
          have : n = i + 1 + (n - 1 - i) := by omega
          conv_lhs => rw [this]
          ring
        rw [e, show q + f n % 2 ^ w * (2 ^ (w * i) * (2 ^ w * 2 ^ (w * (n - 1 - i)))) =
          q + 2 ^ (w * i) * (2 ^ w * (f n % 2 ^ w * 2 ^ (w * (n - 1 - i)))) by ring, Nat.add_mul_div_left _ _ (by positivity), Nat.add_mul_mod_self_left]
      · have : i = n := by omega
        subst this
        rw [Nat.add_comm, Nat.mul_comm (f i % 2 ^ w), Nat.mul_add_div (by positivity), Nat.div_eq_of_lt h1, Nat.add_zero, Nat.mod_mod]

theorem lane_ofLanes (w n i : Nat) (f : Nat → Nat) (h : i < n) : lane w (ofLanes w n f) i = f i % 2 ^ w := (ofLanes_spec w n f).2 i h

theorem lane_mod (w x i : Nat) : lane w x i % 2 ^ w = lane w x i := by unfold lane; exact Nat.mod_mod _ _

theorem laneW_cases (ty : Nat) : laneW ty = 64 ∧ laneN ty = 8 ∨ laneW ty = 32 ∧ laneN ty = 16 ∨ laneW ty = 16 ∧ laneN ty = 32 ∨ laneW ty = 8 ∧ laneN ty = 64 := by
  unfold laneN laneW
  split <;> simp

theorem laneWN (ty : Nat) : laneW ty * laneN ty = 512 := by
  rcases laneW_cases ty with h | h | h | h <;> rw [h.1, h.2]

theorem ofLanes_vec (ty : Nat) (f : Nat → Nat) : (BitVec.ofNat 512 (ofLanes (laneW ty) (laneN ty) f)).toNat = ofLanes (laneW ty) (laneN ty) f := by
  rw [BitVec.toNat_ofNat]
  apply Nat.mod_eq_of_lt
  have := (ofLanes_spec (laneW ty) (laneN ty) f).1
  rw [laneWN] at this
  exact this

/-- A merged vector, lane by lane. -/
theorem lane_vMerge (ty p old new i : Nat) (h : i < laneN ty) :
    lane (laneW ty) (BitVec.ofNat 512 (vMerge ty p old new)).toNat i = if bit p i then lane (laneW ty) new i else lane (laneW ty) old i := by
  unfold vMerge vSel
  rw [ofLanes_vec, lane_ofLanes _ _ _ _ h]
  split <;> exact lane_mod _ _ _

/-- The bytes of a little-endian number. -/
theorem leNat_read (m : Memory) (a n : Nat) : m.le a n = leNat ((List.range n).map fun i => m.byte (a + i)) := by
  unfold Memory.le; rw [read_eq]

/-- Eight bytes of a longer little-endian number. -/
theorem leNat_append (xs ys : Bytes) : leNat (xs ++ ys) = leNat xs + 256 ^ xs.length * leNat ys := by
  induction xs with
  | nil => simp [leNat]
  | cons x xs ih => simp only [List.cons_append, leNat, ih, List.length_cons, pow_succ]; ring

theorem lane_leNat (n k i : Nat) (f : Nat → Byte) (h : k * (i + 1) ≤ n) :
    lane (8 * k) (leNat ((List.range n).map f)) i = leNat ((List.range k).map fun j => f (k * i + j)) := by
  have e : List.range n = List.range (k * i) ++ (List.range (n - k * i)).map (k * i + ·) := by
    have : n = k * i + (n - k * i) := by
      have : k * i ≤ k * (i + 1) := Nat.mul_le_mul_left _ (by omega)
      omega
    conv_lhs => rw [this]
    exact List.range_add
  have e2 : List.range (n - k * i) = List.range k ++ (List.range (n - k * i - k)).map (k + ·) := by
    have : n - k * i = k + (n - k * i - k) := by
      have : k * (i + 1) = k * i + k := by ring
      omega
    conv_lhs => rw [this]
    exact List.range_add
  rw [e, List.map_append, leNat_append, e2]
  simp only [List.map_append, List.map_map, leNat_append, List.length_map, List.length_range]
  unfold lane
  have p : ∀ a, (256 : Nat) ^ a = 2 ^ (8 * a) := fun a => by rw [pow_mul]; norm_num
  have h1 := leNat_lt ((List.range (k * i)).map f)
  have h2 := leNat_lt ((List.range k).map (f ∘ fun x => k * i + x))
  simp only [List.length_map, List.length_range, p] at h1 h2 ⊢
  rw [show 8 * k * i = 8 * (k * i) by ring, Nat.add_mul_div_left _ _ (by positivity), Nat.div_eq_of_lt h1, Nat.zero_add, Nat.add_mul_mod_self_left,
    Nat.mod_eq_of_lt h2]
  rfl

end Sys2Proof.Machine
end

