-- ==== Sys2Proof/Laws/Lanes.lean ====
section
/-!
SUPPORT. Transfers that a line starts, the lanes of its vector operations, tiles and tags (02 R59 to R69, 03 R95 to R107).
-/
namespace Sys2Proof.Machine

theorem mov_xfers {s : State} {c : Nat} {k : Ctx} {l : Line} {w : Nat} (hi : s.Issues c k l) {o : Op} (hm : l.mov = .op o w)
    (ha : acts (s.carrel k.p) w = true) :
    ∃ t : State, t = { s with car := t.car, store := t.store } ∧ (t.carrel k.p).xfers = (s.carrel k.p).xfers ∧
      ((s.runLine k l).carrel k.p).xfers = ((Op.eff o k ⟨s.carrel k.p, s.mem k.p⟩ w t).carrel k.p).xfers := by
  obtain ⟨t, h1, h2, h3⟩ := line_mov_xfers hi
  refine ⟨t, h1, h2, ?_⟩
  rw [h3, hm]
  have : s.slotActs k (.op o w) = true := issues_mov hi hm ha
  rw [this, slotEff_op]

theorem foldl_min_le (xs : List (Nat × Nat)) (a : Nat) : xs.foldl (fun a x => min a x.1) a ≤ a ∧ ∀ e ∈ xs, xs.foldl (fun a x => min a x.1) a ≤ e.1 := by
  induction xs generalizing a with
  | nil => simp
  | cons x xs ih =>
    simp only [List.foldl_cons, List.mem_cons, forall_eq_or_imp]
    have h := ih (min a x.1)
    refine ⟨h.1.trans (min_le_left _ _), h.1.trans (min_le_right _ _), h.2⟩

theorem foldl_max_ge (len : Nat) (xs : List (Nat × Nat)) (a : Nat) :
    a ≤ xs.foldl (fun a x => max a (x.1 + len)) a ∧ ∀ e ∈ xs, e.1 + len ≤ xs.foldl (fun a x => max a (x.1 + len)) a := by
  induction xs generalizing a with
  | nil => simp
  | cons x xs ih =>
    simp only [List.foldl_cons, List.mem_cons, forall_eq_or_imp]
    have h := ih (max a (x.1 + len))
    refine ⟨(le_max_left _ _).trans h.1, (le_max_right _ _).trans h.1, h.2⟩

theorem boundOf_spec (r : Rows) : ∀ e ∈ r.rows, (boundOf r).1 ≤ e.1 ∧ e.1 + r.len ≤ (boundOf r).2 := by
  intro e he
  unfold boundOf
  cases hr : r.rows with
  | nil => rw [hr] at he; simp at he
  | cons x xs =>
    rw [hr] at he
    exact ⟨(foldl_min_le _ _).2 e he, (foldl_max_ge _ _ _).2 e he⟩

theorem mov_reg {s : State} {c : Nat} {k : Ctx} {l : Line} {w : Nat} (hi : s.Issues c k l) {o : Op} (hm : l.mov = .op o w)
    (ha : s.opActs k o w = true) (r : RegName) (hr : r ∈ Op.writes o w) (h0 : r ≠ .S 0) (h1 : r ≠ .P 0) :
    ∃ t : State, regVal ((s.runLine k l).carrel k.p) r = regVal ((Op.eff o k ⟨s.carrel k.p, s.mem k.p⟩ w t).carrel k.p) r := by
  obtain ⟨t, ht, h⟩ := runLine_writes s k l o w r hi.2.2.2.2.2.2.1 (issues_mem_mov hm) ha hr h0 h1
  exact ⟨t, h⟩

theorem mov_byte {s : State} {c : Nat} {k : Ctx} {l : Line} {w : Nat} (hi : s.Issues c k l) {o : Op} (hm : l.mov = .op o w)
    (ha : s.opActs k o w = true) (b : Nat) :
    ∃ t : State, ((s.runLine k l).mem k.p).byte b = ((Op.eff o k ⟨s.carrel k.p, s.mem k.p⟩ w t).mem k.p).byte b := by
  obtain ⟨t, -, h⟩ := runLine_mem_mov hi b
  refine ⟨t, ?_⟩
  rw [h, hm]
  have : s.slotActs k (.op o w) = true := ha
  rw [this, slotEff_op]

theorem vecAddr_eq (x : Carrel) (w : Nat) : (sget x (lA w) + simm16 w) % 2 ^ 64 = vecAddr x w := by
  unfold vecAddr
  have h : lImm w < 2 ^ 16 := by unfold lImm bits; exact Nat.mod_lt _ (by decide)
  have e : simm16 w = ((BitVec.ofNat 16 (lImm w)).signExtend 64).toNat := by
    unfold simm16
    rw [BitVec.toNat_signExtend]
    simp only [BitVec.toNat_setWidth, BitVec.toNat_ofNat, BitVec.msb_eq_decide, Nat.mod_eq_of_lt h]
    split_ifs <;> simp_all
    all_goals omega
  rw [e, BitVec.toNat_add, BitVec.toNat_ofNat, Nat.mod_eq_of_lt (sget_lt _ _)]

theorem foldl_write_in (xs : List Nat) (a : Nat) (g : Nat → Bytes) (m : Memory) (i j : Nat) (hg : ∀ i, (g i).length = 8) (hj : j < 8)
    (hi : i ∈ xs) (hn : xs.Nodup) :
    (xs.foldl (fun m i => m.write (a + 8 * i) (g i)) m).byte (a + 8 * i + j) = (g i)[j]'(by rw [hg]; exact hj) := by
  induction xs generalizing m with
  | nil => simp at hi
  | cons x xs ih =>
    rw [List.nodup_cons] at hn
    rw [List.foldl_cons]
    rcases List.mem_cons.mp hi with h | h
    · subst h
      rw [foldl_write_out]
      · exact Memory.byte_write_in _ _ _ _ (by rw [hg]; exact hj)
      · intro y hy
        rw [hg]
        have : y ≠ i := by rintro rfl; exact hn.1 hy
        omega
    · exact ih _ h hn.2

theorem vec_reg {s : State} {c : Nat} {k : Ctx} {l : Line} {w : Nat} (hi : s.Issues c k l) {o : Op} (hm : l.vec = .op o w)
    (r : RegName) (hr : r ∈ Op.writes o w) (h0 : r ≠ .S 0) (h1 : r ≠ .P 0) :
    ∃ t : State, t = { s with car := t.car, store := t.store } ∧
      regVal ((s.runLine k l).carrel k.p) r = regVal ((Op.eff o k ⟨s.carrel k.p, s.mem k.p⟩ w t).carrel k.p) r := by
  have ha : s.opActs k o w = true := by
    have := (issues_port hi).2.2.1 hm
    unfold State.opActs; simp [this.2]
  exact runLine_writes s k l o w r hi.2.2.2.2.2.2.1 (issues_mem_vec hm) ha hr h0 h1

theorem vec_lane {s : State} {c : Nat} {k : Ctx} {l : Line} {w : Nat} (hi : s.Issues c k l) {o : Op} (hm : l.vec = .op o w)
    (f : Carrel → Nat → Nat) (he : Op.eff o = effVec f) (hw : Op.writes o w = [.V (vD w)]) (i : Nat) (h : i < laneN (vType w)) :
    lane (laneW (vType w)) (vget ((s.runLine k l).carrel k.p) (vD w)) i =
      if bit (predOf (s.carrel k.p) w) i then lane (laneW (vType w)) (f (s.carrel k.p) w) i
      else lane (laneW (vType w)) (vget (s.carrel k.p) (vD w)) i := by
  obtain ⟨t, -, ht⟩ := vec_reg hi hm (.V (vD w)) (by simp [hw]) (by simp) (by simp)
  simp only [regVal] at ht
  rw [ht, he]
  unfold effVec
  rw [onCar_carrel, vget_vset]
  exact lane_vMerge _ _ _ _ _ h

theorem lanes1_lane (ty : Nat) (f : Nat → Nat) (a i : Nat) (h : i < laneN ty) : lane (laneW ty) (lanes1 ty f a) i = f (lane (laneW ty) a i) % 2 ^ laneW ty :=
  lane_ofLanes _ _ _ _ h

theorem lanes2_lane (ty : Nat) (f : Nat → Nat → Nat) (a b i : Nat) (h : i < laneN ty) :
    lane (laneW ty) (lanes2 ty f a b) i = f (lane (laneW ty) a i) (lane (laneW ty) b i) % 2 ^ laneW ty := lane_ofLanes _ _ _ _ h

theorem eff_VADD : Op.eff .VADD = effVec (fun x w => vAdd (vType w) (vget x (vA w)) (vget x (vB w))) := rfl

theorem eff_VSUB : Op.eff .VSUB = effVec (fun x w => vSub (vType w) (vget x (vA w)) (vget x (vB w))) := rfl

theorem eff_VMUL : Op.eff .VMUL = effVec (fun x w => vMul (vType w) (vget x (vA w)) (vget x (vB w))) := rfl

theorem eff_VFMA : Op.eff .VFMA = effVec (fun x w => vFma (vType w) (vget x (vA w)) (vget x (vB w)) (vget x (vC w))) := rfl

theorem eff_VMAX : Op.eff .VMAX = effVec (fun x w => vPick true (vType w) (vFunc w) (vget x (vA w)) (vget x (vB w))) := rfl

theorem eff_VMIN : Op.eff .VMIN = effVec (fun x w => vPick false (vType w) (vFunc w) (vget x (vA w)) (vget x (vB w))) := rfl

theorem eff_VSH : Op.eff .VSH = effVec (fun x w => vSh (vType w) (vFunc w) (vget x (vA w))) := rfl

theorem eff_VMOV : Op.eff .VMOV = effVec (fun x w => vget x (vA w)) := rfl

theorem eff_VBCAST : Op.eff .VBCAST = effVec (fun x w => vBcast (vType w) (sget x (vSx w))) := rfl

theorem eff_VPERM : Op.eff .VPERM = effVec (fun x w => vPerm (vType w) (vget x (vA w)) (vget x (vB w))) := rfl

theorem eff_VSEL : Op.eff .VSEL = effVec (fun x w => vSel (vType w) (pget x (vFunc w % 8)) (vget x (vA w)) (vget x (vB w))) := rfl

theorem eff_VACT : Op.eff .VACT = effVec (fun x w => vAct (vType w) (vFunc w) (vget x (vA w))) := rfl

theorem eff_VSCALE : Op.eff .VSCALE = effVec (fun x w => vScale (vType w) (sget x (vSx w)) (vget x (vA w))) := rfl

theorem eff_VAND : Op.eff .VAND = effVec (fun x w => vget x (vA w) &&& vget x (vB w)) := rfl

theorem eff_VOR : Op.eff .VOR = effVec (fun x w => vget x (vA w) ||| vget x (vB w)) := rfl

theorem eff_VXOR : Op.eff .VXOR = effVec (fun x w => vget x (vA w) ^^^ vget x (vB w)) := rfl

theorem vget_ofNat (x : Carrel) (n : Nat) : (BitVec.ofNat 512 (vget x n)).toNat = vget x n := by unfold vget; rw [BitVec.ofNat_toNat, BitVec.setWidth_eq]

theorem trb_line {s : State} {c : Nat} {k : Ctx} {l : Line} (hi : s.Issues c k l) :
    (l.mat = .nop → ∃ t : State, (t.carrel k.p).trb = (s.carrel k.p).trb ∧
      ((s.runLine k l).carrel k.p).trb = ((slotEff k ⟨s.carrel k.p, s.mem k.p⟩ l.vec (s.slotActs k l.vec) t).carrel k.p).trb) ∧
    (l.vec = .nop → ∃ t : State, (t.carrel k.p).trb = (s.carrel k.p).trb ∧
      ((s.runLine k l).carrel k.p).trb = ((slotEff k ⟨s.carrel k.p, s.mem k.p⟩ l.mat (s.slotActs k l.mat) t).carrel k.p).trb) := by
  have hn : ∀ x, (x = l.ctl ∨ x = l.mov) → ¬ slotAspects x (s.slotActs k x) .trb := by
    intro x hx hs
    unfold slotAspects at hs
    split at hs
    · rename_i o w
      have hp := issues_port hi (o := o) (w := w)
      have h1 := aspect_port o .trb hs.2
      have h0 : opPort o = 2 ∨ opPort o = 3 := by simpa using h1
      rcases hx with h | h
      · have := (hp.1 h.symm).1; omega
      · have := (hp.2.1 h.symm).1; omega
    · exact hs
  have h0 : ((slotEff k ⟨s.carrel k.p, s.mem k.p⟩ l.mov (s.slotActs k l.mov)
      (slotEff k ⟨s.carrel k.p, s.mem k.p⟩ l.ctl (s.slotActs k l.ctl) (s.lineStart k))).carrel k.p).trb = (s.carrel k.p).trb := by
    rw [of_trb ((slotEff_touches l.mov _ k _ _ s rfl).2.2.2.2.1 .trb (hn _ (by simp))),
      of_trb ((slotEff_touches l.ctl _ k _ _ s rfl).2.2.2.2.1 .trb (hn _ (by simp))), lineStart_carrel]
  refine ⟨fun hm => ⟨_, h0, ?_⟩, fun hv => ⟨_, h0, ?_⟩⟩
  · rw [runLine_eq, of_trb ((lineEnd_touches _ k).2.2.2.2.1 .trb (by simp)), hm]
    rfl
  · rw [runLine_eq, of_trb ((lineEnd_touches _ k).2.2.2.2.1 .trb (by simp)), hv]
    rfl

theorem mat_reg {s : State} {c : Nat} {k : Ctx} {l : Line} {w : Nat} (hi : s.Issues c k l) {o : Op} (hm : l.mat = .op o w)
    (ha : acts (s.carrel k.p) w = true) (r : RegName) (hr : r ∈ Op.writes o w) (h0 : r ≠ .S 0) (h1 : r ≠ .P 0) :
    ∃ t : State, t = { s with car := t.car, store := t.store } ∧
      regVal ((s.runLine k l).carrel k.p) r = regVal ((Op.eff o k ⟨s.carrel k.p, s.mem k.p⟩ w t).carrel k.p) r := by
  have h2 : s.opActs k o w = true := by
    have := (issues_port hi).2.2.2 hm
    unfold State.opActs; split_ifs <;> simp_all
  exact runLine_writes s k l o w r hi.2.2.2.2.2.2.1 (issues_mem_mat hm) h2 hr h0 h1

theorem mat_trb {s : State} {c : Nat} {k : Ctx} {l : Line} {w : Nat} (hi : s.Issues c k l) {o : Op} (hm : l.mat = .op o w)
    (ha : acts (s.carrel k.p) w = true) (hv : l.vec = .nop) :
    ∃ t : State, (t.carrel k.p).trb = (s.carrel k.p).trb ∧
      ((s.runLine k l).carrel k.p).trb = ((Op.eff o k ⟨s.carrel k.p, s.mem k.p⟩ w t).carrel k.p).trb := by
  obtain ⟨t, h0, ht⟩ := (trb_line hi).2 hv
  have h2 : s.slotActs k (.op o w) = true := by
    have := (issues_port hi).2.2.2 hm
    unfold State.slotActs State.opActs; dsimp only; split_ifs <;> simp_all
  refine ⟨t, h0, ?_⟩
  rw [ht, hm, h2, slotEff_op]

theorem aget_aset_ne (x : Carrel) (d e v : Nat) (h : e ≠ d) : aget (aset x d v) e = aget x e := by
  unfold aget aset; rw [tget_tset_ne _ _ _ _ _ h]

theorem aget_troubles (x : Carrel) (t : Troubles) (n : Nat) : aget (addTroubles x t) n = aget x n := rfl

theorem aget_ofNat (x : Carrel) (n : Nat) : (BitVec.ofNat 32768 (aget x n)).toNat = aget x n := by
  unfold aget; rw [BitVec.ofNat_toNat, BitVec.setWidth_eq]

theorem lane_setBits (x v i j : Nat) : lane 512 (setBits x (512 * j + 511) (512 * j) v) i = if i = j then v % 2 ^ 512 else lane 512 x i := by
  have lb : ∀ y n, lane 512 y n = bits y (512 * n + 511) (512 * n) := by
    intro y n; unfold lane bits; congr 2; omega
  rw [lb, lb]
  split
  · rename_i h; subst h
    rw [bits_setBits _ _ _ _ (by omega)]; congr 2; omega
  · rename_i h
    exact bits_setBits_ne _ _ _ _ _ _ (by omega) (by omega) (by omega)

theorem ofNat_setBits (W : Nat) (x : BitVec W) (hi lo v : Nat) (h : lo ≤ hi) (h' : hi < W) :
    (BitVec.ofNat W (setBits x.toNat hi lo v)).toNat = setBits x.toNat hi lo v := by
  rw [BitVec.toNat_ofNat, Nat.mod_eq_of_lt (setBits_lt _ _ _ _ _ h h' x.isLt)]

theorem ctx_facts {s : State} {c : Nat} {k : Ctx} (h : s.ctx c = some k) : (s.slot k.n).inv = some k.inv ∧ k.p = s.phys c ∧ k.n < 64 := by
  unfold State.ctx at h
  split at h
  · cases h
  · rename_i n hn
    split at h
    · cases h
    · rename_i v hv
      split at h
      · cases h
      · cases h
        refine ⟨hv, rfl, ?_⟩
        unfold State.slotOfShelf at hn
        exact List.mem_range.1 (List.mem_of_find?_eq_some hn)

theorem filter_find (xs : List Xfer) (f : Xfer) (tag : Nat) (h : xs.find? (fun g => decide (g.tag = tag)) = some f) : f.tag = tag := by
  simpa using List.find?_some h

theorem pump_none (s : State) (c : Nat) (h : ∀ g ∈ (s.carrel (s.phys c)).xfers, g.todo = []) : s.pump c = s := by
  unfold State.pump
  generalize (s.carrel (s.phys c)).xfers = xs at h
  induction xs with
  | nil => rfl
  | cons x xs ih =>
    rw [List.foldl_cons, if_pos (h x (by simp))]
    exact ih fun g hg => h g (by simp [hg])

end Sys2Proof.Machine
end

