-- ==== Sys2Proof/Laws/Rest.lean ====
section
/-!
SUPPORT. Where nothing waits, what a command lets go on changes nothing.
-/
namespace Sys2Proof.Machine

theorem foldl_same {α β : Type} (f : α → β → α) (a : α) (l : List β) (h : ∀ b ∈ l, f a b = a) : l.foldl f a = a := by
  induction l with
  | nil => rfl
  | cons b l ih => rw [List.foldl_cons, h b List.mem_cons_self, ih fun c hc => h c (List.mem_cons_of_mem b hc)]

theorem State.lendWoken_self (s : State) : s.lendWoken s = s := foldl_same _ _ _ fun _ _ => if_pos rfl

/-- Homes that rest: nothing of them goes on. -/
theorem State.settle_rests (s : State) (h : s.HomesRest) : s.settle = s := by
  obtain ⟨h1, h2, h3, h4, -, -⟩ := h
  have e : s.settle1 = none := by
    unfold State.settle1 State.hsnpTracked
    simp [h1, h2, h3, h4]
  unfold State.settle
  rw [State.settleN, e]

theorem State.acksGo_rests (s : State) (h : ∀ e ∈ s.nic.qps, (s.qpOf e.1).acks = [] ∧ (s.qpOf e.1).owed = []) (hc : s.cas.acks = []) : s.acksGo = s := by
  have e : (s.nic.qps.foldl (fun s e =>
      let q := e.1
      let x := s.qpOf q
      if (x.acks = [] ∧ x.owed = []) ∨ s.qpDataOut q then s
      else
        let s := if !s.mayRequest (s.qpFn q) then s else x.acks.foldl (fun s p => s.qpSend q p) (s.setQp q { x with acks := [] })
        if x.owed = [] then s else s.qpOwed q) s) = s := foldl_same _ _ _ fun b hb => if_pos (.inl (h b hb))
  unfold State.acksGo
  dsimp only at e ⊢
  rw [e, hc]
  rfl

theorem State.csAll_rests (s : State) (h : ∀ e ∈ s.cs, s.g CS_CTL.MODE e.1 = 1 → (s.csOf e.1).slipLine ≠ none) : s.csAll = s :=
  foldl_same _ _ _ fun e he => if_neg fun c => h e he c.1 c.2

theorem State.lendAll_rests (s : State) (h1 : ∀ p < 8, ∀ e ∈ s.lendOf p, e.state ≠ 5) (h2 : ∀ e ∈ s.q, (s.queue e.1).lend.phase = 0) :
    s.lendAll = s := by
  have e1 : (List.range 8).foldl (fun s p => ((s.lendOf p).filter fun e => decide (e.state = 5)).foldl (fun s e => s.dropGo p e) s) s = s := by
    refine foldl_same _ _ _ fun p hp => ?_
    have : ((s.lendOf p).filter fun e => decide (e.state = 5)) = [] := by
      rw [List.filter_eq_nil_iff]
      exact fun e he => by rw [decide_eq_true_eq]; exact h1 p (List.mem_range.mp hp) e he
    rw [this]; rfl
  unfold State.lendAll
  dsimp only at e1 ⊢
  rw [e1, foldl_same _ s s.q, s.lendWoken_self]
  intro e he
  split
  · exact if_pos (h2 e he)
  · rfl

theorem State.winAll_rests (s : State) (h : s.cas.held = []) : s.winAll = s := by
  unfold State.winAll; rw [h]; simp

/-- Where nothing is owed, only the homes go on. -/
theorem State.goOn_rests (s : State) (h : s.settle.NothingOwed) : s.goOn = s.settle := by
  obtain ⟨h1, h2, h3, h4, h5, h6, h8, h7⟩ := h
  have e : s.settle.heldAll = s.settle := by
    unfold State.heldAll
    have e : s.settle.fns.foldl (fun s e => if e.2.held = [] ∧ e.2.irqs = [] then s else s.heldGo (2 * e.2.held.length + 2) e.1) s.settle = s.settle :=
      foldl_same _ _ _ fun b hb => if_pos (h3 b hb)
    rw [e, State.acksGo_rests _ h4 h5]
  unfold State.goOn
  rw [State.lendAll_rests _ h1 h2, e, State.csAll_rests _ h6, State.winAll_rests _ h8]
  unfold State.clearGo
  rw [if_pos (.inl (by rw [h7]; rfl))]

theorem State.goOn_homesRest (s : State) (h : s.HomesRest) : s.goOn = s := by
  have e := s.settle_rests h
  rw [State.goOn_rests s (by rw [e]; exact h.2.2.2.2.2), e]

theorem State.pumpAll_rests (s : State) (p : Nat → Bool) (h : s.NoTries) : s.pumpAll p = s := by
  unfold State.pumpAll
  have : (s.car.filter fun e => p e.1 && e.2.xfers.any fun x => decide (x.todo ≠ [])) = [] := by
    rw [List.filter_eq_nil_iff]
    intro e he
    have : (e.2.xfers.any fun x => decide (x.todo ≠ [])) = false := by
      rw [List.any_eq_false]
      exact fun x hx => by rw [decide_eq_true_eq, not_not]; exact h e he x hx
    rw [this, Bool.and_false]
    exact Bool.false_ne_true
  rw [this]; rfl

theorem State.csWake_rests (s : State) (n : Nat) (h1 : s.g CS_CTL.MODE n ≠ 1) (h2 : s.g CS_STATUS.STATE n ≠ 1) : s.csWake n = s := by
  unfold State.csWake
  dsimp only
  rw [if_neg h2, if_neg fun c => h1 c.2.1]

theorem State.flushRecs_rests (s : State) (q : Nat) (h1 : (s.queue q).hold = none ∨ s.cqRoom q = false) (h2 : (s.queue q).owed = []) :
    s.flushRecs q = s := by
  unfold State.flushRecs
  split
  · rfl
  rcases h1 with h | h
  · rw [h]; exact if_pos h2
  · dsimp only
    split
    · rw [h]; exact if_pos h2
    · exact if_pos h2

theorem State.irqsGo_none (s : State) (f : Nat) (h : (s.fn f).irqs = []) : s.irqsGo f = s := if_pos (.inl h)

/-- Waking a partition at rest changes nothing. -/
theorem State.wake_rests (s : State) (p : Nat) (h : s.PartRests p) : s.wake p = s := by
  obtain ⟨h1, h2, h3, h4, h5, h6, h7, h8, hw, h9⟩ := h
  have e1 : s.atsResend p = s := by
    unfold State.atsResend
    refine if_pos ?_
    rw [List.filter_eq_nil_iff]
    exact fun r hr => by rw [h1 r hr]; decide
  have e2 : State.prDrain 512 s p = s := by
    rw [State.prDrain, h2]
  have e3 : s.heldGo (2 * (s.fn (p + 1)).held.length + 2) (p + 1) = s := by
    rw [State.heldGo, h3]
    dsimp only
    have : s.gb PART_STATUS.HELD_WRITES p = false := by unfold State.gb; rw [h5]; rfl
    rw [if_pos (.inr (.inr (by rw [Nat.add_sub_cancel, this]; rfl)))]
    exact s.irqsGo_none _ h4
  have e4 : (s.slotsOf p).foldl (fun s n => (s.csWake n).flushRecs n) s = s := by
    refine foldl_same _ _ _ fun n hn => ?_
    obtain ⟨a, b, c, d, -, -⟩ := h9 n hn
    rw [s.csWake_rests n a b, s.flushRecs_rests n d c]
  have e4' : (s.intakeOrder (s.slotsOf p)).foldl (fun s n => s.queueGo n) s = s := by
    refine foldl_same _ _ _ fun n hn => ?_
    have hm : n ∈ s.slotsOf p := by
      unfold State.intakeOrder at hn
      obtain ⟨k, -, hk⟩ := List.mem_flatMap.mp hn
      exact (List.mem_filter.mp hk).1
    obtain ⟨-, -, -, -, e, f⟩ := h9 n hm
    exact queueGo_plain s n e f
  have e5 : s.netWake (p + 1) = s := by
    unfold State.netWake
    rw [h7]
    exact s.acksGo_rests (by rw [h7]; simp) h8
  unfold State.wake
  dsimp only
  rw [e1, e2, e3, s.pumpAll_rests _ h6]
  rw [e4, e4', e5, s.winAll_rests hw]

end Sys2Proof.Machine
end

