-- ==== Sys2Proof/WellFormed.lean ====
section
/-!
DEFINITION. Which commands can occur: every operand within what it names (carrels 4,096, slots 64, queues 64 and the management queue, partitions
8, wings 32, ports 32, queue pairs 4,096 ...; 00 R2, 04 R143, 05 R180, 10 R366), and byte strings of the lengths that the ports carry. A
command that is not well formed does not occur; what `exec` does with one is nothing the manual speaks of (log entry 14).
-/
namespace Sys2Proof

/-- Below a bound. -/
def lt (x n : Nat) : Bool := decide (x < n)

/-- A byte string of a length within bounds. -/
def len (b : Bytes) (lo hi : Nat) : Bool := decide (lo ≤ b.length) && decide (b.length ≤ hi)

def whoOk (w : Requester) : Bool :=
  match w with
  | .desk core => lt core 8
  | _ => true

/-- Fields of a message within the widths of R253. -/
def msgOk (m : Msg) : Bool :=
  lt m.src 0x90 && lt m.dst 0x90 && lt m.txn 256 && lt m.ca (2 ^ 47) && lt m.dies 512 && lt m.dataTo 0x90 && lt m.st 4 && lt m.wing 32
    && lt m.mask (2 ^ 64) && (decide (m.data.length = 0) || decide (m.data.length = 64))

def frameOk (f : EthFrame) : Bool := lt f.dmac (2 ^ 48) && lt f.carries 4 && lt f.dip (2 ^ 128) && lt f.prio 8

def pktOk (p : RocePkt) : Bool :=
  lt p.qp (2 ^ 24) && lt p.psn (2 ^ 24) && lt p.op 256 && lt p.va (2 ^ 64) && lt p.rkey (2 ^ 32) && lt p.len (2 ^ 32) && lt p.imm (2 ^ 32)
    && len p.data 0 4096 && lt p.ack 5

def peerOk (p : PloliPeer) : Bool :=
  lt p.member 8 && lt p.master 8 && lt p.count 9 && lt p.reach 256

def planOk (e : PlanEntry) : Bool := lt e.idx 256 && lt e.stamp (2 ^ 64) && lt e.spec (2 ^ 64) && lt e.period (2 ^ 32)

def reqOk (r : IlReq) : Bool := lt r.member 8 && lt r.tag (2 ^ 16) && lt r.window 512 && lt r.off (2 ^ 32) && lt r.len 65 && len r.data 0 64

def rspOk (r : IlRsp) : Bool := lt r.tag (2 ^ 16) && lt r.status 3 && len r.data 0 64

def sampleOk (x : PwrSample) : Bool := lt x.vin (2 ^ 16) && lt x.iin (2 ^ 16) && lt x.pin (2 ^ 16) && decide (x.wings.length ≤ 32)

def nvmOk (x : NvmContents) : Bool := (x.writes.all fun e => lt (e.1 + e.2.length) (2 ^ 27 + 1)) && (x.dir.all fun k => lt k 6) && decide (x.dir.length ≤ 4)

/-- A command whose operands are in range. -/
def wellFormed (i : Instr) : Bool :=
  match i with
  | .registerWrite who fn off data => whoOk who && lt fn (9) && lt off (2 ^ 20) && len data 1 64
  | .deskForbiddenAccess core fn off _ => lt core (8) && lt fn (9) && lt off (2 ^ 20)
  | .nop c => lt c (4096)
  | .halt c => lt c (4096)
  | .br c => lt c (4096)
  | .loop c => lt c (4096)
  | .barArriveWait c => lt c (4096)
  | .barArrive c => lt c (4096)
  | .barWait c => lt c (4096)
  | .waits c => lt c (4096)
  | .add c => lt c (4096)
  | .sub c => lt c (4096)
  | .mul c => lt c (4096)
  | .and c => lt c (4096)
  | .or c => lt c (4096)
  | .xor c => lt c (4096)
  | .shl c => lt c (4096)
  | .shr c => lt c (4096)
  | .sra c => lt c (4096)
  | .li c => lt c (4096)
  | .lui c => lt c (4096)
  | .cmp c => lt c (4096)
  | .sel c => lt c (4096)
  | .plog c => lt c (4096)
  | .ld c => lt c (4096)
  | .st c => lt c (4096)
  | .rdsr c => lt c (4096)
  | .wrsr c => lt c (4096)
  | .mld c => lt c (4096)
  | .mst c => lt c (4096)
  | .mld2 c => lt c (4096)
  | .mst2 c => lt c (4096)
  | .lcopy c => lt c (4096)
  | .pass c => lt c (4096)
  | .pwait c => lt c (4096)
  | .mwait c => lt c (4096)
  | .mtouch c => lt c (4096)
  | .vld c => lt c (4096)
  | .vst c => lt c (4096)
  | .vgather c => lt c (4096)
  | .tld c => lt c (4096)
  | .tst c => lt c (4096)
  | .vadd c => lt c (4096)
  | .vsub c => lt c (4096)
  | .vmul c => lt c (4096)
  | .vfma c => lt c (4096)
  | .vmax c => lt c (4096)
  | .vmin c => lt c (4096)
  | .vand c => lt c (4096)
  | .vor c => lt c (4096)
  | .vxor c => lt c (4096)
  | .vsh c => lt c (4096)
  | .vmov c => lt c (4096)
  | .vbcast c => lt c (4096)
  | .vext c => lt c (4096)
  | .vperm c => lt c (4096)
  | .vred c => lt c (4096)
  | .vcmp c => lt c (4096)
  | .vsel c => lt c (4096)
  | .vcvt c => lt c (4096)
  | .vact c => lt c (4096)
  | .vscale c => lt c (4096)
  | .mma c => lt c (4096)
  | .mmam c => lt c (4096)
  | .tzero c => lt c (4096)
  | .tcopy c => lt c (4096)
  | .tget c => lt c (4096)
  | .tput c => lt c (4096)
  | .illegalLine c => lt c (4096)
  | .fetchPastEnd c => lt c (4096)
  | .budgetOverrun c => lt c (4096)
  | .moverTagComplete c tag => lt c (4096) && lt tag (16)
  | .invocationDispatch slot => lt slot (64)
  | .waveStart rel wave => lt rel (2 ^ 16) && lt wave (16)
  | .invocationNormalEnd slot => lt slot (64)
  | .trbClear part mask => lt part (8) && lt mask (2 ^ 64)
  | .stampTick => true
  | .syncFrame v crc _ => lt v (2 ^ 64) && lt crc (2 ^ 16)
  | .syncFrameMissed => true
  | .referenceLoss => true
  | .groupSuspend => true
  | .stampNowLowRead => true
  | .dueDateFire idx => lt idx (256)
  | .ddCommit => true
  | .ddCancel => true
  | .ddRead => true
  | .hubBarrierArrival slot bar wing => lt slot (64) && lt bar (4) && lt wing (32)
  | .slotCfgWrite part slot v => lt part (8) && lt slot (64) && lt v (2 ^ 64)
  | .allotmentComplete slot => lt slot (64)
  | .slotEnd part slot => lt part (8) && lt slot (64)
  | .slotClrFlags part slot => lt part (8) && lt slot (64)
  | .slotEndingDrained slot => lt slot (64)
  | .hostSnpinv ca => lt ca (2 ^ 53)
  | .hostSnpdata ca => lt ca (2 ^ 53)
  | .hostSnpcur ca => lt ca (2 ^ 53)
  | .callSlipRereadData slot => lt slot (64)
  | .deliveryLineWrite slot => lt slot (64)
  | .csModeCoherent part slot => lt part (8) && lt slot (64)
  | .csModeSlipRegisters part slot => lt part (8) && lt slot (64)
  | .csModeOff part slot => lt part (8) && lt slot (64)
  | .csArmComplete slot => lt slot (64)
  | .csDisarmComplete slot => lt slot (64)
  | .dbSq part q v => lt part (9) && lt q (65) && lt v (2 ^ 32)
  | .dbCq part q v => lt part (9) && lt q (65) && lt v (2 ^ 32)
  | .descriptorFetch q data => lt q (65) && len data 0 128
  | .descriptorRefetch q data => lt q (65) && len data 0 128
  | .descriptorAccession q list => lt q (65) && len list 0 4096
  | .run q => lt q (64)
  | .install q image => lt q (64) && len image 0 (2 ^ 20)
  | .remove q => lt q (64)
  | .dueDate q => lt q (64)
  | .lend q => lt q (65)
  | .returnLent q => lt q (65)
  | .hold q => lt q (65)
  | .advise q => lt q (65)
  | .queueEnable part q v => lt part (9) && lt q (65) && lt v (2 ^ 64)
  | .queueDisable part q v => lt part (9) && lt q (65) && lt v (2 ^ 64)
  | .queueDrainComplete q => lt q (65)
  | .queueResume part q => lt part (9) && lt q (65)
  | .slipGo part => lt part (8)
  | .slipResultRead part => lt part (8)
  | .linkTraining modules repaired => lt modules (16) && lt repaired (16)
  | .linkTrainRetry modules repaired => lt modules (16) && lt repaired (16)
  | .linkRetrain => true
  | .linkWidthNarrow module => lt module (4)
  | .linkDown => true
  | .hotReset => true
  | .sidebandHostReset => true
  | .configurationRequest fn off _ be data => lt fn (9) && lt off (4096) && lt be (16) && lt data (2 ^ 32)
  | .busMasterDisable fn => lt fn (9)
  | .busMasterEnable fn => lt fn (9)
  | .cacheEnableClear => true
  | .cacheEnableSet => true
  | .d3hotEntry fn => lt fn (9)
  | .d0Return fn => lt fn (9)
  | .functionLevelReset fn => lt fn (9)
  | .flrComplete fn => lt fn (9)
  | .interruptDisableWrite _ => true
  | .msixPendingSend fn vec => lt fn (9) && lt vec (256)
  | .barAccessUnsupported fn bar off len _ => lt fn (9) && lt bar (6) && lt off (2 ^ 40) && lt len (4097)
  | .peerInboxWrite fn rid off data entry => lt fn (9) && lt rid (2 ^ 16) && lt off (2 ^ 21) && len data 1 4096 && len entry 0 16
  | .cageCtlWrite cage v => lt cage (12) && lt v (2 ^ 32)
  | .cageCmdDone cage => lt cage (12)
  | .cagePoll inputs => decide (inputs.length = 12) && inputs.all fun x => lt x 256
  | .completionTimeout tag => lt tag (2 ^ 16)
  | .lateCompletion tag => lt tag (2 ^ 16)
  | .orphanedCompletion fn tag => lt fn (9) && lt tag (2 ^ 16)
  | .tagQuarantineEnd tag => lt tag (2 ^ 16)
  | .hostReadCompletion tag data => lt tag (2 ^ 16) && len data 0 4096
  | .hostCacheResponse tag ca data => lt tag (2 ^ 16) && lt ca (2 ^ 53) && len data 0 64
  | .rdShared m => msgOk m
  | .rdOwn m => msgOk m
  | .rdOnce m => msgOk m
  | .wrNa m => msgOk m
  | .wrNaPart m => msgOk m
  | .wrThru m => msgOk m
  | .wrStash m => msgOk m
  | .wbDirty m => msgOk m
  | .evClean m => msgOk m
  | .snShare m => msgOk m
  | .snClean m => msgOk m
  | .snInv m => msgOk m
  | .snOnce m => msgOk m
  | .snBack m => msgOk m
  | .cmpS m => msgOk m
  | .cmpE m => msgOk m
  | .cmpM m => msgOk m
  | .cmpI m => msgOk m
  | .cmpW m => msgOk m
  | .nack m => msgOk m
  | .nackRes m => msgOk m
  | .go m => msgOk m
  | .requestResend agent txn => lt agent (0xC0) && lt txn (256)
  | .wbAck m => msgOk m
  | .cmpAck m => msgOk m
  | .rsI m => msgOk m
  | .rsS m => msgOk m
  | .rsFwd m => msgOk m
  | .rsErr m => msgOk m
  | .stashRefuse m => msgOk m
  | .datMem m => msgOk m
  | .datFwd m => msgOk m
  | .datHome m => msgOk m
  | .datStash m => msgOk m
  | .reservedOpcodeMessage agent opcode ca => lt agent (128) && lt opcode (256) && lt ca (2 ^ 53)
  | .memoryReadReturn dpa reader err => lt dpa (2 ^ 46) && lt reader (6) && lt err (3)
  | .wingCacheDisable w => lt w (32)
  | .wingCacheEnable w => lt w (32)
  | .wingCacheWalkEnd w => lt w (32)
  | .wcbFlush ctrl line => lt ctrl (12) && lt line (2 ^ 47)
  | .reserveDisable => true
  | .reserveWalkEnd => true
  | .reserveFlush => true
  | .regulatorRefill => true
  | .scrubStep errKind => lt errKind (3)
  | .mapoutGo v => lt v (2 ^ 64)
  | .mapoutStart => true
  | .mapoutRoomReady => true
  | .mapoutClearingDone => true
  | .mapoutEvacuationDone => true
  | .atsTranslationCompletion fn pasid va size pa _ _ => lt fn (9) && lt pasid (2 ^ 20) && lt va (2 ^ 64) && lt size (65) && lt pa (2 ^ 64)
  | .prgResponse fn prg code => lt fn (9) && lt prg (512) && lt code (16)
  | .priControlReset fn => lt fn (9)
  | .atsInvalidateRequest fn itag _ pasid va size => lt fn (9) && lt itag (32) && lt pasid (2 ^ 20) && lt va (2 ^ 64) && lt size (2 ^ 64 + 1)
  | .invalidateCompletion fn id => lt fn (9) && lt id (32)
  | .granuleCopyDone q pasid va data => lt q (65) && lt pasid (2 ^ 20) && lt va (2 ^ 64) && len data 0 2097152
  | .flogEnable part v => lt part (8) && lt v (2 ^ 32)
  | .flogHeadWrite part v => lt part (8) && lt v (2 ^ 32)
  | .probeStart part v => lt part (8) && lt v (2 ^ 64)
  | .probeDone part => lt part (8)
  | .ethFrameReceive port frame => lt port (32) && frameOk frame
  | .pfcFrameReceive port prio _ => lt port (32) && lt prio (8)
  | .roceSendReceive port pkt rq => lt port (32) && pktOk pkt && len rq 0 64
  | .roceRdmaWriteReceive port pkt rq => lt port (32) && pktOk pkt && len rq 0 64
  | .roceRdmaReadRequest port pkt host => lt port (32) && pktOk pkt && len host 0 (2 ^ 31)
  | .roceReadResponseReceive port pkt => lt port (32) && pktOk pkt
  | .roceAckReceive port pkt => lt port (32) && pktOk pkt
  | .roceCnpReceive qp => lt qp (4096)
  | .ccRecover qp => lt qp (4096)
  | .roceRetransmitTimeout qp => lt qp (4096)
  | .roceRnrRetry qp => lt qp (4096)
  | .qpDoorbellReread qp => lt qp (4096)
  | .sendWqeFetch qp data payload => lt qp (4096) && len data 0 64 && len payload 0 (2 ^ 31)
  | .ethPortDown port => lt port (32)
  | .qpWrite => true
  | .qpReset => true
  | .qpRead => true
  | .mrWrite => true
  | .mrInvalidate => true
  | .mrRead => true
  | .ploliLinkTrain link peer => lt link (4) && peerOk peer
  | .ploliRetrain link => lt link (4)
  | .ploliLinkDown link => lt link (4)
  | .memberLost member => lt member (8)
  | .planEntryReceive entry => planOk entry
  | .groupArrivalReceive member slot bar => lt member (8) && lt slot (64) && lt bar (4)
  | .groupReleaseReceive slot bar trel => lt slot (64) && lt bar (4) && lt trel (2 ^ 64)
  | .interloanWriteReceive req => reqOk req
  | .interloanReadRequest req => reqOk req
  | .interloanResponseReceive rsp => rspOk rsp
  | .interloanTimeout tag => lt tag (2 ^ 16)
  | .exchangeWindowClose link => lt link (4)
  | .ilBind => true
  | .ilUnbind => true
  | .ilRead => true
  | .winSync win => lt win (512)
  | .winCfgWrite win v => lt win (512) && lt v (2 ^ 64)
  | .powerSample sample => sampleOk sample
  | .bubbleDensityApply wing => lt wing (32)
  | .capInFall => true
  | .capInRise => true
  | .opPolicyPeriod => true
  | .opStepComplete => true
  | .droopDetect wing => lt wing (32)
  | .droopDecay wing => lt wing (32)
  | .thermalCompare temps => decide (temps.length = 56) && temps.all fun x => lt x (2 ^ 16)
  | .thermalTrip sensor => lt sensor (56)
  | .vin44Undervoltage => true
  | .vin44Overvoltage => true
  | .vin44Loss => true
  | .vin44PowerUp => true
  | .hardwareErrorEvent src info0 => lt src (2 ^ 16) && lt info0 (2 ^ 64)
  | .archivistTrap => true
  | .wingResetEnd wing => lt wing (32)
  | .chipResetTimer => true
  | .errorPinPulseEnd => true
  | .errorPinHold => true
  | .errPinClear => true
  | .colForce col v => lt col (70) && lt v (2 ^ 32)
  | .colHistClear col => lt col (70)
  | .archivistWatchdogExpire => true
  | .substitutionCommit wing => lt wing (32)
  | .repairComplete slot => lt slot (64)
  | .managementReset cause => lt cause (3)
  | .deskRestartComplete => true
  | .coldResetAssert => true
  | .coldResetRelease nvm => nvmOk nvm
  | .accessionComplete => true
  | .calibrationComplete fails => fails.all fun x => lt x (2 ^ 20)
  | .wipeComplete => true
  | .deskStartComplete => true
  | .recoveryRestart _ => true
  | .deviceReset v => lt v (2 ^ 32)
  | .managementResetRequest v => lt v (2 ^ 32)
  | .testReq => true
  | .shutdown => true
  | .lcRequest v => lt v (2 ^ 32)
  | .lifecycleWipeComplete => true
  | .updBegin => true
  | .updChunk => true
  | .updChunkWritten => true
  | .updFinish => true
  | .updActivate => true
  | .updAbort => true
  | .trialConfirm => true
  | .trialTimeout => true
  | .libraryBlockRequest block addr => lt block (2 ^ 16) && lt addr (2 ^ 64)
  | .ledgerPeriodic => true
  | .ledgerCalendar => true
  | .ledgerRead => true
  | .ledgerReadDone => true
  | .serdesRefclkLoss => true
  | .serdesRefclkReturn => true
  | .i3cAddressAssign addr => lt addr (128)
  | .i3cPrivateWrite data => len data 1 256
  | .i3cPrivateRead len => lt len (2 ^ 16)
  | .i3cDisec mask => lt mask (256)
  | .tapInstructionLoad code => lt code (256)
  | .tapReset => true
  | .dstampReferenceReturn => true
  | .ethPortUp port => lt port (32)
  | .groupParticipationReport member slot bar _ => lt member (8) && lt slot (64) && lt bar (4)
  | .workRequestRefetch qp data payload => lt qp (4096) && len data 0 64 && len payload 0 (2 ^ 31)
  | .ledgerCalendarDone => true
  | .shutdownRecordCommitted => true

end Sys2Proof
end

