-- ==== Sys2Proof/Tests/Slice0.lean ====
section
/-!
SUPPORT. Tests: for each check of WellFormed a command that it refuses; for each statement a state and operands that meet its hypotheses, clause by
clause and at the ends of their ranges; the worked examples of the manual.
-/
namespace Sys2Proof.Tests

open Sys2Proof.Machine

set_option Elab.async false

/-! ### Ill-formed commands: for each check a term that it refuses -/

/-- The rows of one carrel. -/
theorem test_ill_carrel1 : (([
    .nop, .halt, .br, .loop, .barArriveWait, .barArrive, .barWait, .waits, .add, .sub, .mul, .and, .or, .xor, .shl, .shr, .sra, .li,
    .lui, .cmp, .sel, .plog, .ld,
    .st] : List (Nat → Instr)).all fun f => !wellFormed (f 4096) && wellFormed (f 4095)) = true := by decide +kernel

theorem test_ill_carrel2 : (([
    .rdsr, .wrsr, .mld, .mst, .mld2, .mst2, .lcopy, .pass, .pwait, .mwait, .mtouch, .vld, .vst, .vgather, .tld, .tst, .vadd, .vsub,
    .vmul, .vfma, .vmax, .vmin, .vand,
    .vor] : List (Nat → Instr)).all fun f => !wellFormed (f 4096) && wellFormed (f 4095)) = true := by decide +kernel

theorem test_ill_carrel3 : (([
    .vxor, .vsh, .vmov, .vbcast, .vext, .vperm, .vred, .vcmp, .vsel, .vcvt, .vact, .vscale, .mma, .mmam, .tzero, .tcopy, .tget, .tput,
    .illegalLine, .fetchPastEnd,
    .budgetOverrun] : List (Nat → Instr)).all fun f => !wellFormed (f 4096) && wellFormed (f 4095)) = true := by decide +kernel

/-- The rows of one number, with its bound. -/
theorem test_ill_one1 : (([
    (.invocationDispatch, 64), (.invocationNormalEnd, 64), (.dueDateFire, 256), (.allotmentComplete, 64), (.slotEndingDrained, 64),
    (.hostSnpinv, 2 ^ 53), (.hostSnpdata, 2 ^ 53), (.hostSnpcur, 2 ^ 53), (.callSlipRereadData, 64), (.deliveryLineWrite, 64),
    (.csArmComplete, 64), (.csDisarmComplete, 64), (.run, 64), (.remove, 64), (.dueDate, 64), (.lend, 65), (.returnLent, 65),
    (.hold, 65), (.advise, 65), (.queueDrainComplete, 65), (.slipGo, 8), (.slipResultRead, 8), (.linkWidthNarrow, 4),
    (.busMasterDisable, 9)] : List ((Nat → Instr) × Nat)).all fun e => !wellFormed (e.1 e.2) && wellFormed (e.1 (e.2 - 1))) = true := by decide +kernel

theorem test_ill_one2 : (([
    (.busMasterEnable, 9), (.d3hotEntry, 9), (.d0Return, 9), (.functionLevelReset, 9), (.flrComplete, 9), (.cageCmdDone, 12),
    (.completionTimeout, 2 ^ 16), (.lateCompletion, 2 ^ 16), (.tagQuarantineEnd, 2 ^ 16), (.wingCacheDisable, 32),
    (.wingCacheEnable, 32), (.wingCacheWalkEnd, 32), (.scrubStep, 3), (.mapoutGo, 2 ^ 64), (.priControlReset, 9), (.probeDone, 8),
    (.roceCnpReceive, 4096), (.ccRecover, 4096), (.roceRetransmitTimeout, 4096), (.roceRnrRetry, 4096), (.qpDoorbellReread, 4096),
    (.ethPortDown, 32), (.ploliRetrain, 4),
    (.ploliLinkDown, 4)] : List ((Nat → Instr) × Nat)).all fun e => !wellFormed (e.1 e.2) && wellFormed (e.1 (e.2 - 1))) = true := by decide +kernel

theorem test_ill_one3 : (([
    (.memberLost, 8), (.interloanTimeout, 2 ^ 16), (.exchangeWindowClose, 4), (.winSync, 512), (.bubbleDensityApply, 32),
    (.droopDetect, 32), (.droopDecay, 32), (.thermalTrip, 56), (.wingResetEnd, 32), (.colHistClear, 70), (.substitutionCommit, 32),
    (.repairComplete, 64), (.managementReset, 3), (.deviceReset, 2 ^ 32), (.managementResetRequest, 2 ^ 32), (.lcRequest, 2 ^ 32),
    (.i3cAddressAssign, 128), (.i3cPrivateRead, 2 ^ 16), (.i3cDisec, 256), (.tapInstructionLoad, 256),
    (.ethPortUp, 32)] : List ((Nat → Instr) × Nat)).all fun e => !wellFormed (e.1 e.2) && wellFormed (e.1 (e.2 - 1))) = true := by decide +kernel

/-- The rows of two numbers, with their bounds. -/
theorem test_ill_two : (([
    (.moverTagComplete, 4096, 16), (.waveStart, 2 ^ 16, 16), (.trbClear, 8, 2 ^ 64), (.slotEnd, 8, 64), (.slotClrFlags, 8, 64),
    (.csModeCoherent, 8, 64), (.csModeSlipRegisters, 8, 64), (.csModeOff, 8, 64), (.queueResume, 9, 65), (.linkTraining, 16, 16),
    (.linkTrainRetry, 16, 16), (.msixPendingSend, 9, 256), (.cageCtlWrite, 12, 2 ^ 32), (.orphanedCompletion, 9, 2 ^ 16),
    (.requestResend, 0xC0, 256), (.wcbFlush, 12, 2 ^ 47), (.invalidateCompletion, 9, 32), (.flogEnable, 8, 2 ^ 32),
    (.flogHeadWrite, 8, 2 ^ 32), (.probeStart, 8, 2 ^ 64), (.winCfgWrite, 512, 2 ^ 64), (.hardwareErrorEvent, 2 ^ 16, 2 ^ 64),
    (.colForce, 70, 2 ^ 32),
    (.libraryBlockRequest, 2 ^ 16, 2 ^ 64)] : List ((Nat → Nat → Instr) × Nat × Nat)).all fun e => !wellFormed (e.1 e.2.1 0) && !wellFormed (e.1 0 e.2.2) && wellFormed (e.1 (e.2.1 - 1) (e.2.2 - 1))) = true := by decide +kernel

theorem test_ill_three : (([
    (.hubBarrierArrival, 64, 4, 32), (.slotCfgWrite, 8, 64, 2 ^ 64), (.dbSq, 9, 65, 2 ^ 32), (.dbCq, 9, 65, 2 ^ 32),
    (.queueEnable, 9, 65, 2 ^ 64), (.queueDisable, 9, 65, 2 ^ 64), (.reservedOpcodeMessage, 128, 256, 2 ^ 53),
    (.memoryReadReturn, 2 ^ 46, 6, 3), (.prgResponse, 9, 512, 16), (.groupArrivalReceive, 8, 64, 4),
    (.groupReleaseReceive, 64, 4, 2 ^ 64)] : List ((Nat → Nat → Nat → Instr) × Nat × Nat × Nat)).all fun e => !wellFormed (e.1 e.2.1 0 0) && !wellFormed (e.1 0 e.2.2.1 0) && !wellFormed (e.1 0 0 e.2.2.2) &&
      wellFormed (e.1 (e.2.1 - 1) (e.2.2.1 - 1) (e.2.2.2 - 1))) = true := by decide +kernel

def goodMsg : Msg := { opc := 1, src := 0x8F, dst := 0x40, ca := 2 ^ 47 - 1, data := zeros 64 }

/-- A message with one field out of range, for each check. -/
def badMsgs : List Msg :=
  [{ goodMsg with src := 0x90 },
   { goodMsg with dst := 0x90 },
   { goodMsg with txn := 256 },
   { goodMsg with ca := 2 ^ 47 },
   { goodMsg with dies := 512 },
   { goodMsg with dataTo := 0x90 },
   { goodMsg with st := 4 },
   { goodMsg with wing := 32 },
   { goodMsg with mask := 2 ^ 64 },
   { goodMsg with data := zeros 63 }]

theorem test_ill_messages1 : (([
    .rdShared, .rdOwn, .rdOnce, .wrNa, .wrNaPart, .wrThru, .wrStash, .wbDirty, .evClean, .snShare, .snClean, .snInv, .snOnce, .snBack,
    .cmpS, .cmpE, .cmpM, .cmpI, .cmpW, .nack, .nackRes, .go, .wbAck,
    .cmpAck] : List (Msg → Instr)).all fun f => wellFormed (f goodMsg) && badMsgs.all fun m => !wellFormed (f m)) = true := by decide +kernel

theorem test_ill_messages2 : (([
    .rsI, .rsS, .rsFwd, .rsErr, .stashRefuse, .datMem, .datFwd, .datHome,
    .datStash] : List (Msg → Instr)).all fun f => wellFormed (f goodMsg) && badMsgs.all fun m => !wellFormed (f m)) = true := by decide +kernel

def goodPkt : RocePkt := { qp := 0, psn := 0, op := 0 }

def goodReq : IlReq := { member := 7, tag := 0, window := 511, off := 0 }

def goodSample : PwrSample := { vin := 4800, iin := 100, pin := 4800 }

theorem test_well_formed1 : (([
    .registerWrite (.desk 7) 8 0xFFFFF [0], .deskForbiddenAccess 7 8 0xFFFFF true, .syncFrame 0 0xFFFF true,
    .descriptorFetch 64 (zeros 128), .descriptorRefetch 64 (zeros 128), .configurationRequest 8 4095 true 15 0,
    .barAccessUnsupported 8 5 0 4096 false, .peerInboxWrite 8 0xFFFF 0 [0] [], .cagePoll (List.replicate 12 255),
    .hostCacheResponse (2 ^ 16 - 1) 0 (zeros 64), .atsTranslationCompletion 8 0 0 64 0 true true, .atsInvalidateRequest 8 31 false 0 0 (2 ^ 64),
    .granuleCopyDone 64 0 0 [], .ethFrameReceive 31 {}, .pfcFrameReceive 31 7 true, .roceSendReceive 31 goodPkt (zeros 64),
    .roceRdmaWriteReceive 31 goodPkt [], .roceRdmaReadRequest 31 goodPkt [], .roceReadResponseReceive 31 goodPkt,
    .roceAckReceive 31 goodPkt, .sendWqeFetch 4095 (zeros 64) [], .workRequestRefetch 4095 [] [], .ploliLinkTrain 3 {},
    .planEntryReceive { idx := 255, commit := true }] : List (Instr)).all wellFormed) = true := by decide +kernel

theorem test_well_formed2 : (([
    .interloanWriteReceive goodReq, .interloanReadRequest goodReq, .interloanResponseReceive { tag := 0, status := 2 },
    .powerSample goodSample, .thermalCompare (List.replicate 56 0), .coldResetRelease { writes := [(2 ^ 27, [])], dir := [5, 0, 0, 0] },
    .calibrationComplete [0], .i3cPrivateWrite (zeros 256), .groupParticipationReport 7 63 3 true, .descriptorAccession 64 [],
    .install 63 [], .hostReadCompletion 0xFFFF []] : List (Instr)).all wellFormed) = true := by decide +kernel

theorem test_ill_formed1 : (([
    .registerWrite (.desk 8) 0 0 [0], .registerWrite .host 9 0 [0], .registerWrite .host 0 (2 ^ 20) [0], .registerWrite .host 0 0 [],
    .registerWrite .host 0 0 (zeros 65), .deskForbiddenAccess 8 0 0 true, .deskForbiddenAccess 0 9 0 true,
    .deskForbiddenAccess 0 0 (2 ^ 20) true, .syncFrame (2 ^ 64) 0 true, .syncFrame 0 (2 ^ 16) true, .descriptorFetch 65 [],
    .descriptorFetch 0 (zeros 129), .descriptorRefetch 65 [], .descriptorRefetch 0 (zeros 129), .descriptorAccession 65 [],
    .install 64 [], .configurationRequest 9 0 true 0 0, .configurationRequest 0 4096 true 0 0, .configurationRequest 0 0 true 16 0,
    .configurationRequest 0 0 true 0 (2 ^ 32), .barAccessUnsupported 9 0 0 0 true, .barAccessUnsupported 0 6 0 0 true,
    .barAccessUnsupported 0 0 (2 ^ 40) 0 true,
    .barAccessUnsupported 0 0 0 4097 true] : List (Instr)).all fun i => !wellFormed i) = true := by decide +kernel

theorem test_ill_formed2 : (([
    .peerInboxWrite 9 0 0 [0] [], .peerInboxWrite 0 (2 ^ 16) 0 [0] [], .peerInboxWrite 0 0 (2 ^ 21) [0] [], .peerInboxWrite 0 0 0 [] [],
    .peerInboxWrite 0 0 0 [0] (zeros 17), .cagePoll (List.replicate 11 0), .cagePoll (List.replicate 12 256),
    .hostReadCompletion (2 ^ 16) [], .hostCacheResponse 0 (2 ^ 53) [], .hostCacheResponse 0 0 (zeros 65), .hostCacheResponse (2 ^ 16) 0 [],
    .atsTranslationCompletion 9 0 0 0 0 true true, .atsTranslationCompletion 0 (2 ^ 20) 0 0 0 true true,
    .atsTranslationCompletion 0 0 (2 ^ 64) 0 0 true true, .atsTranslationCompletion 0 0 0 65 0 true true,
    .atsTranslationCompletion 0 0 0 0 (2 ^ 64) true true, .atsInvalidateRequest 9 0 true 0 0 0, .atsInvalidateRequest 0 32 true 0 0 0,
    .atsInvalidateRequest 0 0 true (2 ^ 20) 0 0, .atsInvalidateRequest 0 0 true 0 (2 ^ 64) 0,
    .atsInvalidateRequest 0 0 true 0 0 (2 ^ 64 + 1), .granuleCopyDone 65 0 0 [], .granuleCopyDone 0 (2 ^ 20) 0 [], .granuleCopyDone 0 0 (2 ^ 64) [],
    .ethFrameReceive 32 {}] : List (Instr)).all fun i => !wellFormed i) = true := by decide +kernel

theorem test_ill_formed3 : (([
    .ethFrameReceive 0 { dmac := 2 ^ 48 }, .ethFrameReceive 0 { carries := 4 }, .ethFrameReceive 0 { dip := 2 ^ 128 },
    .ethFrameReceive 0 { prio := 8 }, .pfcFrameReceive 32 0 true, .pfcFrameReceive 0 8 true,
    .roceSendReceive 0 { goodPkt with qp := 2 ^ 24 } [], .roceSendReceive 0 { goodPkt with psn := 2 ^ 24 } [],
    .roceSendReceive 0 { goodPkt with op := 256 } [], .roceSendReceive 0 { goodPkt with va := 2 ^ 64 } [],
    .roceSendReceive 0 { goodPkt with rkey := 2 ^ 32 } [], .roceSendReceive 0 { goodPkt with len := 2 ^ 32 } [],
    .roceSendReceive 0 { goodPkt with imm := 2 ^ 32 } [], .roceSendReceive 0 { goodPkt with ack := 5 } [],
    .roceSendReceive 32 goodPkt [], .roceSendReceive 0 goodPkt (zeros 65), .roceRdmaWriteReceive 32 goodPkt [],
    .roceRdmaWriteReceive 0 goodPkt (zeros 65), .roceRdmaWriteReceive 0 { goodPkt with op := 256 } [],
    .roceRdmaReadRequest 32 goodPkt [], .roceRdmaReadRequest 0 { goodPkt with op := 256 } [], .roceReadResponseReceive 32 goodPkt,
    .roceReadResponseReceive 0 { goodPkt with op := 256 },
    .roceAckReceive 32 goodPkt] : List (Instr)).all fun i => !wellFormed i) = true := by decide +kernel

theorem test_ill_formed4 : (([
    .roceAckReceive 0 { goodPkt with op := 256 }, .sendWqeFetch 4096 [] [], .sendWqeFetch 0 (zeros 65) [],
    .workRequestRefetch 4096 [] [], .workRequestRefetch 0 (zeros 65) [], .ploliLinkTrain 4 {}, .ploliLinkTrain 0 { member := 8 },
    .ploliLinkTrain 0 { master := 8 }, .ploliLinkTrain 0 { count := 9 }, .ploliLinkTrain 0 { reach := 256 },
    .planEntryReceive { idx := 256, commit := true }, .planEntryReceive { idx := 0, commit := true, stamp := 2 ^ 64 },
    .planEntryReceive { idx := 0, commit := true, spec := 2 ^ 64 }, .planEntryReceive { idx := 0, commit := true, period := 2 ^ 32 },
    .interloanWriteReceive { goodReq with member := 8 }, .interloanWriteReceive { goodReq with tag := 2 ^ 16 },
    .interloanWriteReceive { goodReq with window := 512 }, .interloanWriteReceive { goodReq with off := 2 ^ 32 },
    .interloanWriteReceive { goodReq with len := 65 }, .interloanWriteReceive { goodReq with data := zeros 65 },
    .interloanReadRequest { goodReq with member := 8 }, .interloanReadRequest { goodReq with tag := 2 ^ 16 },
    .interloanReadRequest { goodReq with window := 512 },
    .interloanReadRequest { goodReq with off := 2 ^ 32 }] : List (Instr)).all fun i => !wellFormed i) = true := by decide +kernel

theorem test_ill_formed5 : (([
    .interloanReadRequest { goodReq with len := 65 }, .interloanReadRequest { goodReq with data := zeros 65 },
    .interloanResponseReceive { tag := 2 ^ 16 }, .interloanResponseReceive { tag := 0, status := 3 },
    .interloanResponseReceive { tag := 0, data := zeros 65 }, .powerSample { goodSample with vin := 2 ^ 16 },
    .powerSample { goodSample with iin := 2 ^ 16 }, .powerSample { goodSample with pin := 2 ^ 16 },
    .powerSample { goodSample with wings := List.replicate 33 0 }, .thermalCompare [], .thermalCompare (List.replicate 56 (2 ^ 16)),
    .coldResetRelease { writes := [(2 ^ 27, [0])] }, .coldResetRelease { dir := [6] }, .coldResetRelease { dir := [0, 0, 0, 0, 0] },
    .calibrationComplete [2 ^ 20], .i3cPrivateWrite [], .i3cPrivateWrite (zeros 257), .groupParticipationReport 8 0 0 true,
    .groupParticipationReport 0 64 0 true,
    .groupParticipationReport 0 0 4 true] : List (Instr)).all fun i => !wellFormed i) = true := by decide +kernel

/-- The checks of long byte strings. -/
theorem test_ill_long (b : Bytes) (h : 2 ^ 31 < b.length) :
    wellFormed (.install 0 b) = false ∧ wellFormed (.descriptorAccession 0 b) = false ∧ wellFormed (.hostReadCompletion 0 b) = false
      ∧ wellFormed (.granuleCopyDone 0 0 0 b) = false ∧ wellFormed (.peerInboxWrite 0 0 0 b []) = false
      ∧ wellFormed (.sendWqeFetch 0 [] b) = false ∧ wellFormed (.workRequestRefetch 0 [] b) = false
      ∧ wellFormed (.roceRdmaReadRequest 0 goodPkt b) = false ∧ wellFormed (.roceSendReceive 0 { goodPkt with data := b } []) = false := by
  simp [wellFormed, len, pktOk]
  omega

/-! ### Small states -/

/-- One partition with every slot; functions 0 and 1 open; SERVICE. -/
def dev : State :=
  (({ ({} : State) with arec := { parts := [{}] }, fns := [(0, { mse := true, bme := true }), (1, { mse := true, bme := true, pasidEn := true, atsEn := true })],
                        link := { up := true, modules := [0, 1, 2, 3] } } : State).p DEV_STATUS.STATE 0 4)

/-- A folio of two lines at address 0. -/
def fo : Folio :=
  { load := 0, lines := 2, dataAddr := 0, dataSize := 0, dataPinned := false, entries := [⟨0, true, true, 0, 0⟩], handles := [], lineBytes := [], dataBytes := [] }

/-- Where carrel 0 stands in `run4`. -/
def k0 : Ctx := ⟨0, 0, 0, 0, ⟨.slip 1 true, 0, 0, 0⟩, fo⟩

/-- Slot 0 runs on shelf 0; carrel 0, with the registers of `x`, has the line of the four words `a`, `b`, `c`, `d` next. -/
def run4 (x : Carrel) (a b c d : Nat) : State :=
  { dev.p SLOT_STATUS.STATE 0 3 with
    slots := [(0, { allot := [0], folios := [fo], inv := some k0.inv, handles := [(0, some { base := 0, len := 4096, r := true, w := true })] })]
    car := [(0, { x with run := .active })]
    store := [(0, Memory.write [] 0 (natLe 8 a ++ natLe 8 b ++ natLe 8 c ++ natLe 8 d))] }

/-- Words of the four ports: opcode and the fields used (02 R54). -/
def ctlW (op d a b : Nat) (imm : Nat := 0) (i fn : Nat := 0) : Nat := op * 2 ^ 56 + d * 2 ^ 47 + a * 2 ^ 42 + b * 2 ^ 37 + i * 2 ^ 36 + fn * 2 ^ 32 + imm
def movW (op l o n h t : Nat) (rest : Nat := 0) : Nat := op * 2 ^ 56 + l * 2 ^ 47 + o * 2 ^ 42 + n * 2 ^ 37 + h * 2 ^ 31 + t * 2 ^ 27 + rest
def vecW (op d a b c ty : Nat) (sx fn : Nat := 0) : Nat := op * 2 ^ 56 + d * 2 ^ 47 + a * 2 ^ 42 + b * 2 ^ 37 + c * 2 ^ 32 + ty * 2 ^ 29 + sx * 2 ^ 24 + fn * 2 ^ 16

/-- Registers of the witnesses: S1 = 0x1000, S2 = 0x2000, S3 = 64. -/
def xr : Carrel := { sreg := [(1, 0x1000), (2, 0x2000), (3, 64)] }

theorem witness_StepRunsTheFrontCommand : ({ dev with pending := [.stampTick] } : State).pending = .stampTick :: [] := rfl

theorem witness_IdleStepCountsCycles : dev.pending = [] ∧ dev.Powered ∧ ¬ State.reset.Powered := by
  unfold State.Powered; decide +kernel

theorem witness_CommandsLeaveTheInputs : ∃ t, exec .stampTick dev = .next t := ⟨_, rfl⟩

theorem witness_NothingHappensWithoutSupply : actsUnpowered .stampTick = false ∧ ¬ State.reset.Powered := by
  unfold State.Powered; decide +kernel

theorem witness_ColdHoldsNoVolatileState : State.reset.ColdOk ∧ ∃ t, step State.reset = .next t := by
  refine ⟨?_, _, rfl⟩
  unfold State.ColdOk; decide +kernel

theorem witness_EveryStepSettles : dev.Settled ∧ ∃ t, step dev = .next t := by
  refine ⟨?_, _, rfl⟩
  unfold State.Settled State.Quiet; decide +kernel

/-- A line of an ADD, a VADD and two NOPs. -/
def addW : Nat := ctlW 0x06 4 1 2
def vaddW : Nat := vecW 0x80 1 2 3 0 1
theorem witness_LineFrame : (run4 xr addW 0 vaddW 0).Powered ∧
    (run4 xr addW 0 vaddW 0).Issues 0 k0 ⟨.op .ADD addW, .nop, .op .VADD vaddW, .nop⟩ := by
  unfold State.Powered State.Issues; decide +kernel

theorem witness_NopLine : (run4 xr 0 0 0 0).Powered ∧ (run4 xr 0 0 0 0).Quiet ∧ (run4 xr 0 0 0 0).Issues 0 k0 ⟨.nop, .nop, .nop, .nop⟩ := by
  unfold State.Powered State.Quiet State.Issues; decide +kernel

theorem witness_ControlArithmetic : (run4 xr addW 0 0 0).Powered ∧ (run4 xr addW 0 0 0).Issues 0 k0 ⟨.op .ADD addW, .nop, .nop, .nop⟩ ∧
    acts ((run4 xr addW 0 0 0).carrel 0) addW = true ∧ aluResult .ADD ((run4 xr addW 0 0 0).carrel 0) addW = some 0x3000 := by
  unfold State.Powered State.Issues; decide +kernel

/-- CMP and the mask form of PLOG. -/
def cmpW : Nat := ctlW 0x11 1 1 2 0 0 4
def plogW : Nat := ctlW 0x13 2 0 0 (63 * 256) 0 4
theorem witness_ControlPredicates : (run4 xr cmpW 0 0 0).Powered ∧
    (run4 xr cmpW 0 0 0).Issues 0 k0 ⟨.op .CMP cmpW, .nop, .nop, .nop⟩ ∧ (run4 xr plogW 0 0 0).Issues 0 k0 ⟨.op .PLOG plogW, .nop, .nop, .nop⟩ ∧
    acts ((run4 xr cmpW 0 0 0).carrel 0) cmpW = true ∧ predResult .CMP ((run4 xr cmpW 0 0 0).carrel 0) cmpW = some (BitVec.allOnes 64) ∧
    predResult .PLOG ((run4 xr plogW 0 0 0).carrel 0) plogW = some (BitVec.allOnes 64) := by
  unfold State.Powered State.Issues; decide +kernel

/-- RDSR of ALLOT_SIZE (3) and of NEIGHBOURS (0x10); WRSR of SEED. -/
theorem witness_SpecialRegisters : ∀ w ∈ [(Op.RDSR, ctlW 0x16 5 0 0 3), (Op.RDSR, ctlW 0x16 5 0 0 0x10), (Op.WRSR, ctlW 0x17 0 1 0 7)],
    (run4 xr w.2 0 0 0).Powered ∧ (run4 xr w.2 0 0 0).Issues 0 k0 ⟨.op w.1 w.2, .nop, .nop, .nop⟩ ∧ acts ((run4 xr w.2 0 0 0).carrel 0) w.2 = true := by
  simp only [State.Powered, State.Issues]; decide +kernel

theorem witness_LocalLoadStore : ∀ w ∈ [(Op.LD, ctlW 0x14 5 1 0 8), (Op.ST, ctlW 0x15 0 1 3 0xFFFFFFF8)],
    (run4 xr w.2 0 0 0).Powered ∧ (run4 xr w.2 0 0 0).Issues 0 k0 ⟨.op w.1 w.2, .nop, .nop, .nop⟩ ∧ acts ((run4 xr w.2 0 0 0).carrel 0) w.2 = true := by
  simp only [State.Powered, State.Issues]; decide +kernel

/-- BR, LOOP, HALT, the three BARs, WAITS; PWAIT, MWAIT. -/
theorem witness_ControlFlow :
    (∀ w ∈ [(Op.BR, ctlW 0x02 0 0 0 1), (Op.LOOP, ctlW 0x03 3 0 0 1), (Op.HALT, ctlW 0x01 0 0 0), (Op.BAR, ctlW 0x04 0 0 0 0 0 0), (Op.BAR, ctlW 0x04 0 0 0 0 0 13),
        (Op.BAR, ctlW 0x04 0 0 0 0 0 2), (Op.WAITS, ctlW 0x05 0 0 0)],
      (run4 xr w.2 0 0 0).Powered ∧ (run4 xr w.2 0 0 0).Issues 0 k0 ⟨.op w.1 w.2, .nop, .nop, .nop⟩ ∧ acts ((run4 xr w.2 0 0 0).carrel 0) w.2 = true) ∧
    (∀ w ∈ [(Op.PWAIT, movW 0x46 0 0 0 0 0), (Op.MWAIT, movW 0x47 0 0 0 0 3), (Op.MWAIT, movW 0x47 0 0 0 0 0 (2 ^ 19))],
      (run4 xr 0 w.2 0 0).Powered ∧ (run4 xr 0 w.2 0 0).Issues 0 k0 ⟨.nop, .op w.1 w.2, .nop, .nop⟩ ∧ acts ((run4 xr 0 w.2 0 0).carrel 0) w.2 = true) := by
  simp only [State.Powered, State.Issues]; decide +kernel

/-- An MWAIT for a tag that is outstanding. -/
theorem witness_StalledLineWaits :
    let x : Carrel := { xr with xfers := [{ tag := 3, kind := .mtouch, wait := [(0, { loc := 0, off := 0, len := 64 })] }] }
    let w := movW 0x47 0 0 0 0 3
    let s := run4 x 0 w 0 0
    s.Powered ∧ s.ctx 0 = some k0 ∧ s.mayIssue k0 = true ∧ s.overBudget k0 = false ∧ (s.carrel 0).lp < k0.fo.lines ∧
      s.lineAt k0 = ⟨.nop, .op .MWAIT w, .nop, .nop⟩ ∧ Line.anyIll ⟨.nop, .op .MWAIT w, .nop, .nop⟩ = false ∧
      Line.doubleWrite ⟨.nop, .op .MWAIT w, .nop, .nop⟩ = false ∧ s.lineStall k0 ⟨.nop, .op .MWAIT w, .nop, .nop⟩ = true := by
  unfold State.Powered; decide +kernel

/-- The mover operations: of 64 bytes through handle 0, of no bytes, of two rows of 64 bytes (S4, S5); LCOPY; PASS to the east. -/
def xm : Carrel := { sreg := [(1, 0x1000), (2, 0x0), (3, 64), (4, 64 + 2 * 2 ^ 32), (5, 64 + 64 * 2 ^ 32), (6, 0x2000)] }
theorem witness_TransfersStart : ∀ w ∈ [(Op.MLD, movW 0x40 1 2 3 0 2), (.MLD, movW 0x40 1 2 0 0 2), (.MST, movW 0x41 1 2 3 0 2), (.MLD2, movW 0x42 1 2 4 0 2 (5 * 2 ^ 20)),
      (.MST2, movW 0x43 1 2 4 0 2 (5 * 2 ^ 20)), (.MTOUCH, movW 0x48 0 2 3 0 2), (.LCOPY, movW 0x44 1 6 3 0 2), (.PASS, movW 0x45 1 6 3 0 2 (2 * 2 ^ 25))],
    (run4 xm 0 w.2 0 0).Powered ∧ (run4 xm 0 w.2 0 0).Issues 0 k0 ⟨.nop, .op w.1 w.2, .nop, .nop⟩ ∧ acts ((run4 xm 0 w.2 0 0).carrel 0) w.2 = true := by
  simp only [State.Powered, State.Issues]; decide +kernel

theorem witness_LocalVectorsAndTiles : ∀ w ∈ [(Op.VLD, movW 0x49 1 1 0 0 0), (.VST, movW 0x4A 1 1 0 0 0), (.VGATHER, movW 0x4B 1 1 2 0 0), (.TLD, movW 0x4C 1 1 0 0 0),
      (.TST, movW 0x4D 1 1 0 0 0)],
    (run4 xr 0 w.2 0 0).Powered ∧ (run4 xr 0 w.2 0 0).Issues 0 k0 ⟨.nop, .op w.1 w.2, .nop, .nop⟩ ∧ acts ((run4 xr 0 w.2 0 0).carrel 0) w.2 = true := by
  simp only [State.Powered, State.Issues]; decide +kernel

/-- VADD on FP32 and the three logical operations. -/
theorem witness_VectorLanes : (∀ w ∈ [(Op.VADD, vaddW), (.VAND, vecW 0x86 1 2 3 0 5), (.VOR, vecW 0x87 1 2 3 0 5), (.VXOR, vecW 0x88 1 2 3 0 5)],
    (run4 xr 0 0 w.2 0).Powered ∧ (run4 xr 0 0 w.2 0).Issues 0 k0 ⟨.nop, .nop, .op w.1 w.2, .nop⟩) ∧ ∀ i, vecLane .VADD xr vaddW i ≠ none := by
  refine ⟨?_, fun i => by simp [vecLane]⟩
  simp only [State.Powered, State.Issues]; decide +kernel

theorem witness_VectorToScalarAndConversion : ∀ w ∈ [(Op.VEXT, vecW 0x8C 5 1 0 0 1 0 15), (.VRED, vecW 0x8E 1 2 0 0 1), (.VCMP, vecW 0x8F 1 2 3 0 1), (.VCVT, vecW 0x91 1 2 0 0 1 0 0x20)],
    (run4 xr 0 0 w.2 0).Powered ∧ (run4 xr 0 0 w.2 0).Issues 0 k0 ⟨.nop, .nop, .op w.1 w.2, .nop⟩ ∧ acts ((run4 xr 0 0 w.2 0).carrel 0) w.2 = true := by
  simp only [State.Powered, State.Issues]; decide +kernel

/-- MMA of FP32 and of MXFP8, MMAM of FP32, TZERO, TCOPY, TGET, TPUT. -/
def matW (op td sa sb ss fmt ch vr : Nat) : Nat :=
  op * 2 ^ 56 + td * 2 ^ 49 + sa * 2 ^ 44 + sb * 2 ^ 39 + ss * 2 ^ 34 + fmt * 2 ^ 30 + ch * 2 ^ 24 + vr * 2 ^ 19
theorem witness_MatrixOperations : ∀ w ∈ [(Op.MMA, matW 0xC0 1 1 2 0 1 0 0), (.MMA, matW 0xC0 7 1 2 1 6 0 0), (.MMAM, matW 0xC1 2 1 2 0 1 0 0), (.TZERO, matW 0xC2 7 0 0 0 0 0 0),
      (.TCOPY, matW 0xC3 7 3 0 0 0 0 0), (.TGET, matW 0xC4 7 0 0 0 0 63 31), (.TPUT, matW 0xC5 0 0 0 0 0 0 31)],
    (run4 xr 0 0 0 w.2).Powered ∧ (run4 xr 0 0 0 w.2).Issues 0 k0 ⟨.nop, .nop, .nop, .op w.1 w.2⟩ ∧ acts ((run4 xr 0 0 0 w.2).carrel 0) w.2 = true := by
  simp only [State.Powered, State.Issues]; decide +kernel

/-- An unassigned opcode; the line pointer at the folio's end; a budget of 5 cycles spent. -/
theorem witness_FolioExceptionsEndTheInvocation :
    let a := run4 xr (0x3F * 2 ^ 56) 0 0 0
    let b := run4 { xr with lp := 2 } 0 0 0 0
    let v : Inv := { k0.inv with budget := 5 }
    let c : State := (run4 { xr with cycles := 5 } 0 0 0 0).setSlot 0 { (run4 xr 0 0 0 0).slot 0 with inv := some v }
    let k : Ctx := { k0 with inv := v }
    let k1 : Ctx := { k with c := 1, p := 1, ai := 1 }
    let o : State := { c with car := [(0, { xr with run := .active, cycles := 5 }), (1, { run := .active, lp := 2 })] }
    (∀ s ∈ [a, b, c], s.Powered ∧ s.Quiet ∧ s.g SLOT_STATUS.STATE 0 = 3 ∧ (s.slot 0).ending = none) ∧
    (a.ctx 0 = some k0 ∧ a.mayIssue k0 = true ∧ a.overBudget k0 = false ∧ (a.carrel 0).lp < fo.lines ∧ (a.lineAt k0).anyIll = true) ∧
    (b.ctx 0 = some k0 ∧ b.mayIssue k0 = true ∧ b.overBudget k0 = false ∧ fo.lines ≤ (b.carrel 0).lp) ∧
    (c.ctx 0 = some k ∧ c.overBudget k = true ∧ (c.carrel 0).run = .active ∧ c.gb DEV_STATUS.SAFE = false) ∧
    (a.overFirst k0 = none ∧ (o.overFirst k1).isSome = true) ∧ (∀ s ∈ [a, b, c, o], s.gb DEV_STATUS.SAFE = false) ∧ (o.Powered ∧ o.Quiet ∧ o.ctx 1 = some k1 ∧ o.g SLOT_STATUS.STATE 0 = 3 ∧ (o.slot 0).ending = none ∧
      o.mayIssue k1 = true ∧ o.overBudget k1 = false ∧ fo.lines ≤ (o.carrel 1).lp) := by
  simp only [State.Powered, State.Quiet]; decide +kernel

/-- An MLD that still waits, one that is done, an LCOPY, a PASS to the east. -/
theorem witness_TagsComplete :
    let t : Xfer := { tag := 3, kind := .mld }
    (∀ f ∈ [{ t with wait := [(0, { loc := 0, off := 0, len := 64 })] }, t, { t with kind := .lcopy, src := 0, dst := 64, len := 8 }, { t with kind := .pass, dst := 64, len := 8, dir := 2 }],
      let s := run4 { xr with xfers := [f] } 0 0 0 0
      s.Powered ∧ s.Quiet ∧ (∀ g ∈ (s.carrel (s.phys 0)).xfers, g.todo = []) ∧
        (s.carrel (s.phys 0)).xfers.find? (fun g => decide (g.tag = 3)) = some f) ∧
    neighbour 0 2 = some 1 ∧ dev.phys 1 ≠ dev.phys 0 := by
  simp only [State.Powered, State.Quiet]; decide +kernel

/-! ### Stamp and due dates -/

theorem witness_StampAndFrames :
    let r : State := { dev with stamp := { refPresent := true } }
    let ok := r.p STAMP_STATUS.SYNC_OK 0 1
    let miss := (({ ok with stamp := { ok.stamp with sinceGood := 65600, missRun := 2 } } : State).p STAMP_CTL.SYNC_MISS_LIMIT 0 4)
    let mask0 := (dev.p COL_REACT.UC_MASK 35 0)
    let hold : State := { dev with stamp := { holdover := true, holdTicks := 1562500 } }
    let act : State := { ok with stamp := { ok.stamp with acts := [(1, 5, 4 * 2 ^ 28)] } }
    (act.canFire = true ∧ act.time + 1 = 1 ∧ ddAction (4 * 2 ^ 28) = 4 ∧ ∀ e ∈ r.stamp.acts, r.time + 1 < e.1) ∧
    (∀ s ∈ [r, ok, miss, mask0, hold, act], s.Powered ∧ s.Quiet) ∧
    (ok.stamp.refPresent = true ∧ ok.gb STAMP_STATUS.SYNC_OK = true ∧ ok.stamp.holdover = false ∧ ∀ i, (ok.ddEnt i).pend = none) ∧
    (r.gb STAMP_STATUS.SYNC_OK = false ∧ ∀ i, (r.ddEnt i).state ≠ 1) ∧
    (miss.gb STAMP_STATUS.SYNC_OK = true ∧ 65600 ≤ miss.stamp.sinceGood ∧ miss.stamp.missRun + 1 < miss.g STAMP_CTL.SYNC_MISS_LIMIT) ∧
    (mask0.stamp.holdover = false ∧ mask0.RecordedUc { source := srcId 12 0 3 }) ∧ dev.stamp.refPresent = false ∧ dev.hostSees 0 0x5000 = true ∧
    (hold.stamp.holdover = true ∧ 1562500 ≤ hold.stamp.holdTicks ∧ hold.gb STAMP_STATUS.GROUP_SUSPENDED = false) := by
  simp only [State.Powered, State.Quiet, State.RecordedUc]
  refine ⟨by decide +kernel, by decide +kernel, ⟨by decide +kernel, by decide +kernel, by decide +kernel, fun _ => rfl⟩, ⟨by decide +kernel, fun i => ?_⟩,
    by decide +kernel⟩
  show (0 : Nat) ≠ 1
  decide

/-- A commit refused (index 0 with a SPEC that names no action), one admitted (MARK at stamp 100), a cancel of an armed and of a free entry, a read. -/
theorem witness_DueDateCommands :
    let a := (dev.p DD_SPEC.ACTION 0 15)
    let b := ((dev.p DD_SPEC.ACTION 0 7).p DD_STAMP.STAMP 0 100)
    let c := dev.setDd 0 { state := 1, stamp := 100 }
    (∀ s ∈ [a, b, c], s.Powered ∧ s.Quiet ∧ s.hostMay 0 0x5120 = true ∧ s.arec.role ≠ 1) ∧
    a.ddCheck none 0 (a.reg .DD_SPEC 0).toNat 0 ≠ 0 ∧ (b.ddCheck none 0 (b.reg .DD_SPEC 0).toNat 0 = 0 ∧ b.now + 2 ≤ b.g DD_STAMP.STAMP ∧ ∀ j, (b.ddEnt j).pend = none) ∧
    (c.ddOwn none 0 = 0 ∧ (c.ddEnt 0).state = 1) ∧ (b.ddOwn none 0 = 0 ∧ (b.ddEnt 0).state ≠ 1 ∧ (b.ddEnt 0).state ≠ 3) := by
  simp only [State.Powered, State.Quiet]
  refine ⟨by decide +kernel, by decide +kernel, ⟨by decide +kernel, by decide +kernel, fun _ => rfl⟩, by decide +kernel, by decide +kernel⟩

/-- An operating point and an interrupt, at stamp 0 and at stamp 1. -/
theorem witness_DueDateFires : ∀ act ∈ [4, 7], ∀ at_ ∈ [0, 1],
    let s : State := ({ dev with stamp := { refPresent := true } } : State).p STAMP_STATUS.SYNC_OK 0 1
    let s := s.setDd 5 { state := 1, stamp := at_, spec := (({} : State).p DD_SPEC.ACTION 0 act).reg .DD_SPEC 0 |>.toNat }
    s.Powered ∧ s.Quiet ∧ s.canFire = true ∧ s.ddNext = some 5 ∧ (s.ddEnt 5).pend = none ∧ ddAction (s.ddEnt 5).spec = act ∧
      s.ddPart 5 = none ∧ bits (ddArg (s.ddEnt 5).spec) 19 16 = 0 ∧ (s.stamp.actAt.filter fun x => decide (x = s.timeOf (max at_ s.now))).length < 16 ∧
      s.now = 0 := by
  simp only [State.Powered, State.Quiet]; decide +kernel

/-! ### Work slots -/

/-- A slot that runs refuses; one that is IDLE takes the fields; an unconfigured one asks for a shelf; an allotment in work; a repair owed. -/
theorem witness_SlotConfiguration :
    let run := dev.p SLOT_STATUS.STATE 0 3
    let idle := dev.p SLOT_STATUS.STATE 0 2
    let allot := dev.p SLOT_STATUS.STATE 0 1
    let rep := dev.p SLOT_STATUS.STATE 0 7
    (∀ s ∈ [run, idle, dev, allot, rep], s.Powered ∧ s.Quiet ∧ s.hostMay 1 0x400 = true ∧ s.hostMay 1 0x408 = true ∧ s.owns 0 0 = true ∧ s.arec.role ≠ 2 ∧
      s.g SLOT_CFG.PASID 0 = 0 ∧ s.g SLOT_CFG.SHELVES 0 = 0 ∧ (s.slot 0).imgJob = false ∧ s.g Q_STATUS.STATE 0 = 0) ∧
    run.g SLOT_STATUS.STATE 0 = 3 ∧ idle.g SLOT_STATUS.STATE 0 = 2 ∧ dev.g SLOT_STATUS.STATE 0 = 0 ∧ allot.g SLOT_STATUS.STATE 0 = 1 ∧
    (bits 1 43 24 = 0 ∧ bits 1 8 0 ≤ (dev.freeShelves 0).length ∧ bits 256 8 0 ≤ (dev.freeShelves 0).length) ∧
    (rep.g SLOT_STATUS.STATE 0 = 7 ∧ rep.flt.subst = [] ∧ ∀ w ∈ wingsOf (rep.slot 0).allot, rep.g WING_STATUS.STATE w ≠ 2) := by
  simp only [State.Powered, State.Quiet]; decide +kernel

theorem witness_TroubleTotalsClear : dev.Powered ∧ dev.Quiet ∧ dev.hostMay 1 0x7800 = true ∧ dev.owns 0 63 = true := by
  unfold State.Powered State.Quiet; decide +kernel

/-- A running invocation, in service and in the safe state. -/
theorem witness_SlotEndStopsTheInvocation :
    let run := run4 xr 0 0 0 0
    let safe := run.p DEV_STATUS.SAFE 0 1
    (∀ s ∈ [run, safe], s.Powered ∧ s.Quiet ∧ s.hostMay 1 0x408 = true ∧ s.owns 0 0 = true ∧ s.g SLOT_STATUS.STATE 0 = 3 ∧ (s.slot 0).inv ≠ none ∧ (s.slot 0).ending = none) ∧
    run.gb DEV_STATUS.SAFE = false ∧ safe.gb DEV_STATUS.SAFE = true := by
  simp only [State.Powered, State.Quiet]; decide +kernel

/-- Slot 0 on shelf 0, IDLE, with the folio installed. -/
def idle0 (x : SlotSt := {}) : State := { dev.p SLOT_STATUS.STATE 0 2 with slots := [(0, { x with allot := [0], folios := [fo] })] }

/-- The carrels of shelf 0, each as `x`. -/
def shelf0 (x : Carrel) : Tab Carrel := (List.range 16).map fun c => (c, x)

/-- A latched start; waves 0 and 15 of a release; arrivals at barriers 0 and 3, of one wing and of two; a group's release with and without a group. -/
theorem witness_DispatchAndRelease :
    let lat := idle0 { latch := some ⟨40, 0, 0, 0, false, false, false⟩ }
    let w0 : State := { idle0 { inv := some k0.inv } with rels := [⟨0, none, 0, false, 8, 0, 0, 0, 0⟩] }
    let w15 : State := { idle0 { inv := some k0.inv } with rels := [⟨0, some 3, 0, true, 8, 15, 0, 0, 0⟩], time := 120 }
    let arr : State := { idle0 { inv := some k0.inv } with car := shelf0 { run := .gated 3, arrived := 9 } }
    let arr2 : State := { arr with slots := [(0, { arr.slot 0 with allot := [0, 8] })] }
    let gw := idle0 { grpWait := 8 }
    let gf := gw.p CAS_STATUS.STATE 0 2
    (∀ s ∈ [lat, w0, w15, arr, arr2, gw, gf], s.Powered ∧ s.Quiet) ∧
    ((lat.slot 0).latch = some ⟨40, 0, 0, 0, false, false, false⟩ ∧ lat.canDispatch 0 = true ∧ (lat.queue 0).hold = none ∧
      findEntry (lat.slot 0).folios 0 = some (0, ⟨0, true, true, 0, 0⟩)) ∧
    (w0.rels[0]? = some ⟨0, none, 0, false, 8, 0, 0, 0, 0⟩ ∧ w0.waveOk ⟨0, none, 0, false, 8, 0, 0, 0, 0⟩ = true) ∧
    (w15.rels[0]? = some ⟨0, some 3, 0, true, 8, 15, 0, 0, 0⟩ ∧ w15.waveOk ⟨0, some 3, 0, true, 8, 15, 0, 0, 0⟩ = true) ∧
    (∀ s ∈ [arr, arr2], ∀ b ∈ [0, 3], (s.slot 0).inv ≠ none ∧ s.formed 0 b = false ∧ bit (tget (fun _ => 0) (s.slot 0).hubArr b) 0 = false ∧
      bit (s.slot 0).gated b = false ∧ s.isGroupBar 0 b = false ∧
      let cs := (carrelsOf (s.slot 0).allot).filter fun c => decide (c / 128 = 0)
      cs ≠ [] ∧ ∀ c ∈ cs, hasArrived (s.carrel (s.phys c)) b = true) ∧
    ((wingsOf (arr.slot 0).allot).all fun v => bit (setBit 0 0 true) v) = true ∧ ((wingsOf (arr2.slot 0).allot).all fun v => bit (setBit 0 0 true) v) = false ∧
    (bit (gw.slot 0).grpWait 3 = true ∧ gw.formed 0 3 = false ∧ gw.groupGoes = false ∧ gf.groupGoes = true ∧ gf.now + 2 ≤ 2) := by
  simp only [State.Powered, State.Quiet]; decide +kernel

/-- Every carrel halted; an end being drained. -/
theorem witness_InvocationsEnd :
    let s (st : Nat) (e : Option Ending) (r : Run) : State :=
      { (idle0 { inv := some ⟨.slip 7 true, 0, 0, 0⟩, ending := e }).p SLOT_STATUS.STATE 0 st with car := shelf0 { run := r } }
    let a := s 3 none .halted
    let b := s 6 (some { status := 2 }) .stopped
    (∀ s ∈ [a, b], s.Powered ∧ s.Quiet ∧ (s.slot 0).inv = some ⟨.slip 7 true, 0, 0, 0⟩ ∧ (s.slot 0).shelfLost = false ∧ (s.slot 0).repair = false ∧
      s.flt.trap = false ∧ s.g Q_STATUS.STATE 0 = 0 ∧ s.gb DEV_STATUS.SAFE = false) ∧
    (a.g SLOT_STATUS.STATE 0 = 3 ∧ a.allHalted 0 = true) ∧
    (b.g SLOT_STATUS.STATE 0 = 6 ∧ (b.slot 0).ending = some { status := 2 } ∧ (∀ c ∈ carrelsOf (b.slot 0).allot, (b.carrel (b.phys c)).xfers = []) ∧
      ∀ w ∈ wingsOf (b.slot 0).allot, (b.wing w).rst = 0) := by
  simp only [State.Powered, State.Quiet]; decide +kernel

/-! ### Call slips, slip registers, queues -/

/-- A call slip line with the sequence number `n`. -/
def slipLine (n : Nat) : Bytes := natLe 4 n ++ zeros 60

/-- A re-read with the sequence number last taken and with another one; a delivery line; the pair 0 switched; the pair being armed and disarmed. -/
theorem witness_CallSlipPairs :
    let s (mode st : Nat) (x : CsSt) : State := (({ dev with cs := [(0, x)] } : State).p CS_STATUS.STATE 0 st).p CS_CTL.MODE 0 mode
    let got := s 1 2 { got := some (slipLine 0) }
    let new := s 1 2 { got := some (slipLine 1), slipS := true }
    let dlv := s 1 2 { report := some (zeros 64), dlv := 2, slipS := true, slipLine := some 5 }
    let off := s 0 0 {}
    let coh : State := { off with fns := [(0, { mse := true, bme := true, cacheEn := true }), (1, { mse := true })] }
    let arm := s 1 1 { got := some (slipLine 9) }
    let dis := s 0 5 { valid := true, line := zeros 64 }
    (∀ s ∈ [got, new, dlv, off, coh, arm, dis], s.Powered ∧ s.Quiet ∧ s.hostMay 1 0x4010 = true ∧ s.owns 0 0 = true) ∧
    ((got.csOf 0).got = some (slipLine 0) ∧ got.g CS_STATUS.STATE 0 = 2 ∧ le (slipLine 0) 0 4 = got.g CS_STATUS.LAST_SEQ 0 ∧ got.csMay 0 = false) ∧
    ((new.csOf 0).got = some (slipLine 1) ∧ new.g CS_STATUS.STATE 0 = 2 ∧ le (slipLine 1) 0 4 ≠ new.g CS_STATUS.LAST_SEQ 0 ∧ new.csMay 0 = false) ∧
    ((dlv.csOf 0).report = some (zeros 64) ∧ (dlv.csOf 0).posted = false ∧ (dlv.csOf 0).call = none ∧ 2 ≤ (dlv.csOf 0).dlv ∧ le (zeros 64) 4 1 = 0 ∧ dlv.g CS_STATUS.STATE 0 = 2 ∧
      (dlv.csOf 0).slipS = true ∧ (dlv.csOf 0).slipLine ≠ none) ∧
    (off.g CS_CTL.MODE 0 = 0 ∧ off.g CS_STATUS.STATE 0 = 0) ∧ (coh.g CS_CTL.MODE 0 = 0 ∧ coh.g CS_STATUS.STATE 0 = 0 ∧ coh.cacheEn = true ∧ coh.mayRequest (coh.fnOf 0) = false) ∧
    (new.g CS_CTL.MODE 0 ≠ 0 ∧ new.g CS_STATUS.STATE 0 ≠ 5) ∧ ((arm.csOf 0).got = some (slipLine 9) ∧ arm.g CS_STATUS.STATE 0 = 1 ∧ arm.inService = true ∧ arm.csMay 0 = false) ∧
    (dis.g CS_STATUS.STATE 0 = 5 ∧ (dis.csOf 0).running = false ∧ (dis.csOf 0).report = none ∧ (dis.csOf 0).call = none ∧ (dis.csOf 0).reading = false ∧
      (dis.csOf 0).owning = false ∧ (dis.csOf 0).dlv = 0 ∧ (dis.csOf 0).slipS = false) := by
  simp only [State.Powered, State.Quiet]; decide +kernel

/-- A free slot selected, one whose pair is off, one whose result is unread. -/
theorem witness_SlipRegisters :
    let free := dev.p CS_CTL.MODE 0 2
    let res : State := { free with cs := [(0, { valid := true, line := zeros 64 })] }
    (∀ s ∈ [dev, free, res], s.Powered ∧ s.Quiet ∧ s.hostMay 1 0x5008 = true ∧ s.hostMay 1 0x5000 = true ∧ s.hostSees 1 0x5080 = true ∧ s.g SLIP_SEL.SLOT 0 = 0 ∧
      s.owns 0 0 = true) ∧
    (free.g CS_CTL.MODE 0 = 2 ∧ (free.csOf 0).valid = false ∧ (free.csOf 0).running = false ∧ (free.csOf 0).call = none) ∧
    dev.g CS_CTL.MODE 0 ≠ 2 ∧ (res.csOf 0).valid = true ∧ (free.csOf 0).valid = false := by
  simp only [State.Powered, State.Quiet]; decide +kernel

/-- A queue of 16 and 16 entries in state `st`. -/
def que (st : Nat) (x : QSt := {}) : State :=
  ((((({ dev with q := [(0, x)] } : State).p Q_STATUS.STATE 0 st).p Q_CFG.SQ_LOG2 0 4).p Q_CFG.CQ_LOG2 0 4).p Q_CFG.ENABLE 0 (if st = 0 then 0 else 1)).setReg .CQ_BASE 0 1

/-- A read of the ring of queue 0 that is out. -/
def ring0 (s : State) : State := { s with link := { s.link with reqs := [{ tag := 0, fn := 1, owner := .ring 0, ca := 0, io := true, issued := 0 }] } }

/-- Doorbells: a whole ring at index 0, one that is halted, a tail past the ring; a consumed record, an index past the ring; enables of 4 and 12; a disable;
a resume; a drain; descriptors of the right and of the wrong generation, after no and after eight stale fetches; a ring whose next entry is asked for. -/
theorem witness_QueuesAndDoorbells :
    let rm : QSt := { accs := [{ bytes := natLe 1 3 ++ zeros 127 }] }
    let run := que 1
    let halt := que 2 rm
    let use := (que 2 { used := 3 }).p Q_STATUS.CQ_TAIL 0 3
    let d0 : Bytes := natLe 2 0x100 ++ zeros 126
    let d1 : Bytes := zeros 128
    let f0 := ring0 (que 1 rm)
    let f8 := ring0 (que 1 { stale := 8 })
    let lq := dev.p Q_STATUS.STATE 64 1
    let cur := que 1 { cur := some d0 }
    let hub (s : State) : State := { s with
      hubBuf := [{ pasid := 0, va := 0, size := 12, merge := 0, ca := 0x7000, r := true, w := true, lent := false, epoch := 3 }],
      fns := tset (fun _ => {}) s.fns 1 { s.fn 1 with pasidEn := true } }
    let ask := (hub (que 1)).setQueue 0 { avail := 15 }
    let on := (((hub (que 2 { avail := 3, stale := 4 })).p Q_STATUS.ERROR 0 0).p Q_STATUS.STATE 0 1).setQueue 0 { avail := 3, stale := 0 }
    (∀ u ∈ [ask, on], u.mayFetch 0 = true ∧ (u.queue 0).cur = none ∧ (u.queue 0).avail ≠ 0 ∧ (u.queue 0).accs.length < 4 ∧ u.readOf (.ring 0) = none ∧
      u.ringVa 0 (u.g SQ_BASE.ADDR 0 * 4096 + 128 * u.g Q_STATUS.SQ_HEAD 0) false = (.ok 0x7000, u)) ∧
    (∀ s ∈ [hub (que 1), hub (que 2 { avail := 3, stale := 4 })], s.Powered ∧ s.Quiet ∧ s.ownsQ 0 0 = true ∧ s.hostMay 1 0x1000 = true ∧ s.hostMay 1 0x2020 = true) ∧
    (lq.ownsQ 8 64 = true ∧ lq.hostMay (partFn 8) 0x50040 = true ∧ lq.Powered ∧ lq.Quiet) ∧
    ringCount 0 1 (cur.g Q_STATUS.SQ_HEAD 0) (cur.g Q_STATUS.SQ_GEN 0) (cur.g Q_CFG.SQ_LOG2 0) = some 0 ∧ (0 < b2n (cur.queue 0).cur.isSome) ∧
    (∀ s ∈ [run, halt, use, que 0, que 3, f0, f8, cur], s.Powered ∧ s.Quiet ∧ s.ownsQ 0 0 = true ∧ s.hostMay 1 0x1000 = true ∧ s.hostMay 1 0x1008 = true ∧
      s.hostMay 1 0x2010 = true ∧ s.hostMay 1 0x2020 = true) ∧
    (halt.g Q_STATUS.STATE 0 = 2 ∧ halt.mayFetch 0 = false ∧ (∀ e ∈ [(0x10000, 0), (0x1000F, 15), (0, 16)],
      ringCount (e.1 % 65536) (bits e.1 16 16) (halt.g Q_STATUS.SQ_HEAD 0) (halt.g Q_STATUS.SQ_GEN 0) (halt.g Q_CFG.SQ_LOG2 0) = some e.2)) ∧
    (run.g Q_STATUS.STATE 0 = 1 ∧ run.gb Q_CFG.ERR_IRQ 0 = false ∧ ringCount 16 0 (run.g Q_STATUS.SQ_HEAD 0) (run.g Q_STATUS.SQ_GEN 0) (run.g Q_CFG.SQ_LOG2 0) = none) ∧
    (use.g Q_STATUS.STATE 0 ≠ 0 ∧ ringCount (use.g Q_STATUS.CQ_TAIL 0) (use.g Q_STATUS.CQ_GEN 0) 1 1 (use.g Q_CFG.CQ_LOG2 0) = some 2 ∧
      (use.queue 0).hold = none ∧ (use.queue 0).owed = [] ∧ (use.queue 0).accs = [] ∧ use.mayFetch 0 = false ∧ 2 ^ use.g Q_CFG.CQ_LOG2 0 ≤ 16) ∧
    ((que 0).gb Q_CFG.ENABLE 0 = false ∧ (que 0).g Q_STATUS.STATE 0 = 0 ∧
      (∀ v ∈ [2 ^ 63 + 4 * 256 + 12, 2 ^ 63 + 12 * 256 + 4], bit v 63 = true ∧ 4 ≤ bits v 11 8 ∧ bits v 11 8 ≤ 12 ∧ 4 ≤ bits v 3 0 ∧ bits v 3 0 ≤ 12)) ∧
    (∀ s ∈ [run, halt, use, f0, f8], ∀ d ∈ (s.queue 0).accs, d.fail = none ∧ descOp d.bytes ≠ 2) ∧
    (run.gb Q_CFG.ENABLE 0 = true ∧ bit 0 63 = false ∧ (run.queue 0).accs = []) ∧ (halt.g Q_STATUS.STATE 0 = 2 ∧ (halt.queue 0).cur = none ∧ (halt.queue 0).avail = 0) ∧
    ((que 3).g Q_STATUS.STATE 0 = 3 ∧ ((que 3).slot 0).inv = none ∧ ((que 3).queue 0).accs = [] ∧ ((que 3).queue 0).hold = none ∧ ((que 3).queue 0).owed = []) ∧
    (∀ s ∈ [f0, f8], s.mayFetch 0 = true ∧ (s.queue 0).cur = none ∧ s.readOf (.ring 0) = some { tag := 0, fn := 1, owner := .ring 0, ca := 0, io := true, issued := 0 } ∧
      s.stableRange 0 128 = true ∧ (∀ d ∈ [d0, d1], (s.dropReq 0).hubLoad 0 128 (some 2) d = (d, false, s.dropReq 0))) ∧
    (f0.g Q_STATUS.SQ_GEN 0 = 1 ∧ f8.g Q_STATUS.SQ_GEN 0 = 1 ∧ f8.gb Q_CFG.ERR_IRQ 0 = false ∧ le d0 1 1 % 2 = 1 ∧ le d1 1 1 % 2 = 0 ∧ descList d0 = false ∧ (f0.queue 0).stale = 0 ∧ (f8.queue 0).stale = 8) := by
  simp only [State.Powered, State.Quiet]
  refine ⟨?_, ?_, ?_, ?_, ?_, ?_, ?_, ?_, ?_, ?_, ?_, ?_, ?_, ?_⟩ <;> decide +kernel

/-- A descriptor: the opcode, the flags, byte 2 and 3, what follows from byte 0x10. -/
def dsc (op fl x n : Nat) (rest : Bytes) : Bytes := let b := natLe 1 op ++ natLe 1 fl ++ natLe 1 x ++ natLe 1 n ++ zeros 12 ++ rest; b ++ zeros (128 - b.length)

/-- Queue 0 runs, its completion ring is full, and it holds `x`; slot 0 is IDLE. -/
def full0 (x : QSt) : State := { (que 1 { x with used := 16 }).p SLOT_STATUS.STATE 0 2 with slots := [(0, { allot := [0], folios := [fo] })] }

/-- The folio image of one line with one entry, its checksum in place (02 R73, R76). -/
def img : Bytes :=
  let h (crc : Nat) : Bytes := natLe 4 0x4F46484D ++ natLe 2 0x100 ++ zeros 2 ++ natLe 4 0 ++ natLe 4 0xFFFFFFFF ++ natLe 4 112 ++ natLe 4 0x1000 ++ natLe 4 1 ++ natLe 4 0x40
    ++ zeros 8 ++ natLe 4 0x60 ++ natLe 4 0x60 ++ zeros 2 ++ natLe 2 1 ++ natLe 4 0x60 ++ natLe 2 1 ++ zeros 2 ++ natLe 4 crc
  let t : Bytes := zeros 32 ++ natLe 2 0x0301 ++ zeros 14
  h (crc32c (h 0 ++ t)) ++ t

/-- An INSTALL of `img` waits for its image: the translation is held, the read is out. -/
def inst (b : Bytes) : State :=
  let s := (full0 { accs := [{ bytes := b }] }).p MEM_PART.TOTAL 0 4
  { s with hubBuf := [⟨0, 0, 21, 0, 0, true, false, false, 0, 1⟩], slots := [(0, { s.slot 0 with imgJob := true })]
           link := { s.link with reqs := [{ tag := 0, fn := 1, owner := .image 0, ca := 0, io := true, issued := 0 }] } }

theorem witness_DescriptorsInRingOrder :
    let remove := dsc 3 0 0 0 []
    let bad := dsc 0 0 0 0 []
    let due := dsc 4 0 0 0 (natLe 1 2 ++ natLe 1 223)
    let run := dsc 1 0 0 0 []
    let ins := dsc 2 0 0 0 (zeros 8 ++ natLe 4 112 ++ zeros 4 ++ List.replicate 32 0xFF)
    let a := full0 { cur := some remove, avail := 1 }
    let u : State := { full0 { cur := some bad, avail := 1 } with slots := [(0, { inv := some ⟨.desc run, 0, 0, 0⟩ })] }
    let d := (full0 { cur := some due, avail := 1 }).setDd 255 { state := 1 }
    let r := full0 { accs := [{ bytes := run }] }
    let m := full0 { accs := [{ bytes := remove }] }
    let i := inst ins
    (∀ s ∈ [a, u, d, r, m, i], s.Powered ∧ s.Quiet ∧ s.partOf 0 = some 0) ∧
    (∀ s ∈ [a, u, d], s.mayFetch 0 = true ∧ (s.queue 0).accs.length < 4 ∧ s.g Q_STATUS.SQ_HEAD 0 + 1 ≠ 2 ^ s.g Q_CFG.SQ_LOG2 0 ∧ s.g Q_STATUS.SQ_HEAD 0 + 1 < 2 ^ 12) ∧
    ((a.queue 0).cur = some remove ∧ a.bodyOk 0 remove = true ∧ descOp remove = 3 ∧ (a.queue 0).avail ≤ 1 ∧ a.descRunning 0 = false ∧ (a.queue 0).accs = []) ∧
    ((u.queue 0).cur = some bad ∧ u.bodyOk 0 bad = false ∧ (u.queue 0).avail ≤ 1 ∧ u.descRunning 0 = true) ∧
    ((d.queue 0).cur = some due ∧ d.bodyOk 0 due = true ∧ descOp due = 4 ∧ d.RingFull 0 ∧ reports due { status := 0 } ∧ le due 0x10 1 = 2 ∧ le due 0x11 1 < (d.part 0).ddCount ∧
      (d.part 0).ddBase + le due 0x11 1 = 255 ∧ d.ddPart 255 = some 0 ∧ (d.ddEnt 255).state = 1 ∧ d.arec.role ≠ 1) ∧
    (∀ s ∈ [r, m, i], s.descRunning 0 = false ∧ s.g Q_STATUS.STATE 0 ≠ 0 ∧ (s.queue 0).hold = none ∧ s.inService = true) ∧
    ((r.queue 0).accs = [{ bytes := run }] ∧ descOp run = 1 ∧ (r.slot 0).latch = none ∧ (r.csOf 0).call = none ∧ r.canDispatch 0 = true ∧ (r.queue 0).cur = none ∧
      (r.queue 0).avail = 0 ∧ findEntry (r.slot 0).folios (bits (le run 2 1) 2 0) = some (0, ⟨0, true, true, 0, 0⟩)) ∧
    ((m.queue 0).accs = [{ bytes := remove }] ∧ m.RingFull 0 ∧ reports remove { status := 0 } ∧ m.slotFree 0 = true ∧ m.preempted 0 = false ∧ (m.slot 0).imgJob = false ∧ (m.slot 0).folios[0]? = some fo) ∧
    ((i.queue 0).accs = [{ bytes := ins }] ∧ descOp ins = 2 ∧ i.RingFull 0 ∧ i.readOf (.image 0) = some { tag := 0, fn := 1, owner := .image 0, ca := 0, io := true, issued := 0 } ∧ (i.slot 0).imgJob = true ∧
      (∀ x ∈ [img, zeros 112], i.loadVa (112 / 4096 + 2) 0 (i.g SLOT_CFG.PASID 0) 0 112 { source := 1, slot := 0, aux := 3 } x [] false = (.ok 0, x, false, i)) ∧
      (let c (x : Bytes) := imgStatus x 112 (i.reg .BLOCK_VERSION 0).toNat (i.slot 0).allot.length (fun k => (ins.getD (0x20 + k) 0).toNat) (i.slot 0).folios
       c (zeros 112) = 1 ∧ c img = 0) ∧ (i.allocFrame 0).isSome = true) := by
  simp only [State.Powered, State.Quiet, State.RingFull, reports]
  refine ⟨?_, ?_, ?_, ?_, ?_, ?_, ?_, ?_, ?_⟩ <;> decide +kernel

/-- A LEND and a HOLD of a granule not lent, one lent as zeros; a RETURN of a written one, one that needs no copy, one of a held one; a LEND of a held one; ADVISE
of the last of two granules; a copy that waits for its translation; copies that end. -/
theorem witness_LendingOfGranules :
    let b (op fl adv n : Nat) : Bytes := dsc op 0 0 0 (zeros 8 ++ natLe 4 n ++ natLe 1 fl ++ natLe 1 adv)
    let s (d : Bytes) (x : LendJob) (l : List LendEnt) : State :=
      { (full0 { lend := x, accs := [{ bytes := d }] }).p MEM_PART.TOTAL 0 4 with lend := if l = [] then [] else [(0, l)] }
    let e (v st : Nat) : LendEnt := { vpn := v, pasid := 0, state := st, frame := 1, r := true, w := true, bucket := 0 }
    let le := s (b 8 0 0 1) {} []
    let ho := s (b 10 0 0 393216) {} []
    let lz := s (b 8 1 0 1) {} []
    let re := s (b 9 0 0 1) {} [e 0 2]
    let rz := s (b 9 1 0 1) {} [e 0 2]
    let rh := s (b 9 0 0 1) {} [e 0 3]
    let lh := s (b 8 0 0 1) {} [e 0 3]
    let ad := s (b 11 0 3 2) { pos := 1, phase := 4 } [e 1 3]
    let q : AtsReq := { pasid := 0, va := 0, w := false, retry := 0, who := [{ source := 5, slot := 0 }], sent := true }
    let cp : State := { s (b 8 0 0 1) { phase := 2 } [e 0 1] with xl := [(0, { ats := [q] })] }
    let co := s (b 8 0 0 1) { phase := 3 } [e 0 1]
    let hc := s (b 10 0 0 1) { phase := 3 } [e 0 1]
    let rc := s (b 9 0 0 1) { phase := 3 } [e 0 4]
    (∀ t ∈ [le, ho, lz, re, rz, rh, lh, ad, cp, co, hc, rc], t.Powered ∧ t.Quiet ∧ t.LendRests 0 0 ∧ t.mayRequest 1 = true ∧ t.lendPart 0 [] = 0 ∧ t.lendPasid 0 [] = 0 ∧
      t.xlBar 0 0 = none ∧ (t.fn 1).atsEn = true ∧ t.coh.cat = [] ∧ t.hubBuf = []) ∧
    (∀ t ∈ [le, ho, lz, re, rz, rh, lh, ad], t.descRunning 0 = false ∧ t.g Q_STATUS.STATE 0 ≠ 0 ∧ (t.queue 0).hold = none ∧ t.inService = true ∧ (t.xlOf 0).ats = []) ∧
    (∀ t ∈ [le, ho, lz, re, rz, rh, lh], (t.queue 0).lend = {}) ∧
    (∀ t ∈ [le, ho, lz], t.lendFind 0 0 0 = none ∧ ((t.allocFrame 0).map fun r => (r.1, r.2.freePlace 0 0 0)) = some (1, some (0, 0))) ∧
    (∀ t ∈ [re, rz], t.lendFind 0 0 0 = some (e 0 2)) ∧ (∀ t ∈ [rh, lh], t.lendFind 0 0 0 = some (e 0 3)) ∧
    ((ad.queue 0).lend = { pos := 1, changed := 0, phase := 4 } ∧ ad.lendFind 0 0 (2 ^ 21) = some (e 1 3)) ∧
    ((cp.queue 0).lend = { pos := 0, changed := 0, phase := 2 } ∧ cp.lendFind 0 0 0 = some (e 0 1) ∧ (cp.xlOf 0).ats = [q]) ∧
    (∀ t ∈ [co, hc, rc], (t.queue 0).lend = { pos := 0, changed := 0, phase := 3, patch := [], fault := none }) ∧
    (co.lendFind 0 0 0 = some (e 0 1) ∧ hc.lendFind 0 0 0 = some (e 0 1) ∧ rc.lendFind 0 0 0 = some (e 0 4) ∧ (e 0 1).frame < 2 ^ 19) ∧
    (∀ t ∈ [lz, rz, rh, ad, co, hc, rc], t.RingFull 0) ∧ (∀ op ∈ [8, 9, 10, 11], ∀ fl ∈ [0, 1], reports (b op fl 3 2) { status := 0 }) := by
  simp only [State.Powered, State.Quiet, State.RingFull, reports, State.LendRests, State.PartRests, State.NoTries, State.NoFetch]
  refine ⟨?_, ?_, ?_, ?_, ?_, ?_, ?_, ?_, ?_, ?_, ?_, ?_⟩ <;> decide +kernel

/-! ### The host link, the functions, the cages -/

/-- No reaction on corrected and uncorrected events of the source's collector. -/
def mute (s : State) (src : Nat) : State := (s.p COL_REACT.CE_MASK (colOf src) 0).p COL_REACT.UC_MASK (colOf src) 0

/-- The device in state `st`. -/
def inSt (st : Nat) : State := dev.p DEV_STATUS.STATE 0 st

theorem witness_HostLinkAndItsResets :
    let down : State := { dev with link := {} }
    let fail : State := { dev with link := { failed := true } }
    let one := mute dev (srcId 5 3 1)
    (∀ s ∈ [down, fail, dev, one, inSt 4, inSt 5, inSt 7], s.Powered ∧ s.Quiet ∧ s.dev.started = true ∧ s.dev.lcStep = 0 ∧ s.dev.held = false) ∧
    (down.mayTrain = true ∧ down.dev.held = false ∧ modulesFor down.arec.maxModules 15 = [0, 1, 2, 3] ∧ modulesFor down.arec.maxModules 8 = [3] ∧
      modulesFor down.arec.maxModules 0 = []) ∧
    (fail.mayTrain = true ∧ fail.link.failed = true) ∧ (dev.link.up = true) ∧ (one.link.up = true ∧ 3 ∈ one.link.modules ∧ one.link.modules.length ≠ 1 ∧
      one.Recorded { source := srcId 5 3 1 }) ∧
    ((inSt 4).g DEV_STATUS.STATE 0 = 4 ∧ (inSt 5).g DEV_STATUS.STATE 0 = 5 ∧ (inSt 7).g DEV_STATUS.STATE 0 = 7 ∧ dev.dmem.mapout = none) := by
  simp only [State.Powered, State.Quiet, State.Recorded]
  refine ⟨?_, ?_, ?_, ?_, ?_, ?_⟩ <;> decide +kernel

/-- Functions 0 and 1; a switch of one that requests nothing, one whose slots 0 and 63 run, one whose slot 0 is paused; the caches off, and a transaction
for a host line under way; an FLR and its end; a pending vector. -/
theorem witness_FunctionsAndConfiguration :
    let d3 : State := { dev with fns := [(0, { mse := true, bme := true }), (1, { mse := true, bme := true, d3 := true })] }
    let on : State := { dev with fns := [(0, { mse := true, bme := true, d3 := true }), (1, {})] }
    let run := (dev.p SLOT_STATUS.STATE 0 3).p SLOT_STATUS.STATE 63 6
    let pz : State := (({ dev with fns := [(0, { mse := true, bme := true }), (1, { mse := true })], slots := [(0, { left := some 3 })] } : State).p
      SLOT_STATUS.STATE 0 5).p PART_STATUS.PAUSED 0 1
    let up := (([0].foldl (fun s n => s.unpause n) (pz.setFn 1 { pz.fn 1 with bme := true })).p PART_STATUS.PAUSED 0 0)
    let off0 : State := { dev with fns := [(0, { mse := true })] }
    let ce : State := { dev with fns := [(0, { cacheEn := true })] }
    let busy : State := { ce with coh := { homes := [{ opc := 1, src := 31, txn := 3, line := 5 }] } }
    let flr : State := { dev with fns := [(1, { flr := true })] }
    let flrS := flr.p DEV_STATUS.SAFE 0 1
    let copy : State := { dev with q := [(0, { accs := [{ bytes := natLe 1 9 ++ zeros 127 }], lend := { phase := 3 } })] }
    let msi : State := { dev with fns := [(0, { bme := true }), (1, { bme := true, msixEn := true, unmasked := 2 ^ 255, pba := 2 ^ 255 })] }
    (∀ s ∈ [dev, d3, on, run, pz, off0, ce, busy, flr, flrS, copy, msi], s.Powered ∧ s.Quiet ∧ s.link.up = true ∧ s.partCount < 2) ∧
    (∀ s ∈ [dev, d3, on, run, pz, off0, copy], ∀ fn ∈ [0, 1], s.cfgMay fn = true) ∧
    (copy.mayRequest 1 = true ∧ (∃ e ∈ copy.q, ∃ d ds, e.2.accs = d :: ds ∧ copy.lendPart e.1 d.bytes = 0 ∧ descOp d.bytes = 9 ∧ (copy.queue e.1).lend.phase = 3) ∧
      (run.fn 1).held = [] ∧ run.q = []) ∧
    (∀ y ∈ [{ d3.fn 1 with bme := false }, { d3.fn 1 with bme := true }, { d3.fn 1 with d3 := true }], ∀ f ≤ d3.partCount, f ≠ 0 → (d3.setFn 1 y).mayRequest f = d3.mayRequest f) ∧
    ((∀ f ≤ on.partCount, (on.setFn 1 { on.fn 1 with d3 := false }).mayRequest f = on.mayRequest f) ∧
      (∀ f ≤ off0.partCount, f ≠ 0 → (off0.setFn 0 { off0.fn 0 with bme := true }).mayRequest f = off0.mayRequest f) ∧ off0.HomesRest ∧ off0.coh.owed = []) ∧
    (pz.mayRequest 1 = false ∧ (pz.setFn 1 { pz.fn 1 with bme := true }).mayRequest 1 = true ∧ (pz.fn 1).pba = 0 ∧ up.HomesRest ∧ up.coh.owed = []) ∧
    (up = ((pz.slotsOf 0).foldl (fun s n => s.unpause n) (pz.setFn 1 { pz.fn 1 with bme := true })).p PART_STATUS.PAUSED 0 0 ∧ up.PartRests 0) ∧
    (run.mayRequest 1 = true ∧ (∀ n ∈ run.slotsOf 0, n < 64) ∧ run.g SLOT_STATUS.STATE 0 = 3 ∧ run.g SLOT_STATUS.STATE 63 = 6) ∧
    (ce.cfgMay 0 = true ∧ ce.cacheEn = true ∧ (∀ f ≤ ce.partCount, (ce.fn f).bme = false) ∧ ce.HomesRest ∧ ce.coh.owed = [] ∧ (∀ w < 32, (ce.wing w).lines = [] ∧ (ce.wing w).eb = []) ∧
      (∀ n < 64, ce.g CS_CTL.MODE n ≠ 1 ∧ ce.g CS_STATUS.STATE n ≠ 5) ∧ ce.nic.qps = []) ∧
    (busy.cfgMay 0 = true ∧ busy.cacheEn = true ∧ (∀ f ≤ busy.partCount, (busy.fn f).bme = false) ∧ busy.coh.homes.any HTxn.runs = true) ∧
    (dev.g DEV_STATUS.STATE 0 = 4 ∧ dev.HomesRest ∧ dev.cas.held = [] ∧ ∀ n ∈ dev.slotsOf 0, n < 64 ∧ (dev.csOf n).slipS = false ∧ (dev.csOf n).dlv = 0) ∧
    ((flrS.fn 1).flr = true ∧ flrS.gb DEV_STATUS.SAFE = true ∧ flr.gb DEV_STATUS.SAFE = false ∧
      flr.framesInUse (fun fr => decide (flr.frameOwner fr = 1)) = false) ∧
    ((flr.fn 1).flr = true ∧ flr.fnBusy 1 = false ∧ flr.coh.owed = [] ∧ (∀ w < 32, (flr.wing w).lines = [] ∧ (flr.wing w).eb = []) ∧ flr.dmem.wcb = [] ∧
      flr.nic.qps = [] ∧ flr.mrListed = []) ∧
    (bit (msi.fn 1).pba 255 = true ∧ msi.canSend 1 255 = true ∧ msi.ordered 1 = true) ∧
    (dev.hasFn 1 = true ∧ (dev.fn 1).mse = true ∧ (dev.fn 1).d3 = false ∧ bar0Ok 1 4 8 = false ∧ bar0Ok 1 0x9000 64 = false ∧ dev.gb DEV_STATUS.SAFE = false) := by
  simp only [State.Powered, State.Quiet, State.HomesRest, State.NothingOwed, State.PartRests, State.NoTries, State.NoFetch]
  refine ⟨?_, ?_, ⟨?_, ⟨_, List.mem_singleton_self _, _, [], rfl, ?_⟩, ?_⟩, ?_, ?_, ?_, ?_, ?_, ?_, ?_, ?_, ?_, ?_, ?_, ?_⟩ <;> decide +kernel

/-- A switch-on of cages 0 and 11; the end of a command that leaves the power on; polls of empty cages. -/
theorem witness_Cages :
    let a : State := { dev with arec := { dev.arec with cages := [1, 0, 0, 0, 0, 0, 0, 0] } }
    let d : State := { dev with cages := [(0, { sent := some (2 ^ 10), present := true, out := 1 })] }
    (∀ s ∈ [a, d, dev], s.Powered ∧ s.Quiet) ∧ (a.cfgMay 0 = true ∧ a.arec.cages.getD 0 0 ≠ 0 ∧ bit 0 10 = false) ∧
    ((d.cage 0).sent = some (2 ^ 10) ∧ bit (d.cage 0).out 0 = true ∧ bit (2 ^ 10) 10 = true ∧ (d.cage 0).present = true) ∧
    ((List.replicate 12 0xA).length = 12 ∧ ∀ c < 12, bit ((List.replicate 12 0xA).getD c 0) 3 = true ∧ bit ((List.replicate 12 0xA).getD c 0) 0 = false) := by
  simp only [State.Powered, State.Quiet]; decide +kernel

/-- A read of the ring of queue 0 that times out just now, one in quarantine, an orphan, the end of a quarantine, a read that completes. -/
theorem witness_ReadsOfHostMemory :
    let r : HReq := { tag := 5, fn := 1, owner := .ring 0, ca := 0, io := true, issued := 0 }
    let st (n : Nat) (x : HReq) (t : Nat) : State := { que n with link := { dev.link with reqs := [x] }, time := t }
    let s := st 1
    let msk (s : State) (b : Nat) : State := { s with fns := [(0, { bme := true }), (1, { bme := true, aerUncMask := 2 ^ b, aerUncSev := 0 })] }
    let late := msk (mute (s r 5000000) (srcId 5 4 2)) 14
    let lt := msk (mute (s { r with quar := some 9 } 0) (srcId 5 4 3)) 16
    let orp := s { r with orphan := true } 0
    let q := s { r with quar := some 9 } 9
    (∀ t ∈ [late, lt, orp, q, s r 0], t.Powered ∧ t.Quiet ∧ t.gb PART_CONTROL.ERR_IRQ 0 = false) ∧
    (∀ n ∈ [0, 1, 3], let late := msk (mute (st n r 5000000) (srcId 5 4 2)) 14
      late.Powered ∧ late.Quiet ∧ late.gb PART_CONTROL.ERR_IRQ 0 = false ∧ late.gb DEV_STATUS.SAFE = false ∧ late.g Q_STATUS.STATE 0 = n ∧
      late.link.reqs.find? (fun x => decide (x.tag = 5) && !x.orphan && x.quar.isNone) = some r ∧ r.issued + late.timeoutOf 1 true ≤ late.time ∧ bit (late.fn 1).aerUncSev 14 = false ∧
      bit (late.fn 1).aerUncMask 14 = true ∧ late.gb Q_CFG.ERR_IRQ 0 = false ∧ late.partOf 0 = some 0 ∧ late.RecordedUc { source := srcId 5 4 2, part := 0 }) ∧
    ((lt.link.reqs.find? (fun x => decide (x.tag = 5) && !x.orphan && x.quar.isSome)).isSome = true ∧ bit (lt.fn 1).aerUncSev 16 = false ∧ bit (lt.fn 1).aerUncMask 16 = true ∧
      lt.Recorded { source := srcId 5 4 3, part := 0 }) ∧
    (orp.link.reqs.find? (fun x => decide (x.tag = 5) && decide (x.fn = 1) && x.orphan)).isSome = true ∧
    (q.link.reqs.find? (fun x => decide (x.tag = 5)) = some { r with quar := some 9 } ∧ 9 ≤ q.time) ∧
    (let t := s r 0
     t.link.reqs.find? (fun x => decide (x.tag = 5)) = some r ∧ t.mayFetch 0 = true ∧ (t.queue 0).cur = none ∧ t.readOf (.ring 0) = some r ∧ t.stableRange 0 128 = true ∧
      (∀ d ∈ (t.queue 0).accs, d.fail = none ∧ descOp d.bytes ≠ 2) ∧
      (let d : Bytes := natLe 2 0x100 ++ zeros 126
       (t.dropReq 5).hubLoad 0 128 (some 2) d = (d, false, t.dropReq 5) ∧ le d 1 1 % 2 = t.g Q_STATUS.SQ_GEN 0 ∧ descList d = false)) := by
  simp only [State.Powered, State.Quiet, State.Recorded, State.RecordedUc]
  refine ⟨?_, ?_, ?_, ?_, ?_, ?_⟩ <;> decide +kernel

/-- The cap register; accesses of the desk to where it may not go; a write from a peer with no entry and one through a window. -/
theorem witness_RegisterAccesses :
    let desk : State := mute ({ dev with dev := { dev.dev with deskRun := true } }) (srcId 10 1 3)
    let win : State := { ((((dev.p PEER.VALID 15 1).p PEER.RID 15 0x100).p WIN_CFG.ENABLE 0 1).p WIN_CFG.GRANULES 0 1) with
      fns := [(0, { mse := true, bme := true }), (1, { mse := true, bme := true, pasidEn := true })], cas := { wins := [(0, 0, 3 + 2 ^ 21)] }, hubBuf := [⟨0, 2 ^ 21, 21, 0, 0, true, true, false, 0, 1⟩] }
    (∀ s ∈ [dev, desk, win], s.Powered ∧ s.Quiet) ∧ (dev.bar0Open 0 0x6008 = true ∧ (dev.fn 0).mse = true ∧ (dev.fn 0).d3 = false) ∧
    (desk.dev.deskRun = true ∧ desk.RecordedUc { source := srcId 10 1 3, info0 := 0x80000 } ∧ deskMay 0 0x80000 false = false ∧ deskMay 0 0x80000 true = false) ∧
    (1 ≤ dev.partCount ∧ (dev.fn 1).mse = true ∧ (dev.fn 1).d3 = false ∧ (dev.fn 1).flr = false ∧ dev.gb DEV_STATUS.SAFE = false ∧ (∀ i < 16, dev.gb PEER.VALID i ≠ true) ∧
      dev.gb PART_CONTROL.ERR_IRQ 0 = false) ∧
    (1 ≤ win.partCount ∧ win.cas.held = [] ∧ win.mayRequest 1 = true ∧ (win.fn 1).mse = true ∧ (win.fn 1).d3 = false ∧ (win.fn 1).flr = false ∧ win.gb DEV_STATUS.SAFE = false ∧
      (List.range 16).find? (fun i => win.gb PEER.VALID i && decide (win.g PEER.RID i = 0x100)) = some 15 ∧ win.g PEER.WINDOW 15 = 0 ∧ win.gb WIN_CFG.ENABLE 0 = true ∧
      (2 ^ 21 - 4) / 2 ^ 21 < win.g WIN_CFG.GRANULES 0 ∧ win.cas.wins.find? (fun e => decide (e.1 = 0 ∧ e.2.1 = 0)) = some (0, 0, 3 + 2 ^ 21) ∧ (3 + 2 ^ 21) / 2 ^ 57 = 0 ∧
      bits (3 + 2 ^ 21) 20 2 = 0 ∧ bit (3 + 2 ^ 21) 1 = true ∧
      (let o := win.winStore 0 (win.g WIN_CFG.PASID 0) (bits (3 + 2 ^ 21) 56 21 * 2 ^ 21 + (2 ^ 21 - 4)) [1, 2, 3, 4] win.cas.nextIn
       o.1 = .ok 0 ∧ o.2.Quiet ∧ o.2.pending = win.pending ∧ o.2.dev.cold = win.dev.cold)) := by
  simp only [State.Powered, State.Quiet, State.RecordedUc]
  refine ⟨?_, ?_, ?_, ?_, ?_⟩ <;> decide +kernel

/-! ### The coherent fabric and device memory -/

/-- A line of device memory. -/
def dl : Nat := 2 ^ 46 + 5

/-- A message of wing 31 to the line's home. -/
def wm : Msg := { opc := 0, src := 31, dst := 0x40 + homeOf dl, txn := 3, ca := dl, mask := 255 }

theorem witness_RequestsAtTheHome : dev.Powered ∧ dev.Quiet ∧ dev.HomesRest ∧ isDev wm.ca = true ∧ wm.src < 32 ∧ dev.ent wm.ca = {} ∧
    dev.catPlace wm.ca = some (1, none) ∧ (dev.wline wm.src wm.ca).st = 0 := by
  unfold State.Powered State.Quiet State.HomesRest State.NothingOwed; decide +kernel

/-- Write-backs of an E and of an M line; one transaction that waits for each answer; snoops of a line not listed, listed with and without holders; an opcode
that is reserved. -/
theorem witness_AnswersAtTheHome :
    let eb (st : Nat) : State := { dev with wings := [(31, { eb := [⟨dl, st, zeros 64, false, 0⟩] })] }
    let cat (e : CatEnt) (h : List HTxn) : State := { dev with coh := { cat := [(dl, e)], homes := h } }
    let h : HTxn := { opc := 1, src := 31, txn := 3, line := dl }
    let ack := cat { way := 1, pres := 128 } [{ h with ack := true }]
    let rsi := cat { way := 1, pres := 1 } [{ h with opc := 4, dies := 128 }]
    let rss := cat { way := 1, pres := 128, owned := true, owner := 7 } [{ h with dies := 128 }]
    let dat := cat { way := 1 } [{ h with opc := 5, promised := 1, mask := 255 }]
    let sta := cat { way := 1 } [{ h with opc := 7, stash := true }]
    let host : State := { dev with coh := { cat := [(5, { way := 1 })], homes := [{ h with line := 5, hostSent := true }] },
                                   link := { dev.link with reqs := [{ tag := 9, fn := 0, owner := .home 5, ca := 320, io := false, issued := 0 }] } }
    let shared : State := { dev with coh := { cat := [(5, { way := 1, pres := 3, hgrant := 1 })] } }
    let bare : State := { dev with coh := { cat := [(5, { way := 1 })] } }
    let m : Msg := { opc := 0, src := 0x87, dst := 0x40 + homeOf dl, txn := 3, ca := dl, st := 2, dirty := true }
    (∀ s ∈ [eb 2, eb 4, ack, rsi, rss, dat, sta, host, shared, bare], s.Powered ∧ s.Quiet ∧ s.gb DEV_STATUS.SAFE = false) ∧
    ((eb 2).HomesRest ∧ (eb 4).HomesRest ∧ isDev dl = true ∧ (eb 2).ebOf 31 dl = some ⟨dl, 2, zeros 64, false, 0⟩ ∧ (eb 4).ebOf 31 dl = some ⟨dl, 4, zeros 64, false, 0⟩) ∧
    (ack.OneHome { h with ack := true } ∧ h.src = wm.src ∧ h.txn = wm.txn) ∧ rsi.OneHome { h with opc := 4, dies := 128 } ∧
    (rss.OneHome { h with dies := 128 } ∧ partyOf m.src = 7 ∧ (rss.ent dl).pres % 256 ≠ 0 ∧ m.st = 2 ∧ m.dirty = true) ∧
    dat.OneHome { h with opc := 5, promised := 1, mask := 255 } ∧ sta.OneHome { h with opc := 7, stash := true } ∧
    (host.OneHome { h with line := 5, hostSent := true } ∧ 383 / 64 = 5 ∧ isDev 5 = false ∧
      h.hub = none ∧ (host.ent 5).lost = false ∧ host.link.reqs.find? (fun r => decide (r.tag = 9)) = some { tag := 9, fn := 0, owner := .home 5, ca := 320, io := false, issued := 0 }) ∧
    (dev.HomesRest ∧ shared.HomesRest ∧ bare.HomesRest ∧ (dev.ent 5).way = 0 ∧ (shared.ent 5).way ≠ 0 ∧ (shared.ent 5).owned = false ∧ (shared.ent 5).hub = false ∧
      (bare.ent 5).way ≠ 0 ∧ (bare.ent 5).owned = false ∧ (bare.ent 5).hub = false ∧ (bare.ent 5).pres % 256 = 0) ∧
    (reservedOpc 0 = true ∧ reservedOpc 255 = true ∧ dev.dev.resetRun = false ∧ dev.effSev { source := srcId 3 (homeOf 5 % 32) (4 + 64 * (homeOf 5 / 32)), info0 := 5 * 2 ^ 16 } = (2, false)) := by
  simp only [State.Powered, State.Quiet, State.HomesRest, State.OneHome, State.NothingOwed]
  refine ⟨?_, ⟨?_, ?_, ?_⟩, ?_, ?_, ?_, ?_, ?_, ?_, ⟨?_, ?_, ?_, ?_⟩, ?_⟩ <;> decide +kernel

/-- A die of which wing 31 holds the line in M; a read of wing 31 without grant and data, with data, with a grant; a write-through; the engine's read; a
stash. -/
theorem witness_SnoopsAndGrants :
    let m : Msg := { opc := 0, src := 0x40 + homeOf dl, dst := 31, txn := 3, ca := dl, data := zeros 64 }
    let own : State := { dev with wings := [(31, { lines := [(dl, ⟨4, 0, zeros 64, 0⟩)] })] }
    let t : Txn := { opc := 1, agent := 31, txn := 3, line := dl }
    let ask (t : Txn) : State := { dev with coh := { txns := [t] } }
    let wt : State := { own with coh := { txns := [{ t with opc := 6 }] } }
    let eng : Txn := { t with agent := 0x21, slot := 63 }
    let on := dev.p WING_CACHE_STATUS.STATE 31 1
    (∀ s ∈ [own, ask t, ask { t with data := some (zeros 64) }, ask { t with grant := some 0x82 }, wt, ask eng, on], s.Powered ∧ s.Quiet ∧ s.HomesRest) ∧
    (0x87 = 0x80 + 7 ∧ (own.wline 31 dl).st = 4 ∧ ∀ k < 4, own.g WING_CACHE_STATUS.STATE (28 + k) ≠ 5 ∧ own.ebOf (28 + k) dl = none ∧ (k ≠ 3 → (own.wline (28 + k) dl).st = 0)) ∧
    ((ask t).txnOf m = some t ∧ t.data = none ∧ t.grant = none ∧ ∀ e ∈ (ask t).car, e.2.xfers = []) ∧
    ((ask { t with data := some (zeros 64) }).txnOf m = some { t with data := some (zeros 64) } ∧ (ask { t with grant := some 0x82 }).txnOf m = some { t with grant := some 0x82 } ∧
      zeros 64 = slice m.data 0 64 ∧ m.err = false ∧ t.who = none ∧ dev.g WING_CACHE_STATUS.STATE 31 ≠ 3 ∧ dev.g WING_CACHE_STATUS.STATE 31 ≠ 5) ∧
    (wt.txnOf m = some { t with opc := 6 } ∧ (wt.wline 31 dl).st ≠ 0 ∧ wt.nic.qps = [] ∧ wt.car = []) ∧
    ((ask eng).txnOf { m with dst := 0x21 } = some eng ∧ eng.opc = 1 ∧ eng.slot < 64 ∧ eng.orphan = false) ∧
    (on.policyOf dl = 0 ∧ on.g WING_CACHE_STATUS.STATE 31 = 1 ∧ on.pickWay 31 dl = some (0, none)) := by
  simp only [State.Powered, State.Quiet, State.HomesRest, State.NothingOwed]
  refine ⟨?_, ?_, ?_, ?_, ?_, ?_, ?_⟩ <;> decide +kernel

/-- A request in each phase; a write-back sent; caches in each state, alone and with another walk of the die. -/
theorem witness_RetriesAndWingCaches :
    let m : Msg := { opc := 0, src := 0x40 + homeOf dl, dst := 31, txn := 3, ca := dl }
    let t (p : Nat) : Txn := { opc := 1, agent := 31, txn := 3, line := dl, phase := p }
    let ask (p : Nat) : State := { dev with coh := { txns := [t p] } }
    let eb : State := { dev with wings := [(31, { eb := [⟨dl, 4, zeros 64, true, 0⟩] })] }
    let st (n : Nat) : State := dev.p WING_CACHE_STATUS.STATE 31 n
    let two := (st 1).p WING_CACHE_STATUS.STATE 28 3
    (∀ s ∈ [ask 0, ask 1, ask 2, ask 3, eb, st 0, st 1, st 2, st 3, st 4, st 5, two], s.Powered ∧ s.Quiet ∧ s.HomesRest ∧ s.hostMay 0 (0x14000 + 512 * 31) = true) ∧
    ((ask 0).txnOf m = some (t 0) ∧ (ask 3).txnOf m = some (t 3) ∧ (ask 2).txnOf m = some (t 2) ∧ (ask 1).txnOf m = some (t 1) ∧ (t 0).prefetch = false ∧
      (ask 1).coh.txns.find? (fun t => decide (t.agent = 31) && decide (t.txn = 3) && decide (t.phase = 1)) = some (t 1)) ∧
    (eb.ebOf 31 dl = some ⟨dl, 4, zeros 64, true, 0⟩ ∧ eb.g WING_CACHE_STATUS.STATE 31 ≠ 3 ∧ (eb.wing 31).rst = 0 ∧ eb.WingRests 31) ∧
    ((st 0).g WING_CACHE_STATUS.STATE 31 = 0 ∧ (st 5).g WING_CACHE_STATUS.STATE 31 = 5) ∧
    ((st 1).g WING_CACHE_STATUS.STATE 31 = 1 ∧ ((st 1).wing 31).rst = 0 ∧ (st 1).g WING_STATUS.STATE 31 ≠ 3 ∧ ((st 1).wing 31).lines = [] ∧ ∀ k < 4, 28 + k ≠ 31 → (st 1).g WING_CACHE_STATUS.STATE (28 + k) ≠ 3) ∧
    (two.g WING_CACHE_STATUS.STATE 31 = 1 ∧ two.g WING_CACHE_STATUS.STATE 28 = 3) ∧
    ((st 2).g WING_CACHE_STATUS.STATE 31 = 2 ∧ (st 3).g WING_CACHE_STATUS.STATE 31 = 3 ∧ (st 4).g WING_CACHE_STATUS.STATE 31 = 4 ∧ (st 4).WingRests 31) ∧
    ((st 3).wingEmpty 31 = true ∧ ((st 3).wing 31).rst = 0 ∧ (st 3).WingRests 31 ∧ (st 3).g WING_STATUS.STATE 31 ≠ 3 ∧ ∀ k < 4, (st 3).g WING_CACHE_STATUS.STATE (28 + k) ≠ 2) := by
  simp only [State.Powered, State.Quiet, State.HomesRest, State.WingRests, State.NothingOwed]
  refine ⟨?_, ?_, ?_, ?_, ?_, ?_, ?_, ?_⟩ <;> decide +kernel

/-- A read for a home; corrected errors of channel 0; a scrub of clean words; an entry of the combining buffer that is due; the reserve. -/
theorem witness_MemoryControllers :
    let h : HTxn := { opc := 1, src := 31, txn := 3, line := 2 ^ 46, memWait := true }
    let rd : State := { dev with coh := { homes := [h] } }
    let m := mute dev (srcId 4 (dev.chanOf 0 / 32) (dev.chanOf 0 % 32))
    let w : State := { dev with dmem := { wcb := [⟨2 ^ 46, zeros 64, 1, 0, 0⟩] }, time := 313 }
    let wb : State := mute { w with dmem := { w.dmem with bad := [3] } } (srcId 4 (dev.chanOf 24 / 32) (32 + dev.chanOf 24 % 32))
    let no : State := { w with dmem := { w.dmem with passed := [(w.stackOf 0, 10 ^ 9)] } }
    let re (n : Nat) : State := { dev.p RES_STATUS.STATE 0 n with dmem := { res := [(2 ^ 46, { way := 1, data := zeros 64, dirty := true })] } }
    (∀ s ∈ [rd, m, dev, w, wb, no, re 1, re 2], s.Powered ∧ s.Quiet ∧ s.hostMay 0 0x24000 = true ∧ s.partCount ≤ 15) ∧
    (rd.OneHome h ∧ 0 < rd.dmem.cap * 2 ^ 21 ∧ (rd.resLine (2 ^ 46)).way = 0 ∧ rd.dmem.wcb = [] ∧ rd.badWords (2 ^ 46) 0 = [] ∧ rd.resUses (rd.slotClass h.slot) = none ∧ rd.admits (rd.chargedTo 0) (rd.stackOf 0) = true) ∧
    (m.Recorded { source := srcId 4 (m.chanOf 0 / 32) (m.chanOf 0 % 32), info0 := 0 } ∧ m.dmem.ceWin = [] ∧ 1 < m.g MEM_POLICY.CE_LIMIT ∧ m.dmem.scrub = 0 ∧
      m.g MEM_POLICY.SCRUB_HOURS ≠ 0) ∧
    (∀ i < 32, dev.badWord (dev.dmem.scrub * 256 / 8 + i) = false) ∧
    (w.dmem.wcb.find? (fun e => decide (e.line = 2 ^ 46) && decide (w.stackOf (dpaOf e.line) = w.stackOf 0)) = some ⟨2 ^ 46, zeros 64, 1, 0, 0⟩ ∧ 0 + 313 ≤ w.time ∧
      w.admits 0 (w.stackOf 0) = true ∧ no.admits 0 (no.stackOf 0) = false) ∧
    (w.badWords (2 ^ 46) 1 = [] ∧ (1 : Nat) ≠ fullMask ∧ wb.badWords (2 ^ 46) 1 = [3] ∧ wb.admits 0 (wb.stackOf 0) = true ∧
      wb.RecordedUc { source := srcId 4 (wb.chanOf 24 / 32) (32 + wb.chanOf 24 % 32), info0 := 24, part := (wb.partOf noSlot).getD 0xF }) ∧
    ((re 1).g RES_STATUS.STATE 0 = 1 ∧ (re 2).g RES_STATUS.STATE 0 = 2) := by
  simp only [State.Powered, State.Quiet, State.OneHome, State.Recorded, State.RecordedUc, State.NothingOwed]
  refine ⟨?_, ?_, ?_, ?_, ?_, ?_, ?_⟩ <;> decide +kernel

/-- The last channel: a map-out in progress, the channel mapped out, no room, room; a candidate that starts; room ready; clearing; evacuation of the last
column. -/
theorem witness_MapOut :
    let busy : State := { dev with dmem := { mapout := some 0 } }
    let out := dev.p CMAP.STATE ((dev.colOfChan 383).getD 0) 2
    let full : State := { dev with dmem := { mapped := 24 } }
    let cand : State := { dev with dmem := { cand := [383 + 512] }, dev := { dev.dev with archRun := true } }
    let st (n : Nat) (d : MemSt) : State := { dev.p MEM_MAPOUT.STATE 0 n with dmem := d }
    let q := dev.g CMAP.CHANNEL 383
    let ev := mute (st 3 { mapout := some 383, mapped := 23 }) (srcId 4 (q / 32) (q % 32))
    (∀ s ∈ [dev, busy, out, full, cand, st 1 {}, st 2 {}, ev], s.Powered ∧ s.Quiet ∧ s.hostMay 0 0x20008 = true) ∧
    (busy.dmem.mapout ≠ none ∧ out.colOfChan 383 = none ∧ full.colOfChan 383 ≠ none ∧ full.mapoutRoom (383 / 32) = false ∧ dev.colOfChan 383 ≠ none ∧
      dev.mapoutRoom (383 / 32) = true ∧ dev.dmem.cand = []) ∧
    (cand.dmem.mapout = none ∧ cand.gb DEV_STATUS.SAFE = false ∧ (383 + 512) % 512 = 383 ∧ (cand.colOfChan 383).isSome = true ∧ cand.mapoutRoom (383 / 32) = true) ∧
    ((st 1 {}).g MEM_MAPOUT.STATE 0 = 1 ∧ (st 1 {}).cutFits = true) ∧
    ((st 2 {}).g MEM_MAPOUT.STATE 0 = 2 ∧ (st 2 {}).framesBusy ((st 2 {}).dmem.cap - 1024) (st 2 {}).dmem.cap = false ∧ (st 2 {}).dmem.owner = []) ∧
    (ev.dmem.mapout = some 383 ∧ ev.g MEM_MAPOUT.STATE 0 = 3 ∧ ev.dmem.mapped < 24 ∧ ev.dmem.cap < 2 ^ 19 ∧ q ∉ ev.dmem.down ∧
      ev.Recorded { source := srcId 4 (q / 32) (q % 32), info0 := 383 }) := by
  simp only [State.Powered, State.Quiet, State.Recorded]
  refine ⟨?_, ?_, ?_, ?_, ?_, ?_⟩ <;> decide +kernel

/-! ### Translation, the network, the cascade -/

/-- Translation requests of each fate; page requests; invalidations; the fault log; a probe. -/
theorem witness_Translation :
    let xl (x : XlFn) : State := { dev with xl := if x = {} then [] else [(0, x)] }
    let u : Waiter := { source := 3 }
    let z : Waiter := { source := 0, slot := 1 }
    let q (stale : List (Nat × Nat)) (retry : Nat) (u : Waiter) : AtsReq :=
      { pasid := 2 ^ 20 - 1, va := 2 ^ 57 - 4096, w := true, stale := stale, retry := retry, who := [u] }
    let ats (q : AtsReq) := xl { ats := [q] }
    let pr (u : Waiter) := xl { prs := [{ prg := 511, pasid := 0, va := 0, w := false, who := [u] }] }
    let inv : State := { xl { ats := [q [] 0 u] } with
      q := [(0, { accs := [{ bytes := natLe 1 1 ++ zeros 127, bufs := [⟨4096, 4096, 0, 3⟩] }] })], slots := [(0, {})],
      hubBuf := [⟨2 ^ 20 - 1, 4096, 12, 0, 0, true, true, false, 0, 1⟩, ⟨2 ^ 20 - 1, 8192, 12, 0, 0, true, true, false, 0, 1⟩] }
    let flr : State := { inv with fns := [(0, { mse := true, bme := true }), (1, { flr := true })] }
    let op : InvOp := ⟨31, false, 0, 0, 4096, 1⟩
    let done (E : Nat) : State := { xl { invs := [op] } with link := { dev.link with reqs := [{ tag := 9, fn := 1, owner := .wqe 5, ca := 0, io := true, issued := 0, epoch := E }] } }
    let e : LendEnt := { vpn := 0, pasid := 2 ^ 20 - 1, state := 3, frame := 2 ^ 19 - 1, r := true, w := false, advice := 3, bucket := 0 }
    let off : State := { ats (q [] 0 u) with fns := [(0, { mse := true, bme := true }), (1, { mse := true, bme := true })] }
    let pb : State := { xl { probe := some (2 ^ 20 - 1, 0) } with lend := [(0, [e])] }
    (∀ s ∈ [ats (q [] 0 z), ats (q [(2 ^ 57 - 1, 1)] 0 u), ats (q [(0, 2 ^ 57 - 4096)] 2 u), pr z, pr u, dev, inv, flr, done 0, done 1, off, pb], s.Powered ∧ s.Quiet ∧ 0 < s.partCount) ∧
    ((∀ x ∈ [q [] 0 z, q [(2 ^ 57 - 1, 1)] 0 u, q [(0, 2 ^ 57 - 4096)] 0 u, q [] 1 u, q [] 2 u], ((ats x).xlOf 0).ats = [x] ∧ x.sent = true ∧
        x.va / 2 ^ max 12 12 = (2 ^ 57 - 4096) / 2 ^ max 12 12) ∧
      (ats (q [] 0 z)).liveWho [z] = [] ∧ (ats (q [] 0 u)).liveWho [u] = [u] ∧ u.source ≠ 5 ∧ 2 ^ 57 - 1 < 2 ^ 57 - 4096 + 4096 ∧ 2 ^ 57 - 4096 < 2 ^ 57 - 1 + 1 ∧
      ¬ 2 ^ 57 - 4096 < 0 + (2 ^ 57 - 4096)) ∧
    (((pr z).xlOf 0).prs.find? (fun r => decide (r.prg = 511)) = some { prg := 511, pasid := 0, va := 0, w := false, who := [z] } ∧
      ((pr u).xlOf 0).prs.find? (fun r => decide (r.prg = 511)) = some { prg := 511, pasid := 0, va := 0, w := false, who := [u] } ∧ (pr z).NoTries ∧ (pr u).NoTries) ∧
    ((dev.xlOf 0).prs.find? (fun r => decide (r.prg = 511)) = none ∧ dev.NoTries) ∧
    (dev.cfgMay 1 = true ∧ dev.hostMay 1 0x6018 = true ∧ dev.hostMay 1 0x601C = true ∧ dev.hostMay 1 0x6048 = true ∧ (dev.g FLOG_STATUS.TAIL 0 + 2048 - 1024) % 2048 ≤ 1024) ∧
    (∀ s ∈ [inv, flr], (s.xlOf 0).invs.length < 32 ∧ (s.xlOf 0).invQ = [] ∧ s.epochFree 0 = true ∧ s.lendOf 0 = [] ∧ s.coh.homes = [] ∧
      ∀ n ∈ s.slotsOf 0, s.g CS_STATUS.STATE n ≠ 5) ∧
    (inv.PartRests 0 ∧ flr.PartRests 0 ∧ (done 0).PartRests 0 ∧ (done 1).PartRests 0) ∧
    ((inv.fn 1).flr = false ∧ (flr.fn 1).flr = true ∧ (done 0).older 0 false 0 1 = true ∧ (done 1).older 0 false 0 1 = false ∧
      ∀ E ∈ [0, 1], ((done E).xlOf 0).invs.find? (fun i => decide (i.itag = 31)) = some op ∧ ((done E).xlOf 0).invQ = [] ∧ (done E).gb DEV_STATUS.SAFE = false ∧
        (done E).coh.homes = [] ∧ ∀ n ∈ (done E).slotsOf 0, (done E).g CS_STATUS.STATE n ≠ 5) ∧
    (((ats (q [] 0 u)).fn 1).atsEn = true ∧ (off.fn 1).atsEn = false ∧ (off.xlOf 0).ats = [q [] 0 u] ∧ off.liveWho [u] = [u] ∧ flr.gb DEV_STATUS.SAFE = false) ∧
    ((pb.xlOf 0).probe = some (2 ^ 20 - 1, 0) ∧ (pb.lendOf 0).find? (fun e => decide (e.pasid = 2 ^ 20 - 1) && decide (e.vpn = 0)) = some e ∧
      e.advice < 8 ∧ e.frame < 2 ^ 19 ∧ e.state < 16) := by
  simp only [State.Powered, State.Quiet, State.PartRests, State.NoTries, State.NoFetch]
  refine ⟨?_, ?_, ⟨?_, ?_, ?_, ?_⟩, ?_, ?_, ?_, ⟨?_, ?_, ?_, ?_⟩, ?_, ?_, ?_⟩ <;> decide +kernel

/-- A context of port 31: state `st`, its rings of 16 entries (10 R366). -/
def ctx0 (st : Nat) (port : Nat := 31) : Bytes :=
  natLe 1 st ++ natLe 1 0 ++ natLe 1 port ++ natLe 1 1 ++ zeros 16 ++ natLe 1 1 ++ natLe 1 7 ++ natLe 1 7 ++ natLe 1 1 ++ natLe 1 2 ++ zeros 4 ++ natLe 1 0x44 ++ natLe 1 4 ++ zeros 97

/-- Port 31 is up; queue pair 5 is `READY` and holds `x`; region 0 admits reads and writes of 64 KiB; its pages are held as host memory. -/
def net (x : QpSt) : State :=
  { dev.p PORT_STATUS.LINK_UP 31 1 with
    arec := { dev.arec with cages := List.replicate 8 3 }, nic := { qps := [(5, x)] }, hubBuf := [⟨0, 0, 21, 0, 0, true, true, false, 0, 1⟩]
    dmem := { dram := Memory.write (Memory.write [] 640 (ctx0 1)) 0x80000 (natLe 8 0 ++ natLe 8 65536 ++ natLe 4 (2 ^ 31 + 2 ^ 23 + 2 ^ 22) ++ zeros 12) } }

/-- Frames that are taken, answered and dropped; PFC; a port that goes down without and with a queue pair, and comes up; a context written with each result;
a region written with each result. -/
theorem witness_PortsAndContexts :
    let up : State := { net {} with nic := {} }
    let pfc : State := up.p PORT_PFC.ENABLE 31 128
    let xon : State := { pfc with nic := { xoffSent := [(31, 128)] } }
    let mut1 (s : State) := mute s (srcId 6 31 2)
    let cage : State := { up with cages := [(7, { powered := true })] }
    let st (b : Bytes) (q : Nat) (s : State) : State := { s with nic := { s.nic with qpStage := Memory.write [] 0 b } }.p QP_INDEX.INDEX 0 q
    let ce (s : State) : State := { s with fns := [(0, { mse := true, cacheEn := true })] }
    let safe := (mut1 (net {})).p DEV_STATUS.SAFE 0 1
    let tx := net { tx := [{ qp := 0, psn := 0, op := 0 }] }
    let mr (f i : Nat) : State := { net {} with nic := { mrStage := Memory.write [] 16 (natLe 4 f) } }.p MR_INDEX.INDEX 0 i
    (∀ s ∈ [up, pfc, xon, mut1 up, mut1 (net {}), tx, cage, st (ctx0 2) 4095 up, st (ctx0 1) 5 (net {}), st (ctx0 1) 4095 up, st (ctx0 0) 4095 up, ce (st (ctx0 1) 4095 up),
        mr 0 0, mr 0 1, mr (15 * 2 ^ 24) 1], s.Powered ∧ s.Quiet ∧ s.hostMay 0 0x31008 = true ∧ s.hostMay 0 0x32008 = true ∧ s.g QP_INDEX.INDEX 0 < 4096) ∧
    (up.portUp 31 = true ∧ bit (up.g PORT_PFC.ENABLE 31) 7 = false ∧ 0 = up.g PORT_MAC.MAC 31 ∧ 0 = up.portIp 31 ∧ bit (2 ^ 40) 40 = true ∧ 2 ^ 39 ≠ up.g PORT_MAC.MAC 31 ∧ bit (2 ^ 39) 40 = false) ∧
    (tx.portUp 31 = true ∧ tx.nic.qps = [(5, { tx := [{ qp := 0, psn := 0, op := 0 }] })] ∧ tx.ctxF 5 2 1 = 31 ∧ (up.nic.qps = [])) ∧
    (pfc.portUp 31 = true ∧ bit (pfc.g PORT_PFC.ENABLE 31) 7 = true ∧ bit 0 7 = false ∧ pfc.g PORT_PFC.XOFF_KIB 31 < pfc.g PORT_PFC.XOFF_KIB 31 + 1) ∧
    (bit (tget (fun _ => 0) xon.nic.xoffSent 31) 7 = true ∧ 2 * 0 < xon.g PORT_PFC.XOFF_KIB 31 ∧ 0 = xon.g PORT_MAC.MAC 31 ∧ 0 = xon.portIp 31) ∧
    (safe.Powered ∧ safe.Quiet ∧ safe.gb PORT_STATUS.LINK_UP 31 = true ∧ safe.RecordedUc { source := srcId 6 31 2 } ∧ safe.gb DEV_STATUS.SAFE = true ∧ (mut1 (net {})).gb DEV_STATUS.SAFE = false) ∧
    ((mut1 up).gb PORT_STATUS.LINK_UP 31 = true ∧ (mut1 up).nic.qps = [] ∧ (mut1 up).RecordedUc { source := srcId 6 31 2 } ∧ (mut1 (net {})).nic.qps = [(5, {})] ∧
      (mut1 (net {})).RecordedUc { source := srcId 6 31 2 } ∧ (mut1 (net {})).qpState 5 = 1 ∧ (mut1 (net {})).ctxF 5 2 1 = 31) ∧
    (cage.portLanes 31 ≠ 0 ∧ (cage.cage (31 / 4)).powered = true ∧ cage.port.serdesLost = false ∧ cage.inService = true ∧ 31 ∉ cage.nic.bad) ∧
    (up.ctxOk (ctx0 2) = false ∧ up.ctxOk (ctx0 1) = true ∧ up.ctxOk (ctx0 0) = true ∧ (net {}).qpState 5 ≠ 0 ∧ up.qpState 4095 = 0 ∧ up.inService = true ∧ (st (ctx0 1) 4095 { up with link := {} }).link.up = false ∧ up.cacheEn = false ∧ (ce up).cacheEn = true ∧
      (st (ctx0 1) 4095 up).nic.qpStage.read 0 128 = ctx0 1 ∧ (up.qpOf 5).dbr = none ∧ up.link.reqs = []) ∧
    (bit ((mr 0 0).mrF 0 0x10 4) 31 = true ∧ bit ((mr 0 1).mrF 1 0x10 4) 31 = false ∧ bits (le ((mr 0 1).nic.mrStage.read 0 32) 0x10 4) 27 24 < (mr 0 1).partCount ∧
      (mr (15 * 2 ^ 24) 1).partCount ≤ bits (le ((mr (15 * 2 ^ 24) 1).nic.mrStage.read 0 32) 0x10 4) 27 24) := by
  simp only [State.Powered, State.Quiet, State.RecordedUc]
  refine ⟨?_, ?_, ?_, ?_, ?_, ?_, ?_, ?_, ?_, ?_⟩ <;> decide +kernel

/-- A read of a send request that is out. -/
def wqe (s : State) : State := { s with link := { s.link with reqs := [{ tag := 0, fn := 1, owner := .wqe 5, ca := 0, io := true, issued := 0 }] } }

theorem witness_SendingQueuePairs :
    let w (op len : Nat) : SendWr := { op := op, wrId := 1, len := len, signal := false, first := 2 ^ 24 - 1, last := if op = 5 then 2 ^ 24 - 1 else 0 }
    let b (g : Nat) : Bytes := natLe 1 1 ++ natLe 1 g ++ zeros 62
    let f0 := wqe (net { avail := 1 })
    let f8 := wqe (net { stale := 7, sq := 15 })
    let snd (x : QpSt) := net { x with sends := [w 1 0] }
    let late : State := { snd {} with time := 10 ^ 12 }
    let rd := net { sends := [w 5 8] }
    let p (psn ack : Nat) (d : Bytes) : RocePkt := { qp := 5, psn := psn, op := 0, ack := ack, data := d }
    let db := net { got := some (natLe 2 3 ++ natLe 2 1 ++ natLe 2 0 ++ natLe 2 1 ++ natLe 2 0 ++ natLe 2 1 ++ zeros 52) }
    (∀ s ∈ [f0, f8, snd {}, late, snd { rnrWait := true }, rd, db, net {}], s.Powered ∧ s.Quiet ∧ s.qpState 5 = 1 ∧ s.qpMay 5 = true) ∧
    (∀ s ∈ [f0, f8], s.readOf (.wqe 5) = some { tag := 0, fn := 1, owner := .wqe 5, ca := 0, io := true, issued := 0 } ∧ (let u := s.netLoad (128 * 5) 128
      u.1 = false ∧ u.2.stableRange 0 64 = true ∧ ∀ g ∈ [0, 1], let v := u.2.hubLoad 0 64 (some 3) (b g)
        v.1 = b g ∧ v.2.1 = false ∧ v.2.2.qpState 5 = 1 ∧ v.2.2.qpOf 5 = s.qpOf 5 ∧ v.2.2.qpMay 5 = true)) ∧
    ((f0.qpOf 5).stale = 0 ∧ (f8.qpOf 5).stale = 7 ∧ le (b 1) 1 1 % 2 = (f0.qpOf 5).sqGen ∧ le (b 0) 1 1 % 2 ≠ (f0.qpOf 5).sqGen ∧ wqeOk (b 1) = true ∧ bit (le (b 1) 1 1) 2 = false ∧
      le (b 1) 0 1 ≠ 5 ∧ le (b 1) 4 4 = 0 ∧ (f0.qpOf 5).avail ≤ 1 ∧ (f8.qpOf 5).avail ≤ 1) ∧
    (let u (ack psn : Nat) := ((snd {}).roceIn 31 (p psn ack [])).2
     (∀ a ∈ [(0, 0), (1, 0), (2, 2 ^ 24 - 1)], ((snd {}).roceIn 31 (p a.2 a.1 [])).1 = true ∧ ((u a.1 a.2).qpOf 5).sends = [w 1 0] ∧ ((u a.1 a.2).qpOf 5).avail = 0) ∧
      psnFrom (w 1 0).last 0 < 2 ^ 23 ∧ 2 ^ 23 ≤ psnFrom (w 1 0).last ((0 + 2 ^ 24 - 1) % 2 ^ 24) ∧ (u 1 0).ctxF 5 0x16 1 = 7 ∧
      2 ^ 23 ≤ psnFrom (w 1 0).last ((2 ^ 24 - 1 + 2 ^ 24 - 1) % 2 ^ 24) ∧ ((u 2 (2 ^ 24 - 1)).qpOf 5).retry < (u 2 (2 ^ 24 - 1)).ctxF 5 0x15 1) ∧
    (∀ d ∈ [zeros 7, zeros 8],
      let r := rd.roceIn 31 (p (2 ^ 24 - 1) 0 d)
      r.1 = true ∧ (r.2.qpOf 5).sends = [w 5 8] ∧ (r.2.qpOf 5).avail = 0 ∧ 2 ^ 23 ≤ psnFrom (w 5 8).last ((2 ^ 24 - 1 + 2 ^ 24 - 1) % 2 ^ 24) ∧
      psnFrom (w 5 8).first (2 ^ 24 - 1) * r.2.qpMtu 5 = (w 5 8).got ∧
      (r.2.placeVa ((d.take 8).length / 4096 + 3) { source := 3, carrel := 5 } (r.2.qpPart 5) (r.2.ctxF 5 4 4) 0 (d.take 8)).1 = .ok 0) ∧
    (((snd {}).qpOf 5).sends ≠ [] ∧ ((snd {}).qpOf 5).rnrWait = false ∧ ((snd {}).qpOf 5).retry < (snd {}).ctxF 5 0x15 1 ∧
      (snd {}).time < ((snd {}).qpOf 5).sentAt + 640 * 2 ^ (snd {}).ctxF 5 0x14 1 ∧ ¬ late.time < (late.qpOf 5).sentAt + 640 * 2 ^ late.ctxF 5 0x14 1) ∧
    (((snd { rnrWait := true }).qpOf 5).rnrWait = true ∧ ((snd { rnrWait := true }).qpOf 5).avail = 0) ∧
    ((db.qpOf 5).got ≠ none ∧ (db.qpOf 5).owed = [] ∧ ringCount 3 1 (db.qpOf 5).sq (db.qpOf 5).sqGen (db.ctxF 5 0x1D 1 % 16) = some 3 ∧
      ringCount 0 1 (db.qpOf 5).rq (db.qpOf 5).rqGen (db.ctxF 5 0x1D 1 / 16) = some 0) ∧ ((net {}).qpOf 5).a ≤ 2 ^ ((net {}).qpOf 5).ae ∧
    (let u := (net {}).netRead ((net {}).ctxF 5 2 1) (128 * 5) 128
     u.1 = false ∧ u.2.qpState 5 = 1 ∧ u.2.qpOf 5 = (net {}).qpOf 5) := by
  simp only [State.Powered, State.Quiet]
  refine ⟨?_, ?_, ?_, ?_, ?_, ?_, ?_, ?_, ?_, ?_⟩ <;> decide +kernel

/-- Packets in sequence that just fit, duplicates, after a gap; a first, an only and a middle packet of an RDMA WRITE; an RDMA READ of 64 KiB. -/
theorem witness_ReceivingQueuePairs :
    let s := net { recv := some { wrId := 1, va := 0, len := 8 } }
    let m := net { wr := some (0, 0, 8, 8) }
    let p (op psn : Nat) (d : Bytes) (len : Nat) : RocePkt := { qp := 5, psn := psn, op := op, data := d, len := len }
    s.Powered ∧ s.Quiet ∧ m.Powered ∧ m.Quiet ∧
    (∀ op ≤ 5, let r := s.roceIn 31 (p op 0 (zeros 8) 0)
      r.1 = true ∧ psnFrom (r.2.ctxF 5 0x10 4) 0 = 0 ∧ (r.2.qpOf 5).recv = some { wrId := 1, va := 0, len := 8 } ∧
        (r.2.placeVa (8 / 4096 + 3) { source := 3, carrel := 5 } (r.2.qpPart 5) (r.2.ctxF 5 4 4) 0 (zeros 8)).1 = .ok 0) ∧
    (let r := s.roceIn 31 (p 0 (2 ^ 23) [] 0); r.1 = true ∧ 2 ^ 23 ≤ psnFrom (r.2.ctxF 5 0x10 4) (2 ^ 23)) ∧
    (let r := s.roceIn 31 (p 0 1 [] 0); r.1 = true ∧ 0 < psnFrom (r.2.ctxF 5 0x10 4) 1 ∧ (r.2.qpOf 5).gap = false) ∧
    (let r := (net { gap := true }).roceIn 31 (p 0 1 [] 0); r.1 = true ∧ 0 < psnFrom (r.2.ctxF 5 0x10 4) 1 ∧ (r.2.qpOf 5).gap = true) ∧
    (let r := m.roceIn 31 (p 7 0 (zeros 8) 0); r.1 = true ∧ psnFrom (r.2.ctxF 5 0x10 4) 0 = 0 ∧ (r.2.qpOf 5).wr = some (0, 0, 8, 8) ∧ (r.2.mrPlace 5 0 0 (zeros 8)).1 = .ok 0) ∧
    (∀ op ∈ [6, 10], let r := s.roceIn 31 (p op 0 (zeros 8) 65536)
      r.1 = true ∧ psnFrom (r.2.ctxF 5 0x10 4) 0 = 0 ∧
      (let u := r.2.netRead 31 (mrOff 0) 32
       u.1 = false ∧ u.2.mrCheck 5 0 0 65536 true = some 0 ∧ (u.2.mrPlace 5 0 0 (zeros 8)).1 = .ok 0)) ∧
    (let r := s.roceIn 31 (p 0xC 0 [] 64)
     r.1 = true ∧ psnFrom (r.2.ctxF 5 0x10 4) 0 = 0 ∧
      (let u := r.2.netRead 31 (mrOff 0) 32
       u.1 = false ∧ u.2.mayRequest (u.2.qpFn 5) = true ∧ u.2.mrCheck 5 0 0 64 false = some 0 ∧
        (let g := u.2.payloadVa (u.2.qpPart 5) (bits (u.2.mrF 0 0x18 4) 19 0) 0 64 { source := 3, carrel := 5 } (zeros 64)
         g.1 = .ok 0 ∧ g.2.2.1 = false))) := by
  simp only [State.Powered, State.Quiet]
  refine ⟨?_, ?_, ?_, ?_, ?_, ?_, ?_, ?_, ?_, ?_, ?_⟩ <;> decide +kernel

/-- A member of a ring of 8, with links 8 to 11 powered, in the role `role`. -/
def grp (role : Nat) : State :=
  { dev with arec := { dev.arec with role := role, topo := 2, count := 8, member := 7, master := if role = 1 then 7 else 0, kind := 1, groupId := 9 }
             cages := [(8, { powered := true }), (9, { powered := true }), (10, { powered := true }), (11, { powered := true })] }

theorem witness_LinksAndMembers :
    let r0 := grp 0
    let m := grp 2
    let up := mute (m.p PLOLI_LINK.STATE 3 1) (srcId 7 3 1)
    let l1 := (grp 1).p CAS_STATUS.PRESENT 0 255
    let lost (role : Nat) : State := { mute ((grp role).p CAS_STATUS.PRESENT 0 255) (srcId 7 4 4) with time := 15625 }
    let memb := (grp 2).p CAS_STATUS.STATE 0 2
    let far : PloliPeer := { up := true, major := 0, group := 9, member := 6, master := 0, count := 8, topo := 2, kind := 1, reach := 1 }
    let tk : State := { (grp 1).p CAS_STATUS.STATE 0 1 with cas := { takes := [(1, 0, 3)] } }
    let fm := tk.p CAS_STATUS.STATE 0 2
    let all := fm.p CAS_STATUS.PRESENT 0 255
    (∀ s ∈ [r0, m, up, l1, lost 1, lost 2, memb, tk, fm, all], s.Powered ∧ s.Quiet ∧ s.inService = true ∧ (∀ l < 4, (s.cage (8 + l)).powered = true) ∧ s.port.serdesLost = false ∧ s.cas.bad = [] ∧
      s.ploliMajor = 0) ∧
    (r0.arec.role = 0 ∧ m.arec.role ≠ 0 ∧ farMember 2 8 7 3 = none ∧ farMember 2 8 7 0 = some 6) ∧
    (0 + 1 < 2 ∧ far.major ≤ 1 ∧ far.group = m.arec.groupId ∧ far.member = 6 ∧ far.member ≠ m.arec.member ∧ far.master = m.arec.master ∧ far.count = m.arec.count ∧
      far.topo = m.arec.topo ∧ far.kind = m.arec.kind ∧ 1 ≠ m.arec.master) ∧
    (up.g PLOLI_LINK.STATE 3 = 1 ∧ up.Recorded { source := srcId 7 3 1 } ∧ up.RecordedUc { source := srcId 7 3 2 } ∧ m.g PLOLI_LINK.STATE 3 ≠ 1 ∧ m.g PLOLI_LINK.STATE 3 ≠ 5) ∧
    (∀ role ∈ [1, 2], ∀ x ∈ [0], x < (lost role).arec.count ∧ x ≠ (lost role).arec.member ∧ bit (lost role).reached x = false ∧ bit ((lost role).g CAS_STATUS.PRESENT) x = true ∧
      tget (fun _ => 0) (lost role).cas.gone x + 15625 ≤ (lost role).time ∧ (lost role).cas.il = [] ∧ (lost role).RecordedUc { source := srcId 7 4 4, info0 := x } ∧ (role = 2 → x = (lost role).arec.master)) ∧
    (memb.arec.role = 2 ∧ memb.grouped = true ∧ memb.inPlan 16 = true ∧ memb.inPlan 31 = true ∧ memb.inPlan 32 = false) ∧
    ((1, 0, 3) ∈ tk.cas.takes ∧ (1, 0, 3) ∉ tk.cas.came ∧ tk.groupGoes = false ∧ fm.groupGoes = true ∧ fm.takesPart 0 3 = false ∧
      bit (fm.g CAS_STATUS.PRESENT) 1 = false ∧ all.groupGoes = true ∧ all.takesPart 0 3 = false ∧
      (∀ x ∈ all.cas.takes, x ∈ [(1, 0, 3)] ∧ bit (all.g CAS_STATUS.PRESENT) x.1 = true) ∧ 0 < tk.arec.count ∧ 0 ≠ tk.arec.member) := by
  simp only [State.Powered, State.Quiet, State.Recorded, State.RecordedUc]
  refine ⟨?_, ?_, ?_, ?_, ?_, ?_, ?_⟩ <;> decide +kernel

/-- A window that is off, one that admits; responses of each status; a time-out; handles bound, unbound and read with each result. -/
theorem witness_InterloanAndWindows :
    let win : State := { ((dev.p WIN_CFG.ENABLE 0 1).p WIN_CFG.GRANULES 0 1) with
      fns := [(0, { mse := true, bme := true }), (1, { mse := true, bme := true, pasidEn := true })], cas := { wins := [(0, 0, 3 + 2 ^ 21)] }, hubBuf := [⟨0, 2 ^ 21, 21, 0, 0, true, true, false, 0, 1⟩] }
    let t : IlTx := { itag := 4, p := 0, tag := 0, piece := { loc := 0, off := 0, len := 8 }, slot := 0, member := 1, window := 0, off := 0, write := false, windowed := false, sent := 0, left := true }
    let il : State := { dev with cas := { il := [t] }, time := 10000000 }
    let formed := { grp 1 with arec := { (grp 1).arec with parts := [{}] } }.p CAS_STATUS.STATE 0 2
    let sel (s : State) (h : Nat) := (s.p IL_SEL.HANDLE 0 h)
    let far := ((sel formed 32).p IL_CMD.MEMBER 0 0)
    let rem : State := { far with slots := [(0, { handles := [(32, some { remote := true, len := 65536 })] })] }
    let run := dev.p SLOT_STATUS.STATE 0 3
    (∀ s ∈ [dev, win, il, formed, sel formed 31, far, rem, run, dev.p WIN_CFG.ENABLE 511 1], s.Powered ∧ s.Quiet ∧ s.hostMay 0 0x41010 = true ∧ s.g IL_SEL.SLOT 0 = 0 ∧
      s.hostMay 0 (0x44010 + 2048 * 7 + 32 * 63) = true ∧ s.hostMay 0 (0x44008 + 2048 * 7 + 32 * 63) = true) ∧
    dev.gb WIN_CFG.ENABLE 0 = false ∧
    (win.winCheck 0 (2 ^ 21 - 8) true [] win.cas.nextIn = (.ok 0 0 (2 ^ 21 + 2 ^ 21 - 8), win) ∧ win.mayRequest 1 = true ∧
      (win.winStore 0 0 (2 ^ 21 + 2 ^ 21 - 8) (zeros 8) win.cas.nextIn).1 = .ok 0) ∧
    (win.winCheck 0 0 false [] win.cas.nextIn = (.ok 0 0 (2 ^ 21), win) ∧ (let g := win.payloadVa 0 0 (2 ^ 21) 64 { source := 4, aux := win.cas.nextIn } (zeros 64)
      g.1 = .ok 0 ∧ g.2.2.1 = false)) ∧
    (il.cas.il.find? (fun t => decide (t.itag = 4) && t.left) = some t ∧ il.cas.il = [t] ∧ t.sent + 10000000 ≤ il.time ∧ tget (fun _ => 0) il.cas.openTo 0 ≤ il.time) ∧
    (run.g SLOT_STATUS.STATE 0 = 3 ∧ dev.g SLOT_STATUS.STATE 0 ≠ 3 ∧ dev.g CAS_STATUS.STATE 0 ≠ 2 ∧ formed.g SLOT_STATUS.STATE 0 ≠ 3 ∧ formed.g CAS_STATUS.STATE 0 = 2) ∧
    ((sel formed 31).g IL_SEL.HANDLE 0 < 32 ∧ far.g IL_SEL.HANDLE 0 = 32 ∧ far.g SLOT_STATUS.STATE 0 ≠ 3 ∧ far.g CAS_STATUS.STATE 0 = 2 ∧ far.partOf 0 ≠ none ∧
      far.g IL_CMD.MEMBER 0 < far.arec.count ∧ far.g IL_CMD.MEMBER 0 ≠ far.arec.member ∧ far.g IL_TARGET.OFFSET 0 % 8 = 0 ∧ tget (fun _ => none) (far.slot 0).handles 32 = none) ∧
    (rem.g SLOT_STATUS.STATE 0 ≠ 3 ∧ rem.g CAS_STATUS.STATE 0 = 2 ∧ rem.g IL_SEL.HANDLE 0 = 32 ∧ tget (fun _ => none) (rem.slot 0).handles 32 = some { remote := true, len := 65536 }) ∧
    ((dev.p WIN_CFG.ENABLE 511 1).gb WIN_CFG.ENABLE 511 = true ∧ dev.gb WIN_CFG.ENABLE 511 = false) := by
  simp only [State.Powered, State.Quiet]
  refine ⟨?_, ?_, ?_, ?_, ?_, ?_, ?_, ?_, ?_⟩ <;> decide +kernel

/-! ### Power and temperature -/

/-- A sample at the cap; periods that end with a faster, a slower and no step; a step's end. -/
theorem witness_PowerLoops :
    let at_ (cur target n sum : Nat) : State := { dev.p PWR_OP.TARGET 0 target with pwr := { cur := cur, densN := n, densSum := sum }, dev := { dev.dev with archRun := true } }
    let st : State := { dev with pwr := { step := some true, cur := 7 } }
    (∀ s ∈ [dev, at_ 0 7 0 0, at_ 6 0 1 15, at_ 1 0 1 0, at_ 7 7 1 15, st], s.Powered ∧ s.Quiet ∧ s.gb PWR_STATUS.CAP_UNMET = false ∧ s.gb DEV_STATUS.SAFE = false) ∧
    (∀ s ∈ [at_ 0 7 0 0, at_ 6 0 1 15, at_ 1 0 1 0, at_ 7 7 1 15], s.pwr.step = none ∧ s.dev.archRun = true) ∧
    ((at_ 0 7 0 0).pwr.cur < (at_ 0 7 0 0).g PWR_OP.TARGET ∧ (at_ 6 0 1 15).g PWR_OP.TARGET ≤ 6 ∧ ((at_ 6 0 1 15).g PWR_POLICY.DOWN_D : ℚ) ≤ (15 : ℕ) / (1 : ℕ)) ∧
    ((at_ 1 0 1 0).g PWR_OP.TARGET < 1 ∧ ¬ ((at_ 1 0 1 0).g PWR_POLICY.DOWN_D : ℚ) ≤ (0 : ℕ) / (1 : ℕ) ∧ (at_ 1 0 1 0).pwr.densAny = false ∧
      0 * opClock 0 + 100 * (at_ 1 0 1 0).g PWR_CAP.HYST * opClock 1 ≤ 10 * (at_ 1 0 1 0).capEff * opClock 1) ∧
    (at_ 7 7 1 15).g PWR_OP.TARGET = (at_ 7 7 1 15).pwr.cur ∧ st.pwr.step = some true := by
  simp only [State.Powered, State.Quiet]
  refine ⟨?_, ?_, ⟨?_, ?_, ?_⟩, ⟨?_, ?_, ?_, ?_⟩, ?_, ?_⟩ <;> decide +kernel

/-- Every sensor at 65535 (−1/16 °C); a supply that is absent, one that is present. -/
theorem witness_TemperatureAndSupply :
    (dev.Powered ∧ dev.Quiet ∧ ∀ k < 56, (List.replicate 56 65535).getD k 0 < 65536) ∧ ({ dev with pwr := { noVin := true } } : State).pwr.noVin = true ∧ dev.pwr.noVin = false := by
  simp only [State.Powered, State.Quiet]; decide +kernel

/-! ### The ledger, updates, errors, starts -/

/-- A window of zeros with its last four bytes `b`. -/
theorem head_read (n : Nat) (b : Bytes) (hb : b.length = 4) : Memory.read (Memory.write [] n b) 0 (n + 4) = zeros n ++ b := by
  have hw : Memory.write [] n b = cellsOf n b := by simp [Memory.write]
  apply List.ext_getElem
  · simp [Memory.read, zeros, hb]
  · intro i h1 h2
    have hi : i < n + 4 := by simpa [Memory.read] using h1
    have e : (Memory.read (Memory.write [] n b) 0 (n + 4))[i] = tget (fun _ => (0 : Byte)) (cellsOf n b) i := by
      simp only [Memory.read, List.getElem_map, List.getElem_range, Nat.zero_add, hw]
      exact tget_filter (fun _ => (0 : Byte)) (fun k => decide (0 ≤ k) && decide (k < n + 4)) _ i (by simp [hi])
    rw [e]
    by_cases hlt : i < n
    · rw [tget_none _ _ _ (fun c hc => by have := (cellsOf_ge n b c hc).1; omega), List.getElem_append_left (by simp [zeros, hlt])]
      simp [zeros]
    · have : i = n + (i - n) := by omega
      rw [List.getElem_append_right (by simp [zeros]; omega)]
      conv_lhs => rw [this]
      rw [tget_cellsOf n b (i - n) (by omega)]
      simp [zeros]

theorem le_head (n : Nat) (b : Bytes) (hb : b.length = 4) (hn : 4 ≤ n) : le (zeros n ++ b) n 4 = leNat b ∧ (zeros n ++ b).take n = zeros n ∧ le (zeros n ++ b) 0 4 = 0 := by
  refine ⟨by simp [le, slice, zeros, hb, List.take_of_length_le (Nat.le_of_eq hb)], by simp [zeros], ?_⟩
  have : (zeros n ++ b).take 4 = zeros 4 := by rw [List.take_append_of_le_length (by simp [zeros, hn])]; simp [zeros, hn]
  simp only [le, slice, List.drop_zero, this]
  decide

theorem crc32c_lt (bs : Bytes) : crc32c bs < 2 ^ 32 := by
  have hbit : ∀ c, c < 2 ^ 32 → crc32cBit c < 2 ^ 32 := by
    intro c hc
    unfold crc32cBit
    split
    · exact Nat.xor_lt_two_pow (by omega) (by decide)
    · omega
  have hfold : ∀ (l : List Nat) c, c < 2 ^ 32 → l.foldl (fun c _ => crc32cBit c) c < 2 ^ 32 := by
    intro l
    induction l with
    | nil => intro c hc; exact hc
    | cons a l ih => intro c hc; exact ih _ (hbit c hc)
  have hbyte : ∀ (l : Bytes) c, c < 2 ^ 32 → l.foldl crc32cByte c < 2 ^ 32 := by
    intro l
    induction l with
    | nil => intro c hc; exact hc
    | cons a l ih => intro c hc; exact ih _ (hfold _ _ (Nat.xor_lt_two_pow hc (by have := a.isLt; omega)))
  exact Nat.xor_lt_two_pow (hbyte _ _ (by decide)) (by decide)

/-- A staged header whose check sum is right and whose magic is not, and one whose check sum is wrong. -/
theorem witness_headers : ∃ m n : Memory,
    (let h := m.read 0 0x2000; le h 0x1FFC 4 = crc32c (h.take 0x1FFC) ∧ le h 0 4 ≠ 0x5746484D) ∧ (let h := n.read 0 0x2000; le h 0x1FFC 4 ≠ crc32c (h.take 0x1FFC)) := by
  have l4 : ∀ x, leNat (natLe 4 x) = x % 2 ^ 32 := by intro x; simp [natLe, leNat]; omega
  suffices h : ∀ k, 4 ≤ k → ∃ m n : Memory,
      (let h := m.read 0 (k + 4); le h k 4 = crc32c (h.take k) ∧ le h 0 4 ≠ 0x5746484D) ∧ (let h := n.read 0 (k + 4); le h k 4 ≠ crc32c (h.take k)) from h 0x1FFC (by decide)
  intro k hk
  have hc := crc32c_lt (zeros k)
  refine ⟨Memory.write [] k (natLe 4 (crc32c (zeros k))), Memory.write [] k (natLe 4 (crc32c (zeros k) + 1)), ?_, ?_⟩
  · obtain ⟨a, b, c⟩ := le_head k (natLe 4 (crc32c (zeros k))) rfl hk
    simp only [head_read _ (natLe 4 (crc32c (zeros k))) rfl, a, b, c, l4, Nat.mod_eq_of_lt hc]
    exact ⟨trivial, by decide⟩
  · obtain ⟨a, b, c⟩ := le_head k (natLe 4 (crc32c (zeros k) + 1)) rfl hk
    simp only [head_read _ (natLe 4 (crc32c (zeros k) + 1)) rfl, a, b, l4]
    omega

theorem witness_LedgerAndSidePorts :
    let port := mute ({ (dev.p PORT_STATUS.LINK_UP 31 1) with time := 1562500 }) (srcId 6 31 2)
    let t0 : State := { dev with time := 1562500, port := { dyn := some 8 } }
    let wait : State := { t0 with port := { dyn := some 8, fetchTo := 1562501 } }
    let arch (l : LedgerSt) : State := { dev with led := l, dev := { dev.dev with archRun := true } }
    let rd : State := arch { busyRead := true, recs := [{ seq := 0, typ := 1 }] }
    let no : State := arch { busyRead := true }
    (∀ s ∈ [dev, port, t0, wait, arch {}, arch { calNext := some (1, 2), busyCal := true }, rd, no], s.Powered ∧ s.Quiet ∧ s.hostMay 0 0x7104 = true ∧
      (∀ l < 4, s.g PLOLI_LINK.STATE l ≠ 1) ∧ s.nic.qps = [] ∧ s.gb LEDGER_FLAGS.BUSY = false) ∧
    ((∀ n < 32, dev.gb PORT_STATUS.LINK_UP n = false) ∧ port.gb PORT_STATUS.LINK_UP 31 = true ∧ (∀ m < 32, m ≠ 31 → port.gb PORT_STATUS.LINK_UP m = false) ∧
      port.RecordedUc { source := srcId 6 31 2 }) ∧
    (t0.led.t0 + 1562500 ≤ t0.time ∧ t0.port.dyn ≠ none ∧ t0.port.fetchTo ≤ t0.time ∧ wait.time < wait.port.fetchTo ∧ t0.bar0Open 0 0x6008 = true ∧
      (∀ v ∈ [600, 2400], bits v 11 0 = v ∧ v % 10 = 0 ∧ bits v 27 24 = 0)) ∧
    ((arch {}).dev.archRun = true ∧ (arch { calNext := some (1, 2), busyCal := true }).led.calNext = some (1, 2) ∧ (arch { calNext := some (1, 2), busyCal := true }).led.busyCal = true) ∧
    (rd.led.busyRead = true ∧ rd.led.recs.find? (fun r => decide (r.seq = rd.g LEDGER_READ.SEQ)) = some { seq := 0, typ := 1 } ∧ no.led.busyRead = true ∧ no.led.recs = []) := by
  simp only [State.Powered, State.Quiet, State.RecordedUc]
  refine ⟨?_, ?_, ?_, ?_, ?_⟩ <;> decide +kernel

/-- The management staging in state `st`, with the header `hdr`; slots as `f`. -/
def fwSt (st : Nat) (f : FwSt) : State := { dev.p UPD_STATUS.STATE 0 st with fw := f, dev := { dev.dev with archRun := true, deskRun := true } }

/-- Headers of each fate; chunks that are too long and that fit; images of each kind; slots to activate; trials confirmed and timed out; library blocks. -/
theorem witness_UpdatesAndTrials :
    let hdr (kind size : Nat) : Bytes := zeros 6 ++ natLe 1 kind ++ zeros 33 ++ natLe 4 size
    let st (kind : Nat) (sp : Bool) := fwSt 1 { hdr := hdr kind 65536, spoiled := sp }
    let tr (k e : Nat) := fwSt 0 { slots := [(k, { state := 4 })], trial := some k, trialEnd := e }
    let act := fwSt 0 { slots := [(2, { state := 2 }), (3, { state := 3 })] }
    let lib (d : Bytes) : State := mute (fwSt 0 { desk := some 2, libDig := [Config.sha384 d] }) (srcId 11 3 1)
    (∀ s ∈ [fwSt 0 {}, st 1 true, st 1 false, st 2 false, st 3 false, fwSt 2 {}, fwSt 3 {}, act, tr 0 0, tr 1 1, tr 3 0, tr 2 1], s.Powered ∧ s.Quiet ∧ s.hostMay 0 0x7000 = true ∧
      s.dev.archRun = true ∧ s.dev.deskRun = true ∧ s.inService = true ∧ s.gb RESET_CTL.BUSY = false ∧ s.flt.deskHeld = false) ∧
    (∀ n ∈ [0, 1, 2, 3], (fwSt n {}).g UPD_STATUS.STATE 0 = n) ∧
    (∀ kind ∈ [1, 2, 3], le (hdr kind 65536) 6 1 = kind ∧ le (hdr kind 65536) 0x28 4 = 65536) ∧
    ((st 3 false).g UPD_LEN.BYTES 0 = 0 ∧ (let c := (st 1 false).p UPD_LEN.BYTES 0 65536; c.g UPD_LEN.BYTES 0 = 65536 ∧ c.fw.payload.length + 65536 ≤ le c.fw.hdr 0x28 4)) ∧
    (act.fwSlot 3).state = 3 ∧ (∀ k < 4, (tr k 1).fw.trial = some k ∧ (tr k 1).time < (tr k 1).fw.trialEnd ∧ (tr k 0).fw.trialEnd ≤ (tr k 0).time) ∧
    (let z := fwSt 0 {}
      let d := Config.ctrOpen Config.fwKey (slice (z.slotHdr 2) 0x30 12) (le (z.slotHdr 2) 0x2C 4) (((z.slotPayload 2).drop (le (z.slotHdr 2) 0x2C 4)).take 65536)
      let s := lib d
      (s.slotHdr 2 = z.slotHdr 2 ∧ s.slotPayload 2 = z.slotPayload 2) ∧
      s.Powered ∧ s.Quiet ∧ s.fw.desk = some 2 ∧ s.dev.deskRun = true ∧ s.dev.archRun = true ∧ s.fw.libDig[0]? = some (Config.sha384 d) ∧ s.fw.libDig.length ≤ 1 ∧
      s.RecordedUc { source := srcId 11 3 1, sev := some 1 }) := by
  simp only [State.Powered, State.Quiet, State.RecordedUc]
  refine ⟨?_, ?_, ?_, ?_, ?_, ?_, ⟨⟨?_, ?_⟩, ?_⟩⟩
  · decide +kernel
  · decide +kernel
  · decide +kernel
  · decide +kernel
  · decide +kernel
  · decide +kernel
  · unfold State.slotHdr; exact congrArg (fun m : Memory => m.read (slotBase 2) 0x2000) (rfl : _ = ([] : Memory))
  · unfold State.slotPayload State.slotHdr; exact congrArg (fun m : Memory => m.read (slotBase 2 + 0x2000) (le (m.read (slotBase 2) 0x2000) 0x28 4)) (rfl : _ = ([] : Memory))
  · refine ⟨⟨by decide +kernel, by decide +kernel⟩, ⟨by decide +kernel, by decide +kernel⟩, by decide +kernel, by decide +kernel, by decide +kernel, rfl, Nat.le_refl 1, ?_⟩
    decide +kernel

/-- A corrected, an uncorrected, a fatal event; errors of carrels; forced events; the pin; the reset timer; the trap; substitutions; a wing reset's end. -/
theorem witness_ErrorsAndRepairs :
    let ce := mute dev (srcId 12 0 0)
    let lnk := mute dev (srcId 5 0 0)
    let arch (s : State) : State := { s with dev := { s.dev with archRun := true } }
    let subst (s : State) (p : List Nat) : State := { s.p WING_STATUS.STATE 31 0 with flt := { s.flt with trap := true, subst := p } }
    let none16 : State := { dev with car := (List.range 16).map fun j => (144 * 31 + 128 + j, { failed := true }) }
    let own : State := { dev.p SLOT_STATUS.STATE 0 2 with slots := [(0, { allot := [255] })] }
    let com : State := { dev.p WING_STATUS.STATE 31 2 with flt := { subst := [dev.phys 4095] } }
    let pulse (h : Bool) (t : Nat) : State := arch { dev with flt := { pulse := true, pulseHeld := h }, time := t }
    let chip (st : Nat) : State := { inSt st with flt := { chip := some (0, 0) } }
    let rst (c : Nat) : State := { (dev.p WING_STATUS.STATE 31 1).p WING_CACHE_STATUS.STATE 31 c with wings := [(31, { rst := 3 })] }
    let rstN : State := { (rst 0).p SLOT_STATUS.STATE 3 6 with slots := [(3, { allot := [255], inv := some k0.inv, ending := some { status := 5 }, clear := [31] })] }
    let sens := mute dev (srcId 9 2 5)
    let safe := dev.p DEV_STATUS.SAFE 0 1
    (∀ s ∈ [ce, arch dev, subst dev [], arch (subst dev [dev.phys 4095]), arch (subst none16 [dev.phys 4095]), arch (subst own [dev.phys 4095]), com, pulse false 0, pulse true 157, chip 4, chip 5,
        rst 0, rst 3, rstN, sens], s.Powered ∧ s.Quiet ∧ s.hostMay 0 0x2020 = true ∧ s.hostMay 0 (0x8260 + 1024 * 31) = true ∧ s.hostMay 0 (0x8268 + 1024 * 31) = true ∧
        s.hostMay 0 0x4F18 = true ∧ s.dev.started = true ∧ s.dev.resetRun = false ∧ s.dev.lcStep = 0 ∧ s.dev.held = false) ∧
    (lnk.Powered ∧ lnk.Quiet ∧ lnk.Recorded { source := srcId 5 0 0 } ∧ 0 ≤ maxInst 5 ∧ subOk 5 0 0 = true) ∧
    (∀ s ∈ [ce], maxInst 12 = 1 ∧ (∃ sub < 128, subOk 12 0 sub = true ∧ fixedSev (srcId 12 0 sub) = 1) ∧ subOk 12 0 0 = true ∧ s.gb DEV_STATUS.SAFE = false) ∧
    (subOk 2 31 0 = true ∧ (mute dev (srcId 9 0 0)).effSev { source := srcId 2 31 0 } = (0, false) ∧ dev.effSev { source := srcId 2 28 0x41 } = (2, false) ∧ subOk 2 28 0x41 = true ∧
      dev.effSev { source := srcId 13 1 0x65 } = (2, false) ∧ subOk 13 1 0x65 = true ∧ sens.RecordedUc { source := srcId 9 2 5 } ∧ subOk 9 2 5 = true) ∧
    (dev.deviceOf (144 * 31 + 127) = some 4095 ∧ dev.slotOfShelf (shelfOf 4095) = none ∧
      (∀ sub ≤ 4, dev.effSev { source := srcId 0 31 sub, info0 := 127 } = (if sub = 0 then 0 else 1, false))) ∧
    ((arch (subst dev [dev.phys 4095])).g WING_STATUS.STATE 31 = 0 ∧ (dev.freeSpare 31).isSome = true ∧ none16.freeSpare 31 = none ∧ own.slotOfShelf (shelfOf 4095) = some 0 ∧
      (own.slot 0).inv = none ∧ own.g SLOT_STATUS.STATE 0 = 2 ∧ (own.freeSpare 31).isSome = true ∧ none16.slotOfShelf (shelfOf 4095) = none ∧ dev.phys 4095 / 144 = 31) ∧
    ((com.wing 31).rst = 0 ∧ com.flt.trap = false ∧ com.flt.subst = [com.phys 4095] ∧ com.deviceOf (com.phys 4095) = some 4095 ∧ (com.freeSpare 31).isSome = true ∧
      com.slotOfShelf (shelfOf 4095) = none ∧ com.g WING_STATUS.STATE 31 = 2 ∧ com.slotsInWing 31 = [] ∧ com.flt.repairs = []) ∧
    ((pulse true 157).flt.pulseAt + 157 ≤ (pulse true 157).time ∧ (chip 4).g DEV_STATUS.STATE 0 = 4 ∧ (chip 5).gb DEV_STATUS.SAFE = false ∧ (chip 4).dmem.mapout = none ∧ safe.gb DEV_STATUS.SAFE = true) ∧
    ((∀ s ∈ [rst 0, rst 3, rstN], (s.wing 31).rst ≠ 0 ∧ s.wingEmpty 31 = true) ∧ (rst 0).slotsInWing 31 = [] ∧ rstN.slotsInWing 31 = [3] ∧
      (rst 0).g WING_CACHE_STATUS.STATE 31 = 0 ∧ rstN.g WING_CACHE_STATUS.STATE 31 = 0 ∧ (rst 3).g WING_CACHE_STATUS.STATE 31 ≠ 0 ∧
      ∀ k < 4, (rst 3).g WING_CACHE_STATUS.STATE (28 + k) ≠ 2) := by
  simp only [State.Powered, State.Quiet, State.Recorded, State.RecordedUc]
  refine ⟨?_, ?_, ?_, ?_, ?_, ?_, ?_, ?_, ?_⟩ <;> decide +kernel

theorem witness_FatalEvents :
    let e : Event := { source := srcId 2 31 0x40 }
    let f : Event := { source := srcId 13 1 127, forced := some 2 }
    let run : State := { dev with dev := { dev.dev with resetRun := true } }
    let u := dev.p COL_REACT_W2.UC_MASK 31 12
    (∀ s ∈ [dev, run, u], s.Powered ∧ s.Quiet ∧ s.gb DEV_STATUS.SAFE = false) ∧ (e.source < 57344 ∧ f.source < 57344) ∧
    ((dev.effSev f).1 = 2 ∧ dev.dev.resetRun = false ∧ (run.effSev f).1 = 2 ∧ run.dev.resetRun = true ∧ run.dev.pendSafe = none) ∧
    ((u.effSev e).1 = 1 ∧ bit (u.maskOf e.source 1) 3 = true ∧ bit (u.maskOf e.source 1) 2 = true ∧ u.flt.chip = none ∧ ∀ w < 32, u.cls2Again w = false) := by
  simp only [State.Powered, State.Quiet]
  refine ⟨?_, ?_, ?_, ?_⟩ <;> decide +kernel

/-- The reset state; each device state in which a command of the start, of a reset or of the life cycle acts. -/
theorem witness_StartsAndLifeCycles :
    let s (st : Nat) (d : DevSt) (f : FwSt) : State := { inSt st with dev := d, fw := f }
    let slots : Tab FwSlot := [(0, { state := 2 }), (2, { state := 2 })]
    let acc := s 1 {} { slots := slots }
    let cal := s 2 { archRun := true } {}
    let calM := mute cal (srcId 6 31 2)
    let wip := s 3 { wiped := true, archRun := true } { slots := slots }
    let held : State := { wip with flt := { deskHeld := true } }
    let rec_ := s 6 {} { slots := slots }
    let svc := s 4 { archRun := true, deskRun := true, lifecycle := 4 } { slots := slots }
    let busy := svc.p RESET_CTL.BUSY 0 1
    let shut : State := { svc with led := { shutOwed := true } }
    let lc (l left : Nat) (st : Nat) (h : Option Bytes) : State := s st { archRun := true, lifecycle := l, debugLeft := left } { auth := h }
    let auth (a b k : Nat) : Bytes := zeros 7 ++ natLe 1 k ++ zeros 0x88 ++ natLe 1 a ++ natLe 1 b ++ zeros 48
    let end_ (k : Nat) := s (if k = 1 then 6 else 3) { archRun := true, lifecycle := 4, lcStep := k, lcTarget := 15 } {}
    let owed : State := { wip with dev := { wip.dev with lifecycle := 2, pendSafe := some (1, 0x1000) }, flt := { deskHeld := true } }
    let hold := s 1 { held := true, lifecycle := 2 } {}
    let cold := ({ State.reset with pwr := { tripCause := true }, dev := { cold := true, wasSafe := true } } : State)
    (State.reset.dev.cold = true ∧ State.reset.pwr.off = false ∧ State.reset = State.reset.coldImage ∧
      cold.dev.cold = true ∧ cold.pwr.off = false ∧ cold = cold.coldImage) ∧
    (∀ t ∈ [acc, cal, calM, wip, held, rec_, svc, busy, shut, lc 4 0 4 none, end_ 1, end_ 3, end_ 6, owed, hold, inSt 5, inSt 7], t.Powered ∧ t.Quiet ∧ t.PlainVerify) ∧
    (acc.g DEV_STATUS.STATE 0 = 1 ∧ acc.dev.held = false ∧ acc.dev.archRun = false ∧ (acc.fwSlot 0).state = 2 ∧ (acc.fwSlot 1).state ∈ [0, 5]) ∧
    (cal.dev.archRun = true ∧ cal.g DEV_STATUS.STATE 0 = 2 ∧ cal.port.serdesLost = false ∧ (({ calM with nic := { calM.nic with bad := calM.nic.bad ++ [31] }, dev := { calM.dev with calDone := true } } : State).p DEV_STATUS.STATE 0 3).RecordedUc { source := srcId 6 31 2 }) ∧
    (wip.g DEV_STATUS.STATE 0 = 3 ∧ wip.dev.lcStep = 0 ∧ wip.dev.wiped = true ∧ wip.dev.pendSafe = none ∧ wip.flt.deskHeld = false ∧ held.flt.deskHeld = true ∧ held.dev = wip.dev ∧ held.g DEV_STATUS.STATE 0 = 3 ∧ (wip.fwSlot 2).state = 2 ∧ (wip.fwSlot 3).state ∈ [0, 5]) ∧
    (rec_.g DEV_STATUS.STATE 0 = 6 ∧ rec_.dev.archRun = false ∧ rec_.dev.lcStep = 0 ∧ (rec_.fwSlot 0).state = 2) ∧
    (owed.g DEV_STATUS.STATE 0 = 3 ∧ owed.dev.lcStep = 0 ∧ owed.dev.wiped = true ∧ owed.flt.deskHeld = true ∧ owed.dev.lifecycle ≠ 1 ∧ owed.dev.lifecycle ≠ 5 ∧
      owed.gb DEV_STATUS.SAFE = false ∧ owed.dev.pendSafe = some (1, 0x1000)) ∧
    (hold.hostMay 0 0x1000 = true ∧ hold.hostMay 0 0x100C = true ∧ hold.dev.lcStep = 0 ∧ hold.dev.held = true ∧ hold.lcBusy = true) ∧
    (∀ t ∈ [inSt 5, svc], t.dev.lcStep = 0 ∧ t.dev.held = false) ∧
    ((inSt 5).hostMay 0 0x1000 = true ∧ svc.hostMay 0 0x1000 = true ∧ svc.dev.started = true ∧ svc.inService = true ∧ svc.gb RESET_CTL.BUSY = false ∧ svc.flt.deskHeld = false ∧
      svc.flt.deskTimes = [] ∧ svc.dmem.mapout = none ∧ (inSt 5).dmem.mapout = none) ∧
    (busy.gb RESET_CTL.BUSY = true ∧ (∀ q < 65, busy.g Q_STATUS.STATE q ≠ 1) ∧ (busy.fwSlot 2).state = 2 ∧ (busy.fwSlot 3).state ∈ [0, 5]) ∧
    (svc.hostMay 0 0x14 = true ∧ svc.hostMay 0 0x100C = true ∧ (∀ n < 32, svc.gb PORT_STATUS.LINK_UP n = false) ∧ (∀ l < 4, svc.g PLOLI_LINK.STATE l ≠ 1) ∧ shut.led.shutOwed = true ∧
      bit (2 ^ 31 + 15) 31 = true) ∧
    (rec_.lcBusy = true ∧ svc.lcBusy = false ∧ lcSigners 4 2 = 0 ∧ lcSigners 3 4 ≠ 0 ∧ (lc 3 0 4 none).lcBusy = false ∧ (lc 3 0 4 none).dev.debugLeft = 0 ∧ lcSigners 4 15 ≠ 0 ∧
      (lc 4 0 5 none).lcBusy = false ∧ (lc 4 0 5 none).fw.auth = none) ∧
    ((∀ h ∈ [auth 4 15 1, auth 4 3 1], (lc 4 0 4 (some h)).fw.auth = some h ∧ (lc 4 0 4 (some h)).lcBusy = false) ∧
      (let h := auth 4 15 1; le h 0x90 1 = 4 ∧ le h 0x91 1 = 15 ∧ bit (lcSigners 4 15) (le h 7 1 - 1) = true ∧ le h 0x92 48 = 0) ∧ le (auth 4 3 1) 0x91 1 ≠ 15) ∧
    (∀ k ∈ [1, 3, 6], (end_ k).dev.lcStep = k ∧ (end_ k).dev.lcTarget < 16 ∧ (end_ k).led.debugOwed = none ∧ (end_ k).gb DEV_STATUS.SAFE = false) := by
  simp only [State.Powered, State.Quiet, State.PlainVerify, State.RecordedUc]
  refine ⟨⟨?_, ?_, ?_, ?_, ?_, ?_⟩, ?_, ?_, ?_, ?_, ?_, ?_, ?_, ?_, ?_, ?_, ?_, ?_, ?_, ?_⟩ <;> decide +kernel

/-! ### The manual's worked examples -/

/-- The state after a command that answers one. -/
def after (o : Host.Outcome State Fault Refusal) : State := match o with | .next t => t | _ => {}

/-- 03, "FP4 output": eight FP32 lanes to E2M1 in quarter 0 of V8; the packed bytes and the three counters. -/
theorem test_vcvt_fp4 :
    let v : Nat := leNat ([0x3F4CCCCD, 0x3F666666, 0x4019999A, 0x40A00000, 0x41100000, 0xBE4CCCCD, 0x7FC00000, 0].flatMap (natLe 4))
    let x := (after (exec (.vcvt 0) (run4 { vreg := [(1, BitVec.ofNat 512 v), (8, BitVec.ofNat 512 (2 ^ 128 + 2 ^ 512 - 2 ^ 256))] } 0 0 (vecW 0x91 8 1 0 0 1 0 0xA0) 0))).carrel 0
    vget x 8 = 0x876420 + 2 ^ 128 + 2 ^ 512 - 2 ^ 256 ∧ (x.trb.sat, x.trb.fout, x.trb.nan) = (1, 2, 1) := by decide +kernel

/-- 03, "E4M3 conversion of one value": 0.3, to nearest even and stochastically with the seed 1. -/
theorem test_vcvt_e4m3 : ∀ fn ∈ [0x40, 0x48],
    let x := (after (exec (.vcvt 0) (run4 { seed := 1, vreg := [(1, BitVec.ofNat 512 0x3E99999A)] } 0 0 (vecW 0x91 8 1 0 0 1 0 fn) 0))).carrel 0
    vget x 8 % 256 = 0x2A ∧ x.trb = {} := by decide +kernel

/-- 07, "a write-back at the home", and 08: the slice, the wing-cache set, the column and the channel of DPA 0x12_3456_7880. -/
theorem test_line_places : homeOf (2 ^ 46 + 0x1234567880 / 64) = 61 ∧ wsetOf (2 ^ 46 + 0x1234567880 / 64) = 0x4BF ∧ colOfDpa 0x1234567880 = 366 ∧
    State.reset.chanOf 0x1234567880 = 222 ∧ State.reset.stackOf 0x1234567880 = 6 := by decide +kernel

/-- 05, "a wrap": `TAIL` 2 and `GEN` 0 from the head 14 in a lap of generation 1, in a ring of 16. -/
theorem test_ring_wrap : ringCount 2 0 14 1 4 = some 4 := by decide

/-- 15 R525, the example after it. -/
theorem test_calendar : ({ dev.p STAMP_STATUS.SYNC_OK 0 1 with led := { pair := some (1893456000000, 0x380000000) } } : State).calendar 0x3859682F0 = 1893456000600 := by decide +kernel

end Sys2Proof.Tests
end

section
/-!
# Calls through the slip registers (05 R196, R197)

The slip frame of a partition: a `GO` accepted or refused, the value that `SLIP_RESULT` reads as and what its read consumes, and a host's write of
`SLIP_SEL`, followed through the register network down to the field that it sets.
-/
namespace Sys2Proof

/-! ### Little-endian numbers -/

theorem slice_length (bs : Bytes) (i n : Nat) : (slice bs i n).length = n := by
  unfold slice
  have h : ((bs.drop i).take n).length ≤ n := List.length_take_le n _
  simp only [List.length_append, List.length_replicate]
  omega

theorem le_lt (bs : Bytes) (i n : Nat) : le bs i n < 256 ^ n := by
  have h := Machine.leNat_lt (slice bs i n)
  rwa [slice_length] at h

theorem leNat_natLe (n v : Nat) : leNat (natLe n v) = v % 256 ^ n := by
  induction n generalizing v with
  | zero => simp [natLe, leNat, Nat.mod_one]
  | succ n ih => rw [natLe, leNat, ih, BitVec.toNat_ofNat, pow_succ' 256 n, Nat.mod_mul]

/-! ### Where `SLIP_SEL` lies -/

/-- `SLIP_SEL` of partition `p` lies at 0x5000 of the BAR0 of its function, `p + 1`. -/
theorem regAt_slipSel (p : Nat) : regAt (p + 1) 0x5000 = some (.SLIP_SEL, p, 0) := by
  have h : findRow partMap 0x5000 = some (.SLIP_SEL, 0, 0) := by decide
  unfold regAt
  rw [if_neg p.succ_ne_zero, h]
  rfl

theorem regAt_after_slipSel (p : Nat) : regAt (p + 1) 0x5004 = none := by
  have h : findRow partMap 0x5004 = none := by decide
  unfold regAt
  rw [if_neg p.succ_ne_zero, h]

namespace Machine

/-! ### Register writes -/

theorem State.g_lt (s : State) (f : Fld) (i : Nat) : s.g f i < 2 ^ (f.hi + 1 - f.lo) :=
  Nat.mod_lt _ (by positivity)

/-- A write that covers the whole of an `RW` field gives it the bits written, where it admits them. -/
theorem State.putField_whole {s : State} {i v m : Nat} {f : Fld} (hacc : f.acc = .RW) (hheld : s.wingHeld f i = false)
    (hw : f.lo ≤ f.hi) (hm : bits m f.hi f.lo = 2 ^ (f.hi + 1 - f.lo) - 1) (hok : s.valueOk f i (bits v f.hi f.lo) = true) :
    s.putField i v m f = s.p f i (bits v f.hi f.lo) := by
  have hpos : 2 ≤ 2 ^ (f.hi + 1 - f.lo) := Nat.le_self_pow (by omega) 2
  have hold : s.g f i &&& bits m f.hi f.lo = s.g f i := by
    rw [hm, Nat.and_two_pow_sub_one_eq_mod, Nat.mod_eq_of_lt (s.g_lt f i)]
  have hnew : bits v f.hi f.lo &&& bits m f.hi f.lo = bits v f.hi f.lo := by
    rw [hm, Nat.and_two_pow_sub_one_eq_mod]
    exact Nat.mod_mod _ _
  unfold State.putField
  dsimp only
  rw [hold, hnew, Nat.sub_self, Nat.zero_add, hacc, if_neg (by rw [hm, hheld]; simp; omega)]
  dsimp only
  rw [if_pos hok]

/-- A host's write of an admitted size and place goes to BAR0 (06 R208, R220). -/
theorem State.regWrite_host {s : State} {fn off : Nat} {data : Bytes} (hm : s.hostMay fn off = true) (hn : data.length ≠ 0)
    (hok : bar0Ok fn off data.length = true) : s.regWrite .host fn off data = s.barPut fn off false data := by
  unfold State.hostMay at hm
  simp only [Bool.and_eq_true, Bool.not_eq_true'] at hm
  obtain ⟨⟨⟨hfn, hmse⟩, hd3⟩, hopen⟩ := hm
  simp [State.regWrite, hfn, hn, hmse, hd3, hok, hopen]

/-- The whole of `SLIP_SEL` under a write: its one field takes the low six bits. -/
theorem State.regPut_slipSel (s : State) (p v : Nat) :
    s.regPut (p + 1) false .SLIP_SEL p v (2 ^ 32 - 1) = s.p SLIP_SEL.SLOT p (v % 64) := by
  have hbits : bits v SLIP_SEL.SLOT.hi SLIP_SEL.SLOT.lo = v % 64 := by simp [bits, SLIP_SEL.SLOT]
  have hok : s.valueOk SLIP_SEL.SLOT p (bits v SLIP_SEL.SLOT.hi SLIP_SEL.SLOT.lo) = true := by
    rw [hbits]
    simp [State.valueOk, SLIP_SEL.SLOT]
    omega
  have hput : s.putField p v (2 ^ 32 - 1) SLIP_SEL.SLOT = s.p SLIP_SEL.SLOT p (v % 64) := by
    rw [State.putField_whole rfl rfl (by decide) (by decide) hok, hbits]
  rw [← hput]
  simp [State.regPut, State.absent, State.dark, RegKind.dom, State.partPut, State.putFields, RegKind.fields]

/-- A write of four bytes at 0x5000 of a partition's BAR0 is one of `SLIP_SEL`. -/
theorem State.barPut_slipSel (s : State) (p v : Nat) (hv : v < 2 ^ 32) :
    s.barPut (p + 1) 0x5000 false (natLe 4 v) = s.p SLIP_SEL.SLOT p (v % 64) := by
  have hval : leNat (natLe 4 v) = v := by rw [leNat_natLe]; omega
  have hlen : (natLe 4 v).length = 4 := natLe_length 4 v
  rw [← s.regPut_slipSel p v]
  simp [State.barPut, State.wordsPut, regAt_slipSel, regAt_after_slipSel, hval, hlen]

/-! ### `SLIP_GO` -/

/-- A `GO` of partition `p` finds the selected slot free: the partition's own, in `MODE` 2, with no result unread and no call under way (R197). -/
def State.SlipFree (s : State) (p : Nat) : Prop :=
  let n := s.g SLIP_SEL.SLOT p
  s.owns p n = true ∧ s.g CS_CTL.MODE n = 2 ∧ (s.csOf n).valid = false ∧ (s.csOf n).running = false ∧ (s.csOf n).call = none

/-- The condition under which `slipGo` refuses is that the selected slot is not free. -/
theorem State.not_slipFree_iff (s : State) (p : Nat) : ¬ s.SlipFree p ↔
    (!s.owns p (s.g SLIP_SEL.SLOT p)) = true ∨ s.g CS_CTL.MODE (s.g SLIP_SEL.SLOT p) ≠ 2 ∨ (s.csOf (s.g SLIP_SEL.SLOT p)).valid = true ∨
      (s.csOf (s.g SLIP_SEL.SLOT p)).running = true ∨ (s.csOf (s.g SLIP_SEL.SLOT p)).call ≠ none := by
  unfold State.SlipFree
  simp only [not_and_or, Bool.not_eq_true', Bool.not_eq_true, Bool.not_eq_false, ne_eq]

theorem State.slipGo_of_free {s : State} {p : Nat} (h : s.SlipFree p) : s.slipGo p =
    ((s.setSlip p { s.slipOf p with refused := false }).setCs (s.g SLIP_SEL.SLOT p)
      { s.csOf (s.g SLIP_SEL.SLOT p) with call := some (slice (s.slipOf p).callBytes 0 64) }).p CS_STATUS.PENDING (s.g SLIP_SEL.SLOT p) 1 :=
  if_neg fun hr => (s.not_slipFree_iff p).2 hr h

theorem State.slipGo_of_not_free {s : State} {p : Nat} (h : ¬ s.SlipFree p) :
    s.slipGo p = s.setSlip p { s.slipOf p with refused := true } :=
  if_pos ((s.not_slipFree_iff p).1 h)

/-! ### `SLIP_RESULT` -/

/-- `STATUS`, `EXC` and `SEQ` of a delivery line, in the places of `SLIP_RESULT`. -/
def slipReport (line : Bytes) : Nat := le line 4 1 * 2 ^ 40 + le line 5 1 * 2 ^ 32 + le line 0 4

theorem slipReport_lt (line : Bytes) : slipReport line < 2 ^ 48 := by
  have h4 := le_lt line 4 1
  have h5 := le_lt line 5 1
  have h0 := le_lt line 0 4
  unfold slipReport
  omega

theorem State.slipResult_valid {s : State} {p : Nat} (ho : s.owns p (s.g SLIP_SEL.SLOT p) = true) (hv : (s.csOf (s.g SLIP_SEL.SLOT p)).valid = true) :
    s.slipResult p = 2 ^ 63 + b2n (s.slipOf p).refused * 2 ^ 62 + s.g SLIP_SEL.SLOT p * 2 ^ 56 + slipReport (s.csOf (s.g SLIP_SEL.SLOT p)).line := by
  simp [State.slipResult, slipReport, ho, hv, b2n]

theorem State.slipResult_invalid {s : State} {p : Nat} (hv : (s.csOf (s.g SLIP_SEL.SLOT p)).valid = false) :
    s.slipResult p = b2n (s.slipOf p).refused * 2 ^ 62 + s.g SLIP_SEL.SLOT p * 2 ^ 56 := by
  simp [State.slipResult, hv, b2n]

/-- What lies below `VALID` in `SLIP_RESULT` does not reach it. -/
theorem slipResult_low_lt (r : Bool) {n w : Nat} (hn : n < 64) (hw : w < 2 ^ 48) : b2n r * 2 ^ 62 + n * 2 ^ 56 + w < 2 ^ 63 := by
  have hr : b2n r ≤ 1 := by cases r <;> decide
  omega

/-- The read consumes a delivery that waits. -/
theorem State.slipResultRead_valid {s : State} {p : Nat} (ho : s.owns p (s.g SLIP_SEL.SLOT p) = true)
    (hv : (s.csOf (s.g SLIP_SEL.SLOT p)).valid = true) :
    s.slipResultRead p = (s.emit (.cpl (p + 1) 0 (s.slipResult p))).setCs (s.g SLIP_SEL.SLOT p)
      { s.csOf (s.g SLIP_SEL.SLOT p) with valid := false } := by
  have hlow := slipResult_low_lt (s.slipOf p).refused (s.g_lt SLIP_SEL.SLOT p) (slipReport_lt (s.csOf (s.g SLIP_SEL.SLOT p)).line)
  have hbit : bit (s.slipResult p) 63 = true := by
    rw [State.slipResult_valid ho hv, Nat.add_assoc (2 ^ 63), Nat.add_assoc (2 ^ 63), bit, Nat.testBit_two_pow_add_eq,
      Nat.testBit_lt_two_pow hlow, Bool.not_false]
  unfold State.slipResultRead
  dsimp only
  rw [if_pos hbit, State.emit_csOf']

/-- With no delivery waiting the read changes nothing of the frame. -/
theorem State.slipResultRead_invalid {s : State} {p : Nat} (hv : (s.csOf (s.g SLIP_SEL.SLOT p)).valid = false) :
    s.slipResultRead p = s.emit (.cpl (p + 1) 0 (s.slipResult p)) := by
  have hlow := slipResult_low_lt (s.slipOf p).refused (s.g_lt SLIP_SEL.SLOT p) (w := 0) (by decide)
  have hbit : bit (s.slipResult p) 63 = false := by
    rw [State.slipResult_invalid hv]
    exact Nat.testBit_lt_two_pow (by simpa using hlow)
  unfold State.slipResultRead
  dsimp only
  rw [hbit, if_neg Bool.false_ne_true]

/-! ### The rows -/

theorem exec_slipGo (p : Nat) (s : State) : exec (.slipGo p) s = hostReg s (p + 1) 0x5008 (·.slipGo p) := rfl

theorem exec_slipResultRead (p : Nat) (s : State) : exec (.slipResultRead p) s = hostGet s (p + 1) 0x5080 (·.slipResultRead p) := rfl

theorem exec_registerWrite (who : Requester) (fn off : Nat) (data : Bytes) (s : State) :
    exec (.registerWrite who fn off data) s = act s (·.regWrite who fn off data) := rfl

/-- Settles O33: each row acts as its meaning does on the slip frame, and none raises an event. -/
theorem slipRegisters : Obligations.SlipRegisters := by
  intro s p hp hq
  refine ⟨fun hm => ⟨fun hfree => ?_, fun hbusy => ?_⟩, fun hm ho _ => ⟨fun hv => ?_, fun hv => ?_⟩, fun v hv hm => ?_⟩
  · exact host_to (exec_slipGo p s) hp hm (State.slipGo_of_free hfree) (State.quiet_of hq)
  · exact host_to (exec_slipGo p s) hp hm (State.slipGo_of_not_free hbusy) (State.quiet_of hq)
  · exact get_to (exec_slipResultRead p s) hp hm (by rw [State.slipResultRead_valid ho hv, State.slipResult_valid ho hv]; rfl) (State.quiet_of hq)
  · exact get_to (exec_slipResultRead p s) hp hm (by rw [State.slipResultRead_invalid hv, State.slipResult_invalid hv]) (State.quiet_of hq)
  · have hput : s.regWrite .host (p + 1) 0x5000 (natLe 4 v) = s.p SLIP_SEL.SLOT p (v % 64) := by
      rw [State.regWrite_host hm (by simp [natLe_length]) (by simp [natLe_length, bar0Ok]), s.barPut_slipSel p v hv]
    exact act_to (exec_registerWrite _ _ _ _ s) hp hput (State.quiet_of hq)

end Machine
end Sys2Proof
end

section
/-!
# FATAL events and CHIP_RST (12 R434)

What `State.collect` does with a FATAL event and with a UC event whose mask holds BLK_RST and CHIP_RST. R434 holds in every state whose table of carrels
is in canonical form; `Obligations.FatalEvents` asks it of every state, and fails where the table lists a carrel twice.
-/
namespace Sys2Proof

/-- A table in canonical form whose values are all changed by `f`, which leaves what the key `k` reads as where it is not listed. -/
theorem tget_tmap {α : Type} [DecidableEq α] (d : Nat → α) (f : Nat → α → α) (k : Nat) (hf : f k (d k) = d k) (t : Tab α) (hw : t.wf d = true) :
    tget d (tmap d f t) k = f k (tget d t k) := by
  simp only [Tab.wf, Bool.and_eq_true, decide_eq_true_eq] at hw
  replace hw := hw.1
  induction t with
  | nil => exact hf.symm
  | cons e t ih =>
    obtain ⟨i, a⟩ := e
    obtain ⟨hlt, ht⟩ := List.pairwise_cons.mp hw
    by_cases hk : i = k
    · subst hk
      have hrest : tget d (tmap d f t) i = d i := by
        refine tget_none _ _ _ fun e he => ?_
        obtain ⟨e', he', rfl⟩ := List.mem_map.mp (List.mem_filter.mp he).1
        exact (hlt e' he').ne'
      by_cases hd : f i a = d i
      · simpa [tmap, tget, hd] using hrest
      · simp [tmap, tget, hd]
    · have hskip : tget d (tmap d f ((i, a) :: t)) k = tget d (tmap d f t) k := by
        by_cases hd : f i a = d i <;> simp [tmap, tget, hd, hk]
      rw [hskip, ih ht, tget, if_neg hk]

namespace Machine

/-! ### The reactions taken -/

/-- The reactions that the collection of `e` takes: those of the mask that R433, R434 and R440 admit. -/
def State.reactions (s : State) (e : Event) : Nat :=
  let sev := (s.effSev e).1
  let m := if sev = 3 then 0 else reactTaken (s.maskOf e.source sev) sev (s.gb DEV_STATUS.SAFE)
  if blkClass e.source then m else m &&& 0x1B

theorem bit_and (x y i : Nat) : bit (x &&& y) i = (bit x i && bit y i) := Nat.testBit_and x y i

/-- No mask gives a FATAL event BLK_RST or CHIP_RST. -/
theorem State.reactions_fatal {s : State} {e : Event} (h : (s.effSev e).1 = 2) : bit (s.reactions e) 2 = false ∧ bit (s.reactions e) 3 = false := by
  have h13 : bit 0x13 2 = false ∧ bit 0x13 3 = false := by decide
  have hm : bit (reactTaken (s.maskOf e.source 2) 2 (s.gb DEV_STATUS.SAFE)) 2 = false ∧
      bit (reactTaken (s.maskOf e.source 2) 2 (s.gb DEV_STATUS.SAFE)) 3 = false := by
    cases s.gb DEV_STATUS.SAFE <;> simp [reactTaken, bit_and, h13]
  unfold State.reactions
  rw [h]
  split <;> simp [bit_and, hm]

/-- In a UC event CHIP_RST displaces BLK_RST. -/
theorem State.reactions_chip {s : State} {e : Event} (h : (s.effSev e).1 = 1) (hs : s.gb DEV_STATUS.SAFE = false)
    (hm : bit (s.maskOf e.source 1) 3 = true) : bit (s.reactions e) 2 = false ∧ bit (s.reactions e) 3 = true := by
  have h1B : bit 0x1B 2 = false ∧ bit 0x1B 3 = true := by decide
  unfold State.reactions
  rw [h, hs]
  cases blkClass e.source <;> simp [reactTaken, bit_and, h1B, hm]

/-! ### What spares the blocks -/

/-- From `s` to `t` no block is reset: the wings, the resets of the carrels, the ports, the Ploli links and the management's reset stand as they stood. -/
structure State.SparesBlocks (t s : State) : Prop where
  wings : t.wings = s.wings
  inReset : ∀ q, (t.carrel q).inReset = (s.carrel q).inReset
  regs : ∀ k ∈ [RegKind.PORT_STATUS, .PLOLI_LINK, .RESET_CTL], ∀ i, t.reg k i = s.reg k i

theorem State.SparesBlocks.refl (s : State) : s.SparesBlocks s := ⟨rfl, fun _ => rfl, fun _ _ _ => rfl⟩

theorem State.SparesBlocks.trans {u t s : State} (h : u.SparesBlocks t) (h' : t.SparesBlocks s) : u.SparesBlocks s :=
  ⟨h.wings.trans h'.wings, fun q => (h.inReset q).trans (h'.inReset q), fun k hk i => (h.regs k hk i).trans (h'.regs k hk i)⟩

/-- From `s` to `t` no block is reset, in the terms of `Obligations.FatalEvents`. -/
def State.NoBlockReset (t s : State) : Prop :=
  (∀ w < 32, (t.wing w).rst ≠ 0 → (s.wing w).rst ≠ 0) ∧ (∀ q, (t.carrel q).inReset = (s.carrel q).inReset) ∧
    (∀ n < 32, t.g PORT_STATUS.LINK_UP n = s.g PORT_STATUS.LINK_UP n) ∧ (∀ l < 4, t.g PLOLI_LINK.STATE l = s.g PLOLI_LINK.STATE l) ∧
    t.gb RESET_CTL.BUSY = s.gb RESET_CTL.BUSY

theorem State.SparesBlocks.noBlockReset {t s : State} (h : t.SparesBlocks s) : t.NoBlockReset s := by
  have hg : ∀ f : Fld, f.reg ∈ [RegKind.PORT_STATUS, .PLOLI_LINK, .RESET_CTL] → ∀ i, t.g f i = s.g f i :=
    fun f hf i => by unfold State.g; rw [h.regs _ hf]
  refine ⟨fun w _ => ?_, h.inReset, fun n _ => hg _ (by decide) n, fun l _ => hg _ (by decide) l, ?_⟩
  · unfold State.wing
    rw [h.wings]
    exact id
  · unfold State.gb
    rw [hg _ (by decide)]

/-! ### Recording, the trap and the pin -/

/-- The registers in which an event is recorded (R425 to R428). -/
def recordRegs : List RegKind := [.COL_STATUS, .COL_COUNTS, .WCOL_PINS]

/-- A record leaves every register that is not a collector's. -/
theorem State.record_reg (s : State) (e : Event) (sev : Nat) (ovr : Bool) (react : Nat) (k : RegKind) (hk : k ∉ recordRegs) (i : Nat) :
    (s.record e sev ovr react).reg k i = s.reg k i := by
  simp only [recordRegs, List.mem_cons, List.not_mem_nil, or_false, not_or] at hk
  obtain ⟨hst, hco, hpi⟩ := hk
  have hp : ∀ (t : State) (f : Fld) (j v : Nat), k ≠ f.reg → (t.p f j v).reg k i = t.reg k i := fun t f j v h => State.reg_p_other t f k j i v h
  have hb : ∀ (t : State) (f : Fld) (j : Nat), k ≠ f.reg → (t.bump f j).reg k i = t.reg k i := fun t f j h => hp t f j _ h
  unfold State.record
  extract_lets c r x h ip s1 s2 s3 s4 s5
  have h3 : s3.reg k i = s.reg k i := by
    simp only [s3, s2, s1]
    split
    · rw [hb _ COL_STATUS.OVERFLOW c hst, hp _ COL_STATUS.DEPTH c _ hst]; rfl
    · rw [hp _ COL_STATUS.DEPTH c _ hst]; rfl
  have h4 : s4.reg k i = s.reg k i := (hp s3 COL_STATUS.FORCED c _ hst).trans h3
  have h5 : s5.reg k i = s.reg k i := by
    simp only [s5]
    split
    · rw [hp _ COL_STATUS.CE_PEND c 1 hst, hb _ COL_COUNTS.CE c hco, h4]
    · rw [hp _ COL_STATUS.UC_PEND c 1 hst, hb _ COL_COUNTS.UC c hco, h4]
    · rw [hp _ COL_STATUS.FATAL_PEND c 1 hst, hb _ COL_COUNTS.FATAL c hco, h4]
    · exact h4
  split
  · exact (hp _ WCOL_PINS.PIN _ _ hpi).trans h5
  · exact h5

/-- The state with `e` recorded, and with the trap and the pulse of the pin that its reactions ask for. -/
def State.signalled (s : State) (e : Event) : State :=
  let m := s.reactions e
  let s' := if ownFault e then s else s.record e (s.effSev e).1 (s.effSev e).2 m
  let s' := if bit m 1 then s'.nmt else s'
  if bit m 4 then s'.pinPulse else s'

/-- `t` is `s` but for what recording, the trap and the pin change: the collectors and the fault state, and there neither CHIP_RST nor the times of
class 2. -/
def State.Notes (t s : State) : Prop :=
  ∃ rf cols flt, t = { s with rf := rf, cols := cols, flt := flt } ∧ flt.chip = s.flt.chip ∧ flt.cls2End = s.flt.cls2End ∧
    ∀ k ∉ recordRegs, ∀ i, tget regDefault rf (regKey k i) = s.reg k i

theorem State.Notes.nmt {t s : State} (h : t.Notes s) : t.nmt.Notes s := by
  obtain ⟨rf, cols, flt, rfl, hc, he, hreg⟩ := h
  unfold State.nmt
  split
  · exact ⟨rf, cols, _, rfl, hc, he, hreg⟩
  · exact ⟨rf, cols, flt, rfl, hc, he, hreg⟩

theorem State.Notes.pinPulse {t s : State} (h : t.Notes s) : t.pinPulse.Notes s := by
  obtain ⟨rf, cols, flt, rfl, hc, he, hreg⟩ := h
  exact ⟨rf, cols, _, rfl, hc, he, hreg⟩

theorem State.record_notes (s : State) (e : Event) (sev : Nat) (ovr : Bool) (react : Nat) : (s.record e sev ovr react).Notes s := by
  obtain ⟨rf, cols, heq⟩ := s.record_eq e sev ovr react
  have hreg := s.record_reg e sev ovr react
  rw [heq] at hreg ⊢
  exact ⟨rf, cols, s.flt, rfl, rfl, rfl, hreg⟩

theorem State.signalled_notes (s : State) (e : Event) : (s.signalled e).Notes s := by
  unfold State.signalled
  extract_lets m s1 s2
  have h1 : s1.Notes s := by
    unfold s1
    split
    · exact ⟨s.rf, s.cols, s.flt, rfl, rfl, rfl, fun _ _ _ => rfl⟩
    · exact s.record_notes _ _ _ _
  have h2 : s2.Notes s := by
    unfold s2
    split
    · exact h1.nmt
    · exact h1
  split
  · exact h2.pinPulse
  · exact h2

theorem State.signalled_sparesBlocks (s : State) (e : Event) : (s.signalled e).SparesBlocks s := by
  obtain ⟨rf, cols, flt, heq, -, -, hreg⟩ := s.signalled_notes e
  rw [heq]
  refine ⟨rfl, fun _ => rfl, fun k hk => hreg k ?_⟩
  revert k
  decide

theorem State.signalled_gb_safe (s : State) (e : Event) : (s.signalled e).gb DEV_STATUS.SAFE = s.gb DEV_STATUS.SAFE := by
  obtain ⟨rf, cols, flt, heq, -, -, hreg⟩ := s.signalled_notes e
  have hdev : (s.signalled e).reg .DEV_STATUS 0 = s.reg .DEV_STATUS 0 := by rw [heq]; exact hreg _ (by decide) 0
  unfold State.gb State.g
  exact congrArg (fun v : BitVec 64 => decide (bits v.toNat DEV_STATUS.SAFE.hi DEV_STATUS.SAFE.lo = 1)) hdev

/-! ### The entry into the safe state (R439) -/

/-- The registers that the entry sets. -/
def State.safeRegs (s : State) (cause src : Nat) : State :=
  let s := (s.p SAFE_CAUSE.CAUSE 0 cause).p SAFE_CAUSE.SOURCE 0 src
  let s := ((s.p DEV_STATUS.SAFE 0 1).p DEV_STATUS.READY 0 0).p DEV_STATUS.STATE 0 7
  (List.range 8).foldl (fun s p => s.p PART_STATUS.READY p 0) s

/-- The parts of the partitions' `READY` leave the other registers. -/
theorem State.partsUnready_reg (s : State) (k : RegKind) (hk : k ≠ .PART_STATUS) (xs : List Nat) (i : Nat) :
    (xs.foldl (fun s p => s.p PART_STATUS.READY p 0) s).reg k i = s.reg k i :=
  foldl_keeps (fun t => t.reg k i = s.reg k i) _ xs s rfl fun t p _ ht => (State.reg_p_other t PART_STATUS.READY k p i 0 hk).trans ht

theorem State.safeRegs_eq (s : State) (cause src : Nat) : ∃ rf, s.safeRegs cause src = { s with rf := rf } := by
  unfold State.safeRegs
  exact foldl_keeps (fun t => ∃ rf, t = { s with rf := rf }) _ _ _ (regs_p (regs_p (regs_p (regs_p (regs_p (regs_refl s) _ _ _) _ _ _) _ _ _) _ _ _) _ _ _)
    fun _ p _ ht => regs_p ht PART_STATUS.READY p 0

theorem State.safeRegs_reg (s : State) (cause src : Nat) (k : RegKind) (hk : k ∉ [RegKind.SAFE_CAUSE, .DEV_STATUS, .PART_STATUS]) (i : Nat) :
    (s.safeRegs cause src).reg k i = s.reg k i := by
  simp only [List.mem_cons, List.not_mem_nil, or_false, not_or] at hk
  obtain ⟨hc, hd, hp⟩ := hk
  unfold State.safeRegs
  rw [State.partsUnready_reg _ _ hp, State.reg_p_other _ _ _ _ _ _ hd, State.reg_p_other _ _ _ _ _ _ hd, State.reg_p_other _ _ _ _ _ _ hd,
    State.reg_p_other _ _ _ _ _ _ hc, State.reg_p_other _ _ _ _ _ _ hc]

theorem State.safeRegs_cause (s : State) {cause src : Nat} (hc : cause < 16) (hs : src < 65536) :
    (s.safeRegs cause src).g SAFE_CAUSE.CAUSE = cause ∧ (s.safeRegs cause src).g SAFE_CAUSE.SOURCE = src := by
  have hreg : (s.safeRegs cause src).reg .SAFE_CAUSE 0 = ((s.p SAFE_CAUSE.CAUSE 0 cause).p SAFE_CAUSE.SOURCE 0 src).reg .SAFE_CAUSE 0 := by
    unfold State.safeRegs
    rw [State.partsUnready_reg _ _ (by decide), State.reg_p_other _ _ _ _ _ _ (by decide), State.reg_p_other _ _ _ _ _ _ (by decide),
      State.reg_p_other _ _ _ _ _ _ (by decide)]
  have hg : ∀ f : Fld, f.reg = .SAFE_CAUSE → (s.safeRegs cause src).g f = ((s.p SAFE_CAUSE.CAUSE 0 cause).p SAFE_CAUSE.SOURCE 0 src).g f :=
    fun f hf => by unfold State.g; rw [hf, hreg]
  refine ⟨?_, ?_⟩
  · rw [hg _ rfl, State.g_p_field _ SAFE_CAUSE.SOURCE SAFE_CAUSE.CAUSE _ _ rfl (by decide) (by decide) (by decide) (by decide)]
    exact State.g_p_self _ SAFE_CAUSE.CAUSE 0 cause (by decide) (by decide) hc
  · rw [hg _ rfl]
    exact State.g_p_self _ SAFE_CAUSE.SOURCE 0 src (by decide) (by decide) hs

theorem State.safeRegs_dev (s : State) (cause src : Nat) : (s.safeRegs cause src).gb DEV_STATUS.SAFE = true ∧
    (s.safeRegs cause src).g DEV_STATUS.STATE = 7 ∧ (s.safeRegs cause src).gb DEV_STATUS.READY = false := by
  have hg : ∀ f : Fld, f.reg = .DEV_STATUS → (s.safeRegs cause src).g f =
      (((((s.p SAFE_CAUSE.CAUSE 0 cause).p SAFE_CAUSE.SOURCE 0 src).p DEV_STATUS.SAFE 0 1).p DEV_STATUS.READY 0 0).p DEV_STATUS.STATE 0 7).g f := by
    intro f hf
    unfold State.g State.safeRegs
    rw [hf, State.partsUnready_reg _ _ (by decide)]
  refine ⟨?_, ?_, ?_⟩
  · unfold State.gb
    rw [hg _ rfl, State.g_p_field _ DEV_STATUS.STATE DEV_STATUS.SAFE _ _ rfl (by decide) (by decide) (by decide) (by decide),
      State.g_p_field _ DEV_STATUS.READY DEV_STATUS.SAFE _ _ rfl (by decide) (by decide) (by decide) (by decide)]
    exact decide_eq_true (State.g_p_self _ DEV_STATUS.SAFE 0 1 (by decide) (by decide) (by decide))
  · rw [hg _ rfl]
    exact State.g_p_self _ DEV_STATUS.STATE 0 7 (by decide) (by decide) (by decide)
  · unfold State.gb
    rw [hg _ rfl, State.g_p_field _ DEV_STATUS.STATE DEV_STATUS.READY _ _ rfl (by decide) (by decide) (by decide) (by decide),
      State.g_p_self _ DEV_STATUS.READY 0 0 (by decide) (by decide) (by decide)]
    rfl

/-- A carrel in the safe state: what ran stands, and its mover transfers are abandoned. -/
def standing (x : Carrel) : Carrel := { x with xfers := [], run := if x.run = .idle then .idle else .stopped }

/-- The whole of an entry: the registers, the carrels, the releases, the error that the host is told of; and what it may leave in the ledger, the cascade
and the outbox. -/
theorem State.enterSafe_eq {s : State} (cause src : Nat) (hs : s.gb DEV_STATUS.SAFE = false) (hr : s.dev.resetRun = false) :
    ∃ cas led out, s.enterSafe cause src =
      { s with rf := (s.safeRegs cause src).rf, rels := [], cas := cas, car := tmap carDef (fun _ => standing) s.car, led := led, out := out
               fns := tset (fun _ => {}) s.fns 0 { s.fn 0 with aerUnc := setBit (s.fn 0).aerUnc 22 true }
               dev := { s.dev with safeN := false, ready := false, rwlOff := true, safeRec := s.dev.archRun } } := by
  obtain ⟨rf, heq⟩ := s.safeRegs_eq cause src
  have hunfold : s.enterSafe cause src =
      (let t := s.safeRegs cause src
       let t : State := { t with dev := { t.dev with safeN := false, ready := false, rwlOff := true } }
       let t := t.stopAll.debugEnd
       let t := t.setFn 0 { t.fn 0 with aerUnc := setBit (t.fn 0).aerUnc 22 true }
       let t := if t.link.up then t.emit (.errMsg 0 2) else t
       { t with dev := { t.dev with safeRec := t.dev.archRun } }) := by
    unfold State.enterSafe
    rw [if_neg (by simp [hs]), if_neg (by simp [hr])]
    rfl
  rw [hunfold, heq]
  unfold State.debugEnd
  dsimp only
  split <;> split <;> exact ⟨_, _, _, rfl⟩

/-- In a table in canonical form each carrel stands. -/
theorem carrels_standing {car : Tab Carrel} (hw : car.wf carDef = true) (q : Nat) :
    tget carDef (tmap carDef (fun _ => standing) car) q = standing (tget carDef car q) :=
  tget_tmap carDef (fun _ => standing) q rfl car hw

/-- An entry from a state whose table of carrels is in canonical form leads to the safe state and resets no block. -/
theorem State.enterSafe_entersSafe {s : State} {cause src : Nat} (hs : s.gb DEV_STATUS.SAFE = false) (hr : s.dev.resetRun = false)
    (hw : s.car.wf carDef = true) (hc : cause < 16) (hsrc : src < 65536) :
    (s.enterSafe cause src).EntersSafe s cause src ∧ (s.enterSafe cause src).SparesBlocks s := by
  obtain ⟨cas, led, out, heq⟩ := s.enterSafe_eq cause src hs hr
  have hcar : ∀ q, (s.enterSafe cause src).carrel q = standing (s.carrel q) := fun q => by rw [heq]; exact carrels_standing hw q
  have hreg : ∀ k i, (s.enterSafe cause src).reg k i = (s.safeRegs cause src).reg k i := fun k i => by rw [heq]; rfl
  have hg : ∀ f i, (s.enterSafe cause src).g f i = (s.safeRegs cause src).g f i := fun f i => by unfold State.g; rw [hreg]
  have hfn : (s.enterSafe cause src).fn 0 = { s.fn 0 with aerUnc := setBit (s.fn 0).aerUnc 22 true } := by rw [heq]; exact tget_tset_same _ _ _ _
  obtain ⟨hsafe, hstate, hready⟩ := s.safeRegs_dev cause src
  obtain ⟨hcause, hsource⟩ := s.safeRegs_cause hc hsrc
  have hruns : ∀ q, ((s.enterSafe cause src).carrel q).xfers = [] ∧
      ((s.enterSafe cause src).carrel q).run = if (s.carrel q).run = .idle then .idle else .stopped :=
    fun q => by rw [hcar]; exact ⟨rfl, rfl⟩
  refine ⟨⟨?_, (hg _ _).trans hstate, ?_, ?_, (hg _ _).trans hcause, (hg _ _).trans hsource, ?_, ?_, hruns, ?_⟩, ?_, ?_, ?_⟩
  · unfold State.gb; rw [hg]; exact hsafe
  · unfold State.gb; rw [hg]; exact hready
  · rw [heq]
  · rw [hfn]; exact bit_setBit _ _
  · rw [heq]
  · rw [heq]; exact ⟨rfl, rfl, rfl, rfl, rfl, rfl⟩
  · rw [heq]
  · intro q; rw [hcar]; rfl
  · intro k hk i
    rw [hreg, State.safeRegs_reg]
    revert k; decide

/-- During a reset the entry is owed until the reset's end (R447). -/
theorem State.enterSafe_owed {s : State} (cause src : Nat) (hs : s.gb DEV_STATUS.SAFE = false) (hr : s.dev.resetRun = true)
    (hp : s.dev.pendSafe = none) : s.enterSafe cause src = { s with dev := { s.dev with pendSafe := some (cause, src) } } := by
  unfold State.enterSafe
  rw [if_neg (by simp [hs]), if_pos hr, if_pos hp]

/-! ### The stages of the collection -/

/-- The timer of CHIP_RST starts (R433). -/
def State.chipOwed (s : State) (src : Nat) : State := { s with flt := { s.flt with chip := some (s.time + 1563, src) } }

/-- The wings that an error of class 2 makes fail, when it comes within 1 s after a reset for that class (R444). -/
def State.failAgain (s : State) (e : Event) : State :=
  (wingsHit e.source).foldl (fun s w => if s.cls2Again w ∧ s.g WING_STATUS.STATE w ≠ 3 then s.wingFail w (decide (e.source % 128 = 4)) else s) s

/-- The containment of a UC event outside the safe state (R438, R443, R444). -/
def State.ucContain (s : State) (e : Event) : State :=
  let s := if e.forced.isNone then s.contain e else s
  let s := if e.source / 4096 = 0 ∧ e.forced.isNone then s.oweSubst (e.source / 128 % 32 * 144 + e.info0 % 256) else s
  if e.source / 4096 = 2 then s.failAgain e else s

/-- The Archivist stops on its own failure (R441). -/
def State.archStops (s : State) (e : Event) : State :=
  if e.source / 4096 = 10 ∧ e.source / 128 % 32 = 0 ∧ 1 ≤ e.source % 128 ∧ e.source % 128 ≤ 2 then
    { s with dev := { s.dev with archRun := false } }
  else s

/-- The collection of an event, stage by stage. -/
theorem State.collect_eq (s : State) (e : Event) : s.collect e =
    (let sev := (s.effSev e).1
     let safe := s.gb DEV_STATUS.SAFE
     let m := s.reactions e
     let t := s.signalled e
     let t := if bit m 3 ∧ t.flt.chip.isNone then t.chipOwed e.source else t
     let t := if e.source / 4096 = 0 ∧ sev = 0 ∧ e.forced.isNone ∧ !safe then t.ceCount (e.source / 128 % 32 * 144 + e.info0 % 256) else t
     let t := if sev = 1 ∧ !safe then t.ucContain e else t
     let t := if bit m 2 then t.blkRst e sev else t
     if sev = 2 then (t.archStops e).enterSafe (safeCause e.source) e.source else t) := rfl

/-! ### FATAL events -/

/-- A FATAL event is recorded, traps and pulses the pin as its mask says, and enters the safe state. -/
theorem State.collect_fatal {s : State} {e : Event} (h : (s.effSev e).1 = 2) :
    s.collect e = ((s.signalled e).archStops e).enterSafe (safeCause e.source) e.source := by
  obtain ⟨h2, h3⟩ := s.reactions_fatal h
  rw [State.collect_eq]
  simp only [h, h2, h3]
  simp

theorem safeCause_lt (src : Nat) : safeCause src < 16 := by
  unfold safeCause
  split
  · decide
  · split
    · split <;> decide
    · decide

/-- What a FATAL event does before the entry. -/
theorem State.archStops_signalled_eq (s : State) (e : Event) : ∃ rf cols flt r, (s.signalled e).archStops e =
    { s with rf := rf, cols := cols, flt := flt, dev := { s.dev with archRun := r } } ∧ flt.chip = s.flt.chip ∧
    ((s.signalled e).archStops e).SparesBlocks s ∧ ((s.signalled e).archStops e).gb DEV_STATUS.SAFE = s.gb DEV_STATUS.SAFE := by
  obtain ⟨rf, cols, flt, heq, hchip, -⟩ := s.signalled_notes e
  have hspare := s.signalled_sparesBlocks e
  have hsafe := s.signalled_gb_safe e
  unfold State.archStops
  rw [heq] at hspare hsafe ⊢
  split <;> exact ⟨rf, cols, flt, _, rfl, hchip, ⟨hspare.wings, hspare.inReset, hspare.regs⟩, hsafe⟩

/-- The first clause of `FatalEvents`, where the table of carrels is in canonical form: outside a reset a FATAL event enters the safe state whatever its
mask, and takes neither BLK_RST nor CHIP_RST. -/
theorem State.collect_fatal_entersSafe {s : State} {e : Event} (hw : s.car.wf carDef = true) (hs : s.gb DEV_STATUS.SAFE = false)
    (hsrc : e.source < 57344) (h : (s.effSev e).1 = 2) (hr : s.dev.resetRun = false) :
    (s.collect e).EntersSafe s (safeCause e.source) e.source ∧ (s.collect e).flt.chip = s.flt.chip ∧ (s.collect e).SparesBlocks s := by
  obtain ⟨rf, cols, flt, r, heq, hchip, hspare, hsafe⟩ := s.archStops_signalled_eq e
  rw [State.collect_fatal h]
  rw [heq] at hspare hsafe ⊢
  rw [hs] at hsafe
  obtain ⟨hent, hspare'⟩ := State.enterSafe_entersSafe (src := e.source) hsafe hr hw (safeCause_lt e.source) (by omega)
  obtain ⟨cas, led, out, heq'⟩ := State.enterSafe_eq (safeCause e.source) e.source hsafe hr
  refine ⟨hent, ?_, hspare'.trans hspare⟩
  rw [heq']
  exact hchip

/-- The second clause of `FatalEvents`: during a reset the entry is owed, and neither BLK_RST nor CHIP_RST is taken. -/
theorem State.collect_fatal_owed {s : State} {e : Event} (hs : s.gb DEV_STATUS.SAFE = false) (h : (s.effSev e).1 = 2) (hr : s.dev.resetRun = true)
    (hp : s.dev.pendSafe = none) : (s.collect e).dev.pendSafe = some (safeCause e.source, e.source) ∧ (s.collect e).gb DEV_STATUS.SAFE = false ∧
      (s.collect e).flt.chip = s.flt.chip ∧ (s.collect e).SparesBlocks s := by
  obtain ⟨rf, cols, flt, r, heq, hchip, hspare, hsafe⟩ := s.archStops_signalled_eq e
  rw [State.collect_fatal h]
  rw [heq] at hspare hsafe ⊢
  rw [hs] at hsafe
  rw [State.enterSafe_owed _ _ hsafe hr hp]
  exact ⟨rfl, hsafe, hchip, ⟨hspare.wings, hspare.inReset, hspare.regs⟩⟩

/-! ### A UC event that takes CHIP_RST -/

/-- What contains a UC event resets no block, starts no CHIP_RST and leaves the time and the times of class 2. -/
structure State.Contains (t s : State) : Prop extends t.SparesBlocks s where
  chip : t.flt.chip = s.flt.chip
  cls2End : t.flt.cls2End = s.flt.cls2End
  time : t.time = s.time

theorem State.Contains.refl (s : State) : s.Contains s := ⟨.refl s, rfl, rfl, rfl⟩

theorem State.Contains.trans {u t s : State} (h : u.Contains t) (h' : t.Contains s) : u.Contains s :=
  ⟨h.toSparesBlocks.trans h'.toSparesBlocks, h.chip.trans h'.chip, h.cls2End.trans h'.cls2End, h.time.trans h'.time⟩

/-- A field of another register is put. -/
theorem State.contains_p (s : State) (f : Fld) (i v : Nat) (hf : f.reg ∉ [RegKind.PORT_STATUS, .PLOLI_LINK, .RESET_CTL]) : (s.p f i v).Contains s :=
  ⟨⟨rfl, fun _ => rfl, fun k hk j => State.reg_p_other s f k i j v fun h => hf (h ▸ hk)⟩, rfl, rfl, rfl⟩

/-- A carrel changes in all but its reset. -/
theorem State.contains_setCarrel (s : State) (p : Nat) (x : Carrel) (hx : x.inReset = (s.carrel p).inReset) : (s.setCarrel p x).Contains s := by
  refine ⟨⟨rfl, fun q => ?_, fun _ _ _ => rfl⟩, rfl, rfl, rfl⟩
  by_cases hq : q = p
  · rw [hq, State.carrel_setCarrel, hx]
  · rw [State.carrel_setCarrel_ne _ _ _ _ hq]

/-- Issue stops, and no carrel is reset. -/
theorem State.stopCarrels_contains (s : State) (n : Nat) : (s.stopCarrels n).Contains s := by
  refine foldl_keeps (fun t => t.Contains s) _ _ s (.refl s) fun t c _ ht => ?_
  dsimp only
  split
  · exact ht
  · exact ht
  · exact (t.contains_setCarrel (t.phys c) { t.carrel (t.phys c) with run := .stopped } rfl).trans ht

theorem State.endSlot_contains (s : State) (n : Nat) (e : Ending) : (s.endSlot n e).Contains s := by
  have hslot : ∀ x, (s.setSlot n x).Contains s := fun x => ⟨⟨rfl, fun _ => rfl, fun _ _ _ => rfl⟩, rfl, rfl, rfl⟩
  have hrels : ∀ (t : State) (r : List Release), ({ t with rels := r } : State).Contains t :=
    fun t r => ⟨⟨rfl, fun _ => rfl, fun _ _ _ => rfl⟩, rfl, rfl, rfl⟩
  unfold State.endSlot
  dsimp only
  split
  · exact .refl s
  · split
    · exact (State.contains_p _ SLOT_STATUS.STATE n 6 (by decide)).trans
        ((hrels _ _).trans ((State.stopCarrels_contains _ n).trans (hslot _)))
    · split
      · exact hslot _
      · exact .refl s

theorem State.contain_contains (s : State) (e : Event) : (s.contain e).Contains s := by
  unfold State.contain
  split
  · split
    · exact s.endSlot_contains _ _
    · exact .refl s
  · exact foldl_keeps (fun t => t.Contains s) _ _ s (.refl s) fun t w _ ht =>
      foldl_keeps (fun u => u.Contains s) _ _ t ht fun u n _ hu => (u.endSlot_contains n _).trans hu
  · split
    · exact s.endSlot_contains _ _
    · exact .refl s
  · exact .refl s

theorem State.oweSubst_contains (s : State) (p : Nat) : (s.oweSubst p).Contains s := by
  unfold State.oweSubst
  split
  · dsimp only
    split
    · exact .refl s
    · exact (State.contains_p _ _ _ _ (by decide)).trans (s.contains_setCarrel _ _ rfl)
  · split
    · exact .refl s
    · exact ⟨⟨rfl, fun _ => rfl, fun _ _ _ => rfl⟩, rfl, rfl, rfl⟩

/-- The wings that an event concerns exist. -/
theorem wingsHit_lt {src w : Nat} (h : w ∈ wingsHit src) : w < 32 := by
  unfold wingsHit at h
  dsimp only at h
  split at h
  · obtain ⟨k, hk, rfl⟩ := List.mem_map.mp h
    have := List.mem_range.mp hk
    omega
  · rw [List.mem_singleton.mp h]
    omega

/-- With no such reset just past no wing fails. -/
theorem State.failAgain_none {s : State} (e : Event) (h : ∀ w < 32, s.cls2Again w = false) : s.failAgain e = s :=
  foldl_keeps (fun t => t = s) _ _ s rfl fun t w hw ht => by
    subst ht
    rw [if_neg (by simp [h w (wingsHit_lt hw)])]

theorem State.cls2Again_of_contains {t s : State} (h : t.Contains s) (w : Nat) : t.cls2Again w = s.cls2Again w := by
  unfold State.cls2Again
  rw [h.cls2End, h.time]

theorem State.ucContain_contains {s : State} (e : Event) (h : ∀ w < 32, s.cls2Again w = false) : (s.ucContain e).Contains s := by
  unfold State.ucContain
  extract_lets s1 s2
  have h1 : s1.Contains s := by
    unfold s1
    split
    · exact s.contain_contains e
    · exact .refl s
  have h2 : s2.Contains s := by
    unfold s2
    split
    · exact (s1.oweSubst_contains _).trans h1
    · exact h1
  split
  · rw [State.failAgain_none e fun w hw => (State.cls2Again_of_contains h2 w).trans (h w hw)]
    exact h2
  · exact h2

/-- A UC event whose mask holds CHIP_RST starts it, is contained, and resets no block. -/
theorem State.collect_chip {s : State} {e : Event} (h : (s.effSev e).1 = 1) (hs : s.gb DEV_STATUS.SAFE = false)
    (hm : bit (s.maskOf e.source 1) 3 = true) (hc : s.flt.chip = none) :
    s.collect e = ((s.signalled e).chipOwed e.source).ucContain e := by
  obtain ⟨h2, h3⟩ := State.reactions_chip h hs hm
  obtain ⟨rf, cols, flt, heq, hchip, -⟩ := s.signalled_notes e
  have hn : (s.signalled e).flt.chip = none := by rw [heq]; exact hchip.trans hc
  rw [State.collect_eq]
  simp only [h, hs, h2, h3, hn]
  simp

/-- The third clause of `FatalEvents`: a UC event whose mask holds CHIP_RST, whatever else it holds, takes CHIP_RST and not BLK_RST. -/
theorem State.collect_chip_only {s : State} {e : Event} (h : (s.effSev e).1 = 1) (hs : s.gb DEV_STATUS.SAFE = false)
    (hm : bit (s.maskOf e.source 1) 3 = true) (hc : s.flt.chip = none) (hw : ∀ w < 32, s.cls2Again w = false) :
    (s.collect e).flt.chip = some (s.time + 1563, e.source) ∧ (s.collect e).SparesBlocks s := by
  obtain ⟨rf, cols, flt, heq, -, hend, -⟩ := s.signalled_notes e
  have hspare := s.signalled_sparesBlocks e
  rw [State.collect_chip h hs hm hc]
  rw [heq] at hspare ⊢
  have hagain : ∀ w < 32, (({ s with rf := rf, cols := cols, flt := flt } : State).chipOwed e.source).cls2Again w = false := by
    intro w hlt
    rw [← hw w hlt]
    unfold State.cls2Again State.chipOwed
    dsimp only
    rw [hend]
  have hcon := State.ucContain_contains e hagain
  exact ⟨hcon.chip, hcon.toSparesBlocks.trans ⟨hspare.wings, hspare.inReset, hspare.regs⟩⟩

/-! ### The statement -/

/-- What `Obligations.FatalEvents` says of the collection of one event in one state. -/
def State.FatalEventsAt (s : State) (e : Event) : Prop :=
  let t := s.collect e
  ((s.effSev e).1 = 2 → s.dev.resetRun = false → t.EntersSafe s (safeCause e.source) e.source ∧ t.flt.chip = s.flt.chip ∧ t.NoBlockReset s) ∧
  ((s.effSev e).1 = 2 → s.dev.resetRun = true → s.dev.pendSafe = none →
    t.dev.pendSafe = some (safeCause e.source, e.source) ∧ t.gb DEV_STATUS.SAFE = false ∧ t.flt.chip = s.flt.chip ∧ t.NoBlockReset s) ∧
  ((s.effSev e).1 = 1 → bit (s.maskOf e.source 1) 3 = true → bit (s.maskOf e.source 1) 2 = true → s.flt.chip = none →
    (∀ w < 32, s.cls2Again w = false) → t.flt.chip = some (s.time + 1563, e.source) ∧ t.NoBlockReset s)

theorem fatalEvents_iff : Obligations.FatalEvents ↔
    ∀ s : State, s.Powered → s.Quiet → ∀ e : Event, s.gb DEV_STATUS.SAFE = false → e.source < 57344 → s.FatalEventsAt e := Iff.rfl

/-- R434 holds in every state, powered or not, whose table of carrels is in canonical form. -/
theorem State.fatalEventsAt_of_wf {s : State} {e : Event} (hw : s.car.wf carDef = true) (hs : s.gb DEV_STATUS.SAFE = false)
    (hsrc : e.source < 57344) : s.FatalEventsAt e := by
  refine ⟨fun h hr => ?_, fun h hr hp => ?_, fun h hm _ hc hagain => ?_⟩
  · obtain ⟨hent, hchip, hspare⟩ := State.collect_fatal_entersSafe hw hs hsrc h hr
    exact ⟨hent, hchip, hspare.noBlockReset⟩
  · obtain ⟨howed, hsafe, hchip, hspare⟩ := State.collect_fatal_owed hs h hr hp
    exact ⟨howed, hsafe, hchip, hspare.noBlockReset⟩
  · obtain ⟨hchip, hspare⟩ := State.collect_chip_only h hs hm hc hagain
    exact ⟨hchip, hspare.noBlockReset⟩

/-- A state whose table of carrels is not in canonical form: it lists carrel 0 twice, idle and then active. Carrel 0 reads as idle. -/
def twiceListed : State := { car := [(0, {}), (0, { run := .active })] }

/-- A failure of the hub bridge of die 0: FATAL by R430. -/
def bridgeFatal : Event := { source := srcId 2 0 0x41 }

/-- The entry into the safe state drops the first value of carrel 0, which is what an unlisted carrel reads as, and lets the second show. -/
theorem twiceListed_run : (twiceListed.carrel 0).run = .idle ∧ ((twiceListed.collect bridgeFatal).carrel 0).run = .stopped := by decide +kernel

theorem bridgeFatal_hyps : (twiceListed.Powered ∧ twiceListed.Quiet) ∧ (twiceListed.gb DEV_STATUS.SAFE = false ∧ bridgeFatal.source < 57344) ∧
    (twiceListed.effSev bridgeFatal).1 = 2 ∧ twiceListed.dev.resetRun = false := by
  unfold State.Powered State.Quiet
  decide +kernel

/-- Refutes O59: it asks R434 of every state, and its first clause fails where the table of carrels is not in canonical form. In `twiceListed` carrel 0 is
idle; on a FATAL event the entry rewrites the table, and carrel 0 then reads as stopped. Where the table is in canonical form all three clauses hold
(`State.fatalEventsAt_of_wf`); the second and the third hold in every state. -/
theorem not_fatalEvents : ¬ Obligations.FatalEvents := by
  intro h
  obtain ⟨⟨hp, hq⟩, ⟨hs, hsrc⟩, hsev, hr⟩ := bridgeFatal_hyps
  obtain ⟨hfatal, -⟩ := h twiceListed hp hq bridgeFatal hs hsrc
  obtain ⟨hent, -⟩ := hfatal hsev hr
  obtain ⟨-, -, -, -, -, -, -, -, hruns, -⟩ := hent
  have hrun := (hruns 0).2
  rw [twiceListed_run.1, twiceListed_run.2] at hrun
  exact absurd hrun (by decide)

end Machine
end Sys2Proof
end

section
/-!
# What every step keeps (13 R460, 12 R428, 06 R230)

Two invariants of `step`, each from the same three facts: a command but the rows of the input pins has the form `act` (`exec_act`); the pin rows, which act
also without supply; and the idle cycle, which counts cycles and may take one step of a life-cycle change.
-/
namespace Sys2Proof.Machine

/-! ### The idle cycle -/

/-- `t` differs from `s` in nothing that COLD_RST_N, the collectors or the interrupt outputs see. -/
structure State.Unseen (s t : State) : Prop where
  cold : t.dev.cold = s.dev.cold
  safeRec : t.dev.safeRec = s.dev.safeRec
  evq : t.evq = s.evq
  link : t.link = s.link
  fns : t.fns = s.fns
  cols : t.cols = s.cols
  regs : ∀ k j, k ≠ .DEV_STATUS → t.reg k j = s.reg k j

theorem State.Unseen.refl (s : State) : s.Unseen s := ⟨rfl, rfl, rfl, rfl, rfl, rfl, fun _ _ _ => rfl⟩

theorem State.Unseen.trans {s t u : State} (h : s.Unseen t) (g : t.Unseen u) : s.Unseen u :=
  ⟨g.cold.trans h.cold, g.safeRec.trans h.safeRec, g.evq.trans h.evq, g.link.trans h.link, g.fns.trans h.fns, g.cols.trans h.cols,
    fun k j hk => (g.regs k j hk).trans (h.regs k j hk)⟩

theorem State.ledger_unseen (s : State) (typ : Nat) (body : Bytes) : s.Unseen (s.ledger typ body) := by
  obtain ⟨l, h⟩ := State.ledger_eq s typ body
  rw [h]
  exact ⟨rfl, rfl, rfl, rfl, rfl, rfl, fun _ _ _ => rfl⟩

theorem State.debugRecord_unseen (s : State) : s.Unseen s.debugRecord := by
  unfold State.debugRecord
  split
  · refine .trans ?_ (State.ledger_unseen _ _ _)
    exact ⟨rfl, rfl, rfl, rfl, rfl, rfl, fun _ _ _ => rfl⟩
  · exact .refl s

theorem State.lcProgram_unseen (s : State) : s.Unseen s.lcProgram := by
  unfold State.lcProgram
  split <;> exact ⟨rfl, rfl, rfl, rfl, rfl, rfl, fun _ _ _ => rfl⟩

theorem State.lcAdvance_unseen (s : State) : s.Unseen s.lcAdvance := by
  unfold State.lcAdvance
  dsimp only
  split
  · exact .refl s
  · split
    · exact ⟨rfl, rfl, rfl, rfl, rfl, rfl, fun k j hk => State.reg_p_other _ _ _ _ _ _ hk⟩
    · exact ⟨rfl, rfl, rfl, rfl, rfl, rfl, fun _ _ _ => rfl⟩
    · exact (State.debugRecord_unseen s).trans ((State.ledger_unseen _ _ _).trans ⟨rfl, rfl, rfl, rfl, rfl, rfl, fun _ _ _ => rfl⟩)
    · exact ⟨rfl, rfl, rfl, rfl, rfl, rfl, fun _ _ _ => rfl⟩
    · exact State.lcProgram_unseen s

theorem State.idleCycle_unseen (s : State) : s.Unseen s.idleCycle := by
  unfold State.idleCycle
  split
  · exact .refl s
  · dsimp only
    split
    · exact ⟨rfl, rfl, rfl, rfl, rfl, rfl, fun _ _ _ => rfl⟩
    · refine .trans ?_ (State.lcAdvance_unseen _)
      exact ⟨rfl, rfl, rfl, rfl, rfl, rfl, fun _ _ _ => rfl⟩

theorem State.idleCycle_cold {s : State} (h : s.dev.cold = true) : s.idleCycle = s := if_pos (by simp [h])

/-! ### In COLD reset nothing volatile is held -/

theorem State.coldOk_of_released {t : State} (h : t.dev.cold = false) : t.ColdOk := fun hc => absurd (h.symm.trans hc) Bool.false_ne_true

/-- A change that touches only what COLD keeps leaves a COLD image one. -/
theorem State.ColdOk.change {s : State} (h : s.ColdOk) (f : State → State) (hcold : (f s).dev.cold = s.dev.cold)
    (hf : f s.coldImage = (f s.coldImage).coldImage) : (f s).ColdOk := by
  intro hc
  rw [h (hcold.symm.trans hc)]
  exact hf

theorem State.coldAssert_coldOk (s : State) : s.coldAssert.ColdOk := fun _ => rfl

theorem act_coldOk {s t : State} {f : State → State} (hs : s.ColdOk) (h : act s f = .next t) : t.ColdOk := by
  by_cases hp : s.Powered
  · exact State.coldOk_of_released ((act_inputs s t f h).2.trans hp.1)
  · rw [act_unpowered s f hp] at h
    cases h
    exact hs

theorem pinRow_coldOk {s t : State} {level f : State → State} (hs : s.ColdOk) (hl : (level s).ColdOk) (h : pinRow s level f = .next t) : t.ColdOk := by
  unfold pinRow at h
  split at h
  · cases h; exact hl
  · exact act_coldOk hs h

theorem exec_coldOk {c : Instr} {s t : State} (hs : s.ColdOk) (h : exec c s = .next t) : t.ColdOk := by
  cases hc : actsUnpowered c
  case false =>
    obtain ⟨f, hf⟩ := exec_act c hc
    exact act_coldOk hs ((hf s).symm.trans h)
  case true =>
    have hvin : s.vinLoss.ColdOk := hs.change State.vinLoss rfl rfl
    cases c
    case coldResetAssert => cases h; exact s.coldAssert_coldOk
    case coldResetRelease nv =>
      obtain rfl : _ = t := Host.Outcome.next.inj h
      split
      · exact hs
      · exact State.coldOk_of_released rfl
    case vin44Undervoltage => cases h; exact hvin
    case vin44Overvoltage => cases h; exact hvin
    case vin44Loss => cases h; exact hvin
    case vin44PowerUp =>
      obtain rfl : _ = t := Host.Outcome.next.inj h
      unfold State.vinUp
      split
      · exact State.coldAssert_coldOk _
      · exact hs
    case capInFall => exact pinRow_coldOk (level := (·.capPin true)) hs (hs.change (·.capPin true) rfl rfl) h
    case capInRise => exact pinRow_coldOk (level := (·.capPin false)) hs (hs.change (·.capPin false) rfl rfl) h
    case serdesRefclkLoss => exact pinRow_coldOk (level := (·.refPin true)) hs (hs.change (·.refPin true) rfl rfl) h
    case serdesRefclkReturn => exact pinRow_coldOk (level := (·.refPin false)) hs (hs.change (·.refPin false) rfl rfl) h
    all_goals exact absurd hc Bool.false_ne_true

/-- Settles O7: in COLD reset only the pin rows act, and those touch what COLD keeps; the other commands leave COLD_RST_N as it is, and so does the idle
cycle, which does nothing in COLD reset. -/
theorem coldHoldsNoVolatileState : Obligations.ColdHoldsNoVolatileState := by
  intro s t hs h
  unfold step at h
  split at h
  · cases h
    intro hc
    have hcold : s.dev.cold = true := s.idleCycle_unseen.cold.symm.trans hc
    have hsame := s.idleCycle_cold hcold
    rw [hsame] at hc ⊢
    exact hs hcold
  · rename_i q _
    exact exec_coldOk (hs.change ({ · with pending := q }) rfl rfl) h

/-! ### Every step settles -/

theorem State.intLevel_congr {s t : State} (hcols : t.cols = s.cols) (hregs : ∀ k j, k ≠ .DEV_STATUS → t.reg k j = s.reg k j) :
    t.intLevel = s.intLevel := by
  have hg : ∀ f j, f.reg ≠ .DEV_STATUS → t.g f j = s.g f j := fun f j hf => by unfold State.g; rw [hregs _ _ hf]
  have hgb : ∀ f j, f.reg ≠ .DEV_STATUS → t.gb f j = s.gb f j := fun f j hf => by unfold State.gb; rw [hg f j hf]
  unfold State.intLevel State.mgmtStatus State.cagePending
  rw [hcols, hregs .STAMP_EVENTS 0 (by decide), hregs .MGMT_INT_ENABLE 0 (by decide), hg PWR_EVENTS.CAP_UNMET 0 (by decide),
    hg UPD_STATUS.POSTED 0 (by decide)]
  simp only [hgb CAGE_CTL.PRES_IE _ (by decide), hgb CAGE_CTL.BTN_IE _ (by decide), hgb CAGE_CTL.FAULT_IE _ (by decide),
    hgb CAGE_CTL.DONE_IE _ (by decide), hgb CAGE_STATUS.PRES_CHANGED _ (by decide), hgb CAGE_STATUS.BTN_PRESSED _ (by decide),
    hgb CAGE_STATUS.PWR_FAULT _ (by decide), hgb CAGE_STATUS.CMD_DONE _ (by decide)]

theorem State.Unseen.settled {s t : State} (h : s.Unseen t) (hs : s.Settled) : t.Settled := by
  obtain ⟨⟨hev, hrec⟩, hint⟩ := hs
  refine ⟨⟨h.evq.trans hev, h.safeRec.trans hrec⟩, ?_⟩
  have hfn : t.fn 0 = s.fn 0 := by unfold State.fn; rw [h.fns]
  rw [h.link, State.intLevel_congr h.cols h.regs, hfn]
  exact hint

theorem State.coldAssert_settled (s : State) : s.coldAssert.Settled := ⟨⟨rfl, rfl⟩, fun h => absurd h Bool.false_ne_true⟩

theorem pinRow_settled {s t : State} {level f : State → State} (hs : s.Settled) (hl : s.Unseen (level s)) (h : pinRow s level f = .next t) :
    t.Settled := by
  unfold pinRow at h
  split at h
  · cases h; exact hl.settled hs
  · exact act_settled s t f hs h

theorem exec_settled {c : Instr} {s t : State} (hs : s.Settled) (h : exec c s = .next t) : t.Settled := by
  cases hc : actsUnpowered c
  case false =>
    obtain ⟨f, hf⟩ := exec_act c hc
    exact act_settled s t f hs ((hf s).symm.trans h)
  case true =>
    have hpin {u : State} (h : s.Unseen u) : u.Settled := h.settled hs
    have hvin : s.vinLoss.Settled := hpin ⟨rfl, rfl, rfl, rfl, rfl, rfl, fun _ _ _ => rfl⟩
    cases c
    case coldResetAssert => cases h; exact s.coldAssert_settled
    case coldResetRelease nv =>
      obtain rfl : _ = t := Host.Outcome.next.inj h
      split
      · exact hs
      · exact State.settled_inputsOf _ _ (State.fin_settled _)
    case vin44Undervoltage => cases h; exact hvin
    case vin44Overvoltage => cases h; exact hvin
    case vin44Loss => cases h; exact hvin
    case vin44PowerUp =>
      obtain rfl : _ = t := Host.Outcome.next.inj h
      unfold State.vinUp
      split
      · exact State.coldAssert_settled _
      · exact hs
    case capInFall => exact pinRow_settled (level := (·.capPin true)) hs ⟨rfl, rfl, rfl, rfl, rfl, rfl, fun _ _ _ => rfl⟩ h
    case capInRise => exact pinRow_settled (level := (·.capPin false)) hs ⟨rfl, rfl, rfl, rfl, rfl, rfl, fun _ _ _ => rfl⟩ h
    case serdesRefclkLoss => exact pinRow_settled (level := (·.refPin true)) hs ⟨rfl, rfl, rfl, rfl, rfl, rfl, fun _ _ _ => rfl⟩ h
    case serdesRefclkReturn => exact pinRow_settled (level := (·.refPin false)) hs ⟨rfl, rfl, rfl, rfl, rfl, rfl, fun _ _ _ => rfl⟩ h
    all_goals exact absurd hc Bool.false_ne_true

/-- Settles O8: a command ends with `fin`, which leaves nothing to collect and the live level signalled; the pin rows outside supply and the idle cycle
touch nothing that these see. -/
theorem everyStepSettles : Obligations.EveryStepSettles := by
  intro s t hs h
  unfold step at h
  split at h
  · cases h
    exact s.idleCycle_unseen.settled hs
  · refine exec_settled ?_ h
    exact hs

end Sys2Proof.Machine
end

section
/-!
# Lines of a carrel (02 R47 to R71)

What a line leaves and what it changes, then the operations of each slot: the row of an operation carries its line out (`line_run`), and a register, a
byte or a part of the carrel after the line is what the operation that names it gives.
-/
namespace Sys2Proof.Machine

/-! ### The frame of a line -/

/-- The registers that always read as their constants. -/
theorem regVal_const {x y : Carrel} {r : RegName} (h : r = .S 0 ∨ r = .P 0) : regVal x r = regVal y r := by
  rcases h with rfl | rfl <;> rfl

/-- The line pointer goes on by one unless the control slot branches. -/
theorem line_lp_next {s : State} {c : Nat} {k : Ctx} {l : Line} (hi : s.Issues c k l) (hbr : ∀ w, l.ctl ≠ .op .BR w) (hloop : ∀ w, l.ctl ≠ .op .LOOP w) :
    ((s.runLine k l).carrel k.p).lp = (s.carrel k.p).lp + 1 := by
  have hn : ¬ slotAspects l.ctl (s.slotActs k l.ctl) .lp := by
    intro h
    unfold slotAspects at h
    split at h
    · rename_i o w hctl
      have hjump : o = .BR ∨ o = .LOOP := by
        have h2 := h.2
        clear hctl h
        revert h2
        cases o <;> decide
      obtain rfl | rfl := hjump
      · exact hbr w hctl
      · exact hloop w hctl
    · exact h
  obtain ⟨-, -, -, -, haspect, -⟩ := slotEff_touches l.ctl (s.slotActs k l.ctl) k ⟨s.carrel k.p, s.mem k.p⟩ (s.lineStart k) s rfl
  rw [line_lp hi, of_lp (haspect .lp hn), lineStart_carrel]

/-- Settles O9, from the one lemma that says what the operations of a line touch. -/
theorem lineFrame : Obligations.LineFrame := by
  intro s c k l o w hp hi hm
  refine line_run hp hi hm ?_
  obtain ⟨hcar, hreg, hmem, hother, -, hcyc⟩ := runLine_touches s k l
  refine ⟨hcar, fun r hr => ?_, fun a ha => hmem a ?_, hother, hcyc, line_lp_next hi⟩
  · by_cases h0 : r = .S 0 ∨ r = .P 0
    · exact regVal_const h0
    · exact hreg r fun h => h.elim hr h0
  · rintro ⟨e, he, hlo, hhi⟩
    have := ha e he
    omega

/-! ### Control operations on registers -/

/-- An operation with a result of R55 names `Sd` as its destination. -/
theorem alu_writes {o : Op} {x : Carrel} {w : Nat} {v : BitVec 64} (hv : aluResult o x w = some v) (hd : cD w ≠ 0) : RegName.S (cD w) ∈ Op.writes o w := by
  cases o <;> simp [aluResult] at hv <;> simp [Op.writes, hd]

/-- Settles O11: `Sd` holds what the operation's effect gives (`line_reg`), which is the result of R55 (`alu_eff`). -/
theorem controlArithmetic : Obligations.ControlArithmetic := by
  intro s c k l o w v hp hi hctl ha hv
  refine line_reg hp hi (issues_mem_ctl hctl) (issues_ctl hi hctl ha) (.S (cD w)) (toS (cD w) v) ?_ (by simp) ?_ fun t => .inl ?_
  · intro h; simp [toS, RegName.S.inj h]
  · intro h _; exact alu_writes hv fun h0 => h (by rw [h0])
  · exact alu_eff _ k o w v _ _ hv

/-- An operation with a predicate for result names `Pd` as its destination. -/
theorem pred_writes {o : Op} {x : Carrel} {w : Nat} {v : BitVec 64} (hv : predResult o x w = some v) (hd : cD w ≠ 0) : RegName.P (cD w) ∈ Op.writes o w := by
  cases o <;> simp [predResult] at hv <;> simp [Op.writes, hd]

/-- The logic of `PLOG` on numbers is that on bit vectors (R55). -/
theorem plog_result (x : Carrel) (w : Nat) (v : BitVec 64) (hv : predResult .PLOG x w = some v) :
    (match cFunc w with
      | 0 => pget x (cA w) &&& pget x (cB w)
      | 1 => pget x (cA w) ||| pget x (cB w)
      | 2 => pget x (cA w) ^^^ pget x (cB w)
      | 3 => pget x (cA w) &&& (2 ^ 64 - 1 - pget x (cB w))
      | _ => ofBits 64 fun i => decide (bits w 5 0 ≤ i ∧ i ≤ bits w 13 8)) % 2 ^ 64 = v.toNat := by
  have ha : pget x (cA w) = (BitVec.ofNat 64 (pget x (cA w))).toNat := by rw [BitVec.toNat_ofNat, Nat.mod_eq_of_lt (pget_lt _ _)]
  have hb : pget x (cB w) = (BitVec.ofNat 64 (pget x (cB w))).toNat := by rw [BitVec.toNat_ofNat, Nat.mod_eq_of_lt (pget_lt _ _)]
  unfold predResult at hv
  dsimp only at hv
  generalize hA : BitVec.ofNat 64 (pget x (cA w)) = a at ha hv
  generalize hB : BitVec.ofNat 64 (pget x (cB w)) = b at hb hv
  rw [ha, hb]
  generalize cFunc w = fn at hv ⊢
  match fn, hv with
  | 0, hv =>
    obtain rfl := Option.some.inj hv
    exact (congrArg (· % 2 ^ 64) (BitVec.toNat_and a b).symm).trans (mod_toNat _)
  | 1, hv =>
    obtain rfl := Option.some.inj hv
    exact (congrArg (· % 2 ^ 64) (BitVec.toNat_or a b).symm).trans (mod_toNat _)
  | 2, hv =>
    obtain rfl := Option.some.inj hv
    exact (congrArg (· % 2 ^ 64) (BitVec.toNat_xor a b).symm).trans (mod_toNat _)
  | 3, hv =>
    obtain rfl := Option.some.inj hv
    show (a.toNat &&& (2 ^ 64 - 1 - b.toNat)) % 2 ^ 64 = _
    rw [← BitVec.toNat_not, ← BitVec.toNat_and, mod_toNat]
  | fn + 4, hv =>
    obtain rfl := Option.some.inj hv
    show (ofBits 64 fun i => decide (bits w 5 0 ≤ i ∧ i ≤ bits w 13 8)) % 2 ^ 64 = _
    rw [range_eq (fun i => decide (bits w 5 0 ≤ i ∧ i ≤ bits w 13 8)), BitVec.toNat_ofNat]

theorem pred_eff (u : State) (k : Ctx) (o : Op) (w : Nat) (v : BitVec 64) (m : Memory) (x : Carrel)
    (hv : predResult o x w = some v) : pget ((Op.eff o k ⟨x, m⟩ w u).carrel k.p) (cD w) = toP (cD w) v := by
  have h := hv
  cases o <;> simp only [predResult, Option.some.injEq, reduceCtorEq] at h
  case CMP =>
    refine alu_P _ _ _ _ _ ?_
    dsimp only
    rw [ctlA_eq, srcB_eq, condI_eq, ← h]
    split <;> rfl
  case PLOG => exact alu_P _ _ _ _ _ (plog_result x w v hv)

/-- Settles O12: `Pd` holds what the operation's effect gives, which is the condition of R56 or the logic of R55. -/
theorem controlPredicates : Obligations.ControlPredicates := by
  intro s c k l o w v hp hi hctl ha hv
  refine line_reg hp hi (issues_mem_ctl hctl) (issues_ctl hi hctl ha) (.P (cD w)) (toP (cD w) v) (by simp) ?_ ?_ fun t => .inl ?_
  · intro h; simp [toP, RegName.P.inj h]
  · intro _ h; exact pred_writes hv fun h0 => h (by rw [h0])
  · exact pred_eff _ k o w v _ _ hv

end Sys2Proof.Machine
end

section
/-!
# Lines of a carrel: NOP lines, stalls, and the operations of the control slot (02 R47, R48, R55, R57)
-/
namespace Sys2Proof.Machine

/-! ### A line that may issue -/

theorem front_of_mayIssue {s : State} {c : Nat} {k : Ctx} {l : Line} (hctx : s.ctx c = some k) (hmay : s.mayIssue k = true)
    (hlp : (s.carrel k.p).lp < k.fo.lines) (hl : s.lineAt k = l) : s.front c = some (k, l) := by
  unfold State.front
  rw [hctx]
  simp [hmay, hlp, hl]

theorem front_of_issues {s : State} {c : Nat} {k : Ctx} {l : Line} (hi : s.Issues c k l) : s.front c = some (k, l) := by
  obtain ⟨hctx, hmay, -, hlp, hl, -⟩ := hi
  exact front_of_mayIssue hctx hmay hlp hl

theorem issueLine_of_issues {s : State} {c : Nat} {k : Ctx} {l : Line} (hi : s.Issues c k l) : s.issueLine k = s.runLine k l := by
  obtain ⟨-, -, hover, hlp, hl, hill, hdouble, hstall, hexc⟩ := hi
  unfold State.issueLine
  simp only [hover, hl]
  simp [hill, hdouble, hstall, hexc, not_le.mpr hlp]

theorem issueLine_of_stall {s : State} {k : Ctx} {l : Line} (hover : s.overBudget k = false) (hlp : (s.carrel k.p).lp < k.fo.lines)
    (hl : s.lineAt k = l) (hill : l.anyIll = false) (hdouble : l.doubleWrite = false) (hstall : s.lineStall k l = true) : s.issueLine k = s := by
  unfold State.issueLine
  simp only [hover, hl]
  simp [hill, hdouble, hstall, not_le.mpr hlp]

/-! ### NOP lines and stalled lines -/

theorem runLine_nop {s : State} {k : Ctx} (hrun : (s.carrel k.p).run = .active) :
    s.runLine k ⟨.nop, .nop, .nop, .nop⟩ = s.setCarrel k.p { s.carrel k.p with lp := (s.carrel k.p).lp + 1 } := by
  have hstart : ((s.lineStart k).carrel k.p).run ≠ .halting := by rw [lineStart_carrel, hrun]; simp
  rw [runLine_eq]
  show (s.lineStart k).lineEnd k = _
  unfold State.lineEnd State.onCar
  dsimp only
  rw [if_neg fun h => hstart h.1, lineStart_carrel]
  simp [State.lineStart, State.onCar, State.setCarrel]

/-- Settles O10: the line runs, and no slot of it does anything. -/
theorem nopLine : Obligations.NopLine := by
  intro s c k hp hq hi
  refine act_to (f := (·.nopLine c)) rfl hp ?_ (State.quiet_of hq)
  unfold State.nopLine
  rw [front_of_issues hi]
  dsimp only
  rw [if_pos ⟨rfl, rfl, rfl, rfl⟩, issueLine_of_issues hi, runLine_nop (issues_run hi)]

/-- Settles O16: the row of a line that stalls leaves the state to what follows the operations of a line. -/
theorem stalledLineWaits : Obligations.StalledLineWaits := by
  intro s c k l o w hp hctx hmay hover hlp hl hill hdouble hstall hm
  have hfront := front_of_mayIssue hctx hmay hlp hl
  have hform : Op.formOk o w = true := by
    subst hl
    simp only [List.mem_cons, List.not_mem_nil, or_false] at hm
    rcases hm with h | h | h | h <;> exact decodeSlot_form h.symm
  obtain ⟨sel, hsel, hrow⟩ := lineRow_exec o w c hform
  refine ⟨s, ?_, rfl⟩
  have hissue : s.issueIf c sel = s := by
    unfold State.issueIf
    rw [hfront]
    dsimp only
    rw [if_pos (sat_of_mem l o w sel hm hsel), issueLine_of_stall hover hlp hl hill hdouble hstall]
  rw [hrow]
  unfold carRow
  rw [act_powered _ _ hp]
  dsimp only
  rw [hfront, hissue]
  rfl

/-! ### Special registers, loads and stores -/

/-- The number of a special register and its value (R57). -/
theorem special_eq {s : State} {k : Ctx} {x : Carrel} {num v : Nat}
    (h : (num, v) ∈ [(0x00, k.c), (0x01, k.n), (0x02, k.ai), (0x03, 16 * (s.slot k.n).allot.length), (0x04, k.inv.entry), (0x05, s.now),
        (0x06, x.cycles), (0x07, x.seed), (0x08, x.trb.sat), (0x09, x.trb.fin), (0x0A, x.trb.fout), (0x0B, x.trb.nan), (0x0C, passGet x 0),
        (0x0D, passGet x 1), (0x0E, passGet x 2), (0x0F, passGet x 3), (0x10, s.neighbours k)]) : s.special k x num = v := by
  simp only [List.mem_cons, List.not_mem_nil, or_false, Prod.mk.injEq] at h
  rcases h with h | h | h | h | h | h | h | h | h | h | h | h | h | h | h | h | h <;>
    · obtain ⟨rfl, rfl⟩ := h
      rfl

theorem ctx_c {s : State} {c : Nat} {k : Ctx} (h : s.ctx c = some k) : k.c = c := by
  unfold State.ctx at h
  split at h
  · cases h
  · split at h
    · cases h
    · split at h <;> cases h
      rfl

/-- Settles O13: `Sd` takes what `State.special` gives, which no other slot of the line changes; `SEED` is written by the control slot alone. -/
theorem specialRegisters : Obligations.SpecialRegisters := by
  intro s c k l w hp hi ha
  refine ⟨fun v hctl hv => ?_, fun hctl => ?_⟩
  · have hspec : s.special k (s.carrel k.p) (cImm w) = v := special_eq (by rw [ctx_c hi.1]; exact hv)
    refine line_reg (r := .S (cD w)) hp hi (issues_mem_ctl hctl) (issues_ctl hi hctl ha) _ (by simp +contextual [toS]) (by simp) ?_ fun t => .inl ?_
    · intro h _; simpa [Op.writes] using h
    · exact alu_S _ _ _ _ _ (by rw [← hspec, BitVec.toNat_ofNat]; rfl)
  · refine line_reg (r := .SEED) hp hi (issues_mem_ctl hctl) (issues_ctl hi hctl ha) _ (by simp) (by simp) ?_ fun t => .inl ?_
    · intro _ _; simp [Op.writes]
    · show (((_ : State).onCar k _).carrel k.p).seed = _
      rw [onCar_carrel]

/-- Settles O14: `LD` reads the store as it was before the line; `ST` writes it, and only the move slot may write the same byte after it. -/
theorem localLoadStore : Obligations.LocalLoadStore := by
  intro s c k l w hp hi ha
  refine ⟨fun hctl => ?_, fun hctl => ?_⟩
  · refine line_reg (r := .S (cD w)) hp hi (issues_mem_ctl hctl) (issues_ctl hi hctl ha) _ (by simp +contextual [toS]) (by simp) ?_ fun t => .inl ?_
    · intro h _; simpa [Op.writes] using h
    · exact alu_S _ _ _ _ _ (by dsimp only; rw [ctlAddr_eq, leNat_read, BitVec.toNat_ofNat])
  · refine line_run (o := .ST) hp hi (issues_mem_ctl hctl) fun i hi8 hmov => ?_
    have hout : ¬ slotStores s k l.mov (s.slotActs k l.mov) (ctlAddr (s.carrel k.p) w + i) := by
      rintro ⟨e, he, hlo, hhi⟩
      cases hl : l.mov with
      | nop => rw [hl] at he; simp at he
      | ill => rw [hl] at he; simp at he
      | op o v =>
        rw [hl] at he
        dsimp only at he
        split at he
        · have := hmov o v hl e he; omega
        · simp at he
    have hact : s.slotActs k (.op .ST w) = true := issues_ctl hi hctl ha
    have hlen : i < (natLe 8 (sget (s.carrel k.p) (cB w))).length := by rw [natLe_length]; exact hi8
    rw [runLine_byte_ctl hi _ hout, hctl, hact, slotEff_op]
    show (State.mem (State.onMem _ k _) k.p).byte _ = _
    unfold State.onMem
    rw [State.mem_setMem]
    dsimp only
    rw [ctlAddr_eq, Memory.byte_write_in _ _ _ _ hlen, natLe_get _ _ _ hi8]

end Sys2Proof.Machine
end

section
/-!
# Lines of a carrel: branches, barriers and waits (02 R55, R61, 04 R153)

The line pointer, the gate and the barrier flags after a line are what its control slot leaves of them (`line_lp`, `line_run_state`, `line_arrived`); the
transfers are what its move slot leaves (`line_mov_xfers`).
-/
namespace Sys2Proof.Machine

/-- The state that the control slot of an issuing line begins in, after the line pointer has gone on. -/
theorem ctlSlot_op {s : State} {k : Ctx} {l : Line} {o : Op} {w : Nat} (hctl : l.ctl = .op o w) (ha : s.opActs k o w = true) :
    slotEff k ⟨s.carrel k.p, s.mem k.p⟩ l.ctl (s.slotActs k l.ctl) (s.lineStart k) = Op.eff o k ⟨s.carrel k.p, s.mem k.p⟩ w (s.lineStart k) := by
  have hact : s.slotActs k (.op o w) = true := ha
  rw [hctl, hact, slotEff_op]

/-- `BAR` is not predicated (R53). -/
theorem opActs_bar (s : State) (k : Ctx) (w : Nat) : s.opActs k .BAR w = true := if_pos (.inl rfl)

/-- The line runs on where the control slot leaves the carrel's run as it was. -/
theorem line_run_active {s : State} {c : Nat} {k : Ctx} {l : Line} (hi : s.Issues c k l)
    (h : ((slotEff k ⟨s.carrel k.p, s.mem k.p⟩ l.ctl (s.slotActs k l.ctl) (s.lineStart k)).carrel k.p).run = ((s.lineStart k).carrel k.p).run) :
    ((s.runLine k l).carrel k.p).run = .active := by
  have hact := issues_run hi
  rw [lineStart_carrel] at h
  rw [line_run_state hi, h, hact]
  simp

/-- A move slot whose operation does nothing leaves the transfers. -/
theorem line_xfers_none {s : State} {c : Nat} {k : Ctx} {l : Line} {o : Op} {w : Nat} (hi : s.Issues c k l) (hm : l.mov = .op o w)
    (he : Op.eff o = effNone) : ((s.runLine k l).carrel k.p).xfers = (s.carrel k.p).xfers := by
  obtain ⟨t, -, hx, hrun⟩ := line_mov_xfers hi
  rw [hrun, hm, ← hx]
  unfold slotEff
  dsimp only
  rw [he]
  split <;> rfl

/-- The stall of a control operation that acts did not hold. -/
theorem ctl_not_stalled {s : State} {c : Nat} {k : Ctx} {l : Line} {o : Op} {w : Nat} (hi : s.Issues c k l) (hctl : l.ctl = .op o w)
    (ha : s.opActs k o w = true) : s.opStall k o w = false := by
  have h := (slotStall_of hi).1
  rw [hctl] at h
  simpa [State.slotStall, ha] using h

/-- The stall of a move operation that acts did not hold. -/
theorem mov_not_stalled {s : State} {c : Nat} {k : Ctx} {l : Line} {o : Op} {w : Nat} (hi : s.Issues c k l) (hm : l.mov = .op o w)
    (ha : s.opActs k o w = true) : s.opStall k o w = false := by
  have h := (slotStall_of hi).2
  rw [hm] at h
  simpa [State.slotStall, ha] using h

/-- `BR`: the line pointer is the target. -/
theorem line_br {s : State} {c : Nat} {k : Ctx} {l : Line} {w : Nat} (hi : s.Issues c k l) (hctl : l.ctl = .op .BR w) (ha : acts (s.carrel k.p) w = true) :
    ((s.runLine k l).carrel k.p).lp = (((s.carrel k.p).lp : Int) + (BitVec.ofNat 32 (cImm w)).toInt).toNat := by
  rw [line_lp hi, ctlSlot_op hctl (issues_ctl hi hctl ha)]
  show ((State.onCar _ k _).carrel k.p).lp = _
  rw [onCar_carrel, tgt_eq]

theorem eff_LOOP : Op.eff .LOOP = effLoop := rfl

/-- The counter of `LOOP`, one less. -/
theorem loop_count (x : Carrel) (d : Nat) : (sget x d + 2 ^ 64 - 1) % 2 ^ 64 = (BitVec.ofNat 64 (sget x d) - 1).toNat := by
  have h := sget_lt x d
  have h1 : (1 : BitVec 64).toNat = 1 := rfl
  rw [BitVec.toNat_sub, h1, BitVec.toNat_ofNat]
  omega

/-- `LOOP`: the line pointer goes on, or to the target while the counter is not 0. -/
theorem line_loop {s : State} {c : Nat} {k : Ctx} {l : Line} {w : Nat} (hi : s.Issues c k l) (hctl : l.ctl = .op .LOOP w) (ha : acts (s.carrel k.p) w = true) :
    ((s.runLine k l).carrel k.p).lp = if BitVec.ofNat 64 (sget (s.carrel k.p) (cD w)) - 1 = 0 then (s.carrel k.p).lp + 1
      else (((s.carrel k.p).lp : Int) + (BitVec.ofNat 32 (cImm w)).toInt).toNat := by
  have hlp : ∀ x d v, (sset x d v).lp = x.lp := fun x d v => by unfold sset; split <;> rfl
  rw [line_lp hi, ctlSlot_op hctl (issues_ctl hi hctl ha), eff_LOOP]
  unfold effLoop
  rw [onCar_carrel, loop_count, tgt_eq]
  dsimp only
  have hz : (BitVec.ofNat 64 (sget (s.carrel k.p) (cD w)) - 1).toNat = 0 ↔ BitVec.ofNat 64 (sget (s.carrel k.p) (cD w)) - 1 = 0 := by
    rw [← BitVec.toNat_inj]; rfl
  simp only [hz]
  split
  · rw [hlp, lineStart_carrel]
  · rfl

theorem line_loop_reg {s : State} {c : Nat} {k : Ctx} {l : Line} {w : Nat} (hi : s.Issues c k l) (hctl : l.ctl = .op .LOOP w) (ha : acts (s.carrel k.p) w = true) :
    sget ((s.runLine k l).carrel k.p) (cD w) = toS (cD w) (BitVec.ofNat 64 (sget (s.carrel k.p) (cD w)) - 1) := by
  by_cases hd : cD w = 0
  · rw [hd]; rfl
  · have hS : RegName.S (cD w) ≠ .S 0 := fun h => hd (RegName.S.inj h)
    have hissues := hi
    obtain ⟨-, -, -, -, -, -, hdouble, -⟩ := hissues
    obtain ⟨t, -, ht⟩ := runLine_writes s k l .LOOP w (.S (cD w)) hdouble (issues_mem_ctl hctl) (issues_ctl hi hctl ha) (by simp [Op.writes, hd]) hS (by simp)
    refine Eq.trans ht ?_
    have hget : ∀ (x : Carrel) (n : Nat), sget { x with lp := n } (cD w) = sget x (cD w) := fun _ _ => rfl
    rw [eff_LOOP]
    unfold regVal effLoop
    rw [onCar_carrel, loop_count]
    dsimp only
    split <;> simp only [hget, sget_sset, mod_toNat, toS]

/-- `HALT`: the carrel stops, at once where no tag is out. -/
theorem line_halt {s : State} {c : Nat} {k : Ctx} {l : Line} {w : Nat} (hi : s.Issues c k l) (hctl : l.ctl = .op .HALT w) (ha : acts (s.carrel k.p) w = true) :
    ((s.runLine k l).carrel k.p).run = if ((s.runLine k l).carrel k.p).xfers = [] then .halted else .halting := by
  have hrun : ((Op.eff .HALT k ⟨s.carrel k.p, s.mem k.p⟩ w (s.lineStart k)).carrel k.p).run = .halting := by
    show ((State.onCar _ k _).carrel k.p).run = _
    rw [onCar_carrel]
  rw [line_run_state hi, ctlSlot_op hctl (issues_ctl hi hctl ha), hrun]
  simp

/-- The three forms of `BAR` (R153), as what each leaves of the flags and of the gate. -/
theorem line_bar_arriveWait {s : State} {c : Nat} {k : Ctx} {l : Line} {w : Nat} (hi : s.Issues c k l) (hctl : l.ctl = .op .BAR w) (h : cFunc w % 4 = 0) :
    bit ((s.runLine k l).carrel k.p).arrived (cFunc w / 4) = true ∧ ((s.runLine k l).carrel k.p).run = .gated (cFunc w / 4) := by
  have heff : Op.eff .BAR k ⟨s.carrel k.p, s.mem k.p⟩ w (s.lineStart k) = (s.lineStart k).onCar k fun x =>
      { x with arrived := setBit x.arrived (cFunc w / 4) true, run := .gated (cFunc w / 4) } := by
    show effBar _ _ _ _ = _
    unfold effBar; rw [h]; rfl
  rw [line_arrived hi, line_run_state hi, ctlSlot_op hctl (opActs_bar s k w), heff, onCar_carrel]
  exact ⟨bit_setBit _ _, by simp⟩

theorem line_bar_arrive {s : State} {c : Nat} {k : Ctx} {l : Line} {w : Nat} (hi : s.Issues c k l) (hctl : l.ctl = .op .BAR w) (h : cFunc w % 4 = 1) :
    bit ((s.runLine k l).carrel k.p).arrived (cFunc w / 4) = true ∧ ((s.runLine k l).carrel k.p).run = .active := by
  have heff : slotEff k ⟨s.carrel k.p, s.mem k.p⟩ l.ctl (s.slotActs k l.ctl) (s.lineStart k) = (s.lineStart k).onCar k fun x =>
      { x with arrived := setBit x.arrived (cFunc w / 4) true } := by
    rw [ctlSlot_op hctl (opActs_bar s k w)]
    show effBar _ _ _ _ = _
    unfold effBar; rw [h]; rfl
  refine ⟨?_, line_run_active hi (by rw [heff, onCar_carrel])⟩
  rw [line_arrived hi, heff, onCar_carrel]
  exact bit_setBit _ _

theorem line_bar_wait {s : State} {c : Nat} {k : Ctx} {l : Line} {w : Nat} (hi : s.Issues c k l) (hctl : l.ctl = .op .BAR w) (h : cFunc w % 4 = 2) :
    ((s.runLine k l).carrel k.p).arrived = (s.carrel k.p).arrived ∧ ((s.runLine k l).carrel k.p).run =
      if bit (s.carrel k.p).arrived (cFunc w / 4) then .gated (cFunc w / 4) else .active := by
  have heff : slotEff k ⟨s.carrel k.p, s.mem k.p⟩ l.ctl (s.slotActs k l.ctl) (s.lineStart k) =
      if bit (s.carrel k.p).arrived (cFunc w / 4) then (s.lineStart k).onCar k fun x => { x with run := .gated (cFunc w / 4) } else s.lineStart k := by
    rw [ctlSlot_op hctl (opActs_bar s k w)]
    show effBar _ _ _ _ = _
    unfold effBar; rw [h]; rfl
  have hact := issues_run hi
  rw [line_arrived hi, line_run_state hi, heff]
  split <;> simp [onCar_carrel, lineStart_carrel, hact]

theorem lineRow_bar (w c : Nat) : (cFunc w % 4 = 0 → lineRow .BAR w c = .barArriveWait c) ∧ (cFunc w % 4 = 1 → lineRow .BAR w c = .barArrive c) ∧
    (cFunc w % 4 = 2 → lineRow .BAR w c = .barWait c) := by
  unfold lineRow
  dsimp only
  exact ⟨fun h => by rw [h]; rfl, fun h => by rw [h]; rfl, fun h => by rw [h]; rfl⟩

/-- Settles O15, clause by clause from what each operation leaves of the line pointer, the gate, the flags and the transfers. -/
theorem controlFlow : Obligations.ControlFlow := by
  intro s c k l w hp hi
  obtain ⟨hrow0, hrow1, hrow2⟩ := lineRow_bar w c
  refine ⟨fun hctl ha => ?_, fun hctl ha => ?_, fun hctl ha => ?_, fun hctl h => ?_, fun hctl h => ?_, fun hctl h => ?_, fun hctl ha => ⟨?_, ?_⟩,
    fun hm ha => ⟨?_, ?_⟩, fun hm ha => ⟨?_, ?_⟩⟩
  · exact line_run (o := .BR) hp hi (issues_mem_ctl hctl) (line_br hi hctl ha)
  · exact line_run (o := .LOOP) hp hi (issues_mem_ctl hctl) ⟨line_loop_reg hi hctl ha, line_loop hi hctl ha⟩
  · exact line_run (o := .HALT) hp hi (issues_mem_ctl hctl) (line_halt hi hctl ha)
  · rw [← hrow0 h]; exact line_run hp hi (issues_mem_ctl hctl) (line_bar_arriveWait hi hctl h)
  · rw [← hrow1 h]; exact line_run hp hi (issues_mem_ctl hctl) (line_bar_arrive hi hctl h)
  · rw [← hrow2 h]; exact line_run hp hi (issues_mem_ctl hctl) (line_bar_wait hi hctl h)
  · have hst := ctl_not_stalled hi hctl (issues_ctl hi hctl ha)
    simp [State.opStall] at hst
    exact hst.2
  · refine line_run (o := .WAITS) hp hi (issues_mem_ctl hctl) ⟨?_, ?_⟩
    · exact line_lp_next hi (by simp [hctl]) (by simp [hctl])
    · refine line_run_active hi ?_
      rw [ctlSlot_op hctl (issues_ctl hi hctl ha)]
      rfl
  · have hst := mov_not_stalled hi hm (issues_mov hi hm ha)
    simp [State.opStall] at hst
    exact hst.2
  · exact line_run (o := .PWAIT) hp hi (issues_mem_mov hm) (line_xfers_none hi hm rfl)
  · have hst := mov_not_stalled hi hm (issues_mov hi hm ha)
    simp only [State.opStall, Bool.or_eq_false_iff] at hst
    have hwait := hst.2
    split at hwait <;> simp_all [tagBusy]
  · exact line_run (o := .MWAIT) hp hi (issues_mem_mov hm) (line_xfers_none hi hm rfl)

end Sys2Proof.Machine
end

section
/-!
# Lines of a carrel: the operations of the move slot (02 R58, R59)
-/
namespace Sys2Proof.Machine

/-! ### Transfers -/

/-- A transfer through a handle starts under its tag, over the rows that its registers give; one of no rows completes at once (R58, R45). -/
theorem line_xfer {s : State} {c : Nat} {k : Ctx} {l : Line} {w : Nat} {o : Op} {kind : XKind} {two : Bool} (hi : s.Issues c k l) (hm : l.mov = .op o w)
    (ha : acts (s.carrel k.p) w = true) (he : Op.eff o = effXfer kind two)
    (hrows : xferRows o (s.carrel k.p) w = rowsOf two (if kind = .mtouch then 0 else sget (s.carrel k.p) (mL w)) (sget (s.carrel k.p) (mO w))
      (sget (s.carrel k.p) (mN w)) (sget (s.carrel k.p) (mQ w))) :
    let rs := xferRows o (s.carrel k.p) w
    let x := s.carrel k.p
    if rs.rows = [] then ((s.runLine k l).carrel k.p).xfers = x.xfers
    else ∃ f : Xfer, ((s.runLine k l).carrel k.p).xfers = x.xfers ++ [f] ∧ f.tag = mT w ∧ f.kind = kind ∧ f.slot = k.n ∧ f.h = mH w ∧ f.wait = [] ∧
      f.todo = rs.rows.flatMap (fun e => linePieces ((s.handleOf k.n (mH w)).getD {}).base e.1 e.2 rs.len) ∧
      (kind = .mld → ∀ e ∈ rs.rows, f.wrLo ≤ e.1 ∧ e.1 + rs.len ≤ f.wrHi) ∧
      (kind = .mst → ∀ e ∈ rs.rows, f.rdLo ≤ e.1 ∧ e.1 + rs.len ≤ f.rdHi) := by
  intro rs x
  obtain ⟨t, ht, hx, hrun⟩ := mov_xfers hi hm ha
  have hhandle : t.handleOf k.n (mH w) = s.handleOf k.n (mH w) := by rw [ht]; rfl
  rw [hrun, he]
  unfold effXfer
  dsimp only
  rw [← hrows, hhandle]
  split
  · exact hx
  · rw [onCar_carrel]
    refine ⟨_, congrArg (· ++ _) hx, rfl, rfl, rfl, rfl, rfl, rfl, fun hk e hmem => ?_, fun hk e hmem => ?_⟩ <;>
      · subst hk
        exact boundOf_spec _ e hmem

/-- `LCOPY`: its transfer has no pieces; one of no bytes completes at once. -/
theorem line_lcopy {s : State} {c : Nat} {k : Ctx} {l : Line} {w : Nat} (hi : s.Issues c k l) (hm : l.mov = .op .LCOPY w) (ha : acts (s.carrel k.p) w = true) :
    let x := s.carrel k.p
    if sget x (mN w) = 0 then ((s.runLine k l).carrel k.p).xfers = x.xfers
    else ∃ f : Xfer, ((s.runLine k l).carrel k.p).xfers = x.xfers ++ [f] ∧ f.tag = mT w ∧ f.kind = .lcopy ∧ f.src = sget x (mL w) ∧
      f.dst = sget x (mO w) ∧ f.len = sget x (mN w) ∧ f.todo = [] := by
  intro x
  obtain ⟨t, -, hx, hrun⟩ := mov_xfers hi hm ha
  rw [hrun]
  show if _ then ((effLcopy _ _ _ _).carrel k.p).xfers = _ else ∃ f : Xfer, ((effLcopy _ _ _ _).carrel k.p).xfers = _ ∧ _
  unfold effLcopy
  dsimp only
  split
  · exact hx
  · rw [onCar_carrel]
    exact ⟨_, congrArg (· ++ _) hx, rfl, rfl, rfl, rfl, rfl, rfl⟩

/-- `PASS` of some bytes: its transfer has no pieces. -/
theorem line_pass {s : State} {c : Nat} {k : Ctx} {l : Line} {w : Nat} (hi : s.Issues c k l) (hm : l.mov = .op .PASS w) (ha : acts (s.carrel k.p) w = true)
    (hn : sget (s.carrel k.p) (mN w) ≠ 0) :
    let x := s.carrel k.p
    ∃ f : Xfer, ((s.runLine k l).carrel k.p).xfers = x.xfers ++ [f] ∧ f.tag = mT w ∧ f.kind = .pass ∧ f.src = sget x (mL w) ∧ f.dst = sget x (mO w) ∧
      f.len = sget x (mN w) ∧ f.dir = mDir w ∧ f.todo = [] := by
  intro x
  obtain ⟨t, -, hx, hrun⟩ := mov_xfers hi hm ha
  rw [hrun]
  show ∃ f : Xfer, ((effPass _ _ _ _).carrel k.p).xfers = _ ∧ _
  unfold effPass
  dsimp only
  rw [if_neg hn, onCar_carrel]
  exact ⟨_, congrArg (· ++ _) hx, rfl, rfl, rfl, rfl, rfl, rfl, rfl⟩

/-- Settles O17: the transfers after the line are those before it and the one that the move slot starts. -/
theorem transfersStart : Obligations.TransfersStart := by
  intro s c k l w hp hi ha
  refine ⟨fun o kind row hrow hm => ?_, fun hm => ?_, fun hm hn => ?_⟩
  · simp only [List.mem_cons, List.not_mem_nil, or_false, Prod.mk.injEq] at hrow
    have hmem := issues_mem_mov hm
    rcases hrow with h | h | h | h | h <;> obtain ⟨rfl, rfl, rfl⟩ := h
    · exact line_run hp hi hmem (line_xfer (two := false) hi hm ha rfl rfl)
    · exact line_run hp hi hmem (line_xfer (two := false) hi hm ha rfl rfl)
    · exact line_run hp hi hmem (line_xfer (two := true) hi hm ha rfl rfl)
    · exact line_run hp hi hmem (line_xfer (two := true) hi hm ha rfl rfl)
    · exact line_run hp hi hmem (line_xfer (two := false) hi hm ha rfl rfl)
  · exact line_run (o := .LCOPY) hp hi (issues_mem_mov hm) (line_lcopy hi hm ha)
  · exact line_run (o := .PASS) hp hi (issues_mem_mov hm) (line_pass hi hm ha hn)

/-! ### Local vectors and tiles -/

/-- `VLD` and `VST` are predicated by lane (R53). -/
theorem opActs_vld (s : State) (k : Ctx) (w : Nat) : s.opActs k .VLD w = true := if_pos (.inr (.inl rfl))
theorem opActs_vst (s : State) (k : Ctx) (w : Nat) : s.opActs k .VST w = true := if_pos (.inr (.inr (.inl rfl)))

/-- The lanes of 64 bits of a vector read from the store. -/
theorem lane_load (m : Memory) (a i : Nat) (h : i < 8) : lane 64 (m.le a 64) i = leNat ((List.range 8).map fun j => m.byte (a + 8 * i + j)) := by
  rw [leNat_read]
  have := lane_leNat 64 8 i (fun j => m.byte (a + j)) (by omega)
  simpa [Nat.add_assoc] using this

theorem line_vld {s : State} {c : Nat} {k : Ctx} {l : Line} {w : Nat} (hi : s.Issues c k l) (hm : l.mov = .op .VLD w) (i : Nat) (h : i < 8) :
    lane 64 (vget ((s.runLine k l).carrel k.p) (lV w)) i = if bit (predOf (s.carrel k.p) w) i
      then leNat ((List.range 8).map fun j => (s.mem k.p).byte (vecAddr (s.carrel k.p) w + 8 * i + j)) else lane 64 (vget (s.carrel k.p) (lV w)) i := by
  obtain ⟨t, ht⟩ := mov_reg hi hm (opActs_vld s k w) (.V (lV w)) (by simp [Op.writes]) (by simp) (by simp)
  have hv : vget ((s.runLine k l).carrel k.p) (lV w) = vget ((effVld k ⟨s.carrel k.p, s.mem k.p⟩ w t).carrel k.p) (lV w) := ht
  rw [hv]
  unfold effVld
  dsimp only
  rw [onCar_carrel, vget_vset, vecAddr_eq, ← lane_load _ _ _ h]
  exact lane_vMerge 4 _ _ _ _ h

theorem line_vgather {s : State} {c : Nat} {k : Ctx} {l : Line} {w : Nat} (hi : s.Issues c k l) (hm : l.mov = .op .VGATHER w)
    (ha : acts (s.carrel k.p) w = true) (i : Nat) (h : i < 8) :
    lane 64 (vget ((s.runLine k l).carrel k.p) (lV w)) i = leNat ((List.range 8).map fun j =>
      (s.mem k.p).byte ((sget (s.carrel k.p) (lA w) + lane 64 (vget (s.carrel k.p) (lB w)) i) % 2 ^ 64 + j)) := by
  obtain ⟨t, ht⟩ := mov_reg hi hm (issues_mov hi hm ha) (.V (lV w)) (by simp [Op.writes]) (by simp) (by simp)
  have hv : vget ((s.runLine k l).carrel k.p) (lV w) = vget ((effVgather k ⟨s.carrel k.p, s.mem k.p⟩ w t).carrel k.p) (lV w) := ht
  rw [hv]
  unfold effVgather
  dsimp only
  rw [onCar_carrel, vget_vset]
  refine (congrArg (lane 64 · i) (ofLanes_vec 4 _)).trans ?_
  refine (lane_ofLanes 64 8 i _ h).trans ?_
  rw [leNat_read]
  refine Nat.mod_eq_of_lt (lt_of_lt_of_le (leNat_lt _) ?_)
  rw [List.length_map, List.length_range]
  decide

theorem line_tld {s : State} {c : Nat} {k : Ctx} {l : Line} {w : Nat} (hi : s.Issues c k l) (hm : l.mov = .op .TLD w) (ha : acts (s.carrel k.p) w = true) :
    aget ((s.runLine k l).carrel k.p) (lV w) = leNat ((List.range 4096).map fun j => (s.mem k.p).byte (sget (s.carrel k.p) (lA w) + j)) := by
  obtain ⟨t, ht⟩ := mov_reg hi hm (issues_mov hi hm ha) (.A (lV w)) (by simp [Op.writes]) (by simp) (by simp)
  have hv : aget ((s.runLine k l).carrel k.p) (lV w) = aget ((effTld k ⟨s.carrel k.p, s.mem k.p⟩ w t).carrel k.p) (lV w) := ht
  have hlt := leNat_lt ((List.range 4096).map fun j => (s.mem k.p).byte (sget (s.carrel k.p) (lA w) + j))
  rw [List.length_map, List.length_range, show (256 : Nat) = 2 ^ 8 from rfl, ← pow_mul] at hlt
  rw [hv]
  unfold effTld
  dsimp only
  rw [onCar_carrel, aget_aset, leNat_read, BitVec.toNat_ofNat, Nat.mod_eq_of_lt hlt]

theorem line_tst {s : State} {c : Nat} {k : Ctx} {l : Line} {w : Nat} (hi : s.Issues c k l) (hm : l.mov = .op .TST w) (ha : acts (s.carrel k.p) w = true)
    (i : Nat) (h : i < 4096) :
    ((s.runLine k l).mem k.p).byte (sget (s.carrel k.p) (lA w) + i) = BitVec.ofNat 8 (aget (s.carrel k.p) (lV w) / 256 ^ i) := by
  obtain ⟨t, ht⟩ := mov_byte hi hm (issues_mov hi hm ha) (sget (s.carrel k.p) (lA w) + i)
  rw [ht]
  show (State.mem (State.onMem _ k _) k.p).byte _ = _
  unfold State.onMem
  rw [State.mem_setMem]
  dsimp only
  rw [Memory.byte_write_in _ _ _ _ (by rw [natLe_length]; exact h), natLe_get _ _ _ h]

/-- The store after `VST`: the bytes of the lanes whose predicate bit is 1, in their order. -/
theorem line_vst_mem {s : State} {c : Nat} {k : Ctx} {l : Line} {w : Nat} (hi : s.Issues c k l) (hm : l.mov = .op .VST w) (b : Nat) :
    ∃ m : Memory, (l.ctl = .nop → m = s.mem k.p) ∧ ((s.runLine k l).mem k.p).byte b =
      ((setBitsOf 8 (predOf (s.carrel k.p) w)).foldl (fun m i => m.write (vecAddr (s.carrel k.p) w + 8 * i) (natLe 8 (lane 64 (vget (s.carrel k.p) (lV w)) i))) m).byte b := by
  obtain ⟨t, hnop, ht⟩ := runLine_mem_mov hi b
  have hact : s.slotActs k (.op .VST w) = true := opActs_vst s k w
  refine ⟨t.mem k.p, hnop, ?_⟩
  rw [ht, hm, hact, slotEff_op, ← vecAddr_eq]
  show (State.mem (State.onMem _ k _) k.p).byte _ = _
  unfold State.onMem
  rw [State.mem_setMem]

theorem mem_setBitsOf (n p i : Nat) : i ∈ setBitsOf n p ↔ i < n ∧ bit p i = true := by
  unfold setBitsOf
  rw [List.mem_filter, List.mem_range]

theorem line_vst {s : State} {c : Nat} {k : Ctx} {l : Line} {w : Nat} (hi : s.Issues c k l) (hm : l.mov = .op .VST w) (i j : Nat) (h : i < 8) (hj : j < 8) :
    let a := vecAddr (s.carrel k.p) w + 8 * i + j
    (bit (predOf (s.carrel k.p) w) i = true → ((s.runLine k l).mem k.p).byte a = BitVec.ofNat 8 (lane 64 (vget (s.carrel k.p) (lV w)) i / 256 ^ j)) ∧
      (bit (predOf (s.carrel k.p) w) i = false → l.ctl = .nop → ((s.runLine k l).mem k.p).byte a = (s.mem k.p).byte a) := by
  intro a
  obtain ⟨m, hnop, hbyte⟩ := line_vst_mem hi hm a
  rw [hbyte]
  refine ⟨fun hb => ?_, fun hb hctl => ?_⟩
  · rw [foldl_write_in _ _ (fun i => natLe 8 (lane 64 (vget (s.carrel k.p) (lV w)) i)) _ _ _ (fun _ => natLe_length _ _) hj
      ((mem_setBitsOf _ _ _).2 ⟨h, hb⟩) (List.nodup_range.filter _), natLe_get _ _ _ hj]
  · rw [foldl_write_out, hnop hctl]
    intro n hn
    have hne : n ≠ i := by
      rintro rfl
      rw [((mem_setBitsOf _ _ _).1 hn).2] at hb
      cases hb
    rw [natLe_length]
    omega

/-- Settles O18: each operation's register or bytes, read or written as the store and the registers were before the line. -/
theorem localVectorsAndTiles : Obligations.LocalVectorsAndTiles := by
  intro s c k l w hp hi
  refine ⟨fun hm => ?_, fun hm => ?_, fun hm ha => ?_, fun hm ha => ?_, fun hm ha => ?_⟩
  · exact line_run (o := .VLD) hp hi (issues_mem_mov hm) (line_vld hi hm)
  · exact line_run (o := .VST) hp hi (issues_mem_mov hm) fun i h j hj => line_vst hi hm i j h hj
  · exact line_run (o := .VGATHER) hp hi (issues_mem_mov hm) (line_vgather hi hm ha)
  · exact line_run (o := .TLD) hp hi (issues_mem_mov hm) (line_tld hi hm ha)
  · exact line_run (o := .TST) hp hi (issues_mem_mov hm) (line_tst hi hm ha)

end Sys2Proof.Machine
end

section
/-!
# Lines of a carrel: the operations of the vector and of the matrix slot (02 R63 to R69, 03 R95 to R107)
-/
namespace Sys2Proof.Machine

/-! ### Lane by lane -/

/-- A lane-wise operation of R63 to R65 is `effVec` of a function whose lanes are those of `vecLane`, cut to the lane's width. -/
theorem vecLane_eff {o : Op} {x : Carrel} {w i v : Nat} (hi : i < laneN (vType w)) (h : vecLane o x w i = some v) :
    ∃ f, Op.eff o = effVec f ∧ Op.writes o w = [.V (vD w)] ∧ lane (laneW (vType w)) (f x w) i = v % 2 ^ laneW (vType w) := by
  cases o <;> simp only [vecLane, Option.some.injEq, reduceCtorEq] at h
  case VADD => exact ⟨_, eff_VADD, rfl, by rw [← h]; refine (lanes2_lane _ _ _ _ _ hi).trans ?_; split <;> rfl⟩
  case VSUB => exact ⟨_, eff_VSUB, rfl, by rw [← h]; refine (lanes2_lane _ _ _ _ _ hi).trans ?_; split <;> rfl⟩
  case VMUL => exact ⟨_, eff_VMUL, rfl, by rw [← h]; refine (lanes2_lane _ _ _ _ _ hi).trans ?_; split <;> rfl⟩
  case VFMA => exact ⟨_, eff_VFMA, rfl, by rw [← h]; exact lane_ofLanes _ _ _ _ hi⟩
  case VMAX => exact ⟨_, eff_VMAX, rfl, by rw [← h]; refine (lanes2_lane _ _ _ _ _ hi).trans ?_; split <;> rfl⟩
  case VMIN => exact ⟨_, eff_VMIN, rfl, by rw [← h]; refine (lanes2_lane _ _ _ _ _ hi).trans ?_; split <;> rfl⟩
  case VSH => exact ⟨_, eff_VSH, rfl, by rw [← h]; unfold vSh; exact lanes1_lane _ _ _ _ hi⟩
  case VMOV => exact ⟨_, eff_VMOV, rfl, by rw [← h, lane_mod]⟩
  case VBCAST => exact ⟨_, eff_VBCAST, rfl, by rw [← h]; exact lane_ofLanes _ _ _ _ hi⟩
  case VPERM => exact ⟨_, eff_VPERM, rfl, by rw [← h]; exact lane_ofLanes _ _ _ _ hi⟩
  case VSEL => exact ⟨_, eff_VSEL, rfl, by rw [← h]; exact lane_ofLanes _ _ _ _ hi⟩
  case VACT => exact ⟨_, eff_VACT, rfl, by rw [← h]; exact lanes1_lane _ _ _ _ hi⟩
  case VSCALE => exact ⟨_, eff_VSCALE, rfl, by rw [← h]; exact lanes1_lane _ _ _ _ hi⟩

/-- Settles O19: a lane-wise operation by `vecLane_eff`; the three logical operations act on the bits of the whole vector. -/
theorem vectorLanes : Obligations.VectorLanes := by
  intro s c k l w hp hi
  refine ⟨fun o hv _ => line_run hp hi (issues_mem_vec hv) fun i v hlt hlane => ?_, fun hv => ?_, fun hv => ?_, fun hv => ?_⟩
  · obtain ⟨f, heff, hwr, hval⟩ := vecLane_eff hlt hlane
    rw [vec_lane hi hv f heff hwr i hlt, hval]
  · refine line_run (o := .VAND) hp hi (issues_mem_vec hv) fun i hlt => ?_
    rw [vec_lane hi hv _ eff_VAND rfl i hlt, BitVec.toNat_and, vget_ofNat, vget_ofNat]
  · refine line_run (o := .VOR) hp hi (issues_mem_vec hv) fun i hlt => ?_
    rw [vec_lane hi hv _ eff_VOR rfl i hlt, BitVec.toNat_or, vget_ofNat, vget_ofNat]
  · refine line_run (o := .VXOR) hp hi (issues_mem_vec hv) fun i hlt => ?_
    rw [vec_lane hi hv _ eff_VXOR rfl i hlt, BitVec.toNat_xor, vget_ofNat, vget_ofNat]

/-! ### Scalars, predicates, conversion -/

theorem line_vext {s : State} {c : Nat} {k : Ctx} {l : Line} {w : Nat} (hi : s.Issues c k l) (hv : l.vec = .op .VEXT w) (ha : acts (s.carrel k.p) w = true) :
    sget ((s.runLine k l).carrel k.p) (vD w) = toS (vD w) (BitVec.ofNat 64 (lane (laneW (vType w)) (vget (s.carrel k.p) (vA w)) (vFunc w))) := by
  by_cases hd : vD w = 0
  · rw [hd]; rfl
  · obtain ⟨t, -, ht⟩ := vec_reg hi hv (.S (vD w)) (by simp [Op.writes, hd]) (fun h => hd (RegName.S.inj h)) (by simp)
    refine Eq.trans ht ?_
    show sget ((effVext k _ w t).carrel k.p) (vD w) = _
    unfold effVext
    rw [if_pos ha]
    exact alu_S _ _ _ _ _ (BitVec.toNat_ofNat _ _).symm

theorem line_vred {s : State} {c : Nat} {k : Ctx} {l : Line} {w : Nat} (hi : s.Issues c k l) (hv : l.vec = .op .VRED w) (ha : acts (s.carrel k.p) w = true) :
    vget ((s.runLine k l).carrel k.p) (vD w) = (BitVec.ofNat 512 (vRed (vType w) (vFunc w) (vget (s.carrel k.p) (vA w)))).toNat := by
  obtain ⟨t, -, ht⟩ := vec_reg hi hv (.V (vD w)) (by simp [Op.writes]) (by simp) (by simp)
  refine Eq.trans ht ?_
  show vget ((effVred k _ w t).carrel k.p) (vD w) = _
  unfold effVred
  rw [if_pos ha, onCar_carrel, vget_vset]

theorem laneN_le (ty : Nat) : laneN ty ≤ 64 := by
  rcases laneW_cases ty with h | h | h | h <;> omega

/-- The predicate that `VCMP` leaves, bit by bit. -/
theorem line_vcmp {s : State} {c : Nat} {k : Ctx} {l : Line} {w : Nat} (hi : s.Issues c k l) (hv : l.vec = .op .VCMP w) (hd : vD w ≠ 0) (i : Nat) (h : i < 64) :
    bit (pget ((s.runLine k l).carrel k.p) (vD w)) i = (decide (i < laneN (vType w)) && if bit (predOf (s.carrel k.p) w) i
      then vCmpLane (vType w) (vFunc w) (vget (s.carrel k.p) (vA w)) (vget (s.carrel k.p) (vB w)) i else bit (pget (s.carrel k.p) (vD w)) i) := by
  obtain ⟨t, -, ht⟩ := vec_reg hi hv (.P (vD w)) (by simp [Op.writes, hd]) (by simp) (fun h => hd (RegName.P.inj h))
  have hp : pget ((s.runLine k l).carrel k.p) (vD w) = pget ((effVcmp k ⟨s.carrel k.p, s.mem k.p⟩ w t).carrel k.p) (vD w) := ht
  rw [hp]
  unfold effVcmp
  dsimp only
  rw [onCar_carrel, pget_pset, if_neg hd]
  unfold bit
  rw [Nat.testBit_mod_two_pow, (ofBits_lt _ _).2]
  simp [h]

/-- What `VCVT` leaves of its vector and of `SEED`. -/
theorem line_vcvt {s : State} {c : Nat} {k : Ctx} {l : Line} {w : Nat} (hi : s.Issues c k l) (hv : l.vec = .op .VCVT w) :
    let x := s.carrel k.p
    let r := vCvt (vType w) (vFunc w) (sget x (vSx w)) (predOf x w) (vget x (vD w)) (vget x (vA w)) x.seed
    vget ((s.runLine k l).carrel k.p) (vD w) = (BitVec.ofNat 512 r.v).toNat ∧ (bit (vFunc w) 3 = true → ((s.runLine k l).carrel k.p).seed = r.seed) := by
  intro x r
  have hseed : ∀ (y : Carrel) (z n : Nat), vget { y with seed := z } n = vget y n := fun _ _ _ => rfl
  have htrb : ∀ (y : Carrel) (z : Troubles) (n : Nat), vget (addTroubles y z) n = vget y n := fun _ _ _ => rfl
  refine ⟨?_, fun hs => ?_⟩
  · obtain ⟨t, -, ht⟩ := vec_reg hi hv (.V (vD w)) (by simp [Op.writes]) (by simp) (by simp)
    refine Eq.trans ht ?_
    show vget ((effVcvt k _ w t).carrel k.p) (vD w) = _
    unfold effVcvt
    dsimp only
    rw [onCar_carrel]
    split <;> simp only [hseed, htrb, vget_vset] <;> rfl
  · obtain ⟨t, -, ht⟩ := vec_reg hi hv .SEED (by simp [Op.writes, hs]) (by simp) (by simp)
    refine Eq.trans ht ?_
    show ((effVcvt k _ w t).carrel k.p).seed = _
    unfold effVcvt
    dsimp only
    rw [onCar_carrel, if_pos hs]

/-- The trouble counters of a carrel raised by a conversion or a product, each saturating (R109). -/
theorem addTroubles_trb (x : Carrel) (n : Troubles) : (addTroubles x n).trb = ⟨min (x.trb.sat + n.sat) (2 ^ 32 - 1), min (x.trb.fin + n.fin) (2 ^ 32 - 1),
    min (x.trb.fout + n.fout) (2 ^ 32 - 1), min (x.trb.nan + n.nan) (2 ^ 32 - 1)⟩ := rfl

theorem vset_trb (x : Carrel) (d v : Nat) : (vset x d v).trb = x.trb := rfl
theorem aset_trb (x : Carrel) (d v : Nat) : (aset x d v).trb = x.trb := rfl

theorem line_vcvt_trb {s : State} {c : Nat} {k : Ctx} {l : Line} {w : Nat} (hi : s.Issues c k l) (hv : l.vec = .op .VCVT w) (hmat : l.mat = .nop) :
    let x := s.carrel k.p
    ((s.runLine k l).carrel k.p).trb =
      (addTroubles x (vCvt (vType w) (vFunc w) (sget x (vSx w)) (predOf x w) (vget x (vD w)) (vget x (vA w)) x.seed).t).trb := by
  intro x
  obtain ⟨t, h0, ht⟩ := (trb_line hi).1 hmat
  have hact : s.slotActs k (.op .VCVT w) = true := by
    have hport := (issues_port hi).2.2.1 hv
    simp [State.slotActs, State.opActs, hport.2]
  rw [ht, hv, hact, slotEff_op]
  show ((effVcvt k _ w t).carrel k.p).trb = _
  unfold effVcvt
  dsimp only
  rw [onCar_carrel]
  split <;> simp only [addTroubles_trb, vset_trb, h0] <;> rfl

/-- Settles O20, from what each operation leaves of the register that it names, of `SEED` and of the counters. -/
theorem vectorToScalarAndConversion : Obligations.VectorToScalarAndConversion := by
  intro s c k l w hp hi
  refine ⟨fun hv ha => ?_, fun hv ha => ?_, fun hv hd => ?_, fun hv => ?_⟩
  · exact line_run (o := .VEXT) hp hi (issues_mem_vec hv) (line_vext hi hv ha)
  · exact line_run (o := .VRED) hp hi (issues_mem_vec hv) (line_vred hi hv ha)
  · exact line_run (o := .VCMP) hp hi (issues_mem_vec hv) (line_vcmp hi hv hd)
  · refine line_run (o := .VCVT) hp hi (issues_mem_vec hv) ⟨(line_vcvt hi hv).1, (line_vcvt hi hv).2, fun hmat => ?_⟩
    rw [line_vcvt_trb hi hv hmat, addTroubles_trb]

/-! ### Matrix operations -/

/-- A tile that a matrix operation names is what the operation leaves of it. -/
theorem line_tile {s : State} {c : Nat} {k : Ctx} {l : Line} {w : Nat} {o : Op} (hi : s.Issues c k l) (hm : l.mat = .op o w) (ha : acts (s.carrel k.p) w = true)
    {d : Nat} (hd : RegName.A d ∈ Op.writes o w) {v : Nat}
    (hv : ∀ t : State, t = { s with car := t.car, store := t.store } → aget ((Op.eff o k ⟨s.carrel k.p, s.mem k.p⟩ w t).carrel k.p) d = v) :
    aget ((s.runLine k l).carrel k.p) d = v := by
  obtain ⟨t, ht, hrun⟩ := mat_reg hi hm ha (.A d) hd (by simp) (by simp)
  exact Eq.trans hrun (hv t ht)

/-- The counters after a product, where the vector slot is empty. -/
theorem line_mat_trb {s : State} {c : Nat} {k : Ctx} {l : Line} {w : Nat} {o : Op} (hi : s.Issues c k l) (hm : l.mat = .op o w) (ha : acts (s.carrel k.p) w = true)
    (hvec : l.vec = .nop) {n : Troubles}
    (hv : ∀ t : State, ((Op.eff o k ⟨s.carrel k.p, s.mem k.p⟩ w t).carrel k.p).trb = (addTroubles (t.carrel k.p) n).trb) :
    ((s.runLine k l).carrel k.p).trb = (addTroubles (s.carrel k.p) n).trb := by
  obtain ⟨t, h0, hrun⟩ := mat_trb hi hm ha hvec
  rw [hrun, hv t, addTroubles_trb, addTroubles_trb, h0]

/-- Settles O21: the tiles and counters that each operation leaves, from the registers and the store as they were before the line. -/
theorem matrixOperations : Obligations.MatrixOperations := by
  intro s c k l w hp hi ha
  refine ⟨fun hm => ?_, fun hm => ?_, fun hm => ?_, fun hm => ?_, fun hm => ?_, fun hm => ?_⟩
  · refine line_run (o := .MMA) hp hi (issues_mem_mat hm) ⟨line_tile hi hm ha (by simp [Op.writes]) fun t _ => ?_, fun hvec => ?_⟩
    · show aget ((State.onCar t k _).carrel k.p) _ = _
      rw [onCar_carrel, aget_troubles, aget_aset]
    · refine (line_mat_trb hi hm ha hvec fun t => ?_).trans (addTroubles_trb _ _)
      show ((State.onCar t k _).carrel k.p).trb = _
      rw [onCar_carrel]
      rfl
  · refine line_run (o := .MMAM) hp hi (issues_mem_mat hm)
      ⟨line_tile hi hm ha (by simp [Op.writes]) fun t _ => ?_, line_tile hi hm ha (by simp [Op.writes]) fun t _ => ?_, fun hvec => ?_⟩
    · show aget ((State.onCar t k _).carrel k.p) _ = _
      rw [onCar_carrel, aget_troubles, aget_aset_ne _ _ _ _ (by omega), aget_aset]
    · show aget ((State.onCar t k _).carrel k.p) _ = _
      rw [onCar_carrel, aget_troubles, aget_aset]
    · refine (line_mat_trb hi hm ha hvec fun t => ?_).trans (addTroubles_trb _ _)
      show ((State.onCar t k _).carrel k.p).trb = _
      rw [onCar_carrel]
      rfl
  · refine line_run (o := .TZERO) hp hi (issues_mem_mat hm) (line_tile hi hm ha (by simp [Op.writes]) fun t _ => ?_)
    show aget ((State.onCar t k _).carrel k.p) _ = _
    rw [onCar_carrel, aget_aset, BitVec.toNat_ofNat, Nat.zero_mod]
  · refine line_run (o := .TCOPY) hp hi (issues_mem_mat hm) (line_tile hi hm ha (by simp [Op.writes]) fun t _ => ?_)
    show aget ((State.onCar t k _).carrel k.p) _ = _
    rw [onCar_carrel, aget_aset, aget_ofNat]
  · refine line_run (o := .TGET) hp hi (issues_mem_mat hm) ?_
    obtain ⟨t, -, hrun⟩ := mat_reg hi hm ha (.V (xVR w)) (by simp [Op.writes]) (by simp) (by simp)
    refine Eq.trans hrun ?_
    show vget ((State.onCar t k _).carrel k.p) _ = _
    rw [onCar_carrel, vget_vset, BitVec.toNat_ofNat]
    exact lane_mod 512 _ _
  · refine line_run (o := .TPUT) hp hi (issues_mem_mat hm) fun i _ => ?_
    have hch : xCh w < 64 := by unfold xCh bits; exact Nat.mod_lt _ (by decide)
    have htile : aget ((s.runLine k l).carrel k.p) (xTD w) =
        setBits (aget (s.carrel k.p) (xTD w)) (512 * xCh w + 511) (512 * xCh w) (vget (s.carrel k.p) (xVR w)) := by
      refine line_tile hi hm ha (by simp [Op.writes]) fun t _ => ?_
      show aget ((State.onCar t k _).carrel k.p) _ = _
      rw [onCar_carrel, aget_aset]
      exact ofNat_setBits 32768 _ _ _ _ (by omega) (by omega)
    rw [htile, lane_setBits]
    split
    · exact Nat.mod_eq_of_lt (BitVec.isLt _)
    · rfl

end Sys2Proof.Machine
end

section
/-!
# Folio exceptions and mover tags (02 R59, R61, R71)
-/
namespace Sys2Proof.Machine

/-! ### Folio exceptions -/

/-- The invocation of slot `k.n` ends on an exception of carrel `k` with the code `code` at `line` (R71). -/
def State.EndsFolio (s : State) (k : Ctx) (row : Instr) (code line : Nat) : Prop :=
  ∃ t, exec row s = .next t ∧ t.g SLOT_STATUS.STATE k.n = 6 ∧
    (s.overFirst k = none → (t.slot k.n).ending = some { status := 1, exc := code, carrel := k.ai, line := line }) ∧
    (∀ d, s.overFirst k = some d → (t.slot k.n).ending =
      some { status := 1, exc := 9, carrel := allotIndex (s.slot k.n).allot d, line := (s.carrel (s.phys d)).lp }) ∧
    (∀ d ∈ carrelsOf (s.slot k.n).allot, (t.carrel (s.phys d)).run ∈ [Run.idle, .halted, .stopped]) ∧
    (∀ d, t.mem d = s.mem d) ∧ (∀ m, m ≠ k.n → t.slot m = s.slot m)

/-- A row that raises the exception ends the invocation. -/
theorem endsFolio_of_act {s : State} {k : Ctx} {row : Instr} {f : State → State} {code line : Nat} (hr : exec row s = act s f) (hp : s.Powered) (hq : s.Quiet)
    (hf : f s = s.folioExc k code line) (hst : s.g SLOT_STATUS.STATE k.n = 3 ∨ s.g SLOT_STATUS.STATE k.n = 4) (hi : (s.slot k.n).inv ≠ none)
    (he : (s.slot k.n).ending = none) (hsafe : s.gb DEV_STATUS.SAFE = false) : s.EndsFolio k row code line := by
  obtain ⟨car, heq, hrun⟩ := State.folioExc_eq s k code line hst hi he hsafe
  refine ⟨_, act_to hr hp (hf.trans heq) (State.quiet_of hq), ?_, fun hnone => ?_, fun d hd => ?_, fun d hd => ?_, fun d => ?_, fun m hm => ?_⟩
  · rw [State.lines_g', State.g_p_self _ _ _ _ (by decide) (by decide) (by decide)]
  · rw [State.lines_slot', ← heq]
    simp only [heq, State.p_slot', State.excReport, hnone]
    show ((s.setSlot k.n _).slot k.n).ending = _
    rw [State.slot_setSlot]
  · rw [State.lines_slot']
    show ((s.setSlot k.n _).slot k.n).ending = _
    rw [State.slot_setSlot]
    simp only [State.excReport, hd]
  · rw [State.lines_carrel']
    exact hrun d hd
  · rw [State.lines_mem']
    rfl
  · rw [State.lines_slot']
    exact State.slot_setSlot_ne _ _ _ _ hm

/-- Settles O22: each of the three rows is the exception of R71 that its hypotheses name. -/
theorem folioExceptionsEndTheInvocation : Obligations.FolioExceptionsEndTheInvocation := by
  intro s c k hp hq hctx hsafe hst he x Ends
  obtain ⟨hinv, hphys, -⟩ := ctx_facts hctx
  have hi : (s.slot k.n).inv ≠ none := by rw [hinv]; simp
  refine ⟨fun l hmay hover hlp hl hill => ?_, fun hmay hover hlp => ?_, fun hover hrun => ?_⟩
  · refine endsFolio_of_act (f := (·.illLine c)) rfl hp hq ?_ hst hi he hsafe
    unfold State.illLine
    rw [front_of_mayIssue hctx hmay hlp hl]
    dsimp only
    rw [if_pos hill]
    unfold State.issueLine
    simp only [hover, hl]
    simp [hill, not_le.mpr hlp, x]
  · refine endsFolio_of_act (f := (·.pastEnd c)) rfl hp hq ?_ hst hi he hsafe
    unfold State.pastEnd
    rw [hctx]
    dsimp only
    rw [if_pos (by simp [hmay, x] at hlp ⊢; exact hlp)]
    unfold State.issueLine
    simp only [hover]
    simp [x] at hlp ⊢
    intro h; omega
  · refine endsFolio_of_act (f := (·.budgetEnd c)) rfl hp hq ?_ hst hi he hsafe
    have hhit : s.budgetHit k.inv c = true := by
      unfold State.budgetHit
      rw [← hphys]
      unfold State.overBudget at hover
      simp only [Bool.and_eq_true, decide_eq_true_eq] at hover
      rcases hrun with h | h | ⟨b, h | h⟩ <;> simp only [x] at h <;> simp [h, hover]
    unfold State.budgetEnd
    rw [hctx]
    dsimp only
    rw [if_pos (by rcases hst with h | h <;> simp [hhit, h, he, hsafe])]

/-! ### Mover tags -/

/-- The tag of a transfer with nothing left to do completes; with pieces that wait it stays. -/
theorem tagComplete_eq {s : State} {c tag : Nat} {f : Xfer} (hx : ∀ g ∈ (s.carrel (s.phys c)).xfers, g.todo = [])
    (hf : (s.carrel (s.phys c)).xfers.find? (fun g => decide (g.tag = tag)) = some f) :
    s.tagComplete c tag = if f.wait = [] then s.tagDone c f else s := by
  have htodo : f.todo = [] := hx f (List.mem_of_find?_eq_some hf)
  unfold State.tagComplete
  rw [pump_none s c hx]
  dsimp only
  rw [hf]
  simp [htodo]

/-- Settles O23: the transfers have nothing to try, so the row is the completion of the tag alone. -/
theorem tagsComplete : Obligations.TagsComplete := by
  intro s c tag f hp hq p x hx hf rest done
  have htag : f.tag = tag := filter_find _ _ _ hf
  have hrow {t : State} (h : s.tagComplete c tag = t) (ht : t.Quiet) (hpend : t.pending = s.pending) (hc : t.dev.cold = s.dev.cold) :
      exec (.moverTagComplete c tag) s = .next t.lines := act_to (f := (·.tagComplete c tag)) rfl hp h ht hpend hc
  have hdone (y : Carrel) : Carrel.settled { y with xfers := y.xfers.filter fun g => decide (g.tag ≠ f.tag) } =
      { y with xfers := y.xfers.filter fun g => decide (g.tag ≠ tag),
               run := if y.run = .halting ∧ (y.xfers.filter fun g => decide (g.tag ≠ tag)) = [] then .halted else y.run } := by
    rw [htag]
    unfold Carrel.settled
    dsimp only
    split <;> rfl
  refine ⟨fun hw => ?_, fun hw hk => ?_, fun hw hk => ?_, fun d hw hk hn hd => ?_⟩
  · exact hrow (by rw [tagComplete_eq hx hf, if_neg hw]) hq rfl rfl
  · refine hrow ?_ (State.quiet_of hq) rfl rfl
    rw [tagComplete_eq hx hf, if_pos hw]
    unfold State.tagDone
    rcases hk with hk | hk | hk <;> · rw [hk]; dsimp only; rw [hdone]
  · refine hrow ?_ (State.quiet_of hq) rfl rfl
    rw [tagComplete_eq hx hf, if_pos hw]
    unfold State.tagDone
    rw [hk]
    dsimp only
    rw [hdone]
    rfl
  · refine hrow ?_ (State.quiet_of hq) rfl rfl
    rw [tagComplete_eq hx hf, if_pos hw]
    unfold State.tagDone
    rw [hk]
    dsimp only
    rw [hn]
    dsimp only
    rw [hdone, State.carrel_setCarrel_ne _ _ _ _ (Ne.symm hd)]
    rfl

end Sys2Proof.Machine
end

section
/-!
# The date stamp and the due-date table (04 R116 to R141)
-/
namespace Sys2Proof.Machine

/-- One tick of the stamp, before what is due in it acts (R116). -/
def State.ticked (s u : State) : State :=
  { u.p STAMP_NOW.VALUE 0 ((s.now + 1) % 2 ^ 64) with
    time := s.time + 1,
    stamp := { s.stamp with actAt := s.stamp.actAt.filter fun t => decide (s.time < t),
                            acts := s.stamp.acts.filter fun e => decide (s.time + 1 < e.1),
                            sinceGood := s.stamp.sinceGood + 1,
                            holdTicks := if s.stamp.refPresent then 0 else s.stamp.holdTicks + 1,
                            refTicks := if s.stamp.refPresent then s.stamp.refTicks + 1 else 0 } }

theorem canFire_congr {s t : State} (h : ∀ k, k ≠ .STAMP_NOW → t.reg k 0 = s.reg k 0) : t.canFire = s.canFire := by
  have hg : ∀ f, f.reg ≠ .STAMP_NOW → t.g f = s.g f := fun f hf => by unfold State.g; rw [h _ hf]
  unfold State.canFire State.inService State.gb
  rw [hg STAMP_STATUS.SYNC_OK (by decide), hg DEV_STATUS.STATE (by decide), hg DEV_STATUS.SAFE (by decide)]

/-- The tick with the effects that waited for one still listed. -/
def State.tickedDue (s : State) : State := { s.ticked s with stamp := { (s.ticked s).stamp with acts := s.stamp.acts } }

theorem stampTick_eq (s : State) : s.stampTick = s.tickedDue.ddActs := rfl

/-- With no effect due nothing acts. -/
theorem ddActs_none {t : State} (h : ∀ e ∈ t.stamp.acts, t.time < e.1) : t.ddActs = t :=
  if_pos (List.filter_eq_nil_iff.2 fun e he => by simpa using h e he)

/-- The one effect that waits is due now. -/
theorem ddActs_one {t : State} {i spec : Nat} (ha : t.stamp.acts = [(t.time, i, spec)]) (hfire : t.canFire = true) :
    t.ddActs = ({ t with stamp := { t.stamp with acts := [] } } : State).ddEffect i spec := by
  have hdue : t.stamp.acts.filter (fun e => decide (e.1 ≤ t.time)) = [(t.time, i, spec)] := by simp [ha]
  have hlate : t.stamp.acts.filter (fun e => decide (t.time < e.1)) = [] := by simp [ha]
  unfold State.ddActs
  dsimp only
  rw [hdue, if_neg (by simp), hlate, if_pos (show State.canFire { t with stamp := { t.stamp with acts := [] } } = true from hfire)]
  rfl

theorem stampTick_none {s : State} (h : ∀ e ∈ s.stamp.acts, s.time + 1 < e.1) : s.stampTick = s.ticked s := by
  have hkeep : s.stamp.acts.filter (fun e => decide (s.time + 1 < e.1)) = s.stamp.acts := List.filter_eq_self.2 fun e he => decide_eq_true (h e he)
  rw [stampTick_eq, ddActs_none h]
  unfold State.tickedDue State.ticked
  rw [hkeep]

theorem stampTick_one {s : State} {i spec : Nat} (hfire : s.canFire = true) (hacts : s.stamp.acts = [(s.time + 1, i, spec)]) :
    s.stampTick = (s.ticked s).ddEffect i spec := by
  have hcan : s.tickedDue.canFire = true := (canFire_congr fun k hk => State.reg_p_ne _ _ _ _ _ _ (.inl hk)).trans hfire
  rw [stampTick_eq, ddActs_one hacts hcan]
  unfold State.tickedDue State.ticked
  simp [hacts]

theorem ddEffect_opPoint (s : State) (i : Nat) {spec : Nat} (h : ddAction spec = 4) : s.ddEffect i spec = s.p PWR_OP.TARGET 0 (bits (ddArg spec) 2 0) := by
  unfold State.ddEffect
  dsimp only
  rw [h]
  rfl

/-- A good frame: the run of bad ones ends. -/
def State.goodFrame (s : State) : State :=
  ({ s with stamp := { s.stamp with missRun := 0, sinceGood := 0, badSeen := false } } : State).p STAMP_STATUS.SYNC_LOST 0 0

theorem goodFrame_synced (s : State) : s.goodFrame.gb STAMP_STATUS.SYNC_OK = s.gb STAMP_STATUS.SYNC_OK :=
  State.gb_p_field _ _ _ _ _ rfl (by decide) (by decide) (by decide) (by decide)

/-- The stamp follows a good frame: stepped to it, or, at the first one, set to it (R118, R119). -/
def State.framed (s : State) (v : Nat) : State :=
  if s.gb STAMP_STATUS.SYNC_OK then s.stampStep v
  else ((s.setNow v).p STAMP_STATUS.SYNC_OK 0 1).ddEach (fun _ e => decide (e.state = 1) && decide (e.stamp < v + 2))
    fun e => { e with pend := some (1, 0, (e.stamp + e.period) % 2 ^ 64) }

/-- A good frame outside holdover. -/
theorem syncFrame_good {s : State} {v : Nat} (href : s.stamp.refPresent = true) (hhold : (s.goodFrame.framed v).stamp.holdover = false) :
    s.syncFrame v (crc16 v) false = State.ddFireMarked 256 (s.goodFrame.framed v) := by
  unfold State.syncFrame
  rw [if_neg (by simp [href]), if_neg (by simp)]
  exact congrArg (State.ddFireMarked 256) (if_neg fun h => absurd (hhold.symm.trans h.1) Bool.false_ne_true)

theorem syncFrame_agrees {s : State} (href : s.stamp.refPresent = true) (hok : s.gb STAMP_STATUS.SYNC_OK = true) (hhold : s.stamp.holdover = false)
    (hpend : ∀ i, (s.ddEnt i).pend = none) : s.syncFrame s.now (crc16 s.now) false = s.goodFrame := by
  have hnow : s.goodFrame.now = s.now := State.g_p_other _ _ _ _ _ _ (by decide)
  have hframed : s.goodFrame.framed s.now = s.goodFrame := by
    unfold State.framed State.stampStep
    rw [goodFrame_synced, if_pos hok]
    dsimp only
    rw [if_pos hnow]
  rw [syncFrame_good href (by rw [hframed]; exact hhold), hframed]
  exact ddFireMarked_none _ _ fun i _ => hpend i

theorem syncFrame_first {s : State} (v : Nat) (href : s.stamp.refPresent = true) (hok : s.gb STAMP_STATUS.SYNC_OK = false)
    (hhold : s.stamp.holdover = false) (harm : ∀ i, (s.ddEnt i).state ≠ 1) :
    s.syncFrame v (crc16 v) false = (s.goodFrame.p STAMP_NOW.VALUE 0 (v % 2 ^ 64)).p STAMP_STATUS.SYNC_OK 0 1 := by
  have hframed : s.goodFrame.framed v = (s.goodFrame.setNow v).p STAMP_STATUS.SYNC_OK 0 1 := by
    unfold State.framed
    rw [goodFrame_synced, if_neg (by simp [hok])]
    refine ddEach_none _ _ _ fun i => ?_
    have h : ((((s.goodFrame.setNow v).p STAMP_STATUS.SYNC_OK 0 1).ddEnt i).state = 1) = False := eq_false (harm i)
    simp only [h, decide_false, Bool.false_and]
  rw [syncFrame_good href (by rw [hframed]; exact hhold), hframed]
  exact ddFireMarked_none _ _ fun i h => absurd h (harm i)

theorem isGroupEnt_congr {s t : State} (h : t.g CAS_STATUS.STATE = s.g CAS_STATUS.STATE) (ha : t.arec = s.arec) (i spec : Nat) :
    t.isGroupEnt i spec = s.isGroupEnt i spec := by
  unfold State.isGroupEnt State.grouped State.inPlan
  rw [h, ha]

/-- The two flags of `GROUP_SUSPEND`. -/
def State.groupFlags (s : State) : State := (s.p STAMP_STATUS.GROUP_SUSPENDED 0 1).p STAMP_EVENTS.GROUP_SUSPENDED 0 1

/-- A flag that a register write sets. -/
theorem State.gb_p_b2n (s : State) (f : Fld) (i : Nat) (b : Bool) (h : f.lo = f.hi) (h6 : f.hi < 64) : (s.p f i (b2n b)).gb f i = b := by
  unfold State.gb
  rw [State.g_p _ _ _ _ h.le h6, h, Nat.add_sub_cancel_left]
  cases b <;> rfl

theorem State.groupFlags_suspended (s : State) : s.groupFlags.gb STAMP_STATUS.GROUP_SUSPENDED = true :=
  (State.gb_p_other _ _ _ _ _ _ (by decide)).trans (State.gb_p_b2n s _ _ true rfl (by decide))

theorem State.groupFlags_event (s : State) : s.groupFlags.gb STAMP_EVENTS.GROUP_SUSPENDED = true := State.gb_p_b2n _ _ _ true rfl (by decide)

theorem State.groupFlags_isGroupEnt (s : State) (i spec : Nat) : s.groupFlags.isGroupEnt i spec = s.isGroupEnt i spec := by
  refine isGroupEnt_congr (s := s) (t := s.groupFlags) ?_ rfl i spec
  exact (State.g_p_other _ STAMP_EVENTS.GROUP_SUSPENDED CAS_STATUS.STATE 0 0 1 (by decide)).trans
    (State.g_p_other s STAMP_STATUS.GROUP_SUSPENDED CAS_STATUS.STATE 0 0 1 (by decide))

/-- An armed group entry is suspended (R135). -/
def suspended (e : DdEnt) : DdEnt := { e with state := 3, pend := none }

/-- `GROUP_SUSPEND`: the two flags, and the armed group entries of the table (R120, R135). -/
theorem groupSuspend_eq {s : State} (hhold : s.stamp.holdover = true) (hticks : 1562500 ≤ s.stamp.holdTicks) (hsusp : s.gb STAMP_STATUS.GROUP_SUSPENDED = false) :
    s.groupSuspend = s.groupFlags.ddEach (fun i e => decide (e.state = 1) && s.isGroupEnt i e.spec) suspended := by
  have h : s.groupSuspend = s.groupFlags.suspendEnts := if_pos ⟨hhold, hticks, by rw [hsusp]; rfl⟩
  rw [h]
  unfold State.suspendEnts
  rw [if_pos s.groupFlags_suspended]
  simp only [State.groupFlags_isGroupEnt]
  rfl

/-- Settles O24. -/
theorem stampAndFrames : Obligations.StampAndFrames := by
  intro s hp hq ticked
  refine ⟨fun h => ?_, fun i spec hfire hacts hop => ?_, fun href hok hhold hpend => ?_, fun v href hok hhold harm => ?_, fun hok hgood hmiss => ?_,
    fun hhold hrec => ?_, fun href => ?_, fun hsee => ?_, fun hhold hticks hsusp => ?_⟩
  · exact act_to (f := (·.stampTick)) rfl hp (stampTick_none h) (State.quiet_of hq)
  · exact act_to (f := (·.stampTick)) rfl hp ((stampTick_one hfire hacts).trans (ddEffect_opPoint _ _ hop)) (State.quiet_of hq)
  · exact act_to (f := (·.syncFrame s.now (crc16 s.now) false)) rfl hp (syncFrame_agrees href hok hhold hpend) (State.quiet_of hq)
  · exact act_to (f := (·.syncFrame v (crc16 v) false)) rfl hp (syncFrame_first v href hok hhold harm) (State.quiet_of hq)
  · exact act_to (f := (·.frameMissed)) rfl hp (frameMissed_eq s hok hgood hmiss) (State.quiet_of hq)
  · refine act_raiseUc (f := (·.referenceLoss)) rfl hp ?_ (State.quiet_of hq)
      (State.recordedUc_congr hrec fun k j hk => State.reg_p_ne _ _ _ _ _ _ (.inl fun h => by subst h; exact absurd hk (by decide)))
    unfold State.referenceLoss
    rw [if_neg (by simp [hhold])]
    dsimp only
    rw [hhold, if_neg (by simp)]
  · refine act_to (f := (·.referenceReturn)) rfl hp ?_ (State.quiet_of hq)
    unfold State.referenceReturn
    rw [if_neg (by simp [href])]
  · exact get_to (f := (·.stampLowRead)) rfl hp hsee rfl (State.quiet_of hq)
  · have heq := groupSuspend_eq hhold hticks hsusp
    obtain ⟨d, hd⟩ := ddEach_eq s.groupFlags (fun i e => decide (e.state = 1) && s.isGroupEnt i e.spec) suspended
    have hent := ddEach_ent s.groupFlags (fun i e => decide (e.state = 1) && s.isGroupEnt i e.spec) suspended
    rw [hd] at heq hent
    refine ⟨_, act_to (f := (·.groupSuspend)) rfl hp heq (State.quiet_of hq), ?_, ?_, fun i => ?_, ?_⟩
    · rw [State.lines_gb']
      exact s.groupFlags_suspended
    · rw [State.lines_gb']
      exact s.groupFlags_event
    · rw [State.lines_ddEnt', hent]
      simp only [Bool.and_eq_true, decide_eq_true_eq]
      rfl
    · obtain ⟨l, o, x, hl⟩ := State.lines_eq ({ s.groupFlags with dd := d } : State)
      rw [hl]
      rfl

/-! ### Commands on the table (R138 to R141) -/

/-- A host's write that changes registers alone. -/
theorem host_regs {s t : State} {row : Instr} {fn off : Nat} {f : State → State} (hr : exec row s = hostReg s fn off f) (hp : s.Powered)
    (hm : s.hostMay fn off = true) (hf : f s = t) (hq : s.Quiet) (ht : ∃ r, t = { s with rf := r }) : exec row s = .next t.lines := by
  obtain ⟨r, rfl⟩ := ht
  exact host_to hr hp hm hf (State.quiet_of hq)

theorem sendPlan_other {s : State} (i : Nat) (c : Bool) (stamp spec period : Nat) (h : s.arec.role ≠ 1) : s.sendPlan i c stamp spec period = s :=
  if_neg fun h1 => h h1.1

/-- Settles O25. -/
theorem dueDateCommands : Obligations.DueDateCommands := by
  intro s hp hq hm i e stamp spec period susp
  refine ⟨fun hchk => ?_, fun hchk hrole hstamp hpend => ?_, fun hown hrole hst => ?_, fun hown h1 h3 => ?_, fun hown => ?_⟩
  · refine host_to (f := (·.ddCmd 1)) rfl hp hm ?_ (State.quiet_of hq)
    rw [ddCmd_1]
    unfold State.ddCommit
    dsimp only
    rw [if_pos hchk]
  · refine host_to (f := (·.ddCmd 1)) rfl hp hm ?_ (State.quiet_of hq)
    rw [ddCmd_1]
    unfold State.ddCommit
    dsimp only
    rw [if_neg (by simpa using hchk), sendPlan_other _ _ _ _ _ hrole, ddArm_eq _ _ _ _ _ hstamp hpend]
  · refine host_to (f := (·.ddCmd 2)) rfl hp hm ?_ (State.quiet_of hq)
    rw [ddCmd_2]
    unfold State.ddCancel
    dsimp only
    rw [if_neg (by simpa using hown), if_pos hst, sendPlan_other _ _ _ _ _ hrole]
  · refine host_to (f := (·.ddCmd 2)) rfl hp hm ?_ (State.quiet_of hq)
    rw [ddCmd_2]
    unfold State.ddCancel
    dsimp only
    rw [if_neg (by simpa using hown), if_neg (not_or.2 ⟨h1, h3⟩)]
  · have h1 := regs_p (regs_setReg (regs_p (regs_refl s) DD_STAMP.STAMP 0 e.stamp) .DD_SPEC 0 (BitVec.ofNat 64 e.spec)) DD_PERIOD.PERIOD 0 e.period
    have h2 := regs_p (regs_p (regs_p h1 DD_RESULT.MISSED 0 e.missed) DD_RESULT.NO_TARGET 0 (b2n e.noTarget)) DD_RESULT.BUSY 0 (b2n e.busy)
    have h3 := regs_p (regs_p (regs_p h2 DD_RESULT.SUSPENDED 0 (b2n e.susp)) DD_RESULT.SKIPPED 0 (b2n e.skipped)) DD_RESULT.LATE 0 (b2n e.late)
    have h4 := regs_p (regs_p (regs_p h3 DD_RESULT.STATE 0 e.state) DD_RESULT.RESULT 0 0) DD_FIRED_AT.STAMP 0 e.firedAt
    refine ⟨_, host_regs (f := (·.ddCmd 3)) rfl hp hm (ddCmd_3 s hown) hq h4, lines_regs h4, ?_⟩
    simp (disch := decide) only [State.lines_g', State.lines_gb', State.lines_reg', State.g_p_other, State.gb_p_other, State.g_p_field, State.gb_p_field,
      State.reg_p_other, State.g_setReg_other, State.g_p, State.gb_p_b2n, State.reg_setReg]
    exact ⟨rfl, rfl, rfl, rfl, rfl, rfl, rfl, rfl⟩

/-! ### A due date fires (R130 to R132) -/

/-- Settles O26. -/
theorem dueDateFires : Obligations.DueDateFires := by
  intro s i hp hq hfire hnext hpend e a e' fired management htick
  have hrow {t : State} (ha : s.ddAct i e.stamp a e.spec 0 = ((false, false), t)) (ht : t.Quiet) (hpn : t.pending = s.pending) (hc : t.dev.cold = s.dev.cold)
      (hst : t.stamp.actAt = s.stamp.actAt) : exec (.dueDateFire i) s = .next (fired t).lines := by
    refine act_to (f := (·.dueDateFire i)) rfl hp ?_ ht hpn hc
    unfold State.dueDateFire
    rw [if_pos ⟨hfire, hnext⟩, ddFire_eq s i a t hpend (ddTick_free s a htick) ha, hst]
  have hman (hm : management) : s.ddFn i (ddArg e.spec) = 0 := by
    unfold State.ddFn
    rw [hm.1]
    exact hm.2
  have hnow (h : e.stamp ≤ s.now) : a ≤ s.now := max_le h le_rfl
  refine ⟨fun hop hle => ?_, fun hint hm hle => ?_, fun hact hlt => ?_⟩
  · refine hrow ?_ (State.quiet_of hq) rfl rfl rfl
    rw [ddAct_soon _ _ _ _ _ _ (by rw [hop]; decide) (by rw [hop]; decide) (by rw [hop]; decide), ddSoon_now _ _ _ _ (hnow hle), ddEffect_opPoint _ _ hop]
  · refine hrow ?_ (State.quiet_of hq) rfl rfl rfl
    rw [ddAct_7 _ _ _ _ _ _ hint (by rw [hman hm]; exact Nat.zero_le _), ddSoon_now _ _ _ _ (hnow hle)]
    unfold State.ddEffect
    dsimp only
    rw [hint]
    exact congrArg (Prod.mk (false, false)) (if_pos (hman hm))
  · have hlater : s.now < a := lt_of_lt_of_le hlt (le_max_left _ _)
    refine hrow (t := { s with stamp := { s.stamp with acts := s.stamp.acts ++ [(s.timeOf a, i, e.spec)] } }) ?_ (State.quiet_of hq) rfl rfl rfl
    rw [← ddSoon_later s a i e.spec hlater]
    rcases hact with hop | ⟨hint, hm⟩
    · exact ddAct_soon _ _ _ _ _ _ (by rw [hop]; decide) (by rw [hop]; decide) (by rw [hop]; decide)
    · exact ddAct_7 _ _ _ _ _ _ hint (by rw [hman hm]; exact Nat.zero_le _)

end Sys2Proof.Machine
end

section
/-!
# Work slots: configuration, dispatch, release waves, barriers, ends (04 R144 to R163, 02 R77)
-/
namespace Sys2Proof.Machine

/-! ### What is told to the group (R158, 10 R381) -/

/-- From `s` to `t` only what the group's messages touch has changed: releases, the group's table, the outbox, the counter of late releases. -/
def State.GroupTold (t s : State) : Prop :=
  (∃ rf rels cas out, t = { s with rf := rf, rels := rels, cas := cas, out := out }) ∧ ∀ k, k ≠ .STAMP_COUNTS → ∀ j, t.reg k j = s.reg k j

theorem State.GroupTold.refl (s : State) : s.GroupTold s := ⟨⟨_, _, _, _, rfl⟩, fun _ _ _ => rfl⟩

theorem State.GroupTold.trans {u t s : State} (h : u.GroupTold t) (g : t.GroupTold s) : u.GroupTold s := by
  obtain ⟨⟨_, _, _, _, rfl⟩, hu⟩ := h
  obtain ⟨⟨_, _, _, _, rfl⟩, ht⟩ := g
  exact ⟨⟨_, _, _, _, rfl⟩, fun k hk j => (hu k hk j).trans (ht k hk j)⟩

theorem State.GroupTold.emit (s : State) (o : Out) : (s.emit o).GroupTold s := ⟨⟨_, _, _, _, rfl⟩, fun _ _ _ => rfl⟩

theorem State.groupAct_told (s : State) (n b t : Nat) : (s.groupAct n b t).GroupTold s := by
  unfold State.groupAct State.formRelease
  split
  · exact ⟨⟨_, _, _, _, rfl⟩, fun _ _ _ => rfl⟩
  · exact ⟨⟨_, _, _, _, rfl⟩, fun k hk j => State.reg_p_other s STAMP_COUNTS.GROUP_LATE k 0 j _ hk⟩

theorem State.GroupTold.foldl_emit {u s : State} {α : Type} (o : State → α → Out) (xs : List α) (h : u.GroupTold s) :
    (xs.foldl (fun s e => s.emit (o s e)) u).GroupTold s :=
  foldl_keeps (State.GroupTold · s) _ xs u h fun t e _ ht => (State.GroupTold.emit t (o t e)).trans ht

theorem State.combine_told (s : State) (n b : Nat) : (s.combine n b).GroupTold s := by
  have hcame : ∀ c, ({ s with cas := c } : State).GroupTold s := fun _ => ⟨⟨_, _, _, _, rfl⟩, fun _ _ _ => rfl⟩
  unfold State.combine
  dsimp only
  split
  · split
    · exact (State.groupAct_told _ n b _).trans (.foldl_emit (fun _ (e : Nat × Nat × Nat) => .grpRelease e.1 n b _) _ (hcame _))
    · exact .foldl_emit (fun _ (e : Nat × Nat × Nat) => .grpRelease e.1 n b _) _ (hcame _)
  · exact .refl s

theorem State.tellTakes_told (s : State) (n : Nat) (old : List Bool) : (s.tellTakes n old).GroupTold s := by
  unfold State.tellTakes
  split
  · exact .refl s
  · refine foldl_keeps (State.GroupTold · s) _ _ _ (.refl s) fun u b _ hu => ?_
    dsimp only
    split
    · exact hu
    · split
      · exact (State.GroupTold.emit u _).trans hu
      · split
        · exact (u.combine_told n b).trans hu
        · exact hu

theorem State.GroupTold.quiet {t s : State} (h : t.GroupTold s) (hq : s.Quiet) : t.Quiet := by
  obtain ⟨⟨_, _, _, _, rfl⟩, -⟩ := h
  exact State.quiet_of hq

theorem State.GroupTold.pending {t s : State} (h : t.GroupTold s) : t.pending = s.pending ∧ t.dev = s.dev := by
  obtain ⟨⟨_, _, _, _, rfl⟩, -⟩ := h
  exact ⟨rfl, rfl⟩

theorem State.GroupTold.g {t s : State} (h : t.GroupTold s) {f : Fld} (hf : f.reg ≠ .STAMP_COUNTS) (j : Nat) : t.g f j = s.g f j := by
  unfold State.g
  rw [h.2 _ hf]

/-! ### Configuration (R144, R150) -/

theorem slotCfgWrite_refused {s : State} {p n : Nat} (v : Nat) (ho : s.owns p n = true) (h0 : s.g SLOT_STATUS.STATE n ≠ 0) (h2 : s.g SLOT_STATUS.STATE n ≠ 2) :
    s.slotCfgWrite p n v = s.p SLOT_STATUS.CFG_REFUSED n 1 := by
  unfold State.slotCfgWrite
  rw [if_neg (by simp [ho])]
  exact if_pos (.inl ⟨h0, h2⟩)

/-- The fields of `SLOT_CFG` but the number of shelves. -/
def State.cfgFields (s : State) (n v : Nat) : State :=
  (((s.p SLOT_CFG.PASID n (bits v 43 24)).p SLOT_CFG.GROUP_BAR n (bits v 23 20)).p SLOT_CFG.GATED n (bits v 19 16)).p SLOT_CFG.PRIORITY n (bits v 13 12)

theorem cfgFields_reg (s : State) (n v : Nat) (k : RegKind) (hk : k ≠ .SLOT_CFG) (j : Nat) : (s.cfgFields n v).reg k j = s.reg k j := by
  unfold State.cfgFields
  rw [State.reg_p_other _ _ _ _ _ _ hk, State.reg_p_other _ _ _ _ _ _ hk, State.reg_p_other _ _ _ _ _ _ hk, State.reg_p_other _ _ _ _ _ _ hk]

theorem shelfRepair_congr {s t : State} (hflt : t.flt = s.flt) (hphys : ∀ c, t.phys c = s.phys c) (h : Nat) : t.shelfRepair h = s.shelfRepair h := by
  unfold State.shelfRepair State.deviceOf
  simp only [hflt, hphys]

/-- The slot without its shelves, its latch empty: what an allotment starts from where the slot held neither shelves nor folios. -/
def State.emptied (s : State) (n : Nat) : State := (s.setSlot n { s.slot n with latch := none }).p SLOT_STATUS.START_PENDING n 0

theorem emptied_reg (s : State) (n : Nat) (k : RegKind) (hk : k ≠ .SLOT_STATUS) (j : Nat) : (s.emptied n).reg k j = s.reg k j := by
  unfold State.emptied
  rw [State.reg_p_other _ _ _ _ _ _ hk, State.setSlot_reg']

theorem emptied_slot (s : State) (n m : Nat) : (s.emptied n).slot m = if m = n then { s.slot n with latch := none } else s.slot m := by
  unfold State.emptied
  rw [State.p_slot']
  split
  · subst m
    rw [State.slot_setSlot]
  · rw [State.slot_setSlot_ne _ _ _ _ ‹_›]

theorem emptied_freeShelves (s : State) (n p : Nat) : (s.emptied n).freeShelves p = s.freeShelves p := by
  refine freeShelves_slots s _ p rfl rfl (fun m => ?_) (shelfRepair_congr rfl (State.phys_congr fun j => emptied_reg s n _ (by decide) j))
  rw [emptied_slot]
  split
  · subst m; rfl
  · rfl

theorem cfgFields_freeShelves (s : State) (n v p : Nat) : (s.cfgFields n v).freeShelves p = s.freeShelves p :=
  freeShelves_slots s _ p rfl rfl (fun _ => rfl) (shelfRepair_congr rfl (State.phys_congr fun j => cfgFields_reg s n v _ (by decide) j))

/-- From `s` to `t` slot `n` has been given the shelves `hs`, wiped (R144). -/
structure State.Allotted (t s : State) (n k : Nat) (hs : List Nat) : Prop where
  state : t.g SLOT_STATUS.STATE n = 1
  shelves : t.g SLOT_CFG.SHELVES n = k
  allot : (t.slot n).allot = hs
  wiped : ∀ c ∈ carrelsOf hs, t.mem (s.phys c) = []
  others : ∀ m, m ≠ n → t.slot m = s.slot m
  frame : ∃ rf rels cas out slots store, t = { s with rf := rf, rels := rels, cas := cas, out := out, slots := slots, store := store }

theorem State.Allotted.told {u t s : State} {n k : Nat} {hs : List Nat} (h : t.Allotted s n k hs) (g : u.GroupTold t) : u.Allotted s n k hs := by
  have hst := (g.g (f := SLOT_STATUS.STATE) (by decide) n).trans h.state
  have hsh := (g.g (f := SLOT_CFG.SHELVES) (by decide) n).trans h.shelves
  obtain ⟨⟨rf, rels, cas, out, rfl⟩, -⟩ := g
  obtain ⟨-, -, hallot, hwiped, hothers, _, _, _, _, _, _, hframe⟩ := h
  exact ⟨hst, hsh, hallot, hwiped, hothers, _, _, _, _, _, _, by rw [hframe]⟩

theorem allot_allotted {s u : State} {p n k : Nat} (hu : ∃ rf, u = { s with rf := rf }) (hphys : ∀ c, u.phys c = s.phys c)
    (hshelves : u.freeShelves p = s.freeShelves p) (hallot : (s.slot n).allot = []) (hfol : (s.slot n).folios = []) (hk : k ≠ 0) (hlt : k < 512)
    (hfree : k ≤ (s.freeShelves p).length) : (u.allot p n k).Allotted s n k (((List.range 256).filter fun h => decide (h ∈ s.freeShelves p)).take k) := by
  obtain ⟨rf, hu⟩ := hu
  have hslot : u.slot = s.slot := by rw [hu]; rfl
  have hdrop : u.dropAllot n = u.emptied n := dropAllot_empty u n (by rw [hslot, hallot]) (by rw [hslot, hfol])
  have hfree' : (u.dropAllot n).freeShelves p = s.freeShelves p := by rw [hdrop, emptied_freeShelves, hshelves]
  have heq := allot_fresh u p n k (by rw [hslot, hallot]) (by rw [hslot, hfol]) hk (by rw [hfree']; exact hfree)
  rw [hfree'] at heq
  generalize ((List.range 256).filter fun h => decide (h ∈ s.freeShelves p)).take k = hs at heq ⊢
  obtain ⟨y, hy, heq⟩ : ∃ y : SlotSt, y.allot = hs ∧ u.allot p n k = ((((u.emptied n).setSlot n y).wipeShelves hs).p SLOT_CFG.SHELVES n k).p SLOT_STATUS.STATE n 1 :=
    ⟨_, rfl, heq⟩
  obtain ⟨⟨store, hwipe⟩, hmem⟩ := wipeShelves_eq ((u.emptied n).setSlot n y) hs
  have hphys' : ∀ c, ((u.emptied n).setSlot n y).phys c = s.phys c := fun c =>
    (State.setSlot_phys' _ n y c).trans ((State.phys_congr (fun j => emptied_reg u n _ (by decide) j) c).trans (hphys c))
  simp only [hphys'] at hmem
  rw [heq]
  refine ⟨State.g_p_self _ _ _ _ (by decide) (by decide) (by decide), ?_, ?_, hmem, fun m hm => ?_, ?_⟩
  · rw [State.g_p_other _ _ _ _ _ _ (by decide)]
    exact State.g_p_self _ _ _ _ (by decide) (by decide) hlt
  · rw [State.p_slot', State.p_slot', hwipe]
    show (((u.emptied n).setSlot n y).slot n).allot = hs
    rw [State.slot_setSlot, hy]
  · rw [State.p_slot', State.p_slot', hwipe]
    show ((u.emptied n).setSlot n y).slot m = s.slot m
    rw [State.slot_setSlot_ne _ _ _ _ hm, emptied_slot, if_neg hm, hslot]
  · rw [hwipe, hu]
    exact ⟨_, _, _, _, _, _, rfl⟩


/-- The number of shelves is given anew: the slot takes the first idle shelves of the partition (R144). -/
theorem slotCfgWrite_allot {s : State} {p n : Nat} (v : Nat) (ho : s.owns p n = true) (hst : s.g SLOT_STATUS.STATE n = 0) (himg : (s.slot n).imgJob = false)
    (hpasid : bits v 43 24 = s.g SLOT_CFG.PASID n) (hk : bits v 8 0 ≠ 0) :
    s.slotCfgWrite p n v = ((s.cfgFields n v).allot p n (bits v 8 0)).tellTakes n (s.takesOf n) := by
  have hcfg := slotCfg_same s p n v ho (.inl hst) himg hpasid
  dsimp only at hcfg
  rw [if_neg (fun h => h.2.elim (fun h' => absurd (hst.symm.trans h') (by decide)) hk)] at hcfg
  exact hcfg

theorem repairOver_none (s : State) (w : Nat) (h : s.g WING_STATUS.STATE w ≠ 2) : s.repairOver w = s := if_pos (.inr (.inr h))

/-- `REPAIR_COMPLETE` where no substitution is owed and no wing stands under repair. -/
theorem repairDone_eq {s : State} {n : Nat} (hst : s.g SLOT_STATUS.STATE n = 7) (hsub : s.flt.subst = [])
    (hwing : ∀ w ∈ wingsOf (s.slot n).allot, s.g WING_STATUS.STATE w ≠ 2) (hqueue : s.g Q_STATUS.STATE n = 0) :
    s.repairDone n = (s.setSlot n { s.slot n with repair := false }).p SLOT_STATUS.STATE n 2 := by
  unfold State.repairDone
  dsimp only
  rw [if_neg (by simp [hst, hsub])]
  have hfold : (wingsOf (s.slot n).allot).foldl (fun t w => t.repairOver w) ((s.setSlot n { s.slot n with repair := false }).p SLOT_STATUS.STATE n 2) =
      (s.setSlot n { s.slot n with repair := false }).p SLOT_STATUS.STATE n 2 := by
    refine foldl_keeps (· = (s.setSlot n { s.slot n with repair := false }).p SLOT_STATUS.STATE n 2) _ _ _ rfl fun t w hw ht => ?_
    rw [ht]
    exact repairOver_none _ w fun h => hwing w hw ((State.g_p_other _ SLOT_STATUS.STATE WING_STATUS.STATE n w 2 (by decide)).symm.trans h)
  rw [hfold]
  exact State.queueGo_off _ _ ((State.g_p_other _ SLOT_STATUS.STATE Q_STATUS.STATE n n 2 (by decide)).trans hqueue)

/-- Settles O27. -/
theorem slotConfiguration : Obligations.SlotConfiguration := by
  intro s p n hp hq st x
  refine ⟨fun v hm ho h0 h2 => ?_, fun v hm ho h2 himg hpasid hshelves => ?_, fun v hm ho h0 himg hpasid hk hallot hfol hfree => ?_, fun h1 hqueue => ?_,
    fun hm ho => ?_, fun h7 hsub hwing hqueue => ?_⟩
  · exact host_to (f := (·.slotCfgWrite p n v)) rfl hp hm (slotCfgWrite_refused v ho h0 h2) (State.quiet_of hq)
  · have heq := slotCfg_same s p n v ho (.inr h2) himg hpasid
    dsimp only at heq
    rw [if_pos ⟨hshelves, .inl h2⟩] at heq
    have htold := State.tellTakes_told (s.cfgFields n v) n (s.takesOf n)
    exact host_to (f := (·.slotCfgWrite p n v)) rfl hp hm heq (htold.quiet (State.quiet_of hq)) htold.pending.1 (congrArg (·.cold) htold.pending.2)
  · have heq := slotCfgWrite_allot v ho h0 himg hpasid hk
    have hal := allot_allotted (s := s) (u := s.cfgFields n v) ⟨_, rfl⟩ (State.phys_congr fun j => cfgFields_reg s n v _ (by decide) j) (cfgFields_freeShelves s n v p)
      hallot hfol hk (Nat.mod_lt _ (by decide)) hfree
    have hdone := hal.told (State.tellTakes_told _ n (s.takesOf n))
    rw [← heq] at hdone
    obtain ⟨hstate, hshelves, hnew, hwiped, hothers, _, _, _, _, _, _, hframe⟩ := hdone
    refine ⟨_, host_to (f := (·.slotCfgWrite p n v)) rfl hp hm rfl ?_ ?_ ?_, ?_⟩
    · rw [hframe]; exact State.quiet_of hq
    · rw [hframe]
    · rw [hframe]
    · simp only [State.lines_g', State.lines_slot', State.lines_mem', State.lines_car, hstate, hshelves, hnew]
      exact ⟨trivial, trivial, trivial, hwiped, hothers, by rw [hframe]⟩
  · refine act_to (f := fun s => (s.allotDone n).queueGo n) rfl hp ?_ (State.quiet_of hq)
    unfold State.allotDone
    rw [if_pos h1]
    exact State.queueGo_off _ _ ((State.g_p_other _ SLOT_STATUS.STATE Q_STATUS.STATE n n _ (by decide)).trans hqueue)
  · exact host_to (f := (·.clrFlags p n)) rfl hp hm (if_pos ho) (State.quiet_of hq)
  · exact act_to (f := (·.repairDone n)) rfl hp (repairDone_eq h7 hsub hwing hqueue) (State.quiet_of hq)

/-! ### SLOT_END (R148, R149) -/

theorem slotEnd_eq {s : State} {p n : Nat} (ho : s.owns p n = true) (hst : s.g SLOT_STATUS.STATE n = 3 ∨ s.g SLOT_STATUS.STATE n = 4) :
    s.slotEnd p n = (s.endSlot n { status := 2 }).unlatch n :=
  if_pos ⟨ho, hst.imp_right .inl⟩

/-- Settles O29: `endSlot_eq` outside the safe state; in it nothing is to be ended and the latch alone empties. -/
theorem slotEndStopsTheInvocation : Obligations.SlotEndStopsTheInvocation := by
  intro s p n hp hq hm ho hst hinv hend
  refine ⟨fun hsafe => ?_, fun hsafe => ?_⟩
  · obtain ⟨car, heq, hrun⟩ := endSlot_eq s n { status := 2 } hst hinv hend hsafe
    have hend' := (slotEnd_eq ho hst).trans (congrArg (State.unlatch · n) heq)
    refine ⟨_, host_to (f := (·.slotEnd p n)) rfl hp hm hend' (State.quiet_of hq), ?_, ?_, ?_, fun d hd => ?_, fun d => ?_, fun m hne => ?_⟩
    · rw [State.lines_g']
      unfold State.unlatch
      simp (disch := decide) only [State.g_p_field, State.setSlot_g', State.g_p_self]
    · rw [State.lines_slot']
      unfold State.unlatch
      rw [State.p_slot', State.slot_setSlot, State.p_slot']
      exact congrArg SlotSt.ending (State.slot_setSlot s n { s.slot n with ending := some { status := 2 } })
    · rw [State.lines_slot']
      unfold State.unlatch
      rw [State.p_slot', State.slot_setSlot]
    · rw [State.lines_carrel']
      exact hrun d hd
    · rw [State.lines_mem']
      rfl
    · rw [State.lines_slot']
      unfold State.unlatch
      rw [State.p_slot', State.slot_setSlot_ne _ _ _ _ hne, State.p_slot']
      exact State.slot_setSlot_ne s n m { s.slot n with ending := some { status := 2 } } hne
  · have hsame : s.endSlot n { status := 2 } = s := if_pos (.inr (.inr hsafe))
    exact host_to (f := (·.slotEnd p n)) rfl hp hm ((slotEnd_eq ho hst).trans (by rw [hsame])) (State.quiet_of hq)

/-! ### Dispatch, waves, barriers (02 R77, R153 to R161) -/

theorem dispatchNext_latched {s : State} {n : Nat} {d : Start} (hl : (s.slot n).latch = some d) (hc : s.canDispatch n = true) (hh : (s.queue n).hold = none) :
    s.dispatchNext n = (s.unlatch n).dispatchDue n d s.time := by
  unfold State.dispatchNext
  dsimp only
  rw [hl]
  exact if_pos ⟨hc, hh⟩

theorem unlatch_slot (s : State) (n : Nat) : (s.unlatch n).slot n = { s.slot n with latch := none } := State.slot_setSlot s n _

theorem unlatch_reg (s : State) (n : Nat) (k : RegKind) (hk : k ≠ .SLOT_STATUS) (j : Nat) : (s.unlatch n).reg k j = s.reg k j := by
  unfold State.unlatch
  rw [State.reg_p_other _ _ _ _ _ _ hk, State.setSlot_reg']

theorem unlatch_g (s : State) (n : Nat) (f : Fld) (hf : f.reg ≠ .SLOT_STATUS) (j : Nat) : (s.unlatch n).g f j = s.g f j := by
  unfold State.g
  rw [unlatch_reg s n _ hf]

theorem dispatchDue_eq {s : State} {n on : Nat} {d : Start} {t : Nat} (h : s.g Q_STATUS.STATE n = on) : s.dispatchDue n d t =
    s.dispatch n d.entry (.due d.idx d.stamp d.late d.skipped d.suspended (decide (on ≠ 0))) (dueBlock s d) t := by
  subst h
  rfl

/-- Counting a wave touches registers alone. -/
theorem countWave_regs (s : State) (n w : Nat) : ∃ r, s.countWave n w = { s with rf := r } := by
  unfold State.countWave State.each
  refine foldl_keeps (fun t : State => ∃ r, t = { s with rf := r }) _ _ _ (regs_refl s) fun t g _ ht => ?_
  have hwrap : ∃ r, t.wrap WBAR_STATUS.RELEASES g = { s with rf := r } := regs_p ht _ _ _
  dsimp only
  split
  · exact regs_p hwrap _ _ _
  · exact hwrap

/-- A wave but the first one of a barrier's release (R160, R161). -/
theorem waveStart_eq {s : State} {k : Nat} {r : Release} (hr : s.rels[k]? = some r) (hok : s.waveOk r = true) (hbar : r.bar = none ∨ r.started ≠ 0) :
    ∃ rf car starts, s.waveStart k r.started = { s with
        rf := rf, car := car, starts := starts,
        rels := if r.started = 15 then s.rels.eraseIdx k else s.rels.set k { r with started := r.started + 1, shift := r.shift + (s.time - relDue r) } } ∧
      ∀ q, (tget carDef car q).run = if q ∈ ((s.slot r.slot).allot.map fun h => s.phys (16 * h + r.started)) ∧ (s.carrel q).run = relRun r.bar
        then .active else (s.carrel q).run := by
  obtain ⟨car, hstart, hrun⟩ := startCarrels_spec s r.slot r.bar r.started
  obtain ⟨rf, hcount⟩ := countWave_regs (s.startCarrels r.slot r.bar r.started) r.slot r.started
  refine ⟨rf, car, (s.starts.filter fun e => decide (s.time < e.1 + 64)) ++ [(s.time, (s.slot r.slot).allot.length)], ?_, hrun⟩
  unfold State.waveStart
  rw [hr]
  dsimp only
  rw [if_neg (by simp [hok])]
  split
  · rename_i b hfirst hsome
    exact absurd hbar (by simp [hfirst, hsome])
  · rw [hcount, hstart]
    rfl

theorem hubArrival_eq {s : State} {n b w : Nat} (hb : b < 4) (hi : (s.slot n).inv ≠ none) (hf : s.formed n b = false)
    (hbit : bit (tget (fun _ => 0) (s.slot n).hubArr b) w = false)
    (hcs : (carrelsOf (s.slot n).allot).filter (fun c => decide (c / 128 = w)) ≠ [])
    (hall : ∀ c ∈ (carrelsOf (s.slot n).allot).filter (fun c => decide (c / 128 = w)), hasArrived (s.carrel (s.phys c)) b = true) :
    s.hubArrival n b w = (s.setSlot n { s.slot n with
        hubArr := tset (fun _ => 0) (s.slot n).hubArr b (setBit (tget (fun _ => 0) (s.slot n).hubArr b) w true) }).barrierGo n b := by
  unfold State.hubArrival
  dsimp only
  rw [if_neg]
  rintro (h | h | h | h | h | h)
  · omega
  · exact hi h
  · exact hcs h
  · exact absurd (hbit.symm.trans h) Bool.false_ne_true
  · exact absurd (hf.symm.trans h) Bool.false_ne_true
  · rw [List.all_eq_true.2 hall] at h
    exact absurd h (by decide)

theorem allot_ne_nil {allot : List Nat} {w : Nat} (h : (carrelsOf allot).filter (fun c => decide (c / 128 = w)) ≠ []) : allot ≠ [] := by
  rintro rfl
  exact h rfl

/-- A group's release that the slot awaits. -/
theorem groupRelease_awaited {s : State} {n b trel : Nat} (hw : bit (s.slot n).grpWait b = true) (hf : s.formed n b = false) : s.groupRelease n b trel =
    if s.groupGoes then s.groupAct n b trel else s.setSlot n { s.slot n with grpRel := (s.slot n).grpRel ++ [(b, trel)] } := by
  refine if_neg ?_
  rw [hf, hw]
  decide

/-- Settles O30. -/
theorem dispatchAndRelease : Obligations.DispatchAndRelease := by
  intro s n hp hq x rel
  refine ⟨fun d i e hl hc hh hfe hby => ?_, fun k r hr hn hok hbar => ?_, ?_, fun b trel hw hf => ⟨fun hg => ?_, fun hg hle => ?_⟩⟩
  · have hslot := unlatch_slot s n
    have hphys : ∀ c, (s.unlatch n).phys c = s.phys c := State.phys_congr fun j => unlatch_reg s n _ (by decide) j
    obtain ⟨car, st, heq, hcar⟩ := dispatch_spec (s.unlatch n) n d.entry
      (.due d.idx d.stamp d.late d.skipped d.suspended (decide (s.g Q_STATUS.STATE n ≠ 0))) (dueBlock (s.unlatch n) d) s.time i e (by rw [hslot]; exact hfe) hby
    rw [← dispatchDue_eq (unlatch_g s n Q_STATUS.STATE (by decide) n)] at heq
    refine ⟨_, act_to (f := (·.dispatchNext n)) rfl hp ((dispatchNext_latched hl hc hh).trans heq) (State.quiet_of hq), ?_, ?_, ?_, ?_, ?_, fun c hmem => ?_⟩
    · simp (disch := decide) only [State.lines_g', State.g_p_self]
    · simp (disch := decide) only [State.lines_g', State.g_p_field]
      exact State.g_p_self (s.setSlot n { s.slot n with latch := none }) SLOT_STATUS.START_PENDING n 0 (by decide) (by decide) (by decide)
    · rw [State.lines_slot', State.p_slot']
      refine (congrArg SlotSt.latch (State.slot_setSlot (s.unlatch n) n _)).trans ?_
      rw [hslot]
    · rw [State.lines_slot', State.p_slot']
      exact congrArg SlotSt.inv (State.slot_setSlot (s.unlatch n) n _)
    · rw [State.lines_rels]
      show s.rels ++ [relT (s.unlatch n) n s.time] = _
      unfold relT
      rw [hslot, unlatch_g s n STAMP_CTL.WAVE_STRIDE (by decide), unlatch_g s n SLOT_CFG.PRIORITY (by decide)]
      rfl
    · rw [State.lines_carrel', ← hphys c]
      exact hcar c (by rw [hslot]; exact hmem)
  · obtain ⟨rf, car, starts, heq, hrun⟩ := waveStart_eq hr hok hbar
    rw [hn] at hrun
    refine ⟨_, act_to (f := (·.waveStart k r.started)) rfl hp heq (State.quiet_of hq), ?_, fun q => ?_, ?_, ?_⟩
    · rw [State.lines_rels]
    · rw [State.lines_carrel']
      exact hrun q
    · rw [State.lines_store]
    · rw [State.lines_slots]
  · intro b w hb hi hf hbit cs x' whole hcs hall
    have heq := hubArrival_eq hb hi hf hbit hcs hall
    have hslot : (s.setSlot n x').slot n = x' := State.slot_setSlot _ _ _
    have harr : (s.setSlot n x').arrivedAll n b = whole := by
      unfold State.arrivedAll
      rw [hslot]
      simp only [x', tget_tset_same]
      rw [decide_eq_true (allot_ne_nil hcs), Bool.true_and]
    refine ⟨fun hwhole => ?_, fun hwhole hgate hgroup => ?_⟩
    · refine act_to (f := (·.hubArrival n b w)) rfl hp (heq.trans (if_pos (.inl ?_))) (State.quiet_of hq)
      rw [harr, hwhole]; rfl
    · refine act_to (f := (·.hubArrival n b w)) rfl hp (heq.trans ?_) (State.quiet_of hq)
      have hformed : (s.setSlot n x').formed n b = false := hf
      have hclosed : bit x'.gated b = false := hgate
      have hown : (s.setSlot n x').isGroupBar n b = false := by
        unfold State.isGroupBar
        rw [hslot]
        exact hgroup
      unfold State.barrierGo
      dsimp only
      rw [hslot, harr, hwhole, hformed, hclosed, hown]
      unfold State.formRelease
      rw [hslot]
      rfl
  · refine act_to (f := (·.groupRelease n b trel)) rfl hp ?_ (State.quiet_of hq)
    rw [groupRelease_awaited hw hf, hg]
    rfl
  · refine act_to (f := (·.groupRelease n b trel)) rfl hp ?_ (State.quiet_of hq)
    rw [groupRelease_awaited hw hf, hg]
    exact if_pos hle

/-! ### The end of an invocation (R147, R173) -/

/-- Slot 0 on shelf 0, ENDING with status 0 after a WING reset of wing 0, and a byte of results in the lead carrel's store. -/
def clearedEnd : State :=
  { (Tests.idle0 { inv := some ⟨.slip 7 true, 0, 0, 0⟩, ending := some { status := 0 }, clear := [0] }).p SLOT_STATUS.STATE 0 6 with
    store := [(0, [(0x7FF80, 1)])] }

/-- Its results are wiped before the delivery line is made (13 R463). -/
theorem clearedEnd_report : ∀ t, exec (.slotEndingDrained 0) clearedEnd = .next t →
    (t.csOf 0).report ≠ some (clearedEnd.deliveryLine 0 7 { status := 0 } (clearedEnd.troubleSums 0)) := by
  intro t ht
  obtain rfl : Tests.after (exec (.slotEndingDrained 0) clearedEnd) = t := congrArg Tests.after ht
  decide +kernel

/-- Refutes O31: it asks of every ending that the delivery line is made of the state before the command. Where the slot owes a clear of its stores, for a
WING reset, and its ending has status 0, the results are wiped first: `clearedEnd` delivers zeros where the statement has its byte of results. -/
theorem not_invocationsEnd : ¬ Obligations.InvocationsEnd := by
  intro h
  obtain ⟨-, hend⟩ := h clearedEnd 0 7 ⟨.slip 7 true, 0, 0, 0⟩ (by unfold State.Powered; decide +kernel) (by unfold State.Quiet; decide +kernel)
    (by decide +kernel) rfl (by decide +kernel) (by decide +kernel) (by decide +kernel) (by decide +kernel)
  obtain ⟨t, ht, -, -, hrep, -⟩ := hend { status := 0 } (by decide +kernel) (by decide +kernel) (by decide +kernel) (by decide +kernel) (by decide +kernel)
  exact clearedEnd_report t ht hrep

end Sys2Proof.Machine
end

section
/-!
# The machine as a whole (00, 13 R460, 16 R533)
-/
namespace Sys2Proof.Machine

/-- Settles O1: it is the second branch of `step`. -/
theorem stepRunsTheFrontCommand : Obligations.StepRunsTheFrontCommand := by
  intro c q s h
  unfold step
  rw [h]

/-! ### The idle cycle -/

theorem step_idle {s : State} (h : s.pending = []) : step s = .next s.idleCycle := by
  unfold step
  rw [h]

theorem idleCycle_powered {s : State} (h : s.Powered) :
    s.idleCycle = if s.dev.lcStep = 0 then { s with car := s.car.map fun e => (e.1, cycleOn e.2) }
      else ({ s with car := s.car.map fun e => (e.1, cycleOn e.2) } : State).lcAdvance :=
  if_neg (by simp [h.1, h.2])

theorem idleCycle_unpowered {s : State} (h : ¬ s.Powered) : s.idleCycle = s := by
  refine if_pos ?_
  unfold State.Powered at h
  cases hc : s.dev.cold <;> cases ho : s.pwr.off <;> simp_all

/-- An unlisted carrel is idle and does not count. -/
theorem carrel_cycleOn (s : State) (p : Nat) : tget carDef (s.car.map fun e => (e.1, cycleOn e.2)) p = cycleOn (s.carrel p) :=
  tget_map carDef cycleOn p rfl s.car

/-- Settles O2: under supply every carrel counts by `cycleOn`; the step of a life-cycle change follows. -/
theorem idleStepCountsCycles : Obligations.IdleStepCountsCycles := by
  intro s hnone
  refine ⟨fun hp => ⟨{ s with car := s.car.map fun e => (e.1, cycleOn e.2) }, rfl, ?_, fun p => ?_⟩, fun hp => ?_⟩
  · rw [step_idle hnone, idleCycle_powered hp]
  · refine (carrel_cycleOn s p).trans ?_
    generalize s.carrel p = x
    obtain ⟨sreg, preg, vreg, tile, lp, seed, cycles, trb, pass, arrived, run, xfers, xlat, inReset, failed⟩ := x
    cases run <;> rfl
  · rw [step_idle hnone, idleCycle_unpowered hp]

/-! ### What every command does -/

theorem pinRow_next (s : State) (level f : State → State) : ∃ t, pinRow s level f = .next t := by
  unfold pinRow
  split
  · exact ⟨_, rfl⟩
  · exact ⟨_, rfl⟩

/-- Settles O3: a command of the form `act` answers a state, and so do the rows of the pins. -/
theorem everyCommandAnswersANextState : Obligations.EveryCommandAnswersANextState := by
  intro c s
  cases hc : actsUnpowered c
  case false =>
    obtain ⟨f, hf⟩ := exec_act c hc
    exact ⟨_, hf s⟩
  case true =>
    cases c
    case coldResetAssert => exact ⟨_, rfl⟩
    case coldResetRelease nvm => exact ⟨_, rfl⟩
    case vin44Undervoltage => exact ⟨_, rfl⟩
    case vin44Overvoltage => exact ⟨_, rfl⟩
    case vin44Loss => exact ⟨_, rfl⟩
    case vin44PowerUp => exact ⟨_, rfl⟩
    case capInFall => exact pinRow_next s (·.capPin true) _
    case capInRise => exact pinRow_next s (·.capPin false) _
    case serdesRefclkLoss => exact pinRow_next s (·.refPin true) _
    case serdesRefclkReturn => exact pinRow_next s (·.refPin false) _
    all_goals exact absurd hc Bool.false_ne_true

theorem pinRow_pending {s t : State} {level f : State → State} (hl : (level s).pending = s.pending) (h : pinRow s level f = .next t) :
    t.pending = s.pending := by
  unfold pinRow at h
  split at h
  · cases h; exact hl
  · exact (act_inputs s t f h).1

/-- The rows of the pins leave the queue. -/
theorem exec_pin_pending {c : Instr} {s t : State} (hc : actsUnpowered c = true) (h : exec c s = .next t) : t.pending = s.pending := by
  cases c
  case coldResetAssert => cases h; rfl
  case coldResetRelease nvm =>
    obtain rfl : _ = t := Host.Outcome.next.inj h
    split
    · rfl
    · rfl
  case vin44Undervoltage => cases h; rfl
  case vin44Overvoltage => cases h; rfl
  case vin44Loss => cases h; rfl
  case vin44PowerUp =>
    obtain rfl : _ = t := Host.Outcome.next.inj h
    unfold State.vinUp
    split
    · rfl
    · rfl
  case capInFall => exact pinRow_pending (level := (·.capPin true)) rfl h
  case capInRise => exact pinRow_pending (level := (·.capPin false)) rfl h
  case serdesRefclkLoss => exact pinRow_pending (level := (·.refPin true)) rfl h
  case serdesRefclkReturn => exact pinRow_pending (level := (·.refPin false)) rfl h
  all_goals exact absurd hc Bool.false_ne_true

/-- Settles O4: `act` restores both, and the rows of the pins keep the queue. -/
theorem commandsLeaveTheInputs : Obligations.CommandsLeaveTheInputs := by
  intro c s t h
  cases hc : actsUnpowered c
  case false =>
    obtain ⟨f, hf⟩ := exec_act c hc
    obtain ⟨hpend, hcold⟩ := act_inputs s t f ((hf s).symm.trans h)
    exact ⟨hpend, fun _ => hcold⟩
  case true => exact ⟨exec_pin_pending hc h, fun hf => absurd hf Bool.noConfusion⟩

/-- Settles O5. -/
theorem nothingHappensWithoutSupply : Obligations.NothingHappensWithoutSupply := by
  intro c s hc hp
  obtain ⟨f, hf⟩ := exec_act c hc
  rw [hf s, act_unpowered s f hp]

/-- Settles O6: the state right after reset lists nothing, so every table reads as its default. -/
theorem resetIsTheColdState : Obligations.ResetIsTheColdState :=
  ⟨rfl, fun _ => rfl, ⟨⟨rfl, rfl⟩, fun h => absurd h Bool.false_ne_true⟩, rfl, rfl, fun _ _ => rfl, fun _ => ⟨rfl, rfl⟩, fun _ => rfl, fun _ => rfl⟩

end Sys2Proof.Machine
end

section
/-!
# Call-slip pairs (05 R164 to R179)
-/
namespace Sys2Proof.Machine

/-- What the engine may ask for depends on the device's state and the functions alone. -/
theorem csMay_congr {s t : State} (n : Nat) (hreg : ∀ j, t.reg .DEV_STATUS j = s.reg .DEV_STATUS j) (hfns : t.fns = s.fns) (harec : t.arec = s.arec) :
    t.csMay n = s.csMay n := by
  have hdev : ∀ f : Fld, f.reg = .DEV_STATUS → t.g f = s.g f := fun f hf => by
    unfold State.g
    rw [hf, hreg]
  unfold State.csMay State.inService State.mayRequest State.cacheEn State.fnOf State.partOf State.partCount State.slotsOf State.partCount State.part State.fn State.gb
  rw [hdev DEV_STATUS.STATE rfl, hdev DEV_STATUS.SAFE rfl, hfns, harec]

/-- The pair's own registers do not matter to it. -/
theorem csMay_p (s : State) (f : Fld) (i v n : Nat) (hf : .DEV_STATUS ≠ f.reg) : (s.p f i v).csMay n = s.csMay n :=
  csMay_congr n (fun j => State.reg_p_other s f .DEV_STATUS i j v hf) rfl rfl

theorem csMay_setCs (s : State) (x : CsSt) (m n : Nat) : (s.setCs m x).csMay n = s.csMay n := csMay_congr n (fun _ => rfl) rfl rfl

theorem engRead_held {s : State} {n : Nat} (h : (s.csOf n).slipS = true) : s.engRead n = s := by
  unfold State.engRead
  dsimp only
  split
  · exact if_pos (.inr (.inl h))
  · rfl

theorem csSeek_same {s : State} {n : Nat} (h : s.csMay n = false ∨ (s.csOf n).slipS = true) : s.csSeek n = s := by
  unfold State.csSeek
  split
  · rename_i hmay
    exact engRead_held (h.resolve_left (by simp [hmay]))
  · rfl

theorem csDlv_engOwn_same {s : State} {n : Nat} (hline : (s.csOf n).dlvLine ≠ none) (hown : 2 ≤ (s.csOf n).dlv) : (s.csDlv n).engOwn n = s := by
  have hdlv : s.csDlv n = s := if_neg hline
  rw [hdlv]
  unfold State.engOwn
  dsimp only
  split
  · exact if_pos (.inr hown)
  · rfl

/-- From `s` to `t` only what the homes and the host link hold has changed. -/
def State.AtHomes (t s : State) : Prop := ∃ coh link out dmem, t = { s with coh := coh, link := link, out := out, dmem := dmem }

theorem toHost_eq (s : State) (o : Out) : ∃ out dmem, s.toHost o = { s with out := out, dmem := dmem } := by
  unfold State.toHost
  split
  · exact ⟨_, _, rfl⟩
  · exact ⟨_, _, rfl⟩

theorem hostEvict_atHomes (s : State) (f opc l : Nat) (data : Bytes) : (s.hostEvict f opc l data).AtHomes s := by
  unfold State.hostEvict
  obtain ⟨out, dmem, h⟩ := toHost_eq { s with link := { s.link with reqs := s.link.reqs ++
    [{ tag := s.newTag, fn := f, owner := .nobody none, ca := l * 64, io := false, issued := s.time, want := [l] }] } } (.d2hReq s.newTag f opc (l * 64) data)
  exact ⟨_, _, _, _, h⟩

theorem evictClean_atHomes (s : State) (f opc l : Nat) : (s.evictClean f opc l).AtHomes s := by
  unfold State.evictClean
  split
  · exact hostEvict_atHomes s f opc l []
  · exact ⟨_, _, _, _, rfl⟩

/-- A clean line leaves the engine: only the catalogue and the host link see it. -/
theorem engDrop_clean (s : State) (f l : Nat) : (s.engDrop f l none).AtHomes s := by
  unfold State.engDrop
  dsimp only
  split
  · exact ⟨_, _, _, _, rfl⟩
  · split
    · rw [if_neg Bool.false_ne_true]
      obtain ⟨coh, link, out, dmem, h⟩ := evictClean_atHomes s f 7 l
      rw [h]
      exact ⟨_, _, _, _, rfl⟩
    · exact ⟨_, _, _, _, rfl⟩

theorem dropSlip_spec (s : State) (n : Nat) : ∃ coh link out dmem, s.dropSlip n = { s with
    coh := coh, link := link, out := out, dmem := dmem, cs := (s.dropSlip n).cs } ∧
    (s.dropSlip n).csOf n = { s.csOf n with slipS := if (s.csOf n).slipLine = none then (s.csOf n).slipS else false } := by
  unfold State.dropSlip
  dsimp only
  split
  · rename_i l hline
    split
    · obtain ⟨coh, link, out, dmem, h⟩ := engDrop_clean (s.setCs n { s.csOf n with slipS := false }) (s.fnOf n) l
      rw [h, if_neg (by simp [hline])]
      exact ⟨_, _, _, _, rfl, State.csOf_setCs _ _ _⟩
    · rename_i hheld
      refine ⟨s.coh, s.link, s.out, s.dmem, rfl, ?_⟩
      rw [if_neg (by simp [hline]), ← Bool.eq_false_iff.2 hheld]
  · rename_i hline
    refine ⟨s.coh, s.link, s.out, s.dmem, rfl, ?_⟩
    rw [if_pos hline]

theorem dropSlip_held {s : State} {n : Nat} (h : (s.csOf n).slipS = false) : s.dropSlip n = s := by
  unfold State.dropSlip
  dsimp only
  split
  · exact if_neg (by simp [h])
  · rfl

theorem dropDlv_none {s : State} {n : Nat} (h : (s.csOf n).dlv = 0) : s.dropDlv n = s := by
  unfold State.dropDlv
  dsimp only
  split
  · exact if_pos h
  · rfl

/-! ### Calls (R168, R171) -/

/-- A re-read that brings a new call. -/
theorem csReread_call {s : State} {n : Nat} {b : Bytes} (hgot : (s.csOf n).got = some b) (hst : s.g CS_STATUS.STATE n = 2)
    (hseq : le b 0 4 ≠ s.g CS_STATUS.LAST_SEQ n) (hmay : s.csMay n = false ∨ ((s.csOf n).dlvLine ≠ none ∧ 2 ≤ (s.csOf n).dlv)) :
    let u := (s.setCs n { s.csOf n with got := none }).dropSlip n
    s.csReread n = (((u.setCs n { u.csOf n with call := some b }).p CS_STATUS.LAST_SEQ n (le b 0 4)).p CS_STATUS.PENDING n 1).p CS_STATUS.STATE n 3 := by
  intro u
  obtain ⟨coh, link, out, dmem, hu, hpair⟩ := dropSlip_spec (s.setCs n { s.csOf n with got := none }) n
  unfold State.csReread
  rw [hgot]
  dsimp only
  rw [if_neg (by simp [hst]), State.setCs_g', if_neg hseq]
  split
  · rename_i hcan
    have hpair' : u.csOf n = { s.csOf n with got := none, slipS := if (s.csOf n).slipLine = none then (s.csOf n).slipS else false } := by
      rw [hpair, State.csOf_setCs]
    have hu' : u = _ := hu
    have hsame : u.csMay n = s.csMay n := by
      rw [← csMay_setCs s { s.csOf n with got := none } n n]
      exact csMay_congr n (fun j => by rw [hu']; rfl) (by rw [hu']) (by rw [hu'])
    rw [csMay_p _ _ _ _ _ (by decide), csMay_p _ _ _ _ _ (by decide), csMay_p _ _ _ _ _ (by decide), csMay_setCs, hsame] at hcan
    obtain ⟨hline, hown⟩ := hmay.resolve_left (by simp [hcan])
    refine csDlv_engOwn_same ?_ ?_
    · simp only [State.p_csOf', State.csOf_setCs]
      rw [hpair']
      exact hline
    · simp only [State.p_csOf', State.csOf_setCs]
      rw [hpair']
      exact hown
  · rfl

/-- A delivery into the owned line, the slip's copy held. -/
theorem deliver_eq {s : State} {n : Nat} {line : Bytes} (hrep : (s.csOf n).report = some line) (hpost : (s.csOf n).posted = false) (hcall : (s.csOf n).call = none)
    (hdlv : 2 ≤ (s.csOf n).dlv) (hok : le line 4 1 = 0) (hst : s.g CS_STATUS.STATE n = 2) (hslip : (s.csOf n).slipS = true) (hline : (s.csOf n).slipLine ≠ none) :
    s.deliver n = s.setCs n { s.csOf n with dlv := 3, dlvData := line, report := none, running := false } := by
  generalize ht : s.setCs n { s.csOf n with dlv := 3, dlvData := line, report := none, running := false } = t
  have hpair : t.csOf n = { s.csOf n with dlv := 3, dlvData := line, report := none, running := false } := by rw [← ht, State.csOf_setCs]
  have hst' : t.g CS_STATUS.STATE n = 2 := by rw [← ht]; exact hst
  have hirq : t.csIrq n line = t := if_neg fun h => h.1 hok
  have hseek : t.csSlip n = t := if_neg (by rw [hpair]; exact hline)
  have hread : t.engRead n = t := engRead_held (by rw [hpair]; exact hslip)
  have hwake : t.csWake n = t := by
    unfold State.csWake
    dsimp only
    rw [if_neg (by simp [hst'])]
    split
    · rw [hseek, hread]
      refine if_neg ?_
      rw [hpair]
      simp [hcall]
    · rfl
  unfold State.deliver
  rw [hrep]
  refine (if_neg (by simp [hpost])).trans ((if_pos hdlv).trans ?_)
  show ((s.setCs n { s.csOf n with dlv := 3, dlvData := line, report := none, running := false }).csIrq n line).csWake n = t
  rw [ht, hirq, hwake]

/-! ### Modes (R178) -/

theorem csCoherent_eq {s : State} {p n : Nat} (ho : s.owns p n = true) (hmode : s.g CS_CTL.MODE n = 0) (hst : s.g CS_STATUS.STATE n = 0) (hen : s.cacheEn = true)
    (hreq : s.mayRequest (s.fnOf n) = false) : s.csCoherent p n = (s.p CS_CTL.MODE n 1).p CS_STATUS.STATE n 1 := by
  have hmay : ((s.p CS_CTL.MODE n 1).p CS_STATUS.STATE n 1).csMay n = false := by
    rw [csMay_p _ _ _ _ _ (by decide), csMay_p _ _ _ _ _ (by decide)]
    unfold State.csMay
    rw [hreq, Bool.and_false, Bool.false_and]
  have hmode' : ((s.p CS_CTL.MODE n 1).p CS_STATUS.STATE n 1).g CS_CTL.MODE n = 1 := by
    simp (disch := decide) only [State.g_p_other, State.g_p_self]
  unfold State.csCoherent
  rw [if_pos ⟨ho, hmode, hst, hen⟩]
  unfold State.csArmGo
  rw [if_neg (by simp [hmode']), if_neg (by simp [hmay])]

theorem csArmed_eq {s : State} {n : Nat} {b : Bytes} (hgot : (s.csOf n).got = some b) (hst : s.g CS_STATUS.STATE n = 1) (hserv : s.inService = true)
    (hmay : s.csMay n = false ∨ (s.csOf n).slipS = true) :
    s.csArmed n = ((s.setCs n { s.csOf n with got := none }).p CS_STATUS.LAST_SEQ n (le b 0 4)).p CS_STATUS.STATE n 2 := by
  unfold State.csArmed
  rw [hgot]
  dsimp only
  rw [if_pos ⟨hst, hserv⟩]
  refine csSeek_same (hmay.imp (fun h => ?_) fun h => ?_)
  · rw [csMay_p _ _ _ _ _ (by decide), csMay_p _ _ _ _ _ (by decide), csMay_setCs, h]
  · rw [State.p_csOf', State.p_csOf', State.csOf_setCs]
    exact h

theorem csDisarmed_eq {s : State} {n : Nat} (hst : s.g CS_STATUS.STATE n = 5) (hrun : (s.csOf n).running = false) (hrep : (s.csOf n).report = none)
    (hcall : (s.csOf n).call = none) (hread : (s.csOf n).reading = false) (hown : (s.csOf n).owning = false) (hdlv : (s.csOf n).dlv = 0) (hslip : (s.csOf n).slipS = false) :
    s.csDisarmed n = ((((s.setCs n { valid := (s.csOf n).valid, line := (s.csOf n).line }).forgetWho n 2).p CS_STATUS.STATE n 0).p CS_CTL.MODE n 0) := by
  unfold State.csDisarmed
  dsimp only
  rw [if_pos ⟨hst, by rw [hrun]; rfl, hrep, hcall, by rw [hread]; rfl, by rw [hown]; rfl, .inr ⟨hdlv, by rw [hslip]; rfl⟩⟩, dropDlv_none hdlv, dropSlip_held hslip]

theorem forgetThose_eq (s : State) (n : Nat) (p : Waiter → Bool) : ∃ xl, s.forgetThose n p = { s with xl := xl } := by
  unfold State.forgetThose
  split
  · exact ⟨_, rfl⟩
  · exact ⟨_, rfl⟩

/-- Settles O32. -/
theorem callSlipPairs : Obligations.CallSlipPairs := by
  intro s p n hp hq x st
  refine ⟨fun b hgot hst hmay hseq => ?_, fun b hgot hst hseq hmay => ?_, fun line hrep hpost hcall hdlv hok hst hslip hline => ?_,
    fun hm ho hmode hst hen hreq => ?_, fun hm ho hmode hst => ?_, fun hm ho hmode hst => ?_, fun b hgot hst hserv hmay => ?_,
    fun hst hrun hrep hcall hread hown hdlv hslip => ?_⟩
  · refine act_to (f := (·.csReread n)) rfl hp ?_ (State.quiet_of hq)
    unfold State.csReread
    rw [hgot]
    dsimp only
    rw [if_neg (by simp [show s.g CS_STATUS.STATE n = 2 from hst]), State.setCs_g', if_pos hseq]
    refine csSeek_same (hmay.imp (fun h => ?_) fun h => ?_)
    · exact (csMay_p _ CS_STATUS.SPURIOUS _ _ _ (by decide)).trans ((csMay_setCs ..).trans h)
    · rw [State.bump_csOf', State.csOf_setCs]
      exact h
  · obtain ⟨coh, link, out, dmem, hu, hpair⟩ := dropSlip_spec (s.setCs n { s.csOf n with got := none }) n
    refine ⟨act_to (f := (·.csReread n)) rfl hp (csReread_call hgot hst hseq hmay) (State.quiet_of hq ?_ ?_) ?_ ?_, ?_⟩
    · rw [hu]; rfl
    · rw [hu]; rfl
    · rw [hu]; rfl
    · rw [hu]; rfl
    · simp only [State.p_csOf', State.csOf_setCs]
      rw [hpair, State.csOf_setCs]
  · exact act_to (f := (·.deliver n)) rfl hp (deliver_eq hrep hpost hcall hdlv hok hst hslip hline) (State.quiet_of hq)
  · exact host_to (f := (·.csCoherent p n)) rfl hp hm (csCoherent_eq ho hmode hst hen hreq) (State.quiet_of hq)
  · exact host_to (f := (·.csSlipRegs p n)) rfl hp hm (if_pos ⟨ho, hmode, hst⟩) (State.quiet_of hq)
  · exact host_to (f := (·.csOff p n)) rfl hp hm (if_pos ⟨ho, hmode, hst⟩) (State.quiet_of hq)
  · exact act_to (f := (·.csArmed n)) rfl hp (csArmed_eq hgot hst hserv hmay) (State.quiet_of hq)
  · obtain ⟨xl, hxl⟩ := forgetThose_eq (s.setCs n { valid := x.valid, line := x.line }) n fun u => decide (u.source = 2)
    have hforget : (s.setCs n { valid := x.valid, line := x.line }).forgetWho n 2 = { s.setCs n { valid := x.valid, line := x.line } with xl := xl } := hxl
    have heq := csDisarmed_eq hst hrun hrep hcall hread hown hdlv hslip
    rw [hforget] at heq ⊢
    exact act_to (f := (·.csDisarmed n)) rfl hp heq (State.quiet_of hq)

end Sys2Proof.Machine
end

section
/-!
# Commands that raise no event
-/
namespace Sys2Proof.Machine

/-- From `s` to `t` no event was raised, and neither the input queue nor the COLD pin has changed. -/
def State.CalmTo (s t : State) : Prop :=
  t.evq = s.evq ∧ t.dev.safeRec = s.dev.safeRec ∧ t.dev.cold = s.dev.cold ∧ t.pending = s.pending

section
variable {s t u : State} {row : Instr} {fn off : Nat} {f : State → State}

theorem State.CalmTo.refl (s : State) : s.CalmTo s := ⟨rfl, rfl, rfl, rfl⟩

theorem State.CalmTo.trans (h : s.CalmTo t) (h' : t.CalmTo u) : s.CalmTo u := by
  obtain ⟨h1, h2, h3, h4⟩ := h
  obtain ⟨g1, g2, g3, g4⟩ := h'
  exact ⟨g1.trans h1, g2.trans h2, g3.trans h3, g4.trans h4⟩

theorem State.CalmTo.p (h : s.CalmTo t) (f : Fld) (i v : Nat) : s.CalmTo (t.p f i v) := h.trans ⟨rfl, rfl, rfl, rfl⟩

theorem State.CalmTo.setQueue (h : s.CalmTo t) (q : Nat) (x : QSt) : s.CalmTo (t.setQueue q x) := h.trans ⟨rfl, rfl, rfl, rfl⟩

theorem State.CalmTo.quiet (h : s.CalmTo t) (hq : s.Quiet) : t.Quiet := ⟨h.1.trans hq.1, h.2.1.trans hq.2⟩

theorem act_calm (hr : exec row s = act s f) (hp : s.Powered) (hf : f s = t) (hc : s.CalmTo t) (hq : s.Quiet) : exec row s = .next t.lines :=
  act_to hr hp hf (hc.quiet hq) hc.2.2.2 hc.2.2.1

theorem host_calm (hr : exec row s = hostReg s fn off f) (hp : s.Powered) (hm : s.hostMay fn off = true) (hf : f s = t) (hc : s.CalmTo t)
    (hq : s.Quiet) : exec row s = .next t.lines :=
  host_to hr hp hm hf (hc.quiet hq) hc.2.2.2 hc.2.2.1

theorem cfg_calm (hr : exec row s = cfgRow s fn f) (hp : s.Powered) (hm : s.cfgMay fn = true) (hf : f s = t) (hc : s.CalmTo t)
    (hq : s.Quiet) : exec row s = .next t.lines :=
  cfg_to hr hp hm hf (hc.quiet hq) hc.2.2.2 hc.2.2.1

theorem get_calm (hr : exec row s = hostGet s fn off f) (hp : s.Powered) (hm : s.hostSees fn off = true) (hf : f s = t) (hc : s.CalmTo t)
    (hq : s.Quiet) : exec row s = .next t.lines :=
  get_to hr hp hm hf (hc.quiet hq) hc.2.2.2 hc.2.2.1

end

/-- A field reads its register. -/
theorem State.g_congr {s t : State} {f : Fld} {j : Nat} (h : t.reg f.reg j = s.reg f.reg j) : t.g f j = s.g f j := by
  unfold State.g
  rw [h]

theorem State.gb_congr {s t : State} {f : Fld} {j : Nat} (h : t.reg f.reg j = s.reg f.reg j) : t.gb f j = s.gb f j := by
  unfold State.gb
  rw [State.g_congr h]

/-! ### Requests to the host -/

theorem foldl_toHost_eq {α : Type} (g : α → Out) (l : List α) (s : State) :
    ∃ out dmem, l.foldl (fun s x => s.toHost (g x)) s = { s with out := out, dmem := dmem } := by
  refine foldl_keeps (fun t : State => ∃ out dmem, t = { s with out := out, dmem := dmem }) _ l s ⟨_, _, rfl⟩ ?_
  rintro t x - ⟨out, dmem, rfl⟩
  obtain ⟨out', dmem', h⟩ := toHost_eq { s with out := out, dmem := dmem } (g x)
  exact ⟨out', dmem', h⟩

theorem askParts_eq (s : State) (f t : Nat) (parts : List (Nat × Nat)) :
    ∃ out dmem, s.askParts f t parts = { s with out := out, dmem := dmem } := by
  unfold State.askParts
  split
  · exact foldl_toHost_eq _ _ s
  · exact foldl_toHost_eq _ _ s

/-- A read of host memory changes the link and what leaves through it. -/
theorem hostRead_eq (s : State) (f : Nat) (parts : List (Nat × Nat)) (ep : Nat) (o : Owner) :
    ∃ link out dmem, s.hostRead f parts ep o = { s with link := link, out := out, dmem := dmem } := by
  unfold State.hostRead
  extract_lets t io r
  obtain ⟨out, dmem, h⟩ := askParts_eq { s with link := { s.link with reqs := s.link.reqs ++ [r] } } f t parts
  exact ⟨_, out, dmem, h⟩

theorem calm_hostRead (s : State) (f : Nat) (parts : List (Nat × Nat)) (ep : Nat) (o : Owner) : s.CalmTo (s.hostRead f parts ep o) := by
  obtain ⟨link, out, dmem, h⟩ := hostRead_eq s f parts ep o
  rw [h]
  exact ⟨rfl, rfl, rfl, rfl⟩

theorem calm_toHost (s : State) (o : Out) : s.CalmTo (s.toHost o) := by
  obtain ⟨out, dmem, h⟩ := toHost_eq s o
  rw [h]
  exact ⟨rfl, rfl, rfl, rfl⟩

theorem calm_forgetThose (s : State) (n : Nat) (p : Waiter → Bool) : s.CalmTo (s.forgetThose n p) := by
  obtain ⟨xl, h⟩ := forgetThose_eq s n p
  rw [h]
  exact ⟨rfl, rfl, rfl, rfl⟩

end Sys2Proof.Machine
end

section
/-!
# Doorbells and the states of a queue (05 R180 to R195)
-/
namespace Sys2Proof.Machine

/-- No accessioned descriptor of a queue has failed or is an `INSTALL`. -/
def State.PlainQueue (s : State) (q : Nat) : Prop := ∀ d ∈ (s.queue q).accs, d.fail = none ∧ descOp d.bytes ≠ 2

theorem frontFail_plain {s : State} {q : Nat} (h : s.PlainQueue q) : s.frontFail q = none := by
  unfold State.frontFail
  dsimp only
  split
  · rfl
  · cases hx : (s.queue q).accs with
    | nil => rfl
    | cons d ds => exact (h d (by rw [hx]; exact List.mem_cons_self)).1

theorem frontGo_plain {s : State} {q : Nat} (h : s.PlainQueue q) : s.frontGo q = s := by
  unfold State.frontGo
  dsimp only
  split
  · rfl
  · cases hx : (s.queue q).accs with
    | nil => rfl
    | cons d ds => exact if_neg (h d (by rw [hx]; exact List.mem_cons_self)).2

/-- Where no descriptor completes or starts by itself, only the intake of the queue goes on. -/
theorem queueGo_intake {s : State} {q : Nat} (h : s.PlainQueue q) (h' : (s.intakeGo q).PlainQueue q) : s.queueGo q = s.intakeGo q := by
  unfold State.queueGo State.queueGoN
  rw [frontFail_plain h]
  dsimp only
  rw [frontGo_plain h, frontFail_plain h']
  rfl

/-- What the intake looks at is unchanged, so it still has nothing to ask for. -/
theorem noFetch_setQueue {s : State} {q : Nat} {y : QSt} (h : s.NoFetch q) (hcur : y.cur = (s.queue q).cur) (havail : y.avail = (s.queue q).avail)
    (haccs : y.accs = (s.queue q).accs) (hhold : y.hold = (s.queue q).hold) : (s.setQueue q y).NoFetch q := by
  unfold State.NoFetch
  rw [State.queue_setQueue, hcur, havail, haccs,
    mayFetch_congr (s := s) (t := s.setQueue q y) rfl (by rw [State.queue_setQueue, hhold]) rfl rfl rfl rfl rfl]
  exact h

/-- The intake asks for the entry at the head of the ring, whose address is translated. -/
theorem queueGo_fetch {s : State} {q ca : Nat} (h : s.PlainQueue q) (hcur : (s.queue q).cur = none)
    (havail : (s.queue q).avail ≠ 0) (haccs : (s.queue q).accs.length < 4) (hmay : s.mayFetch q = true) (hread : s.readOf (.ring q) = none)
    (hva : s.ringVa q (s.g SQ_BASE.ADDR q * 4096 + 128 * s.g Q_STATUS.SQ_HEAD q) false = (.ok ca, s)) :
    s.queueGo q = s.hostRead (s.queueFn q) [(ca, 128)] (s.ringEpoch q (s.g SQ_BASE.ADDR q * 4096 + 128 * s.g Q_STATUS.SQ_HEAD q)) (.ring q) := by
  have hin : s.intakeGo q =
      s.hostRead (s.queueFn q) [(ca, 128)] (s.ringEpoch q (s.g SQ_BASE.ADDR q * 4096 + 128 * s.g Q_STATUS.SQ_HEAD q)) (.ring q) := by
    unfold State.intakeGo
    dsimp only
    rw [hmay, hcur]
    dsimp only
    rw [if_neg (by decide), if_pos ⟨havail, haccs⟩]
    unfold State.fetchAsk
    rw [hread, if_neg (by decide), hva]
  rw [← hin]
  refine queueGo_intake h ?_
  rw [hin]
  obtain ⟨link, out, dmem, hr⟩ := hostRead_eq s (s.queueFn q) [(ca, 128)]
    (s.ringEpoch q (s.g SQ_BASE.ADDR q * 4096 + 128 * s.g Q_STATUS.SQ_HEAD q)) (.ring q)
  rw [hr]
  exact h

/-- A descriptor without a list, fetched, waits for its accession. -/
theorem queueGo_fetched {s : State} {q : Nat} {b : Bytes} (h : s.PlainQueue q) (hcur : (s.queue q).cur = some b) (hlist : descList b = false) :
    s.queueGo q = s := by
  have hin : s.intakeGo q = s := by
    unfold State.intakeGo
    dsimp only
    rw [hcur]
    dsimp only
    rw [hlist]
    split
    · rfl
    · exact if_neg (by simp)
  rw [queueGo_intake h (hin.symm ▸ h), hin]

/-- A queue halts without an interrupt. -/
theorem haltQueue_quiet {s : State} {q : Nat} (err : Nat) (h : q = 64 ∨ s.gb Q_CFG.ERR_IRQ q = false) : s.haltQueue q err =
    (((s.setQueue q { s.queue q with cur := none, stale := 0, pre := none }).giveUpRing q).p Q_STATUS.STATE q 2).p Q_STATUS.ERROR q err := by
  unfold State.haltQueue
  refine if_neg ?_
  rintro ⟨hq, hirq⟩
  have hirq' : s.gb Q_CFG.ERR_IRQ q = true := by
    rwa [State.gb_p_other _ _ _ _ _ _ (by decide), State.gb_p_other _ _ _ _ _ _ (by decide)] at hirq
  rcases h with h | h
  · omega
  · rw [h] at hirq'
    exact absurd hirq' Bool.false_ne_true

/-- The owner of a read of the queue's intake is forgotten; other reads keep theirs. -/
@[reducible] def State.unclaimed (s : State) (q : Nat) (r : HReq) : HReq :=
  if r.owner = Owner.ring q ∨ r.owner = Owner.list q then { r with owner := .nobody (if q = 64 then none else some (s.g SLOT_CFG.PASID q)) } else r

theorem giveUpRing_eq (s : State) (q : Nat) :
    s.giveUpRing q = { s with link := { s.link with reqs := s.link.reqs.map (s.unclaimed q) } } := by
  unfold State.giveUpRing State.giveUpReads State.unclaimed
  simp only [decide_eq_true_eq]

/-! ### Doorbells -/

section
variable {s : State} {p q v : Nat}

theorem dbSq_told {k : Nat} (hown : s.ownsQ p q = true) (hst : s.g Q_STATUS.STATE q = 1 ∨ s.g Q_STATUS.STATE q = 2)
    (htold : ringCount (v % 65536) (bits v 16 16) (s.g Q_STATUS.SQ_HEAD q) (s.g Q_STATUS.SQ_GEN q) (s.g Q_CFG.SQ_LOG2 q) = some k) :
    s.dbSq p q v = if k < b2n (s.queue q).cur.isSome then s.haltQueue q 2 else (s.setQueue q { s.queue q with avail := k }).queueGo q := by
  unfold State.dbSq
  dsimp only
  rw [if_neg (by rw [hown]; rintro (h | h); exacts [absurd h (by decide), by omega]), htold]

theorem dbSq_wrong (hown : s.ownsQ p q = true) (hst : s.g Q_STATUS.STATE q = 1)
    (htold : ringCount (v % 65536) (bits v 16 16) (s.g Q_STATUS.SQ_HEAD q) (s.g Q_STATUS.SQ_GEN q) (s.g Q_CFG.SQ_LOG2 q) = none) :
    s.dbSq p q v = s.haltQueue q 2 := by
  unfold State.dbSq
  dsimp only
  rw [if_neg (by rw [hown]; rintro (h | h); exacts [absurd h (by decide), by omega]), htold]
  exact if_pos hst

theorem dbCq_told {k : Nat} (hown : s.ownsQ p q = true) (hst : s.g Q_STATUS.STATE q ≠ 0) (hle : v % 65536 < 2 ^ s.g Q_CFG.CQ_LOG2 q)
    (htold : ringCount (s.g Q_STATUS.CQ_TAIL q) (s.g Q_STATUS.CQ_GEN q) (v % 65536) (bits v 16 16) (s.g Q_CFG.CQ_LOG2 q) = some k) :
    s.dbCq p q v = ((s.setQueue q { s.queue q with used := k }).flushRecs q).queueGo q := by
  unfold State.dbCq
  dsimp only
  rw [if_neg (by rw [hown]; rintro (h | h); exacts [absurd h (by decide), hst h]), if_neg (Nat.not_le.mpr hle), htold]

theorem dbCq_wrong (hown : s.ownsQ p q = true) (hst : s.g Q_STATUS.STATE q ≠ 0) (h : 2 ^ s.g Q_CFG.CQ_LOG2 q ≤ v % 65536 ∨
      ringCount (s.g Q_STATUS.CQ_TAIL q) (s.g Q_STATUS.CQ_GEN q) (v % 65536) (bits v 16 16) (s.g Q_CFG.CQ_LOG2 q) = none) :
    s.dbCq p q v = s.bump Q_STATUS.DB_IGNORED q := by
  unfold State.dbCq
  dsimp only
  rw [if_neg (by rw [hown]; rintro (h | h); exacts [absurd h (by decide), hst h])]
  rcases h with h | h
  · rw [if_pos h]
  · rw [h, ite_self]

/-! ### Configuration -/

/-- The interrupt of a partition's queue is written before the queue is enabled or disabled (R194); queue 64 has none. -/
def State.qIrqWritten (s : State) (q v : Nat) : State :=
  if q = 64 then s else (s.p Q_CFG.ERR_IRQ q (bits v 62 62)).p Q_CFG.ERR_VEC q (bits v 31 24)

theorem qIrqWritten_eq (s : State) (q v : Nat) : ∃ r, s.qIrqWritten q v = { s with rf := r } := by
  unfold State.qIrqWritten
  split
  · exact ⟨_, rfl⟩
  · exact ⟨_, rfl⟩

theorem calm_qIrqWritten (s : State) (q v : Nat) : s.CalmTo (s.qIrqWritten q v) := by
  obtain ⟨r, h⟩ := qIrqWritten_eq s q v
  rw [h]
  exact ⟨rfl, rfl, rfl, rfl⟩

theorem qIrqWritten_enable (s : State) (q v : Nat) : (s.qIrqWritten q v).gb Q_CFG.ENABLE q = s.gb Q_CFG.ENABLE q := by
  unfold State.qIrqWritten
  split
  · rfl
  · simp (disch := decide) only [State.gb_p_field]

theorem qIrqWritten_other (s : State) (q v : Nat) (f : Fld) (hf : f.reg ≠ .Q_CFG) : (s.qIrqWritten q v).g f q = s.g f q := by
  unfold State.qIrqWritten
  split
  · rfl
  · rw [State.g_p_other _ _ _ _ _ _ hf, State.g_p_other _ _ _ _ _ _ hf]

theorem qIrqWritten_queue (s : State) (q v : Nat) : (s.qIrqWritten q v).queue q = s.queue q := by
  obtain ⟨r, h⟩ := qIrqWritten_eq s q v
  rw [h]
  rfl

theorem queueEnable_sound (hown : s.ownsQ p q = true) (hen : s.gb Q_CFG.ENABLE q = false) (hst : s.g Q_STATUS.STATE q = 0) (hv : bit v 63 = true)
    (hc : 4 ≤ bits v 11 8 ∧ bits v 11 8 ≤ 12) (hs : 4 ≤ bits v 3 0 ∧ bits v 3 0 ≤ 12) :
    s.queueEnable p q v = ((((((((((s.qIrqWritten q v).p Q_CFG.CQ_LOG2 q (bits v 11 8)).p Q_CFG.SQ_LOG2 q (bits v 3 0)).p Q_STATUS.CQ_TAIL q 0).p
      Q_STATUS.SQ_HEAD q 0).p Q_STATUS.CQ_GEN q 1).p Q_STATUS.SQ_GEN q 1).p Q_STATUS.STATE q 1).p Q_CFG.ENABLE q 1).setQueue q {}) := by
  have hen' := (qIrqWritten_enable s q v).trans hen
  have hst' : (((s.qIrqWritten q v).p Q_CFG.CQ_LOG2 q (bits v 11 8)).p Q_CFG.SQ_LOG2 q (bits v 3 0)).g Q_STATUS.STATE q = 0 := by
    rw [State.g_p_other _ _ _ _ _ _ (by decide), State.g_p_other _ _ _ _ _ _ (by decide), qIrqWritten_other _ _ _ _ (by decide), hst]
  unfold State.queueEnable State.qCfgWrite
  rw [if_pos hv, if_neg (by simp [hown])]
  dsimp only
  rw [show (if q = 64 then s else (s.p Q_CFG.ERR_IRQ q (bits v 62 62)).p Q_CFG.ERR_VEC q (bits v 31 24)) = s.qIrqWritten q v from rfl,
    if_neg (by rw [hen']; exact Bool.false_ne_true), hst', if_neg (by simp [hv]), if_pos (by simp [hc, hs])]

theorem queueDisable_empty (hown : s.ownsQ p q = true) (hen : s.gb Q_CFG.ENABLE q = true) (hv : bit v 63 = false) (haccs : (s.queue q).accs = []) :
    s.queueDisable p q v = (((((s.qIrqWritten q v).giveUpRing q).forgetThose q fun u => decide (u.source = 1) && decide (u.aux ≤ 1)).setQueue q
      { s.queue q with cur := none, stale := 0, avail := 0, accs := [], pre := none }).p Q_CFG.ENABLE q 0).p Q_STATUS.STATE q 3 := by
  have hen' := (qIrqWritten_enable s q v).trans hen
  unfold State.queueDisable State.qCfgWrite
  rw [if_neg (by simp [hv]), if_neg (by simp [hown])]
  dsimp only
  rw [show (if q = 64 then s else (s.p Q_CFG.ERR_IRQ q (bits v 62 62)).p Q_CFG.ERR_VEC q (bits v 31 24)) = s.qIrqWritten q v from rfl,
    if_pos hen', if_neg (by simp [hv]), qIrqWritten_queue, haccs]
  refine queueGo_empty _ q ?_ (.inl (mayFetch_off _ q ?_))
  · rw [State.p_queue', State.p_queue', State.queue_setQueue]
  · rw [State.g_p_self _ _ _ _ (by decide) (by decide) (by decide)]
    decide

theorem queueDrained_done (hst : s.g Q_STATUS.STATE q = 3) (hinv : (s.slot q).inv = none) (haccs : (s.queue q).accs = [])
    (hhold : (s.queue q).hold = none) (howed : (s.queue q).owed = []) : s.queueDrained q = (s.forgetWho q 1).p Q_STATUS.STATE q 0 := by
  unfold State.queueDrained State.descRunning
  dsimp only
  rw [hinv]
  exact if_pos ⟨hst, rfl, rfl, haccs, hhold, howed⟩

theorem queueResume_halted (hown : s.ownsQ p q = true) (hst : s.g Q_STATUS.STATE q = 2) : s.queueResume p q =
    (((s.p Q_STATUS.ERROR q 0).p Q_STATUS.STATE q 1).setQueue q { s.queue q with stale := 0 }).queueGo q :=
  if_pos ⟨hown, hst⟩

/-! ### Fetched descriptors -/

theorem fetched_eq {data b : Bytes} {r : HReq} (hread : s.readOf (.ring q) = some r) (hstable : s.stableRange r.ca 128 = true)
    (hload : (s.dropReq r.tag).hubLoad r.ca 128 (some 2) data = (b, false, s.dropReq r.tag)) :
    s.fetched q data = if le b 1 1 % 2 = s.g Q_STATUS.SQ_GEN q then
        ((s.dropReq r.tag).setQueue q { s.queue q with stale := 0, cur := some b }).queueGo q
      else if (s.queue q).stale = 8 then ((s.dropReq r.tag).setQueue q { s.queue q with stale := 0 }).haltQueue q 1
      else ((s.dropReq r.tag).setQueue q { s.queue q with stale := (s.queue q).stale + 1 }).fetchAsk q := by
  unfold State.fetched
  rw [hread]
  dsimp only
  rw [hstable, hload]
  rfl

end

/-- Settles O34: the equations of the rows, with the queue that rests, that asks for its next entry, or that halts. -/
theorem queuesAndDoorbells : Obligations.QueuesAndDoorbells := by
  intro s p q hp hq x st plain given unasked halted reg quietErr head fetches asks
  have hunasked : ∀ u : State, u.g SLOT_CFG.PASID q = s.g SLOT_CFG.PASID q → u.giveUpRing q = unasked u := fun u hu => by
    rw [giveUpRing_eq]
    unfold State.unclaimed
    rw [hu]
  have hhalt : ∀ (u w : State) (err : Nat), u.g SLOT_CFG.PASID q = s.g SLOT_CFG.PASID q → quietErr → u.gb Q_CFG.ERR_IRQ q = s.gb Q_CFG.ERR_IRQ q →
      u.setQueue q { u.queue q with cur := none, stale := 0, pre := none } = w.setQueue q { x with cur := none, stale := 0, pre := none } →
      u.haltQueue q err = halted w err := fun u w err hu hirq hx hset => by
    rw [haltQueue_quiet err (hx ▸ hirq), hunasked]
    · rw [hset]
    · exact hu
  have hfetch : ∀ (u : State) (ca : Nat), (u.queue q).accs = x.accs → plain → fetches u ca → u.queueGo q = asks u ca := by
    rintro u ca hacc hplain ⟨hcur, havail, haccs, hmay, hread, hva⟩
    exact queueGo_fetch (fun d hd => hplain d (hacc ▸ hd)) hcur havail haccs hmay hread hva
  refine ⟨?_, ?_, ?_⟩
  · intro hown v t
    refine ⟨?_, ?_, ?_, ?_⟩
    · intro hm told
      refine ⟨fun k hst htold hcur hplain hidle => ?_, fun k ca hst htold hplain hf => ?_, fun h hquiet => ?_⟩
      · refine host_calm (f := (·.dbSq p q v)) rfl hp hm ?_ ⟨rfl, rfl, rfl, rfl⟩ hq
        rw [dbSq_told hown hst htold, if_neg (Nat.not_lt.mpr hcur)]
        exact queueGo_plain _ q (by rw [State.queue_setQueue]; exact hplain) hidle
      · refine host_calm (f := (·.dbSq p q v)) rfl hp hm ?_ (calm_hostRead (s.setQueue q { x with avail := k }) _ _ _ _) hq
        have hcur : x.cur = none := by
          have := hf.1
          rwa [State.queue_setQueue] at this
        rw [dbSq_told hown (.inl hst) htold, if_neg (by rw [show (s.queue q).cur = none from hcur]; simp [b2n])]
        exact hfetch _ _ (by rw [State.queue_setQueue]) hplain hf
      · refine host_calm (f := (·.dbSq p q v)) rfl hp hm ?_ ⟨rfl, rfl, rfl, rfl⟩ hq
        rcases h with ⟨hst, htold⟩ | ⟨hst, k, htold, hcur⟩
        · rw [dbSq_wrong hown hst htold]
          exact hhalt s s 2 rfl hquiet rfl rfl
        · rw [dbSq_told hown hst htold, if_pos hcur]
          exact hhalt s s 2 rfl hquiet rfl rfl
    · intro hm hst told
      refine ⟨fun k hle htold hhold howed hplain hidle => ?_, fun h => ?_⟩
      · refine host_calm (f := (·.dbCq p q v)) rfl hp hm ?_ ⟨rfl, rfl, rfl, rfl⟩ hq
        rw [dbCq_told hown hst hle htold, flushRecs_none _ _ (by rw [State.queue_setQueue]; exact hhold) (by rw [State.queue_setQueue]; exact howed)]
        refine queueGo_plain _ q (by rw [State.queue_setQueue]; exact hplain) ?_
        exact noFetch_setQueue hidle rfl rfl rfl rfl
      · exact host_calm (f := (·.dbCq p q v)) rfl hp hm (dbCq_wrong hown hst h) ⟨rfl, rfl, rfl, rfl⟩ hq
    · intro hm
      refine ⟨fun hen hst hv hc1 hc2 hs1 hs2 => ?_, fun hen hv haccs => ?_⟩
      · refine host_calm (f := (·.queueEnable p q v)) rfl hp hm (queueEnable_sound hown hen hst hv ⟨hc1, hc2⟩ ⟨hs1, hs2⟩) ?_ hq
        exact (((((((((calm_qIrqWritten s q v).p _ _ _).p _ _ _).p _ _ _).p _ _ _).p _ _ _).p _ _ _).p _ _ _).p _ _ _).setQueue _ _
      · refine host_calm (f := (·.queueDisable p q v)) rfl hp hm ((queueDisable_empty hown hen hv haccs).trans ?_) ?_ hq
        · rw [hunasked _ (qIrqWritten_other _ _ _ _ (by decide))]
          rfl
        · have hcalm : s.CalmTo (unasked t) := (calm_qIrqWritten s q v).trans ⟨rfl, rfl, rfl, rfl⟩
          exact (((hcalm.trans (calm_forgetThose _ _ _)).setQueue _ _).p _ _ _).p _ _ _
    · intro hm hst hplain on
      refine ⟨fun hidle => ?_, fun ca hf => ?_⟩
      · refine host_calm (f := (·.queueResume p q)) rfl hp hm ((queueResume_halted hown hst).trans ?_) ⟨rfl, rfl, rfl, rfl⟩ hq
        exact queueGo_plain _ q (by rw [State.queue_setQueue]; exact hplain) hidle
      · refine host_calm (f := (·.queueResume p q)) rfl hp hm ((queueResume_halted hown hst).trans ?_)
          (State.CalmTo.trans (t := on) ⟨rfl, rfl, rfl, rfl⟩ (calm_hostRead _ _ _ _ _)) hq
        exact hfetch _ _ (by rw [State.queue_setQueue]) hplain hf
  · intro hst hinv haccs hhold howed
    exact act_calm (f := (·.queueDrained q)) rfl hp (queueDrained_done hst hinv haccs hhold howed) ((calm_forgetThose s q _).p _ _ _) hq
  · intro data r b hmay hcur hread hstable hload
    have hfetched := fetched_eq hread hstable hload
    refine ⟨fun hgen hlist hplain => ?_, fun hgen hstale hquiet => ?_⟩
    · have hgo : s.fetched q data = (s.dropReq r.tag).setQueue q { x with stale := 0, cur := some b } := by
        rw [hfetched, if_pos hgen]
        exact queueGo_fetched (by unfold State.PlainQueue; rw [State.queue_setQueue]; exact hplain) (by rw [State.queue_setQueue]) hlist
      refine ⟨fun hstale => ?_, fun hstale => ?_⟩
      · refine act_calm (f := (·.descFetch q data)) rfl hp ?_ ⟨rfl, rfl, rfl, rfl⟩ hq
        unfold State.descFetch
        rw [if_pos ⟨hcur, hstale⟩, if_pos hmay, hgo]
      · refine act_calm (f := (·.descRefetch q data)) rfl hp ?_ ⟨rfl, rfl, rfl, rfl⟩ hq
        unfold State.descRefetch
        rw [if_pos ⟨hcur, hstale⟩, if_pos hmay, hgo]
    · refine act_calm (f := (·.descRefetch q data)) rfl hp ?_ ⟨rfl, rfl, rfl, rfl⟩ hq
      unfold State.descRefetch
      rw [if_pos ⟨hcur, by rw [show (s.queue q).stale = 8 from hstale]; decide⟩, if_pos hmay, hfetched, if_neg hgen, if_pos hstale]
      exact hhalt _ _ 1 rfl hquiet rfl (by rw [State.queue_setQueue, setQueue_setQueue])

end Sys2Proof.Machine
end

section
/-!
# Descriptors in the order of the ring (05 R185 to R191)
-/
namespace Sys2Proof.Machine

section
variable {s : State} {q p : Nat} {b : Bytes}

/-! ### Accession -/

theorem headOn_inner (hwrap : s.g Q_STATUS.SQ_HEAD q + 1 ≠ 2 ^ s.g Q_CFG.SQ_LOG2 q) : s.headOn q =
    (s.p Q_STATUS.SQ_HEAD q (s.g Q_STATUS.SQ_HEAD q + 1)).setQueue q { s.queue q with avail := (s.queue q).avail - 1, cur := none, pre := none } := by
  unfold State.headOn
  dsimp only
  rw [if_neg hwrap, State.p_queue']

/-- A descriptor joins the accessioned ones of a queue that rests afterwards. -/
theorem accede_inner {d : Desc} (hwrap : s.g Q_STATUS.SQ_HEAD q + 1 ≠ 2 ^ s.g Q_CFG.SQ_LOG2 q)
    (hgo : ∀ t : State, t.slots = s.slots → t.queue q = { s.queue q with
      avail := (s.queue q).avail - 1, cur := none, pre := none, accs := (s.queue q).accs ++ [d] } → t.queueGo q = t) :
    s.accede q d = (s.p Q_STATUS.SQ_HEAD q (s.g Q_STATUS.SQ_HEAD q + 1)).setQueue q
      { s.queue q with avail := (s.queue q).avail - 1, cur := none, pre := none, accs := (s.queue q).accs ++ [d] } := by
  unfold State.accede
  dsimp only
  rw [headOn_inner hwrap, State.queue_setQueue, setQueue_setQueue]
  exact hgo _ rfl (State.queue_setQueue _ _ _)

theorem accession_remove {list : Bytes} (hcur : (s.queue q).cur = some b) (hmay : s.mayFetch q = true) (haccs : (s.queue q).accs.length < 4)
    (hok : s.bodyOk q b = true) (hop : descOp b = 3) : s.accession q list = s.accede q { bytes := b } := by
  unfold State.accession
  dsimp only
  rw [hcur]
  dsimp only
  rw [if_neg (by rw [hmay]; simp only [Bool.not_true, Bool.false_eq_true, false_or]; omega), if_neg (by rw [hok]; decide), if_neg (by omega),
    if_neg (by unfold hasBufs; rw [hop]; decide)]

theorem accession_unsound {list : Bytes} (hcur : (s.queue q).cur = some b) (hmay : s.mayFetch q = true) (haccs : (s.queue q).accs.length < 4)
    (hok : s.bodyOk q b = false) : s.accession q list = s.accede q { bytes := b, fail := some { status := 8 } } := by
  unfold State.accession
  dsimp only
  rw [hcur]
  dsimp only
  rw [if_neg (by rw [hmay]; simp only [Bool.not_true, Bool.false_eq_true, false_or]; omega), if_pos (by rw [hok]; rfl)]

theorem dueDateRow_accession (hcur : (s.queue q).cur = some b) (hmay : s.mayFetch q = true) (haccs : (s.queue q).accs.length < 4)
    (hok : s.bodyOk q b = true) (hop : descOp b = 4) (hpart : s.partOf q = some p) : s.dueDateRow q =
      (((s.headOn q).dueDesc p b).2.finishDesc q b
        (if ((s.headOn q).dueDesc p b).1 = 0 then { status := 0 } else { status := 0xB, detail := ((s.headOn q).dueDesc p b).1 }) [0, 0, 0, 0]).queueGo q := by
  unfold State.dueDateRow
  rw [hcur]
  dsimp only
  rw [if_pos hop]
  unfold State.accession
  dsimp only
  rw [hcur]
  dsimp only
  rw [if_neg (by rw [hmay]; simp only [Bool.not_true, Bool.false_eq_true, false_or]; omega), if_neg (by rw [hok]; decide), if_pos hop, hpart]

/-! ### Handles and folios -/

/-- Binding the handles of a request changes the handles of its slot. -/
theorem bindBufs_eq (s : State) (n : Nat) (bufs : List Buf) (epoch : Nat) : ∃ slots, s.bindBufs n bufs epoch = { s with slots := slots } ∧
    (∃ h, (s.bindBufs n bufs epoch).slot n = { s.slot n with handles := h }) ∧ ∀ m, m ≠ n → (s.bindBufs n bufs epoch).slot m = s.slot m := by
  refine foldl_keeps (fun t : State => ∃ slots, t = { s with slots := slots } ∧ (∃ h, t.slot n = { s.slot n with handles := h }) ∧
    ∀ m, m ≠ n → t.slot m = s.slot m) _ bufs s ⟨_, rfl, ⟨_, rfl⟩, fun m hm => rfl⟩ ?_
  rintro t y - ⟨slots, rfl, ⟨h, hn⟩, hm⟩
  refine ⟨_, rfl, ?_, fun m hne => ?_⟩
  · rw [State.slot_setSlot, hn]
    exact ⟨_, rfl⟩
  · rw [State.slot_setSlot_ne _ _ _ _ hne, hm m hne]

theorem bindBufs_setQueue (s : State) (n q : Nat) (y : QSt) (bufs : List Buf) (epoch : Nat) :
    (s.setQueue q y).bindBufs n bufs epoch = (s.bindBufs n bufs epoch).setQueue q y := by
  induction bufs generalizing s with
  | nil => rfl
  | cons x xs ih => exact ih (s.setSlot n { s.slot n with handles := tset (fun _ => none) (s.slot n).handles x.handle (some (bufHandle x epoch)) })

/-- A folio that is put in changes its slot, the stores of its carrels and the entries shown. -/
theorem putFolio_eq (s : State) (n : Nat) (f : Folio) (bufs : List Buf) (epoch : Nat) : ∃ slots store v,
    s.putFolio n f bufs epoch = ({ s with slots := slots, store := store } : State).p SLOT_STATUS.ENTRIES n v ∧
      ((s.putFolio n f bufs epoch).slot n).folios = (s.slot n).folios ++ [f] := by
  unfold State.putFolio
  dsimp only
  obtain ⟨slots, heq, ⟨h, hn⟩, -⟩ := bindBufs_eq (s.setSlot n { s.slot n with folios := (s.slot n).folios ++ [f] }) n bufs epoch
  rw [State.slot_setSlot] at hn
  have hstores : ∃ store, State.each ((s.setSlot n { s.slot n with folios := (s.slot n).folios ++ [f] }).bindBufs n bufs epoch)
      (carrelsOf (s.slot n).allot) (fun s c => s.setMem (s.phys c) (((s.mem (s.phys c)).write f.load f.lineBytes).write f.dataAddr f.dataBytes)) =
      { (s.setSlot n { s.slot n with folios := (s.slot n).folios ++ [f] }).bindBufs n bufs epoch with store := store } := by
    refine foldl_keeps (fun t : State => ∃ store, t = { (s.setSlot n { s.slot n with folios := (s.slot n).folios ++ [f] }).bindBufs n bufs epoch with
      store := store }) _ _ _ ⟨_, rfl⟩ ?_
    rintro t c - ⟨store, rfl⟩
    exact ⟨_, rfl⟩
  obtain ⟨store, hst⟩ := hstores
  rw [hst, heq]
  refine ⟨slots, store, _, rfl, ?_⟩
  rw [heq] at hn
  exact congrArg SlotSt.folios hn

theorem allocFrame_owner {fr : Nat} {u : State} (h : s.allocFrame p = some (fr, u)) : u = s.setOwner fr (p + 1) := by
  unfold State.allocFrame at h
  split at h
  · split at h
    · rw [Option.some.injEq, Prod.mk.injEq] at h
      rw [← h.2, h.1]
    · exact absurd h (by simp)
  · exact absurd h (by simp)

theorem remove_found {n entry i : Nat} {e : Entry} {f : Folio} (he : findEntry (s.slot n).folios entry = some (i, e)) (hf : (s.slot n).folios[i]? = some f) :
    s.remove n entry = ({ status := 0 }, ((s.setSlot n { s.slot n with
      folios := (s.slot n).folios.eraseIdx i, handles := (s.slot n).handles.filter fun h => decide (h.1 ∉ f.handles) }).p SLOT_STATUS.ENTRIES n
        ((f.entries.map (·.num)).foldl (fun m e => setBit m e false) (s.g SLOT_STATUS.ENTRIES n))).setOwner f.frame 0) := by
  unfold State.remove
  rw [he]
  dsimp only
  unfold State.removeFolio
  dsimp only
  rw [hf]
  rfl

/-- What a dispatch leaves of an entry that its source may start. -/
theorem dispatch_leaves {n entry trel i : Nat} {src : Source} {block : Bytes} {e : Entry} (hf : findEntry (s.slot n).folios entry = some (i, e))
    (ho : (match src with | .slip _ _ => e.bySlip | _ => e.byDesc) = true) :
    ∃ t, s.dispatch n entry src block trel = t ∧ s.CalmTo t ∧ t.g SLOT_STATUS.STATE n = 3 ∧ t.q = s.q ∧
      (t.slot n).inv = some ⟨src, entry, i, e.budget⟩ ∧ (t.slot n).handles = (s.slot n).handles ∧ (∀ m, m ≠ n → t.slot m = s.slot m) ∧
      ∀ c ∈ carrelsOf (s.slot n).allot, (t.carrel (s.phys c)).run = .waiting ∧ (t.carrel (s.phys c)).lp = e.start := by
  obtain ⟨car, st, heq, hcar⟩ := dispatch_spec s n entry src block trel i e hf ho
  refine ⟨_, heq, ⟨rfl, rfl, rfl, rfl⟩, State.g_p_self _ _ _ _ (by decide) (by decide) (by decide), rfl, ?_, ?_, fun m hne => ?_, fun c hmem => ?_⟩
  · rw [State.p_slot']
    exact congrArg SlotSt.inv (State.slot_setSlot s n _)
  · rw [State.p_slot']
    exact (congrArg SlotSt.handles (State.slot_setSlot s n _)).trans rfl
  · rw [State.p_slot']
    exact State.slot_setSlot_ne s _ _ _ hne
  obtain ⟨hrun, hlp, -⟩ := hcar c hmem
  exact ⟨hrun, hlp⟩

/-! ### The front descriptor -/

theorem retranslate_unmarked {d : Desc} (h : d.marked = false) : s.retranslate q d = (true, s) := by
  unfold State.retranslate
  rw [h]
  rfl

theorem runRow_front {d : Desc} (hl : (s.slot q).latch = none) (hc : (s.csOf q).call = none) (hd : s.frontDesc q 1 = some d) (hm : d.marked = false)
    (hidle : s.canDispatch q = true) {u v : State}
    (hu : u = (s.setQueue q { s.queue q with accs := (s.queue q).accs.drop 1 }).bindBufs q d.bufs (((s.queue q).accs.head?.map (·.epoch)).getD d.epoch))
    (hv : u.dispatch q (bits (le d.bytes 2 1) 2 0) (.desc d.bytes) (slice d.bytes 0x10 48 ++ slice d.bytes 8 8) u.time = v)
    (hinv : (v.slot q).inv ≠ none) : s.runRow q = v.intakeGo q := by
  unfold State.runRow
  rw [if_neg (by rw [hl, hc]; decide)]
  unfold State.runDesc
  rw [hd]
  dsimp only
  rw [if_neg (by rw [hidle]; rintro ⟨h, -⟩; exact absurd h (by decide)), retranslate_unmarked hm]
  dsimp only
  rw [if_neg (by rw [hidle]; decide), ← hu, hv]
  exact if_neg hinv

theorem removeRow_front {d : Desc} (hd : s.frontDesc q 3 = some d) (hfree : s.slotFree q = true) (hpre : s.preempted q = false)
    (himg : (s.slot q).imgJob = false) : s.removeRow q =
      ((s.remove q (bits (le d.bytes 2 1) 2 0)).2.endDesc q (s.remove q (bits (le d.bytes 2 1) 2 0)).1).queueGo q := by
  unfold State.removeRow
  rw [hd]
  dsimp only
  rw [if_neg (by rw [hfree, hpre, himg]; decide)]

theorem installRow_front {d : Desc} {r : HReq} {image g : Bytes} (hd : s.frontDesc q 2 = some d) (hpart : s.partOf q = some p)
    (hread : s.readOf (.image q) = some r) (hjob : (s.slot q).imgJob = true) (hm : d.marked = false)
    (hfree : (d.bufs.any fun y => decide (y.handle ∈ (s.slot q).folios.flatMap (·.handles) ++
      (((s.slot q).handles.filter fun e => e.2.any (·.remote)).map (·.1)))) = false)
    (hload : s.loadVa (le d.bytes 0x18 4 / 4096 + 2) p (s.g SLOT_CFG.PASID q) (le d.bytes 0x10 8) (le d.bytes 0x18 4)
      { source := 1, slot := q, aux := 3 } image [] false = (.ok 0, g, false, s)) {e : Ending} {t : State}
    (ht : s.install q g (le d.bytes 0x18 4) (fun k => (d.bytes.getD (0x20 + k) 0).toNat) d.bufs
      (((s.queue q).accs.head?.map (·.epoch)).getD d.epoch) = (e, t)) :
    s.installRow q image = (((t.dropReq r.tag).setSlot q { t.slot q with imgJob := false }).endDesc q e).queueGo q := by
  unfold State.installRow
  rw [hd, hpart]
  dsimp only
  rw [hread]
  dsimp only
  rw [if_neg (by rw [hjob]; decide), if_neg (by rw [hfree]; decide), retranslate_unmarked hm]
  dsimp only
  rw [hload]
  dsimp only
  rw [if_neg Bool.false_ne_true, ht]

/-- A front descriptor that ends while the completion ring is full leaves its record in the hold. -/
theorem endDesc_keeps {t : State} {e : Ending} {d : Desc} {ds : List Desc} (hacc : (s.queue q).accs = d :: ds) (hb : d.bytes = b) (hfull : s.RingFull q)
    (hrep : reports b e) (hqueue : t.queue q = s.queue q) (hreg : ∀ f j, f.reg ∈ [RegKind.Q_STATUS, .Q_CFG, .DEV_STATUS] → t.g f j = s.g f j) :
    (t.endDesc q e).queueGo q = t.setQueue q { s.queue q with
      accs := (s.queue q).accs.drop 1, lend := {}, re := none, hold := some (s.recOf q b e) } := by
  have hfull' : t.RingFull q := RingFull.of hfull (hreg _ _ (by decide)) (hreg _ _ (by decide)) (by rw [hqueue]) (by rw [hqueue]) (by rw [hqueue])
    (by unfold State.gb; rw [hreg _ _ (by decide)])
  rw [endDesc_hold (s := s) (t := t) (by rw [hqueue]; exact hacc) hb hfull' hrep (by unfold State.gb; rw [hreg _ _ (by decide)]) (hreg _ _ (by decide)),
    hqueue, hacc]
  rfl

end

/-- Settles O35: a full ring puts the record of the descriptor's end into the hold, where the queue rests. -/
theorem descriptorsInRingOrder : Obligations.DescriptorsInRingOrder := by
  intro s q p b hp hq hpart hq64 x keeps next
  refine ⟨fun hcur hmay haccs hwrap hhead => ⟨fun hok hop havail hplain => ?_, fun hok havail hrun => ?_,
    fun hok hop hfull hrep hcancel hcount hddp hddst hrole => ?_⟩, fun d ds hacc hb hfail hmark hrun hst hhold hserv => ?_⟩
  · refine act_to (f := (·.accession q [])) rfl hp ((accession_remove hcur hmay haccs hok hop).trans (accede_inner hwrap fun t _ ht => ?_))
      (State.quiet_of hq)
    refine queueGo_plain t q (fun d hd => ?_) (.inr (by rw [ht]; exact ⟨rfl, .inl (Nat.sub_eq_zero_of_le havail)⟩))
    rw [ht] at hd
    rcases List.mem_append.mp hd with hd | hd
    · exact hplain d hd
    · rw [List.mem_singleton.mp hd]
      exact ⟨rfl, by rw [hop]; decide⟩
  · refine act_to (f := (·.accession q [])) rfl hp ((accession_unsound hcur hmay haccs hok).trans (accede_inner hwrap fun t hslots ht => ?_))
      (State.quiet_of hq)
    exact queueGo_running t q ((descRunning_congr q hslots).trans hrun)
      (.inr (by rw [ht]; exact ⟨rfl, .inl (Nat.sub_eq_zero_of_le havail)⟩))
  · refine act_to (f := (·.dueDateRow q)) rfl hp ((dueDateRow_accession hcur hmay haccs hok hop hpart).trans ?_) (State.quiet_of hq)
    have hdue : (s.headOn q).dueDesc p b = (0, (s.headOn q).setDd ((s.part p).ddBase + le b 0x11 1) {}) := by
      rw [headOn_inner hwrap]
      exact dueDesc_cancel _ p b hcount hcancel hddp hddst hrole
    rw [hdue, headOn_inner hwrap]
    dsimp only
    have hfull' : (((s.p Q_STATUS.SQ_HEAD q (s.g Q_STATUS.SQ_HEAD q + 1)).setQueue q
        { s.queue q with avail := (s.queue q).avail - 1, cur := none, pre := none }).setDd ((s.part p).ddBase + le b 0x11 1) {}).RingFull q := by
      refine RingFull.of hfull ?_ (State.g_p_other _ _ _ _ _ _ (by decide)) ?_ ?_ ?_ (State.gb_p_other _ _ _ _ _ _ (by decide))
      · exact State.g_p_field _ _ _ _ _ rfl (by decide) (by decide) (by decide) (by decide)
      all_goals rw [State.setDd_queue', State.queue_setQueue]
    have hrec : ∀ i y, (((s.p Q_STATUS.SQ_HEAD q (s.g Q_STATUS.SQ_HEAD q + 1)).setQueue q y).setDd i {}).recOf q b { status := 0 } =
        s.recOf q b { status := 0 } := fun i y =>
      recOf_congr b _ (State.gb_p_other s _ _ _ _ _ (by decide)) (State.g_p_other s _ _ _ _ _ (by decide))
    rw [if_pos rfl, finishDesc_hold _ _ _ _ hfull' hrep, hrec, queueGo_hold _ _ (by rw [State.queue_setQueue]; exact Option.some_ne_none _),
      State.setDd_queue', State.queue_setQueue]
    exact setQueue_setQueue ((s.p Q_STATUS.SQ_HEAD q (s.g Q_STATUS.SQ_HEAD q + 1)).setDd ((s.part p).ddBase + le b 0x11 1) {}) q _ _
  · have hfront : ∀ op, descOp b = op → s.frontDesc q op = some d := fun op hop => frontDesc_eq hacc (hb ▸ hop) hfail hrun hst hhold hserv
    refine ⟨fun i e hop hl hc hcan hcur havail hfe hby => ?_, fun i e f hop hfull hrep hfree hpre himg hfe hf => ?_,
      fun r g image hop hfull hread hjob hfree hload => ?_⟩
    · have hhead : ((s.queue q).accs.head?.map (·.epoch)).getD d.epoch = d.epoch := by
        rw [show (s.queue q).accs = d :: ds from hacc]
        rfl
      obtain ⟨slots, hbind, ⟨h, hslot⟩, hother⟩ := bindBufs_eq s q d.bufs d.epoch
      have hu : (s.setQueue q { x with accs := ds }).bindBufs q d.bufs d.epoch = (s.bindBufs q d.bufs d.epoch).setQueue q { x with accs := ds } :=
        bindBufs_setQueue _ _ _ _ _ _
      have hslot' : ((s.bindBufs q d.bufs d.epoch).setQueue q { x with accs := ds }).slot q = { s.slot q with handles := h } := hslot
      have hphys : ∀ c, ((s.bindBufs q d.bufs d.epoch).setQueue q { x with accs := ds }).phys c = s.phys c :=
        State.phys_congr fun j => by rw [hbind]; rfl
      obtain ⟨v, heq, hcalm, hstate, hv, hinv, hhandles, hrest, hcar⟩ := dispatch_leaves (s := (s.bindBufs q d.bufs d.epoch).setQueue q { x with accs := ds })
        (entry := bits (le d.bytes 2 1) 2 0) (src := .desc d.bytes) (block := slice d.bytes 0x10 48 ++ slice d.bytes 8 8)
        (trel := ((s.bindBufs q d.bufs d.epoch).setQueue q { x with accs := ds }).time) (by rw [hslot', hb]; exact hfe) hby
      have hqueue : v.queue q = { x with accs := ds } := by
        unfold State.queue
        rw [hv]
        exact tget_tset_same _ _ _ _
      have hrow := runRow_front (s := s) (q := q) (d := d) hl hc (hfront 1 hop) hmark hcan (u := (s.bindBufs q d.bufs d.epoch).setQueue q { x with accs := ds })
        (by rw [hhead, show (s.queue q).accs = d :: ds from hacc]; exact hu.symm) heq (by rw [hinv]; exact Option.some_ne_none _)
      rw [intakeGo_idle _ _ (.inr (by rw [hqueue]; exact ⟨hcur, .inl havail⟩))] at hrow
      have hbound : s.CalmTo ((s.bindBufs q d.bufs d.epoch).setQueue q { x with accs := ds }) := by
        rw [hbind]
        exact ⟨rfl, rfl, rfl, rfl⟩
      refine ⟨_, act_calm (f := (·.runRow q)) rfl hp hrow (hbound.trans hcalm) hq, ?_, ?_, ?_, ?_, fun c hmem => ?_, fun m hne => ?_⟩
      · rw [State.lines_g', hstate]
      · rw [State.lines_queue', hqueue]
      · rw [State.lines_slot', hinv, hb]
      · rw [State.lines_slot', hhandles, State.setQueue_slot']
      · rw [State.lines_carrel', ← hphys c]
        exact hcar c (by rw [hslot']; exact hmem)
      · rw [State.lines_slot', hrest m hne]
        exact hother m hne
    · intro z
      have hrow := removeRow_front (hfront 3 hop) hfree hpre himg
      rw [remove_found (hb.symm ▸ hfe) hf] at hrow
      refine act_to (f := (·.removeRow q)) rfl hp (hrow.trans ?_) (State.quiet_of hq)
      dsimp only
      refine endDesc_keeps hacc hb hfull hrep rfl fun f' j hf' => ?_
      exact State.g_p_other _ _ _ _ _ _ (by rintro h; rw [h] at hf'; exact absurd hf' (by decide))
    · intro m code
      have hhead : ((s.queue q).accs.head?.map (·.epoch)).getD d.epoch = d.epoch := by
        rw [show (s.queue q).accs = d :: ds from hacc]
        rfl
      rw [← hb] at hload
      have hrow : ∀ {e : Ending} {t : State}, _ → _ := fun {e t} => installRow_front (p := p) (e := e) (t := t) (hfront 2 hop) hpart hread hjob hmark hfree hload
      rw [hhead] at hrow
      refine ⟨fun hcode => ?_, fun fr u hcode hrep halloc => ?_⟩
      · have hinst : s.install q g (le d.bytes 0x18 4) (fun k => (d.bytes.getD (0x20 + k) 0).toNat) d.bufs d.epoch = ({ status := 9, detail := code }, s) := by
          unfold State.install
          dsimp only
          rw [hb]
          exact if_pos hcode
        refine act_to (f := (·.installRow q image)) rfl hp ((hrow hinst).trans ?_) (State.quiet_of hq)
        exact endDesc_keeps hacc hb hfull (.inr (Nat.succ_ne_zero 8)) rfl fun f j _ => rfl
      · intro t
        have howner := allocFrame_owner halloc
        obtain ⟨slots, store, v, hput, hfolios⟩ := putFolio_eq u q (folioOf g m (d.bufs.map (·.handle)) fr) d.bufs d.epoch
        refine ⟨hfolios.trans (by rw [howner]; rfl), ?_⟩
        have hinst : s.install q g (le d.bytes 0x18 4) (fun k => (d.bytes.getD (0x20 + k) 0).toNat) d.bufs d.epoch = ({ status := 0 }, t) := by
          unfold State.install
          dsimp only
          rw [hb, if_neg (not_not.mpr hcode), hpart]
          dsimp only
          rw [halloc]
        have hcalm : s.CalmTo t := by
          rw [show t = _ from hput, howner]
          exact ⟨rfl, rfl, rfl, rfl⟩
        refine act_calm (f := (·.installRow q image)) rfl hp ((hrow hinst).trans ?_) (hcalm.trans ⟨rfl, rfl, rfl, rfl⟩) hq
        · refine endDesc_keeps hacc hb hfull hrep ?_ fun f j hf => ?_
          · show t.queue q = _
            rw [show t = _ from hput, howner]
            rfl
          · show t.g f j = _
            rw [show t = _ from hput, howner]
            exact State.g_p_other _ _ _ _ _ _ (by rintro h; rw [h] at hf; exact absurd hf (by decide))

end Sys2Proof.Machine
end

section
/-!
# The host link (06 R199 to R204, R213)
-/
namespace Sys2Proof.Machine

section
variable {s : State}

theorem linkTrain_free {good repaired : Nat} (hmay : s.mayTrain = true) (hheld : s.dev.held = false) : s.linkTrain good repaired =
    if modulesFor s.arec.maxModules good = [] then { s with link := { s.link with failed := true } }
    else
      let t := (s.setModules (modulesFor s.arec.maxModules good)).p IDV_LINK.REPAIRED 0 repaired
      { t with link := { t.link with up := true, failed := false, intx := false } } := by
  unfold State.linkTrain
  rw [hmay, hheld]
  rfl

/-- Receiver Error stands in the AER of every function, Physical Layer Error in the RAS capability. -/
def State.errMarked (s : State) : State :=
  let a := (List.range (s.partCount + 1)).foldl (fun s f => s.setFn f { s.fn f with aerCor := setBit (s.fn f).aerCor 0 true }) s
  { a with link := { a.link with ras := a.link.ras.write 0x110C (natLe 4 (setBit (a.link.ras.le 0x110C 4) 6 true)) } }

theorem errMarked_eq (s : State) : ∃ fns ras, s.errMarked = { s with fns := fns, link := { s.link with ras := ras } } ∧
    ∀ f, (s.errMarked.fn f).aerCorMask = (s.fn f).aerCorMask := by
  have hfold : ∃ fns, (List.range (s.partCount + 1)).foldl (fun s f => s.setFn f { s.fn f with aerCor := setBit (s.fn f).aerCor 0 true }) s =
      { s with fns := fns } ∧ ∀ f, (({ s with fns := fns } : State).fn f).aerCorMask = (s.fn f).aerCorMask := by
    refine foldl_keeps (fun t : State => ∃ fns, t = { s with fns := fns } ∧ ∀ f, (({ s with fns := fns } : State).fn f).aerCorMask =
      (s.fn f).aerCorMask) _ _ s ⟨_, rfl, fun _ => rfl⟩ ?_
    rintro t g - ⟨fns, rfl, hmask⟩
    refine ⟨_, rfl, fun f => ?_⟩
    by_cases hf : f = g
    · subst hf
      exact (congrArg FnSt.aerCorMask (State.fn_setFn _ _ _)).trans (hmask f)
    · exact (congrArg FnSt.aerCorMask (State.fn_setFn_ne _ _ _ _ hf)).trans (hmask f)
  obtain ⟨fns, heq, hmask⟩ := hfold
  unfold State.errMarked
  rw [heq]
  exact ⟨fns, _, rfl, hmask⟩

theorem linkErr_eq (hup : s.link.up = true) : s.linkErr =
    if s.gb DEV_STATUS.SAFE = false ∧ bit (s.fn 0).aerCorMask 0 = false then s.errMarked.emit (.errMsg 0 0) else s.errMarked := by
  obtain ⟨fns, ras, heq, hmask⟩ := errMarked_eq s
  have hlink : s.errMarked.link.up = true := by rw [heq]; exact hup
  have hsafe : s.errMarked.gb DEV_STATUS.SAFE = s.gb DEV_STATUS.SAFE := by rw [heq]; rfl
  have hdef : s.linkErr = if s.errMarked.link.up = true ∧ (!s.errMarked.gb DEV_STATUS.SAFE) = true ∧ (!bit (s.errMarked.fn 0).aerCorMask 0) = true then
    s.errMarked.emit (.errMsg 0 0) else s.errMarked := rfl
  rw [hdef, hlink, hsafe, hmask]
  simp only [true_and, Bool.not_eq_true']

theorem calm_linkErr (s : State) : s.CalmTo s.linkErr ∧ ∀ k j, s.linkErr.reg k j = s.reg k j := by
  obtain ⟨fns, ras, heq, -⟩ := errMarked_eq s
  have hcases : s.linkErr = s.errMarked ∨ s.linkErr = s.errMarked.emit (.errMsg 0 0) := by
    show (if _ then s.errMarked.emit (.errMsg 0 0) else s.errMarked) = _ ∨ (if _ then s.errMarked.emit (.errMsg 0 0) else s.errMarked) = _
    split
    · exact .inr rfl
    · exact .inl rfl
  rcases hcases with h | h
  · rw [h, heq]
    exact ⟨⟨rfl, rfl, rfl, rfl⟩, fun _ _ => rfl⟩
  · rw [h, heq]
    exact ⟨⟨rfl, rfl, rfl, rfl⟩, fun _ _ => rfl⟩

theorem linkNarrow_inner {m : Nat} (hup : s.link.up = true) (hm : m ∈ s.link.modules) (hone : s.link.modules.length ≠ 1) : s.linkNarrow m =
    ((s.setModules (modulesFor (s.link.modules.length / 2) (ofBits 4 fun k => decide (k ∈ s.link.modules) && decide (k ≠ m)))).countRetrain.linkErr).raise
      { source := srcId 5 m 1 } := by
  unfold State.linkNarrow
  exact if_neg (by rw [hup]; simp [hm, hone])

theorem countRetrain_reg (s : State) {k : RegKind} (hk : k ≠ .IDV_LINK) (j : Nat) : s.countRetrain.reg k j = s.reg k j :=
  State.reg_p_other s IDV_LINK.RETRAINS k 0 j _ hk

theorem setModules_reg (s : State) (ms : List Nat) {k : RegKind} (hk : k ≠ .IDV_LINK) (j : Nat) : (s.setModules ms).reg k j = s.reg k j := by
  unfold State.setModules
  dsimp only
  rw [State.reg_p_other _ _ _ _ _ _ hk, State.reg_p_other _ _ _ _ _ _ hk]
  rfl

/-- A reset by the link out of SERVICE, TEST or SAFE. -/
theorem resetNow_link {cause : Nat} (hst : s.g DEV_STATUS.STATE = 4 ∨ s.g DEV_STATUS.STATE = 5 ∨ s.g DEV_STATUS.STATE = 7) (hlc : s.dev.lcStep = 0)
    (hheld : s.dev.held = false) : s.resetNow cause 0 false = ((s.recover cause 0 kLink).tallyReset 1).romGo := by
  unfold State.resetNow State.takeReset
  dsimp only
  rw [hlc, hheld, if_neg (by decide), if_neg (by decide), if_neg (by simp), if_neg (by simp), if_pos hst]
  rfl

end

/-- What a reset of kind LINK-LOSS leaves of a device that was up, and what it does not touch. -/
def State.LinkLost (t s : State) (cause : Nat) : Prop :=
  t.g DEV_STATUS.STATE = 6 ∧ t.g RESET_CAUSE.CAUSE = cause ∧ t.gb RESET_CAUSE.WAS_SAFE = s.gb DEV_STATUS.SAFE ∧
    t.link.up = false ∧ t.slots = [] ∧ t.q = [] ∧ t.cs = [] ∧ t.xl = [] ∧ t.fns = [] ∧ t.coh = {} ∧ t.net = [] ∧ t.nic = {} ∧
    t.dev.archRun = false ∧ t.dev.deskRun = false ∧ t.dev.resetRun = true ∧
    (∀ w < 32, t.g WING_STATUS.STATE w = 1 ∨ t.g WING_STATUS.STATE w = 3) ∧
    t.store = s.store ∧ t.dmem.dram = s.dmem.dram ∧ t.lend = s.lend ∧ t.dd = s.dd ∧ t.arec = s.arec ∧ t.nvm = s.nvm ∧ t.fuses = s.fuses

/-- The reset is counted, and the interrupt outputs follow it. -/
theorem linkLost_row {s t : State} {row : Instr} {cause : Nat} {f : State → State} (hr : exec row s = act s f) (hp : s.Powered)
    (hf : f s = (t.tallyReset 1).romGo) (hstart : s.dev.started = true)
    (ht : (t.Quiet ∧ t.pending = s.pending ∧ t.dev.cold = s.dev.cold ∧ t.dev.started = s.dev.started) ∧ t.LinkLost s cause) :
    ∃ u : State, exec row s = .next u ∧ u.LinkLost s cause := by
  obtain ⟨⟨hquiet, hpend, hcold, hstarted⟩, hlost⟩ := ht
  have hgo : (t.tallyReset 1).romGo = t.tallyReset 1 := if_pos (hstarted.trans hstart)
  obtain ⟨l, o, x, hl⟩ := (t.tallyReset 1).lines_eq
  refine ⟨_, act_to hr hp (hf.trans hgo) hquiet hpend hcold, ?_⟩
  rw [hl]
  exact hlost

/-- The resets by the link, with the cause that each reports. -/
theorem linkReset_row {s : State} {row : Instr} {cause : Nat} (hp : s.Powered) (hq : s.Quiet)
    (hrow : (row, cause) ∈ [(Instr.linkDown, 3), (Instr.hotReset, 4), (Instr.sidebandHostReset, 5)])
    (hst : s.g DEV_STATUS.STATE = 4 ∨ s.g DEV_STATUS.STATE = 5 ∨ s.g DEV_STATUS.STATE = 7) (hlc : s.dev.lcStep = 0) (hheld : s.dev.held = false)
    (hstart : s.dev.started = true) (hmap : s.dmem.mapout = none) : ∃ u : State, exec row s = .next u ∧ u.LinkLost s cause := by
  have hrun : exec row s = act s (·.resetNow cause 0 false) ∧ cause < 16 := by
    simp only [List.mem_cons, Prod.mk.injEq, List.not_mem_nil, or_false] at hrow
    rcases hrow with ⟨rfl, rfl⟩ | ⟨rfl, rfl⟩ | ⟨rfl, rfl⟩
    all_goals exact ⟨rfl, by decide⟩
  exact linkLost_row hrun.1 hp (resetNow_link hst hlc hheld) hstart (recover_spec s cause hrun.2 hq hmap)

/-- Settles O37: what training, a retrain and a narrower width change; a reset by the link recovers the device. -/
theorem hostLinkAndItsResets : Obligations.HostLinkAndItsResets := by
  intro s hp hq use retrained
  have hretrained : ∀ u : State, u.link.up = true → u.countRetrain.linkErr = retrained u := fun u hup => by
    have hsafe : u.countRetrain.gb DEV_STATUS.SAFE = u.gb DEV_STATUS.SAFE := State.gb_p_other u _ _ _ _ _ (by decide)
    rw [linkErr_eq (s := u.countRetrain) hup, hsafe]
    rfl
  have hcalm : ∀ u : State, u.link.up = true → u.CalmTo (retrained u) := fun u hup => by
    rw [← hretrained u hup]
    exact State.CalmTo.trans (t := u.countRetrain) ⟨rfl, rfl, rfl, rfl⟩ (calm_linkErr _).1
  refine ⟨fun good repaired hmay hheld => ?_, fun hup => ?_, fun m hup hm hone hrec => ?_, fun row cause hrow hst hlc hheld hstart hmap => ?_⟩
  · intro ms t up
    have htrain : ms ≠ [] → s.linkTrain good repaired = up := fun hne => (linkTrain_free hmay hheld).trans (if_neg hne)
    refine ⟨fun hne => ?_, fun hnil => ?_, fun hne hfailed => ?_⟩
    · exact act_calm (f := (·.linkTrain good repaired)) rfl hp (htrain hne) ⟨rfl, rfl, rfl, rfl⟩ hq
    · exact act_calm (f := (·.linkTrain good repaired)) rfl hp ((linkTrain_free hmay hheld).trans (if_pos hnil)) ⟨rfl, rfl, rfl, rfl⟩ hq
    · exact act_calm (f := (·.linkRetry good repaired)) rfl hp ((if_pos hfailed).trans (htrain hne)) ⟨rfl, rfl, rfl, rfl⟩ hq
  · exact act_calm (f := State.linkRetrain) rfl hp ((if_pos hup).trans (hretrained s hup)) (hcalm s hup) hq
  · have hnarrow := linkNarrow_inner hup hm hone
    have huse : ∀ ms, s.setModules ms = use s ms := fun _ => rfl
    have hret : ∀ ms, (use s ms).countRetrain.linkErr = retrained (use s ms) := fun ms => hretrained (use s ms) hup
    rw [huse, hret] at hnarrow
    have hreg : ∀ ms k j, k ≠ .IDV_LINK → (retrained (use s ms)).reg k j = s.reg k j := fun ms k j hk => by
      rw [← hret, (calm_linkErr _).2]
      exact (countRetrain_reg _ hk j).trans (setModules_reg s ms hk j)
    have hcalm' : ∀ ms, s.CalmTo (retrained (use s ms)) := fun ms => State.CalmTo.trans (t := use s ms) ⟨rfl, rfl, rfl, rfl⟩ (hcalm (use s ms) hup)
    obtain ⟨h1, h2, h3, h4⟩ := hcalm' (modulesFor (s.link.modules.length / 2) (ofBits 4 fun k => decide (k ∈ s.link.modules) && decide (k ≠ m)))
    exact act_raise (f := (·.linkNarrow m)) rfl hp hnarrow ⟨h1.trans hq.1, h2.trans hq.2⟩
      (State.recorded_congr hrec fun k j hk => hreg _ k j (by rintro rfl; exact absurd hk (by decide))) h4 h3
  · exact linkReset_row hp hq hrow hst hlc hheld hstart hmap

end Sys2Proof.Machine
end

section
/-!
# Port cages (06 R215 to R217)
-/
namespace Sys2Proof.Machine

set_option Elab.async false

/-- Cage 0 has reported a change of presence, its interrupt is enabled, and the in-band interrupt of it has been raised. -/
def cageRaised : State :=
  let s := ((Tests.dev.p CAGE_STATUS.PRES_CHANGED 0 1).p CAGE_CTL.PRES_IE 0 1).setReg .MGMT_INT_ENABLE 0 4
  { s with port := { s.port with raised := true }, link := { s.link with intx := true } }

/-- A write of `CAGE_CTL` that takes the enable away ends the interrupt, and the port with it. -/
theorem cageRaised_lowered : ∀ t, exec (.cageCtlWrite 0 0) cageRaised = .next t → t.port ≠ cageRaised.port := by
  intro t ht
  obtain rfl : Tests.after (exec (.cageCtlWrite 0 0) cageRaised) = t := congrArg Tests.after ht
  decide +kernel

/-- Refutes O39: it asks that a write of `CAGE_CTL` leaves the state of the side ports, but an enable that is cleared in `cageRaised` ends the in-band
interrupt that the port has signalled (16 R543). -/
theorem not_cages : ¬ Obligations.Cages := by
  intro h
  obtain ⟨hctl, -⟩ := h cageRaised (by unfold State.Powered; decide +kernel) (by unfold State.Quiet; decide +kernel)
  obtain ⟨t, ht, -, -, -, -, -, -, -, -, -, -, hport⟩ := hctl 0 0 (by decide) (by decide +kernel) (fun _ => .inr (by decide))
  exact cageRaised_lowered t ht hport

end Sys2Proof.Machine
end

section
/-!
# The power cap, operating points and droop (11 R398 to R409)
-/
namespace Sys2Proof.Machine

/-- A field written in the copies of a register below `n`. -/
theorem foldl_p (s : State) (f : Fld) (hf : f.lo ≤ f.hi) (h64 : f.hi < 64) (v : Nat → Nat) (n : Nat) (hn : n ≤ 65536) :
    (∃ r, (List.range n).foldl (fun s w => s.p f w (v w)) s = { s with rf := r }) ∧
    (∀ k j, k ≠ f.reg → ((List.range n).foldl (fun s w => s.p f w (v w)) s).reg k j = s.reg k j) ∧
    ∀ w < n, ((List.range n).foldl (fun s w => s.p f w (v w)) s).g f w = v w % 2 ^ (f.hi + 1 - f.lo) := by
  induction n with
  | zero => exact ⟨⟨_, rfl⟩, fun _ _ _ => rfl, fun w hw => absurd hw (Nat.not_lt_zero w)⟩
  | succ n ih =>
    obtain ⟨h1, h2, h3⟩ := ih (by omega)
    rw [List.range_succ, List.foldl_append]
    refine ⟨regs_p h1 f n (v n), fun k j hk => ?_, fun w hw => ?_⟩
    · exact (State.reg_p_other _ _ _ _ _ _ hk).trans (h2 k j hk)
    · by_cases hwn : w = n
      · subst hwn
        exact State.g_p _ _ _ _ hf h64
      · refine (State.g_p_reg _ _ _ _ _ _ (.inr ?_)).trans (h3 w (by omega))
        omega

/-- Division rounded up. -/
theorem div_up_eq_ceil (m p : Nat) (hp : 0 < p) : (m + p - 1) / p = ⌈(m : ℚ) / p⌉₊ := by
  refine eq_of_forall_ge_iff fun c => ?_
  rw [Nat.ceil_le, div_le_iff₀ (by exact_mod_cast hp), Nat.div_le_iff_le_mul_add_pred hp]
  norm_cast
  rw [Nat.mul_comm p c]
  omega

/-- The step of the cap density, as R401 has it. -/
theorem capStep_eq (d p cap hyst : Nat) : capStep d p cap hyst =
    if 26000 < p then 15 else if 10 * cap < p then min 15 (d + ⌈16 * ((p : ℚ) - 10 * cap) / p⌉₊)
    else if p + 100 * hyst < 10 * cap then d - 1 else d := by
  unfold capStep
  split
  · rfl
  · split
    · rename_i h
      have hcast : 16 * ((p : ℚ) - 10 * cap) / p = ((16 * (p - 10 * cap) : Nat) : ℚ) / (p : Nat) := by
        rw [Nat.cast_mul, Nat.cast_sub h.le]
        norm_num
      rw [hcast, div_up_eq_ceil _ _ (Nat.zero_lt_of_lt h)]
    · rfl

section
variable {s : State}

theorem pinRow_powered {level f : State → State} (hp : s.Powered) : pinRow s level f = act s f := by
  obtain ⟨hcold, hoff⟩ := hp
  unfold pinRow
  rw [hcold, hoff]
  rfl

theorem capLoop_met (p : Nat) (h : s.gb PWR_STATUS.CAP_UNMET = false) :
    s.capLoop p = { s with pwr := { s.pwr with capD := capStep s.pwr.capD p s.capEff (s.g PWR_CAP.HYST) } } := by
  unfold State.capLoop
  rw [h]
  rfl

theorem capInFall_met (h : s.gb PWR_STATUS.CAP_UNMET = false) : s.capInFall = { s.p PWR_EVENTS.CAP_IN_ASSERTED 0 1 with
    pwr := { s.pwr with capIn := true, capD := capStep s.pwr.capD s.pwr.pin (min (s.g PWR_CAP.CAP_W) (s.g PWR_CAP.EMERG_W)) (s.g PWR_CAP.HYST) } } := by
  have hcap : ((s.capPin true).p PWR_EVENTS.CAP_IN_ASSERTED 0 1).capEff = min (s.g PWR_CAP.CAP_W) (s.g PWR_CAP.EMERG_W) := by
    unfold State.capEff
    rw [if_pos (.inr rfl), State.g_p_other _ _ _ _ _ _ (by decide), State.g_p_other _ _ _ _ _ _ (by decide)]
    rfl
  have hhyst : ((s.capPin true).p PWR_EVENTS.CAP_IN_ASSERTED 0 1).g PWR_CAP.HYST = s.g PWR_CAP.HYST := State.g_p_other (s.capPin true) _ _ _ _ _ (by decide)
  unfold State.capInFall
  rw [capLoop_met _ ((State.gb_p_other (s.capPin true) _ _ _ _ _ (by decide)).trans h), hcap, hhyst]
  rfl

/-- While the cap can be met the watch only counts. -/
theorem capWatch_met {p : Nat} (h : s.gb PWR_STATUS.CAP_UNMET = false) (hp : p ≤ 10 * s.capEff ∨ s.pwr.cur ≠ 7 ∨ s.allAt15 = false) :
    ∃ b, s.capWatch p = { s with pwr := { s.pwr with above := 0, below := b } } := by
  have habove : (if (decide (10 * s.capEff < p)) = true ∧ s.pwr.cur = 7 ∧ s.allAt15 = true then s.pwr.above + 1 else 0) = 0 := by
    refine if_neg ?_
    rintro ⟨h1, h2, h3⟩
    rw [decide_eq_true_eq] at h1
    rcases hp with hp | hp | hp
    · omega
    · exact hp h2
    · rw [hp] at h3
      exact absurd h3 Bool.false_ne_true
  unfold State.capWatch
  dsimp only
  rw [habove]
  refine ⟨_, (if_neg ?_).trans (if_neg (by decide))⟩
  exact ne_true_of_eq_false h

/-- What a sound sample leaves before the loop runs on it. -/
def State.sampled (s : State) (x : PwrSample) : State :=
  let u := (List.range 32).foldl (fun s w => s.p WING_PWR_STATUS.POWER w (x.wings.getD w 0)) s
  let u := u.p PWR_ENERGY.MJ 0 (u.g PWR_ENERGY.MJ + (u.pwr.rest + x.pin) / 10000)
  let u := if decide (26000 < x.pin) then u.p PWR_EVENTS.CEILING 0 1 else u
  { u with pwr := { u.pwr with
    vin := x.vin, iin := x.iin, pin := x.pin, rest := (s.pwr.rest + x.pin) % 10000, ceiling := decide (26000 < x.pin),
    densSum := u.pwr.densSum + u.densityMax, densN := u.pwr.densN + 1, densAny := u.pwr.densAny || decide (u.densityMax ≠ 0),
    high := max u.pwr.high x.pin } }

theorem sampled_eq (s : State) (x : PwrSample) : (∃ r sum n any high, s.sampled x = { s with rf := r, pwr := { s.pwr with
      vin := x.vin, iin := x.iin, pin := x.pin, rest := (s.pwr.rest + x.pin) % 10000, ceiling := decide (26000 < x.pin),
      densSum := sum, densN := n, densAny := any, high := high } }) ∧
    (∀ k j, k ∉ [RegKind.WING_PWR_STATUS, .PWR_ENERGY, .PWR_EVENTS] → (s.sampled x).reg k j = s.reg k j) ∧
    (∀ w < 32, (s.sampled x).g WING_PWR_STATUS.POWER w = x.wings.getD w 0 % 65536) ∧
    (s.sampled x).g PWR_ENERGY.MJ = (s.g PWR_ENERGY.MJ + (s.pwr.rest + x.pin) / 10000) % 2 ^ 64 ∧
    (s.sampled x).g PWR_EVENTS.CEILING = (if 26000 < x.pin then 1 else s.g PWR_EVENTS.CEILING) := by
  obtain ⟨⟨r, hr⟩, hreg, hpow⟩ := foldl_p s WING_PWR_STATUS.POWER (by decide) (by decide) (fun w => x.wings.getD w 0) 32 (by decide)
  unfold State.sampled
  dsimp only
  generalize (List.range 32).foldl (fun s w => s.p WING_PWR_STATUS.POWER w (x.wings.getD w 0)) s = u at *
  subst hr
  have hmj : ({ s with rf := r } : State).g PWR_ENERGY.MJ = s.g PWR_ENERGY.MJ := by unfold State.g; rw [hreg _ _ (by decide)]
  have hceil : ({ s with rf := r } : State).g PWR_EVENTS.CEILING = s.g PWR_EVENTS.CEILING := by unfold State.g; rw [hreg _ _ (by decide)]
  have hother : ∀ k j v, k ∉ [RegKind.WING_PWR_STATUS, .PWR_ENERGY, .PWR_EVENTS] →
      (({ s with rf := r } : State).p PWR_ENERGY.MJ 0 v).reg k j = s.reg k j := fun k j v hk => by
    simp only [List.mem_cons, List.not_mem_nil, or_false, not_or] at hk
    obtain ⟨h1, h2, -⟩ := hk
    rw [State.reg_p_other _ _ _ _ _ _ h2, hreg k j h1]
  by_cases hc : 26000 < x.pin
  · rw [decide_eq_true hc, if_pos rfl, if_pos hc]
    refine ⟨⟨_, _, _, _, _, rfl⟩, fun k j hk => ?_, fun w hw => ?_, ?_, ?_⟩
    · have hk' : k ≠ .PWR_EVENTS := by rintro rfl; exact hk (by decide)
      exact (State.reg_p_other _ _ _ _ _ _ hk').trans (hother k j _ hk)
    · refine (State.g_p_other _ _ _ _ _ _ (by decide)).trans ((State.g_p_other _ _ _ _ _ _ (by decide)).trans (hpow w hw))
    · refine (State.g_p_other _ _ _ _ _ _ (by decide)).trans ((State.g_p _ _ _ _ (by decide) (by decide)).trans ?_)
      rw [hmj]
      rfl
    · exact State.g_p_self _ _ _ _ (by decide) (by decide) (by decide)
  · rw [decide_eq_false hc, if_neg Bool.false_ne_true, if_neg hc]
    refine ⟨⟨_, _, _, _, _, rfl⟩, fun k j hk => hother k j _ hk, fun w hw => ?_, ?_, ?_⟩
    · exact (State.g_p_other _ _ _ _ _ _ (by decide)).trans (hpow w hw)
    · refine (State.g_p _ _ _ _ (by decide) (by decide)).trans ?_
      rw [hmj]
      rfl
    · exact (State.g_p_other _ _ _ _ _ _ (by decide)).trans hceil

theorem powerSample_ok {x : PwrSample} (h : x.ok = true) : s.powerSample x = ((s.sampled x).capWatch x.pin).capLoop x.pin := by
  unfold State.powerSample State.sampled
  rw [h]
  rfl

/-- The policy's rules for a step (R406), over the mean density of the period. -/
theorem opPolicy_avg_iff : (s.pwr.densN ≠ 0 ∧ s.g PWR_POLICY.DOWN_D * s.pwr.densN ≤ s.pwr.densSum) ↔
    s.pwr.densN ≠ 0 ∧ (s.g PWR_POLICY.DOWN_D : ℚ) ≤ s.pwr.densSum / s.pwr.densN := by
  refine and_congr_right fun hn => ?_
  rw [le_div_iff₀ (by exact_mod_cast Nat.pos_of_ne_zero hn)]
  exact_mod_cast Iff.rfl

theorem opPolicy_below (h : s.pwr.cur < s.g PWR_OP.TARGET) : s.opPolicy = some false := if_pos h

theorem opPolicy_dense (h : s.g PWR_OP.TARGET ≤ s.pwr.cur) (hc : s.pwr.cur < 7)
    (ha : s.pwr.densN ≠ 0 ∧ (s.g PWR_POLICY.DOWN_D : ℚ) ≤ s.pwr.densSum / s.pwr.densN) : s.opPolicy = some false := by
  obtain ⟨hn, hd⟩ := opPolicy_avg_iff.mpr ha
  unfold State.opPolicy
  dsimp only
  rw [if_neg (Nat.not_lt.mpr h), if_pos ⟨hn, hd, hc⟩]

/-- Without a step down for the density the policy looks at the power. -/
theorem opPolicy_rest (h : s.g PWR_OP.TARGET ≤ s.pwr.cur)
    (ha : s.pwr.cur < 7 → ¬ (s.pwr.densN ≠ 0 ∧ (s.g PWR_POLICY.DOWN_D : ℚ) ≤ s.pwr.densSum / s.pwr.densN)) : s.opPolicy =
      if s.pwr.densN ≠ 0 ∧ (!s.pwr.densAny) = true ∧ s.g PWR_OP.TARGET < s.pwr.cur ∧
        s.pwr.high * opClock (s.pwr.cur - 1) + 100 * s.g PWR_CAP.HYST * opClock s.pwr.cur ≤ 10 * s.capEff * opClock s.pwr.cur then some true else none := by
  unfold State.opPolicy
  dsimp only
  rw [if_neg (Nat.not_lt.mpr h), if_neg]
  rintro ⟨hn, hd, hc⟩
  exact ha hc (opPolicy_avg_iff.mp ⟨hn, hd⟩)

theorem opPeriod_free (hstep : s.pwr.step = none) (hrun : s.dev.archRun = true) : s.opPeriod =
    { s with pwr := { s.pwr with step := s.opPolicy, densSum := 0, densN := 0, densAny := decide (s.densityMax ≠ 0), high := 0 } } := by
  unfold State.opPeriod
  dsimp only
  rw [if_pos ⟨hstep, hrun⟩]

end

/-- Settles O54: the cap loop steps its density as R401 says; the other rows are their rules written out. -/
theorem powerLoops : Obligations.PowerLoops := by
  intro s hp hq x cap hyst next dens applied seen
  have hnext : ∀ p cap, capStep x.capD p cap hyst = next p cap := fun p cap => capStep_eq _ _ _ _
  have hdens : s.gb DEV_STATUS.SAFE = false → ∀ t : State, t.rf = s.rf → ∀ w, t.applyDensity w = seen (applied t w) := by
    intro hsafe t ht w
    have hsafe' : ¬ t.gb DEV_STATUS.SAFE = true := by
      unfold State.gb State.g State.reg
      rw [ht]
      exact ne_true_of_eq_false hsafe
    unfold State.applyDensity State.effDensity
    rw [if_neg hsafe']
    rfl
  refine ⟨fun v hv hmet hwatch => ?_, fun w hsafe => ?_, fun hmet => ?_, ?_, fun hstep hrun => ?_, fun up hup => ?_, fun w => ?_⟩
  · obtain ⟨⟨r, sum, n, any, high, heq⟩, hreg, hpow, hmj, hceil⟩ := sampled_eq s v
    have hg : ∀ (f : Fld) j, f.reg ∉ [RegKind.WING_PWR_STATUS, .PWR_ENERGY, .PWR_EVENTS] → (s.sampled v).g f j = s.g f j := fun f j hf => by
      unfold State.g
      rw [hreg _ _ hf]
    have hcap : (s.sampled v).capEff = s.capEff := by
      unfold State.capEff
      rw [hg _ _ (by decide), hg _ _ (by decide), heq]
    have hall : (s.sampled v).allAt15 = s.allAt15 := by
      unfold State.allAt15 State.wingUp
      simp only [hg WING_STATUS.STATE _ (by decide)]
      rw [heq]
    have hunmet : (s.sampled v).gb PWR_STATUS.CAP_UNMET = false := by
      unfold State.gb
      rw [hg _ _ (by decide)]
      exact hmet
    obtain ⟨below, hw⟩ := capWatch_met (s := s.sampled v) (p := v.pin) hunmet (by rw [hcap, hall]; rw [heq]; exact hwatch)
    have hstep : s.powerSample v = { s.sampled v with pwr := { (s.sampled v).pwr with above := 0, below := below, capD := next v.pin cap } } := by
      have hloop := capLoop_met (s := { s.sampled v with pwr := { (s.sampled v).pwr with above := 0, below := below } }) v.pin hunmet
      have hcap' : ({ s.sampled v with pwr := { (s.sampled v).pwr with above := 0, below := below } } : State).capEff = cap := hcap
      have hhyst : ({ s.sampled v with pwr := { (s.sampled v).pwr with above := 0, below := below } } : State).g PWR_CAP.HYST = hyst := hg _ _ (by decide)
      rw [hcap', hhyst] at hloop
      rw [powerSample_ok hv, hw, hloop, ← hnext, heq]
    have hcalm : s.CalmTo (s.powerSample v) := by
      rw [hstep, heq]
      exact ⟨rfl, rfl, rfl, rfl⟩
    refine ⟨_, act_calm (f := (·.powerSample v)) rfl hp hstep (hstep ▸ hcalm) hq, ?_⟩
    simp only [State.lines_g', State.lines_gb', State.lines_pwr, State.lines_car, State.lines_slots, State.lines_store, State.lines_nvm]
    refine ⟨by rw [heq], by rw [heq], by rw [heq], trivial, hpow, hmj, hceil, by rw [heq], hunmet, by rw [heq], by rw [heq], by rw [heq], by rw [heq], by rw [heq]⟩
  · exact act_to (f := (·.applyDensity w)) rfl hp (hdens hsafe s rfl w) (State.quiet_of hq)
  · refine act_to (f := State.capInFall) (pinRow_powered (level := (·.capPin true)) hp) hp ?_ (State.quiet_of hq)
    rw [capInFall_met hmet, hnext]
  · exact act_to (f := State.capInRise) (pinRow_powered (level := (·.capPin false)) hp) hp rfl (State.quiet_of hq)
  · intro ends avg low
    have hends : ∀ st, s.opPolicy = st → exec .opPolicyPeriod s = .next (ends st).lines := fun st hst =>
      act_to (f := State.opPeriod) rfl hp (by rw [opPeriod_free hstep hrun, hst]) (State.quiet_of hq)
    refine ⟨fun hlt => hends _ (opPolicy_below hlt), fun hle hc havg => hends _ (opPolicy_dense hle hc havg), fun hlt hna hlow => hends _ ?_,
      fun heq hna => hends _ ?_⟩
    · obtain ⟨hn, hany, hpow⟩ := hlow
      rw [opPolicy_rest hlt.le hna]
      exact if_pos ⟨hn, by rw [show s.pwr.densAny = false from hany]; rfl, hlt, hpow⟩
    · rw [opPolicy_rest heq.le hna]
      refine if_neg ?_
      rintro ⟨-, -, hlt, -⟩
      exact absurd heq hlt.ne
  · refine act_to (f := State.opStepDone) rfl hp ?_ (State.quiet_of hq)
    unfold State.opStepDone
    rw [show s.pwr.step = some up from hup]
  · intro d
    refine ⟨act_to (f := (·.droopDetect w)) rfl hp rfl (State.quiet_of hq), fun hsafe => ?_⟩
    exact act_to (f := (·.droopDecay w)) rfl hp (hdens hsafe { s with pwr := { x with droop := tp x.droop w (tn x.droop w - 1) } } rfl w) (State.quiet_of hq)

end Sys2Proof.Machine
end

section
/-!
# Temperature and supply (11 R411 to R413, 16 R533)
-/
namespace Sys2Proof.Machine

/-! ### Sensors -/

theorem sgn16_toInt {t : Nat} (h : t < 65536) : sgn 16 t = (BitVec.ofNat 16 t).toInt := by
  unfold sgn
  rw [BitVec.toInt_eq_toNat_cond, BitVec.toNat_ofNat, Nat.mod_eq_of_lt (by omega : t < 2 ^ 16)]
  split_ifs <;> omega

theorem sensorFailed_sound {t : Nat} (h : t < 65536) : sensorFailed t = false := decide_eq_false (by omega)

theorem sensor_sound (s : State) (k : Nat) {t : Nat} (h : t < 65536) : s.sensor k t =
    ((s.p THERM_SENSOR.FAILED k 0).p THERM_SENSOR.TEMP k t).p THERM_SENSOR.PEAK_C k (max (s.g THERM_SENSOR.PEAK_C k) (min 255 (wholeC t).toNat)) := by
  unfold State.sensor
  rw [sensorFailed_sound h, if_neg Bool.false_ne_true]
  dsimp only
  rw [State.g_p_field _ _ _ _ _ (by decide) (by decide) (by decide) (by decide) (by decide),
    State.g_p_field _ _ _ _ _ (by decide) (by decide) (by decide) (by decide) (by decide)]

/-- What a sound reading leaves of its sensor. -/
def State.SensorRead (t s : State) (k v : Nat) : Prop :=
  t.g THERM_SENSOR.TEMP k = v ∧ t.gb THERM_SENSOR.FAILED k = false ∧
    t.g THERM_SENSOR.PEAK_C k = max (s.g THERM_SENSOR.PEAK_C k) (min 255 (wholeC v).toNat)

theorem sensor_read (s : State) (k : Nat) {v : Nat} (h : v < 65536) : (s.sensor k v).SensorRead s k v := by
  rw [sensor_sound s k h]
  refine ⟨?_, ?_, ?_⟩
  · rw [State.g_p_field _ _ _ _ _ (by decide) (by decide) (by decide) (by decide) (by decide)]
    exact State.g_p_self _ _ _ _ (by decide) (by decide) h
  · rw [State.gb_p_field _ _ _ _ _ (by decide) (by decide) (by decide) (by decide) (by decide),
      State.gb_p_field _ _ _ _ _ (by decide) (by decide) (by decide) (by decide) (by decide)]
    unfold State.gb
    rw [State.g_p_self _ _ _ _ (by decide) (by decide) (by decide)]
    rfl
  · refine State.g_p_self _ _ _ _ (by decide) (by decide) ?_
    have := s.g_lt THERM_SENSOR.PEAK_C k
    exact max_lt this (by show min 255 _ < 256; omega)

/-- A round of sound readings over the sensors below `n`. -/
theorem sensors_read (s : State) (v : Nat → Nat) (n : Nat) (hn : n ≤ 65536) (hv : ∀ k < n, v k < 65536) :
    (∃ r, (List.range n).foldl (fun s k => s.sensor k (v k)) s = { s with rf := r }) ∧
    (∀ k j, k ≠ .THERM_SENSOR → ((List.range n).foldl (fun s k => s.sensor k (v k)) s).reg k j = s.reg k j) ∧
    (∀ j < 65536, n ≤ j → ((List.range n).foldl (fun s k => s.sensor k (v k)) s).reg .THERM_SENSOR j = s.reg .THERM_SENSOR j) ∧
    ∀ k < n, ((List.range n).foldl (fun s k => s.sensor k (v k)) s).SensorRead s k (v k) := by
  induction n with
  | zero => exact ⟨⟨_, rfl⟩, fun _ _ _ => rfl, fun _ _ _ => rfl, fun k hk => absurd hk (Nat.not_lt_zero k)⟩
  | succ n ih =>
    obtain ⟨h1, h2, h3, h4⟩ := ih (by omega) fun k hk => hv k (by omega)
    rw [List.range_succ, List.foldl_append]
    generalize (List.range n).foldl (fun s k => s.sensor k (v k)) s = u at *
    have hstep : ([n].foldl (fun s k => s.sensor k (v k)) u) = u.sensor n (v n) := rfl
    have hvn := hv n (by omega)
    have hother : ∀ k j, k ≠ .THERM_SENSOR ∨ j % 65536 ≠ n % 65536 → (u.sensor n (v n)).reg k j = u.reg k j := fun k j h => by
      rw [sensor_sound u n hvn, State.reg_p_ne _ _ _ _ _ _ h, State.reg_p_ne _ _ _ _ _ _ h, State.reg_p_ne _ _ _ _ _ _ h]
    have hpeak : u.g THERM_SENSOR.PEAK_C n = s.g THERM_SENSOR.PEAK_C n := State.g_congr (h3 n (by omega) le_rfl)
    rw [hstep]
    refine ⟨?_, fun k j hk => (hother k j (.inl hk)).trans (h2 k j hk), fun j hj hnj => (hother _ _ (.inr (by omega))).trans (h3 j hj (by omega)), fun k hk => ?_⟩
    · rw [sensor_sound u n hvn]
      exact regs_p (regs_p (regs_p h1 _ _ _) _ _ _) _ _ _
    · by_cases hkn : k = n
      · subst hkn
        obtain ⟨ht, hf, hp⟩ := sensor_read u k hvn
        exact ⟨ht, hf, by rw [hp, hpeak]⟩
      · have hreg := hother .THERM_SENSOR k (.inr (by omega))
        obtain ⟨ht, hf, hp⟩ := h4 k (by omega)
        refine ⟨?_, ?_, ?_⟩
        · rw [State.g_congr (f := THERM_SENSOR.TEMP) hreg, ht]
        · rw [State.gb_congr (f := THERM_SENSOR.FAILED) hreg, hf]
        · rw [State.g_congr (f := THERM_SENSOR.PEAK_C) hreg, hp]

/-! ### Thermal densities -/

/-- The next density of a region whose `n` readings are the sound readings from `a` on. -/
theorem thermStep_eq (s : State) (d : Nat) (ts : List Nat) (a n : Nat) (hts : ∀ k < n, ts.getD (a + k) 0 < 65536) :
    s.thermStep d ((List.range n).map fun k => ts.getD (a + k) 0) =
      if ∃ k < n, 16 * (s.g THERM_CTL.THROTTLE_C : Int) < (BitVec.ofNat 16 (ts.getD (a + k) 0)).toInt then min 15 (d + 1)
      else if ∀ k < n, (BitVec.ofNat 16 (ts.getD (a + k) 0)).toInt ≤ 16 * (s.g THERM_CTL.THROTTLE_C : Int) - 32 then d - 1 else d := by
  have hhot : ∀ k < n, (s.tooHot (ts.getD (a + k) 0) = true ↔ 16 * (s.g THERM_CTL.THROTTLE_C : Int) < (BitVec.ofNat 16 (ts.getD (a + k) 0)).toInt) := fun k hk => by
    unfold State.tooHot
    rw [sensorFailed_sound (hts k hk), sgn16_toInt (hts k hk), Bool.false_or, decide_eq_true_eq]
  have hcool : ∀ k < n, (s.cool (ts.getD (a + k) 0) = true ↔ (BitVec.ofNat 16 (ts.getD (a + k) 0)).toInt ≤ 16 * (s.g THERM_CTL.THROTTLE_C : Int) - 32) := fun k hk => by
    unfold State.cool
    rw [sensorFailed_sound (hts k hk), sgn16_toInt (hts k hk), Bool.not_false, Bool.true_and, decide_eq_true_eq]
    constructor <;> intro h <;> omega
  have hany : ((List.range n).map fun k => ts.getD (a + k) 0).any s.tooHot = true ↔
      ∃ k < n, 16 * (s.g THERM_CTL.THROTTLE_C : Int) < (BitVec.ofNat 16 (ts.getD (a + k) 0)).toInt := by
    simp only [List.any_eq_true, List.mem_map, List.mem_range, exists_exists_and_eq_and]
    exact exists_congr fun k => and_congr_right (hhot k)
  have hall : ((List.range n).map fun k => ts.getD (a + k) 0).all s.cool = true ↔
      ∀ k < n, (BitVec.ofNat 16 (ts.getD (a + k) 0)).toInt ≤ 16 * (s.g THERM_CTL.THROTTLE_C : Int) - 32 := by
    simp only [List.all_eq_true, List.mem_map, List.mem_range, forall_exists_index, and_imp, forall_apply_eq_imp_iff₂]
    exact forall_congr' fun k => imp_congr_right (hcool k)
  unfold State.thermStep
  simp only [hany, hall]

theorem foldl_tp (g : Nat → Nat → Nat) (d : Tab Nat) (n k : Nat) :
    tn ((List.range n).foldl (fun a k => tp a k (g k (tn a k))) d) k = if k < n then g k (tn d k) else tn d k := by
  induction n generalizing k with
  | zero => rfl
  | succ n ih =>
    rw [List.range_succ, List.foldl_append]
    refine (tget_tset _ _ _ _ _).trans ?_
    split_ifs with h1 h2 h3
    · rw [h1, ih n, if_neg (lt_irrefl n)]
    · omega
    · exact (ih k).trans (if_pos (by omega))
    · exact (ih k).trans (if_neg (by omega))

/-! ### The round -/

/-- The densities stepped once by the readings. -/
def State.densitiesStepped (u : State) (ts : List Nat) : State :=
  { u with pwr := { u.pwr with
    dieT := (List.range 8).foldl (fun a k => tp a k (u.thermStep (tn a k) (State.thermalCompare.slice4 ts (4 * k)))) u.pwr.dieT
    devT := u.thermStep u.pwr.devT ((List.range 24).map fun k => ts.getD (32 + k) 0) } }

/-- The state after the sensors have been read and the densities stepped. -/
def State.thermSeen (s : State) (ts : List Nat) : State :=
  ((List.range 56).foldl (fun s k => s.sensor k (ts.getD k 0)) s).densitiesStepped ts

/-- The event of a throttle that begins, and the time throttled. -/
def State.thermCounted (s : State) (was : Bool) : State :=
  let s := if s.throttling ∧ !was then s.p PWR_EVENTS.THROTTLE_ENTERED 0 1 else s
  if s.throttling then
    let r := s.pwr.thrRest + 1
    let s := if r = 10 then s.bump PWR_COUNTS.THROTTLE_MS 0 else s
    { s with pwr := { s.pwr with thrRest := r % 10 } }
  else s

theorem thermalCompare_eq (s : State) (ts : List Nat) : s.thermalCompare ts =
    ((s.thermSeen ts).thermCounted s.throttling).tallyTemp ((List.range 56).map fun k => ts.getD k 0) := rfl

theorem tallyTemp_eq (s : State) (ts : List Nat) : ∃ armed led, s.tallyTemp ts = { s with pwr := { s.pwr with armed := armed }, led := led } := by
  unfold State.tallyTemp
  split
  · exact ⟨_, _, rfl⟩
  · dsimp only
    split_ifs
    · exact ⟨_, _, rfl⟩
    · exact ⟨_, _, rfl⟩
    · exact ⟨_, _, rfl⟩

theorem thermCounted_eq (s : State) (was : Bool) : (∃ r n, s.thermCounted was = { s with rf := r, pwr := { s.pwr with thrRest := n } }) ∧
    (∀ k j, k ∉ [RegKind.PWR_EVENTS, .PWR_COUNTS] → (s.thermCounted was).reg k j = s.reg k j) ∧
    (s.throttling = true → was = false → (s.thermCounted was).g PWR_EVENTS.THROTTLE_ENTERED = 1) := by
  unfold State.thermCounted
  by_cases ht : s.throttling = true
  · have hentered : ∃ r, (if s.throttling = true ∧ (!was) = true then s.p PWR_EVENTS.THROTTLE_ENTERED 0 1 else s) = { s with rf := r } ∧
        (∀ k j, k ≠ .PWR_EVENTS → ({ s with rf := r } : State).reg k j = s.reg k j) ∧
        (was = false → ({ s with rf := r } : State).g PWR_EVENTS.THROTTLE_ENTERED = 1) := by
      split_ifs with h
      · exact ⟨_, rfl, fun k j hk => State.reg_p_other s _ _ _ _ _ hk, fun _ => State.g_p_self s _ _ _ (by decide) (by decide) (by decide)⟩
      · exact ⟨_, rfl, fun _ _ _ => rfl, fun hw => absurd ⟨ht, by rw [hw]; rfl⟩ h⟩
    obtain ⟨r, heq, hreg, hone⟩ := hentered
    rw [heq]
    dsimp only
    have ht' : ({ s with rf := r } : State).throttling = true := ht
    rw [if_pos ht']
    split_ifs with hten
    · refine ⟨⟨_, _, rfl⟩, fun k j hk => ?_, fun _ hw => ?_⟩
      · simp only [List.mem_cons, List.not_mem_nil, or_false, not_or] at hk
        exact (State.reg_p_other { s with rf := r } PWR_COUNTS.THROTTLE_MS k 0 j _ hk.2).trans (hreg k j hk.1)
      · exact (State.g_p_other { s with rf := r } PWR_COUNTS.THROTTLE_MS _ 0 0 _ (by decide)).trans (hone hw)
    · refine ⟨⟨_, _, rfl⟩, fun k j hk => ?_, fun _ hw => hone hw⟩
      simp only [List.mem_cons, List.not_mem_nil, or_false, not_or] at hk
      exact hreg k j hk.1
  · have hno : (if s.throttling = true ∧ (!was) = true then s.p PWR_EVENTS.THROTTLE_ENTERED 0 1 else s) = s := if_neg fun h => ht h.1
    rw [hno, if_neg ht]
    exact ⟨⟨_, _, rfl⟩, fun _ _ _ => rfl, fun h => absurd h ht⟩

/-! ### Supply -/

theorem vinLoss_rows (s : State) : ∀ row ∈ [Instr.vin44Undervoltage, .vin44Overvoltage, .vin44Loss], exec row s = .next s.vinLoss := by
  intro row hrow
  simp only [List.mem_cons, List.not_mem_nil, or_false] at hrow
  rcases hrow with rfl | rfl | rfl
  · rfl
  · rfl
  · rfl

theorem vin44PowerUp_eq (s : State) : exec .vin44PowerUp s = .next s.vinUp := rfl

theorem densitiesStepped_read {u s : State} {k v : Nat} (ts : List Nat) (h : u.SensorRead s k v) : (u.densitiesStepped ts).SensorRead s k v := by
  have hreg : ∀ k j, (u.densitiesStepped ts).reg k j = u.reg k j := fun k j => by
    unfold State.reg State.densitiesStepped
    rfl
  obtain ⟨ht, hf, hp⟩ := h
  refine ⟨?_, ?_, ?_⟩
  · rw [State.g_congr (f := THERM_SENSOR.TEMP) (hreg _ k), ht]
  · rw [State.gb_congr (f := THERM_SENSOR.FAILED) (hreg _ k), hf]
  · rw [State.g_congr (f := THERM_SENSOR.PEAK_C) (hreg _ k), hp]

theorem densitiesStepped_eq (s : State) (r : Tab (BitVec 64)) (ts : List Nat) :
    ∃ w : PwrSt, ({ s with rf := r } : State).densitiesStepped ts = { s with rf := r, pwr := { s.pwr with dieT := w.dieT, devT := w.devT } } :=
  ⟨(({ s with rf := r } : State).densitiesStepped ts).pwr, rfl⟩

/-- What the readings leave: the sensors, the densities stepped with the limit of the state before. -/
theorem thermSeen_spec (s : State) (ts : List Nat) (hts : ∀ k < 56, ts.getD k 0 < 65536) :
    (∃ r, ∃ w : PwrSt, s.thermSeen ts = { s with rf := r, pwr := { s.pwr with dieT := w.dieT, devT := w.devT } }) ∧
    (∀ k < 56, (s.thermSeen ts).SensorRead s k (ts.getD k 0)) ∧
    (∀ k < 8, tn (s.thermSeen ts).pwr.dieT k = s.thermStep (tn s.pwr.dieT k) ((List.range 4).map fun j => ts.getD (4 * k + j) 0)) ∧
    (s.thermSeen ts).pwr.devT = s.thermStep s.pwr.devT ((List.range 24).map fun k => ts.getD (32 + k) 0) := by
  obtain ⟨⟨r, hr⟩, hreg, -, hread⟩ := sensors_read s (fun k => ts.getD k 0) 56 (by decide) hts
  have hstep : ({ s with rf := r } : State).thermStep = s.thermStep := by
    rw [← hr]
    unfold State.thermStep State.tooHot State.cool
    rw [State.g_congr (f := THERM_CTL.THROTTLE_C) (j := 0) (hreg _ _ (by decide))]
  unfold State.thermSeen
  refine ⟨?_, fun k hk => densitiesStepped_read ts (hread k hk), ?_, ?_⟩
  · rw [hr]
    exact ⟨r, densitiesStepped_eq s r ts⟩
  · rw [hr]
    intro k hk
    refine (foldl_tp (fun k d => ({ s with rf := r } : State).thermStep d (State.thermalCompare.slice4 ts (4 * k))) s.pwr.dieT 8 k).trans ?_
    rw [if_pos hk, hstep]
    rfl
  · rw [hr, ← hstep]
    rfl

theorem throttling_congr {s t : State} (hd : t.pwr.dieT = s.pwr.dieT) (hv : t.pwr.devT = s.pwr.devT) : t.throttling = s.throttling := by
  unfold State.throttling
  rw [hd, hv]

/-- Settles O55: a round of readings sensor by sensor and region by region; the supply rows are their definitions. -/
theorem temperatureAndSupply : Obligations.TemperatureAndSupply := by
  intro s
  refine ⟨?_, fun k hp hq => ?_, vinLoss_rows s, fun hno => ?_, fun hno => ?_⟩
  · intro hp hq ts hts temp lim next
    obtain ⟨⟨r, w, hseen⟩, hread, hdie, hdev⟩ := thermSeen_spec s ts hts
    obtain ⟨⟨r', n, heq⟩, hreg', hone⟩ := thermCounted_eq (s.thermSeen ts) s.throttling
    obtain ⟨armed, led, htally⟩ := tallyTemp_eq ((s.thermSeen ts).thermCounted s.throttling) ((List.range 56).map fun k => ts.getD k 0)
    rw [← thermalCompare_eq] at htally
    have hkeep : ∀ k j, k ∉ [RegKind.PWR_EVENTS, .PWR_COUNTS] → (s.thermalCompare ts).lines.reg k j = (s.thermSeen ts).reg k j := fun k j hk => by
      rw [State.lines_reg', htally]
      exact hreg' k j hk
    have hpwr : (s.thermalCompare ts).lines.pwr = { (s.thermSeen ts).pwr with thrRest := n, armed := armed } := by
      rw [State.lines_pwr, htally, heq]
    have hstep : ∀ d a m, (∀ k < m, a + k < 56) → s.thermStep d ((List.range m).map fun k => ts.getD (a + k) 0) = next d a m :=
      fun d a m hm => thermStep_eq _ _ _ _ _ fun k hk => hts _ (hm k hk)
    have hentered : ∀ f : Fld, (s.thermalCompare ts).lines.g f = ((s.thermSeen ts).thermCounted s.throttling).g f := fun f => by
      rw [State.lines_g', htally]
      rfl
    have hwhole : s.thermalCompare ts = { s with rf := r', pwr := { s.pwr with dieT := w.dieT, devT := w.devT, thrRest := n, armed := armed }, led := led } := by
      rw [htally, heq, hseen]
    refine ⟨_, act_calm (f := (·.thermalCompare ts)) rfl hp rfl (by rw [hwhole]; exact ⟨rfl, rfl, rfl, rfl⟩) hq, fun k hk => ?_, fun k hk => ?_, ?_, fun ht hwas => ?_, ?_⟩
    · obtain ⟨htemp, hfailed, hpeak⟩ := hread k hk
      have hregk := hkeep .THERM_SENSOR k (by decide)
      refine ⟨?_, ?_, ?_⟩
      · rw [State.g_congr (f := THERM_SENSOR.TEMP) hregk, htemp]
      · rw [State.gb_congr (f := THERM_SENSOR.FAILED) hregk, hfailed]
      · rw [State.g_congr (f := THERM_SENSOR.PEAK_C) hregk, hpeak]
        unfold wholeC
        rw [sgn16_toInt (hts k hk)]
    · rw [hpwr]
      exact (hdie k hk).trans (hstep _ (4 * k) 4 fun j hj => by omega)
    · rw [hpwr]
      exact hdev.trans (hstep _ 32 24 fun k hk => by omega)
    · rw [hentered]
      refine hone ?_ hwas
      rw [← ht]
      exact throttling_congr (by rw [hpwr]) (by rw [hpwr])
    · rw [State.lines_pwr, State.lines_car, State.lines_slots, State.lines_store, State.lines_dmem, hwhole]
      exact ⟨rfl, rfl, rfl, rfl, rfl, rfl⟩
  · exact act_to (f := (·.thermalTrip k)) rfl hp rfl (State.quiet_of hq)
  · refine ⟨_, vin44PowerUp_eq s, ?_⟩
    unfold State.vinUp
    rw [if_pos hno]
    exact ⟨rfl, rfl, rfl, rfl, rfl, rfl, rfl, rfl, rfl, rfl, rfl, rfl, fun _ _ => rfl⟩
  · rw [vin44PowerUp_eq]
    unfold State.vinUp
    rw [if_neg (ne_true_of_eq_false hno)]

end Sys2Proof.Machine
end

section
/-!
# Records of the ledger (15 R519, R520)
-/
namespace Sys2Proof.Machine

theorem State.reg_of_rf {s t : State} (h : t.rf = s.rf) (k : RegKind) (j : Nat) : t.reg k j = s.reg k j := by
  unfold State.reg
  rw [h]

theorem putLRec_eq (s : State) (r : LRec) : ∃ recs next seq,
    s.putLRec r = { s with led := { s.led with recs := recs, next := next } } ∧ recs.getLast? = some { r with seq := seq } :=
  ⟨_, _, _, rfl, List.getLast?_concat⟩

/-- The formats in which a record is written are one or two. -/
theorem ledgerFmts_ne_nil (s : State) : s.ledgerFmts ≠ [] := by
  unfold State.ledgerFmts
  split
  · exact List.cons_ne_nil _ _
  · dsimp only
    split_ifs
    · exact List.cons_ne_nil _ _
    · exact List.cons_ne_nil _ _

/-- Of several records the last stands at the end of the ring. -/
theorem foldl_putLRec (g : State → Nat → LRec) (l : List Nat) (s : State) (hl : l ≠ []) : ∃ recs next led f seq,
    l.foldl (fun s x => s.putLRec (g s x)) s = { s with led := { s.led with recs := recs, next := next } } ∧
      recs.getLast? = some { g { s with led := led } f with seq := seq } := by
  induction l generalizing s with
  | nil => exact absurd rfl hl
  | cons x xs ih =>
    obtain ⟨recs, next, seq, heq, hlast⟩ := putLRec_eq s (g s x)
    rw [List.foldl_cons, heq]
    cases xs with
    | nil => exact ⟨recs, next, s.led, x, seq, rfl, hlast⟩
    | cons y ys => exact ih _ (List.cons_ne_nil y ys)

/-- The record that `State.ledger` writes in the format `f`. -/
def State.recNow (s : State) (typ : Nat) (body : Bytes) (f : Nat) : LRec :=
  { seq := 0, typ := typ, fmt := f, stamp := s.now, cal := s.calendar s.now, body := slice body 0 224 }

theorem ledger_last {s : State} (typ : Nat) (body : Bytes) (ha : s.dev.archRun = true) :
    (s.ledger typ body).LastRecord typ body ∧
      ∃ recs next, s.ledger typ body = { s with led := { s.led with recs := recs, next := next } } := by
  have hrun : s.ledger typ body = s.ledgerFmts.foldl (fun t f => t.putLRec (t.recNow typ body f)) s := by
    unfold State.ledger
    rw [ha, if_neg (by decide)]
    rfl
  obtain ⟨recs, next, led, f, seq, heq, hlast⟩ := foldl_putLRec (fun t f => t.recNow typ body f) s.ledgerFmts s (ledgerFmts_ne_nil s)
  rw [hrun, heq]
  exact ⟨⟨_, hlast, rfl, rfl, rfl, rfl⟩, recs, next, rfl⟩

theorem ledger_off {s : State} (typ : Nat) (body : Bytes) (ha : s.dev.archRun = false) : s.ledger typ body = s := by
  unfold State.ledger
  rw [ha]
  rfl

section
variable {s t : State} {typ : Nat} {body : Bytes}

/-- The newest record stays where neither the ring nor the stamp changes. -/
theorem State.LastRecord.of (h : s.LastRecord typ body) (hrecs : t.led.recs = s.led.recs) (hnow : t.now = s.now) : t.LastRecord typ body := by
  unfold State.LastRecord
  rw [hrecs, hnow]
  exact h

theorem State.LastRecord.lines (h : s.LastRecord typ body) : s.lines.LastRecord typ body :=
  h.of (by rw [State.lines_led]) (State.lines_now' s)

end

/-- A counter record: the totals are kept as the last saved ones. -/
theorem ledgerCounter_last {s : State} (typ : Nat) (ha : s.dev.archRun = true) :
    (s.ledgerCounter typ).LastRecord typ (totalsBody s.totals) ∧
      ∃ recs next, s.ledgerCounter typ = { s with led := { s.led with recs := recs, next := next, saved := s.totals } } := by
  obtain ⟨hlast, recs, next, heq⟩ := ledger_last typ (totalsBody s.totals) ha
  have hrun : s.ledgerCounter typ = { s.ledger typ (totalsBody s.totals) with led := { (s.ledger typ (totalsBody s.totals)).led with saved := s.totals } } := by
    unfold State.ledgerCounter
    rw [ha]
    rfl
  rw [hrun]
  exact ⟨hlast.of rfl rfl, recs, next, by rw [heq]⟩

end Sys2Proof.Machine
end

section
/-!
# The ledger and the side ports (15 R523 to R530; 16 R535, R542 to R547)
-/
namespace Sys2Proof.Machine

/-! ### Ports and links that go down -/

theorem portDown_down {s : State} {n : Nat} (h : s.gb PORT_STATUS.LINK_UP n = false) : s.portDown n = s := by
  unfold State.portDown
  rw [h]
  rfl

/-- The port `n` off, with nothing on hold. -/
def State.portOff (s : State) (n : Nat) : State :=
  { s.p PORT_STATUS.LINK_UP n 0 with nic := { s.nic with
    xoff := tset (fun _ => 0) s.nic.xoff n 0, xoffSent := tset (fun _ => 0) s.nic.xoffSent n 0 } }

/-- Where no work ends: in the safe state, or without queue pairs. -/
theorem portDown_alone {s : State} {n : Nat} (h : s.gb PORT_STATUS.LINK_UP n = true) (hno : s.gb DEV_STATUS.SAFE = true ∨ s.nic.qps = []) :
    s.portDown n = (s.portOff n).raise { source := srcId 6 n 2 } := by
  have hsafe : ((s.portOff n).raise { source := srcId 6 n 2 }).gb DEV_STATUS.SAFE = s.gb DEV_STATUS.SAFE :=
    State.gb_p_other s PORT_STATUS.LINK_UP DEV_STATUS.SAFE n 0 0 (by decide)
  unfold State.portDown
  rw [h, if_neg (by decide)]
  change (if ((s.portOff n).raise { source := srcId 6 n 2 }).gb DEV_STATUS.SAFE = true then _ else List.foldl _ _ s.nic.qps) = _
  rw [hsafe]
  obtain h | h := hno
  · rw [if_pos h]
    rfl
  · rw [h]
    exact ite_self _

/-- Of the ports only `n` is up. -/
theorem portsDown_one {s : State} {n : Nat} (hn : n < 32) (h : s.gb PORT_STATUS.LINK_UP n = true)
    (hone : ∀ m < 32, m ≠ n → s.gb PORT_STATUS.LINK_UP m = false) (hqps : s.nic.qps = []) :
    (List.range 32).foldl (fun s n => s.portDown n) s = (s.portOff n).raise { source := srcId 6 n 2 } := by
  rw [foldl_once (fun (s : State) n => s.portDown n) (List.range 32) List.nodup_range n (List.mem_range.2 hn) s
    (fun m hm hne => portDown_down (hone m (List.mem_range.1 hm) hne)) fun m hm hne => ?_, portDown_alone h (.inr hqps)]
  rw [portDown_alone h (.inr hqps)]
  refine portDown_down ?_
  have hm := List.mem_range.1 hm
  have hreg : ((s.portOff n).raise { source := srcId 6 n 2 }).reg .PORT_STATUS m = s.reg .PORT_STATUS m :=
    State.reg_p_ne s PORT_STATUS.LINK_UP _ n m 0 (.inr (by omega))
  rw [State.gb_congr (f := PORT_STATUS.LINK_UP) hreg, hone m hm hne]

/-- Link `l` off: nobody is reached over it. -/
def State.linkOff (s : State) (l : Nat) : State :=
  { s.p PLOLI_LINK.STATE l 0 with cas := { s.cas with reach := tset (fun _ => 0) s.cas.reach l 0 } }

theorem linkOff_state (s : State) (l m : Nat) : (s.linkOff l).reg .PLOLI_LINK m = (s.p PLOLI_LINK.STATE l 0).reg .PLOLI_LINK m := rfl

theorem linkOff_other (s : State) {l m : Nat} (hl : l < 4) (hm : m < 4) (h : m ≠ l) : (s.linkOff l).g PLOLI_LINK.STATE m = s.g PLOLI_LINK.STATE m := by
  have hreg : (s.linkOff l).reg .PLOLI_LINK m = s.reg .PLOLI_LINK m := State.reg_p_ne s PLOLI_LINK.STATE _ l m 0 (.inr (by omega))
  exact State.g_congr (f := PLOLI_LINK.STATE) hreg

theorem linkOff_self (s : State) (l : Nat) : (s.linkOff l).g PLOLI_LINK.STATE l = 0 :=
  State.g_p_self s PLOLI_LINK.STATE l 0 (by decide) (by decide) (by decide)

/-- Without a link that is up nobody is reached. -/
theorem reached_none {s : State} (h : ∀ l < 4, s.g PLOLI_LINK.STATE l ≠ 1) : s.reached = 0 :=
  foldl_same _ _ _ fun l hl => if_neg (h l (List.mem_range.1 hl))

/-- A link goes down that was not up. -/
theorem ploliDown_off {s : State} {l : Nat} (h : ∀ l < 4, s.g PLOLI_LINK.STATE l ≠ 1) (hl : l < 4) :
    s.ploliDown l = if s.arec.role ≠ 0 ∧ s.g PLOLI_LINK.STATE l ≠ 5 then s.linkOff l else s := by
  unfold State.ploliDown
  by_cases hc : s.arec.role ≠ 0 ∧ s.g PLOLI_LINK.STATE l ≠ 5
  · rw [if_pos hc, if_pos ⟨hl, hc.2, hc.1⟩, if_neg (h l hl)]
    dsimp only
    rw [reached_none h]
    rfl
  · rw [if_neg hc, if_neg fun hc' => hc ⟨hc'.2.2, hc'.2.1⟩]

/-- All links go down, of which none was up. -/
theorem ploliDown_all {s : State} (h : ∀ l < 4, s.g PLOLI_LINK.STATE l ≠ 1) (n : Nat) (hn : n ≤ 4) :
    let links := (List.range n).filter fun l => decide (s.arec.role ≠ 0 ∧ s.g PLOLI_LINK.STATE l ≠ 5)
    (List.range n).foldl (fun s l => s.ploliDown l) s = links.foldl State.linkOff s ∧
      (∀ l < 4, (links.foldl State.linkOff s).g PLOLI_LINK.STATE l ≠ 1) ∧
      (∀ l < 4, n ≤ l → (links.foldl State.linkOff s).g PLOLI_LINK.STATE l = s.g PLOLI_LINK.STATE l) ∧
      (links.foldl State.linkOff s).arec = s.arec := by
  induction n with
  | zero => exact ⟨rfl, h, fun _ _ _ => rfl, rfl⟩
  | succ n ih =>
    obtain ⟨hfold, hdown, hrest, harec⟩ := ih (by omega)
    dsimp only
    rw [List.range_succ, List.foldl_append, List.filter_append, List.foldl_append, hfold]
    generalize ((List.range n).filter fun l => decide (s.arec.role ≠ 0 ∧ s.g PLOLI_LINK.STATE l ≠ 5)).foldl State.linkOff s = u at *
    have hone : [n].foldl (fun s l => s.ploliDown l) u = u.ploliDown n := rfl
    rw [hone, ploliDown_off hdown (by omega), harec, hrest n (by omega) le_rfl]
    by_cases hc : s.arec.role ≠ 0 ∧ s.g PLOLI_LINK.STATE n ≠ 5
    · have hkeep : [n].filter (fun l => decide (s.arec.role ≠ 0 ∧ s.g PLOLI_LINK.STATE l ≠ 5)) = [n] := List.filter_cons_of_pos (decide_eq_true hc)
      rw [if_pos hc, hkeep]
      refine ⟨rfl, fun l hl => ?_, fun l hl hnl => ?_, harec⟩
      · by_cases hln : l = n
        · subst hln
          exact (linkOff_self u l).trans_ne (by decide)
        · exact (linkOff_other u (by omega) hl hln).trans_ne (hdown l hl)
      · exact (linkOff_other u (by omega) hl (by omega)).trans (hrest l hl (by omega))
    · have hdrop : [n].filter (fun l => decide (s.arec.role ≠ 0 ∧ s.g PLOLI_LINK.STATE l ≠ 5)) = [] :=
        List.filter_cons_of_neg (by rwa [decide_eq_true_iff])
      rw [if_neg hc, hdrop]
      exact ⟨rfl, hdown, fun l hl hnl => hrest l hl (by omega), harec⟩

theorem linksOff_raise (s : State) (e : Event) (ls : List Nat) : ls.foldl State.linkOff (s.raise e) = (ls.foldl State.linkOff s).raise e := by
  induction ls generalizing s with
  | nil => rfl
  | cons l ls ih => exact ih (s.linkOff l)

/-- Links that go down leave the rest of the device. -/
theorem linksOff_keeps (s : State) (ls : List Nat) : s.CalmTo (ls.foldl State.linkOff s) ∧
    ∀ k j, k ≠ .PLOLI_LINK → (ls.foldl State.linkOff s).reg k j = s.reg k j := by
  refine foldl_keeps (fun t : State => s.CalmTo t ∧ ∀ k j, k ≠ .PLOLI_LINK → t.reg k j = s.reg k j) _ ls s ⟨.refl s, fun _ _ _ => rfl⟩ ?_
  rintro t l - ⟨hcalm, hreg⟩
  exact ⟨hcalm.trans ⟨rfl, rfl, rfl, rfl⟩, fun k j hk => (State.reg_p_other t PLOLI_LINK.STATE k l j 0 hk).trans (hreg k j hk)⟩

/-! ### I3C -/

theorem peek_free (s : State) (n : Nat) : ({ s with free := n } : State).peek = s.peek := by
  have hmgmt : ({ s with free := n } : State).mgmtByte = s.mgmtByte := rfl
  have hpart : ({ s with free := n } : State).partByte = s.partByte := rfl
  unfold State.peek State.peekLive
  rw [hmgmt, hpart]

theorem peek_one (s : State) (off : Nat) : ∃ b, s.peek 0 off 1 = [b] := by
  unfold State.peek
  split
  · rw [if_neg fun h => absurd h.2.2.1 (by decide)]
    exact ⟨_, rfl⟩
  · exact ⟨_, rfl⟩

/-- A write that covers a read-write field of a global register whole. -/
theorem putField_whole (s : State) {v m x : Nat} {f : Fld} (hacc : f.acc = .RW) (hdom : f.reg.dom = .global) (hm : bits m f.hi f.lo = 2 ^ (f.hi + 1 - f.lo) - 1)
    (hw : f.lo ≤ f.hi) (hx : bits v f.hi f.lo = x) (hlt : x < 2 ^ (f.hi + 1 - f.lo)) :
    s.putField 0 v m f = if s.valueOk f 0 x then s.p f 0 x else s := by
  have hold : s.g f 0 &&& (2 ^ (f.hi + 1 - f.lo) - 1) = s.g f 0 := Nat.and_two_pow_sub_one_of_lt_two_pow (s.g_lt f 0)
  have hnew : x &&& (2 ^ (f.hi + 1 - f.lo) - 1) = x := Nat.and_two_pow_sub_one_of_lt_two_pow hlt
  have hpow : 2 ≤ 2 ^ (f.hi + 1 - f.lo) := by
    calc 2 = 2 ^ 1 := rfl
      _ ≤ _ := Nat.pow_le_pow_right (by decide) (by omega)
  have hheld : s.wingHeld f 0 = false := by
    unfold State.wingHeld
    rw [hdom]
    rfl
  unfold State.putField
  dsimp only
  rw [hm, hx, hold, hnew, hheld, hacc, Nat.sub_self, Nat.zero_add, if_neg fun h => h.elim (by omega) Bool.false_ne_true]

/-- The write of `PWR_CAP` that changes the cap alone: `HYST` does not take 0. -/
theorem putFields_cap (s : State) {v c : Nat} (hc : bits v 11 0 = c) (hlo : 600 ≤ c) (hhi : c ≤ 2400) (hten : c % 10 = 0) (hhyst : bits v 27 24 = 0) :
    s.putFields .PWR_CAP 0 v (2 ^ 32 - 1) = s.p PWR_CAP.CAP_W 0 c := by
  have hfields : RegKind.PWR_CAP.fields = [PWR_CAP.HYST, PWR_CAP.EMERG_W, PWR_CAP.CAP_W] := rfl
  have hyst : s.putField 0 v (2 ^ 32 - 1) PWR_CAP.HYST = s :=
    (putField_whole s rfl rfl (by decide) (by decide) hhyst (by decide)).trans (if_neg (by
      unfold State.valueOk
      rw [decide_eq_false fun h => absurd h.1 (by decide)]
      exact Bool.false_ne_true))
  have emerg : s.putField 0 v (2 ^ 32 - 1) PWR_CAP.EMERG_W = s := by
    unfold State.putField
    exact ite_self _
  have cap : s.putField 0 v (2 ^ 32 - 1) PWR_CAP.CAP_W = s.p PWR_CAP.CAP_W 0 c :=
    (putField_whole s rfl rfl (by decide) (by decide) hc (lt_of_le_of_lt hhi (by decide))).trans (if_pos (by
      unfold State.valueOk
      rw [decide_eq_true (show PWR_CAP.CAP_W.vmin ≤ c ∧ c ≤ PWR_CAP.CAP_W.vmax from ⟨hlo, hhi⟩)]
      exact decide_eq_true hten))
  unfold State.putFields
  rw [hfields, List.foldl_cons, hyst, List.foldl_cons, emerg, List.foldl_cons, cap]
  rfl

theorem leNat_natLe_lt {n v : Nat} (h : v < 256 ^ n) : leNat (natLe n v) = v := by
  rw [Sys2Proof.leNat_natLe, Nat.mod_eq_of_lt h]

theorem wordsPut_four (s : State) {fn off i b : Nat} (arch : Bool) {k : RegKind} {d : Bytes} (hd : d.length = 4) (hat : regAt fn off = some (k, i, b)) :
    s.wordsPut fn off arch d = s.regPut fn arch k i (leNat d * 256 ^ b) ((256 ^ 4 - 1) * 256 ^ b) := by
  unfold State.wordsPut
  dsimp only
  split
  · rw [if_neg (by omega), if_neg (by omega), hat, hd]
  · rw [if_neg (by omega), hat, hd]

/-- A 4-byte write at 0x6008 is a write of `PWR_CAP`. -/
theorem barPut_cap (s : State) {v : Nat} (hv : v < 2 ^ 32) : s.barPut 0 0x6008 false (natLe 4 v) = s.putFields .PWR_CAP 0 v (2 ^ 32 - 1) := by
  have hat : regAt 0 0x6008 = some (.PWR_CAP, 0, 0) := by decide
  have hval : leNat (natLe 4 v) = v := leNat_natLe_lt (by omega)
  have hmask : 256 ^ 4 - 1 = 2 ^ 32 - 1 := by norm_num
  have hput : s.regPut 0 false .PWR_CAP 0 v (2 ^ 32 - 1) = s.putFields .PWR_CAP 0 v (2 ^ 32 - 1) := by
    unfold State.regPut
    exact if_neg (by rintro (h | h | h); exacts [Bool.false_ne_true h, Bool.false_ne_true h, h.1 rfl])
  unfold State.barPut
  rw [if_pos rfl, if_neg (by decide), if_neg (by decide), if_neg (by decide), if_neg (by decide),
    wordsPut_four s false (natLe_length 4 v) hat, hval, pow_zero, mul_one, mul_one, hmask, hput]

/-! ### The TAP -/

/-- What the TAP admits (13 R468, 16 R547). -/
theorem tapMay_iff (s : State) (code : Nat) : s.tapMay code = true ↔ (code = 2 ∨ code = 0xFF ∨ (s.dev.wiped = true ∧
    ((code ∈ [0, 3, 4] ∧ s.dev.lifecycle ∈ [1, 2, 4, 5] ∧ s.g DEV_STATUS.STATE = 5) ∨ (code = 1 ∧ s.dev.lifecycle ∈ [1, 2, 4, 5]) ∨
      (code = 0x10 ∧ s.dev.lifecycle ∈ [1, 5]) ∨ (code = 0x11 ∧ s.dev.lifecycle ∈ [1, 4, 5])))) := by
  unfold State.tapMay
  dsimp only
  split
  case h_9 h2 hff h0 h3 h4 h1 h10 h11 =>
    refine iff_of_false Bool.false_ne_true ?_
    rintro (h | h | ⟨-, ⟨h, -⟩ | ⟨h, -⟩ | ⟨h, -⟩ | ⟨h, -⟩⟩)
    · exact h2 h
    · exact hff h
    · simp only [List.mem_cons, List.not_mem_nil, or_false] at h
      exact h.elim h0 fun h => h.elim h3 h4
    · exact h1 h
    · exact h10 h
    · exact h11 h
  all_goals
    simp only [Bool.and_eq_true, decide_eq_true_eq, List.mem_cons, List.not_mem_nil, or_false, Nat.reduceEqDiff, false_or, false_and, true_and, true_or, or_true]
  all_goals exact and_comm

/-! ### The rows -/

theorem i3cDisec_eq {s : State} (m : Nat) (hup : s.i3cUp = true) :
    s.i3cDisec m = if m % 2 = 1 then { s with port := { s.port with ibi := false } } else s := by
  have hbit : bit m 0 = true ↔ m % 2 = 1 := by
    unfold bit
    rw [Nat.testBit_zero, decide_eq_true_eq]
  unfold State.i3cDisec
  rw [hup]
  exact if_congr ((and_iff_right rfl).trans hbit) rfl rfl

/-- An offset for the target. -/
def State.i3cAt (s : State) (a : Nat) : State := { s with port := { s.port with off := a, fetchTo := s.time + 156250 } }

theorem i3cWrite_eq {s : State} {a : Nat} (d : Bytes) (hup : s.i3cUp = true) (hdyn : s.port.dyn ≠ none) (ha : a < 2 ^ 20) :
    s.i3cWrite (natLe 3 a ++ d) = if d.length = 4 then (s.i3cAt a).regWrite .i3c 0 a d else s.i3cAt a := by
  have hlen : (natLe 3 a).length = 3 := natLe_length 3 a
  have hoff : leNat ((natLe 3 a ++ d).take 3) = a := by
    rw [List.take_left' hlen]
    exact leNat_natLe_lt (by omega)
  have hdrop : (natLe 3 a ++ d).drop 3 = d := List.drop_left' hlen
  have hall : (natLe 3 a ++ d).length = 3 + d.length := by rw [List.length_append, hlen]
  have hgo : ¬ ((!s.i3cUp) = true ∨ s.port.dyn = none ∨ (natLe 3 a ++ d).length < 3 ∨ a / 2 ^ 20 ≠ 0) := by
    rw [hup, hall]
    rintro (h | h | h | h)
    · exact absurd h (by decide)
    · exact hdyn h
    · omega
    · exact h (Nat.div_eq_of_lt ha)
  unfold State.i3cWrite
  dsimp only
  rw [hoff, if_neg hgo, hdrop, hall]
  exact if_congr (by omega) rfl rfl

theorem regWrite_i3cCap {s : State} {v : Nat} (hv : v < 2 ^ 32) (hopen : s.bar0Open 0 0x6008 = true) :
    s.regWrite .i3c 0 0x6008 (natLe 4 v) = s.putFields .PWR_CAP 0 v (2 ^ 32 - 1) := by
  have hlen : (natLe 4 v).length = 4 := natLe_length 4 v
  have hfn : s.hasFn 0 = true := decide_eq_true (Nat.zero_le _)
  unfold State.regWrite
  dsimp only
  rw [hlen, hfn, hopen, if_neg (by decide), if_pos ⟨rfl, rfl, rfl, rfl⟩, barPut_cap s hv]

/-- What a private read of `n` bytes leaves, the bytes as they read in `u`. -/
def State.i3cTake (s u : State) (n : Nat) : State :=
  ({ s with port := { s.port with off := s.port.off + min n 256 } }).emit (.i3cRead ((List.range (min n 256)).map fun i =>
    if s.port.off + i < 0x2000 ∨ (0x4F00 ≤ s.port.off + i ∧ s.port.off + i < 0x5000) ∨ (0x6000 ≤ s.port.off + i ∧ s.port.off + i < 0x6600)
      then (u.peek 0 (s.port.off + i) 1).getD 0 0 else 0))

theorem i3cBytes (u : State) (off n : Nat) :
    ((List.range n).flatMap fun i => if i3cShows (off + i) then u.peek 0 (off + i) 1 else [0]) =
      (List.range n).map fun i => if off + i < 0x2000 ∨ (0x4F00 ≤ off + i ∧ off + i < 0x5000) ∨ (0x6000 ≤ off + i ∧ off + i < 0x6600)
        then (u.peek 0 (off + i) 1).getD 0 0 else 0 := by
  rw [← List.flatMap_pure_eq_map]
  refine List.flatMap_congr fun i _ => ?_
  have hshow : (i3cShows (off + i) = true ↔ off + i < 0x2000 ∨ (0x4F00 ≤ off + i ∧ off + i < 0x5000) ∨ (0x6000 ≤ off + i ∧ off + i < 0x6600)) := by
    unfold i3cShows
    simp only [Bool.or_eq_true, Bool.and_eq_true, decide_eq_true_eq, or_assoc]
  obtain ⟨b, hb⟩ := peek_one u (off + i)
  simp only [hshow, hb, Function.comp_apply]
  exact (apply_ite (fun b => [b]) _ _ _).symm

theorem i3cRead_eq {s : State} (n : Nat) (hup : s.i3cUp = true) (hdyn : s.port.dyn ≠ none) :
    s.i3cRead n = if s.time < s.port.fetchTo then (if s.freeVal.1 % 2 = 1 then s.freeVal.2.emit .i3cNack else s.freeVal.2.i3cTake s n) else s.i3cTake s n := by
  unfold State.i3cRead
  rw [if_neg (by rw [hup]; exact fun h => h.elim (by decide) hdyn)]
  dsimp only
  rw [i3cBytes, i3cBytes]
  unfold State.i3cTake State.freeVal
  rw [peek_free]

/-- The read of the ring has ended. -/
def State.ringRead (s : State) : State := ({ s with led := { s.led with busyRead := false } } : State).p LEDGER_FLAGS.BUSY 0 0

theorem ledgerReadDone_some {s : State} {r : LRec} (h : s.led.busyRead = true)
    (hr : s.led.recs.find? (fun r => decide (r.seq = s.g LEDGER_READ.SEQ)) = some r) :
    s.ledgerReadDone = ({ s.ringRead with led := { s.ringRead.led with data := recImage r } } : State).p LEDGER_FLAGS.DATA_VALID 0 1 := by
  have hr' : s.ringRead.led.recs.find? (fun r => decide (r.seq = s.g LEDGER_READ.SEQ)) = some r := hr
  unfold State.ledgerReadDone
  rw [h, if_neg (by decide)]
  change (match s.ringRead.led.recs.find? (fun r => decide (r.seq = s.g LEDGER_READ.SEQ)) with | some r => _ | none => _) = _
  rw [hr']
  rfl

theorem ledgerReadDone_none {s : State} (h : s.led.busyRead = true)
    (hr : s.led.recs.find? (fun r => decide (r.seq = s.g LEDGER_READ.SEQ)) = none) : s.ledgerReadDone = s.ringRead := by
  have hr' : s.ringRead.led.recs.find? (fun r => decide (r.seq = s.g LEDGER_READ.SEQ)) = none := hr
  unfold State.ledgerReadDone
  rw [h, if_neg (by decide)]
  change (match s.ringRead.led.recs.find? (fun r => decide (r.seq = s.g LEDGER_READ.SEQ)) with | some r => _ | none => _) = _
  rw [hr']
  rfl

/-- Settles O56: a port and the links go down where each was; the other rows are their definitions. -/
theorem ledgerAndSidePorts : Obligations.LedgerAndSidePorts := by
  intro s hp hq x y lost down links
  have hcalm : ∀ t : State, t.evq = s.evq → t.dev = s.dev → t.pending = s.pending → s.CalmTo t := fun t h1 h2 h3 => ⟨h1, by rw [h2], by rw [h2], h3⟩
  refine ⟨fun hlinks => ⟨fun hports => ?_, fun n hn hup hone hqps hrec => ?_⟩, ?_, fun htime => ⟨fun a => ?_, fun m => ?_, fun hdyn => ⟨fun a ha => ?_, fun n => ?_⟩⟩,
    fun code => ?_, ?_, fun ha => ?_, fun hm hbusy ha => ⟨?_, ?_⟩, fun u c hnext hbusy ha => ?_, fun hbusy => ?_⟩
  · have hrow : exec .serdesRefclkLoss s = act s (·.refclkLoss) := pinRow_powered (level := (·.refPin true)) hp
    have hrun : s.refclkLoss = links.foldl State.linkOff lost := by
      have hsame : (List.range 32).foldl (fun s n => s.portDown n) (s.refPin true) = lost :=
        foldl_same _ _ _ fun n hn => portDown_down (hports n (List.mem_range.1 hn))
      unfold State.refclkLoss
      dsimp only
      rw [hsame]
      exact (ploliDown_all (s := lost) hlinks 4 le_rfl).1
    refine act_calm hrow hp hrun ?_ hq
    exact State.CalmTo.trans ⟨rfl, rfl, rfl, rfl⟩ (linksOff_keeps lost links).1
  · have hrow : exec .serdesRefclkLoss s = act s (·.refclkLoss) := pinRow_powered (level := (·.refPin true)) hp
    have hoff : ∀ l < 4, ((lost.portOff n).raise { source := srcId 6 n 2 }).g PLOLI_LINK.STATE l = s.g PLOLI_LINK.STATE l := fun l _ =>
      State.g_p_other lost PORT_STATUS.LINK_UP PLOLI_LINK.STATE n l 0 (by decide)
    have hrun : s.refclkLoss = (links.foldl State.linkOff (lost.portOff n)).raise { source := srcId 6 n 2 } := by
      have hports : (List.range 32).foldl (fun s n => s.portDown n) (s.refPin true) = (lost.portOff n).raise { source := srcId 6 n 2 } :=
        portsDown_one (s := lost) hn hup hone hqps
      have hlist : (List.range 4).filter (fun l => decide (s.arec.role ≠ 0 ∧ ((lost.portOff n).raise { source := srcId 6 n 2 }).g PLOLI_LINK.STATE l ≠ 5)) = links :=
        List.filter_congr fun l hl => by rw [hoff l (List.mem_range.1 hl)]
      unfold State.refclkLoss
      dsimp only
      rw [hports]
      refine ((ploliDown_all (s := (lost.portOff n).raise { source := srcId 6 n 2 }) (fun l hl => by rw [hoff l hl]; exact hlinks l hl) 4 le_rfl).1).trans ?_
      rw [← linksOff_raise, ← hlist]
      rfl
    obtain ⟨hkeep, hreg⟩ := linksOff_keeps (lost.portOff n) links
    have hall : s.CalmTo (links.foldl State.linkOff (lost.portOff n)) := State.CalmTo.trans ⟨rfl, rfl, rfl, rfl⟩ hkeep
    refine act_raiseUc hrow hp hrun (hall.quiet hq) (State.recordedUc_congr hrec fun k j hk => ?_) hall.2.2.2 hall.2.2.1
    refine (hreg k j (by rintro rfl; exact absurd hk (by decide))).trans ?_
    exact State.reg_p_other lost PORT_STATUS.LINK_UP k n j 0 (by rintro rfl; exact absurd hk (by decide))
  · have hrow : exec .serdesRefclkReturn s = act s (·.refclkReturn) := pinRow_powered (level := (·.refPin false)) hp
    exact act_calm hrow hp rfl (hcalm _ rfl rfl rfl) hq
  · refine act_calm (f := (·.i3cAssign a)) rfl hp ?_ (hcalm _ rfl rfl rfl) hq
    exact if_pos (decide_eq_true htime)
  · have hrun := i3cDisec_eq m (decide_eq_true htime)
    refine act_calm (f := (·.i3cDisec m)) rfl hp hrun ?_ hq
    split_ifs
    · exact hcalm _ rfl rfl rfl
    · exact .refl s
  · refine ⟨fun d hd => ?_, fun v hv h6008 hopen hlo hhi hten hhyst => ?_⟩
    · exact act_calm (f := (·.i3cWrite (natLe 3 a ++ d))) rfl hp ((i3cWrite_eq d (decide_eq_true htime) hdyn ha).trans (if_neg hd)) (hcalm _ rfl rfl rfl) hq
    · subst h6008
      have hrun : s.i3cWrite (natLe 3 0x6008 ++ natLe 4 v) = (s.i3cAt 0x6008).p PWR_CAP.CAP_W 0 (bits v 11 0) := by
        rw [i3cWrite_eq _ (decide_eq_true htime) hdyn ha, if_pos (natLe_length 4 v), regWrite_i3cCap (s := s.i3cAt 0x6008) hv hopen, putFields_cap _ rfl hlo hhi hten hhyst]
      exact act_calm (f := (·.i3cWrite (natLe 3 0x6008 ++ natLe 4 v))) rfl hp hrun (State.CalmTo.p (hcalm (s.i3cAt 0x6008) rfl rfl rfl) _ _ _) hq
  · have hrun := i3cRead_eq n (decide_eq_true htime) hdyn
    refine ⟨fun hdone => ?_, fun hwait => ?_⟩
    · exact act_calm (f := (·.i3cRead n)) rfl hp (hrun.trans (if_neg (not_lt.2 hdone))) (hcalm _ rfl rfl rfl) hq
    · refine act_calm (f := (·.i3cRead n)) rfl hp (hrun.trans (if_pos hwait)) ?_ hq
      split_ifs
      · exact hcalm _ rfl rfl rfl
      · exact hcalm _ rfl rfl rfl
  · have hmay := tapMay_iff s code
    refine ⟨fun h => ?_, fun h => ?_⟩
    · refine act_calm (f := (·.tapLoad code)) rfl hp ?_ (hcalm _ rfl rfl rfl) hq
      unfold State.tapLoad
      rw [if_pos (hmay.2 h)]
    · refine act_calm (f := (·.tapLoad code)) rfl hp ?_ (hcalm _ rfl rfl rfl) hq
      unfold State.tapLoad
      rw [if_neg (fun h' => h (hmay.1 h'))]
  · exact act_calm (f := (·.tapRst)) rfl hp rfl (hcalm _ rfl rfl rfl) hq
  · obtain ⟨hlast, recs, next, heq⟩ := ledgerCounter_last (s := s) 1 ha
    refine ⟨_, act_calm (f := (·.ledgerPeriodic)) rfl hp heq (hcalm _ rfl rfl rfl) hq, ?_, ?_⟩
    · rw [← heq]
      exact hlast.lines
    · rw [State.lines_led, State.lines_nvm, State.lines_rf]
      exact ⟨rfl, rfl, rfl, rfl⟩
  · refine host_calm (f := (·.ledgerCalendar)) rfl hp hm ?_ (hcalm _ rfl rfl rfl) hq
    exact if_neg (by rw [hbusy, ha]; decide)
  · refine host_calm (f := (·.ledgerReadGo)) rfl hp hm ?_ (hcalm _ rfl rfl rfl) hq
    exact if_neg (by rw [hbusy, ha]; decide)
  · have hrun : s.ledgerCalendarDone = (({ s with led := { s.led with busyCal := false, calNext := none, pair := some (u, c) } } : State).ledger 0xD
        (natLe 8 u ++ natLe 8 c)).p LEDGER_FLAGS.BUSY 0 0 := by
      have hnext' : s.led.calNext = some (u, c) := hnext
      have hbusy' : s.led.busyCal = true := hbusy
      unfold State.ledgerCalendarDone
      rw [hnext']
      dsimp only
      rw [hbusy', if_neg (by decide)]
    obtain ⟨hlast, recs, next, heq⟩ := ledger_last (s := { s with led := { s.led with busyCal := false, calNext := none, pair := some (u, c) } }) 0xD
      (natLe 8 u ++ natLe 8 c) ha
    rw [heq] at hrun hlast
    refine ⟨_, act_calm (f := (·.ledgerCalendarDone)) rfl hp hrun (hcalm _ rfl rfl rfl) hq, ?_, ?_, ?_, ?_, ?_⟩
    · rw [State.lines_led]
      rfl
    · rw [State.lines_led]
      rfl
    · rw [State.lines_led]
      rfl
    · rw [State.lines_gb']
      exact State.gb_p_b2n _ _ _ false rfl (by decide)
    · exact State.LastRecord.lines (State.LastRecord.of hlast rfl (State.g_p_other _ LEDGER_FLAGS.BUSY STAMP_NOW.VALUE 0 0 0 (by decide)))
  · have hbusy' : s.led.busyRead = true := hbusy
    refine ⟨fun r hr => ?_, fun hnone => ?_⟩
    · exact act_calm (f := (·.ledgerReadDone)) rfl hp (ledgerReadDone_some hbusy' hr) (hcalm _ rfl rfl rfl) hq
    · have hr : s.led.recs.find? (fun r => decide (r.seq = s.g LEDGER_READ.SEQ)) = none :=
        List.find?_eq_none.2 fun r hr h => hnone r hr (of_decide_eq_true h)
      exact act_calm (f := (·.ledgerReadDone)) rfl hp (ledgerReadDone_none hbusy' hr) (hcalm _ rfl rfl rfl) hq

end Sys2Proof.Machine
end

section
/-!
# Staging, activation, trial and the library (15 R506 to R515)
-/
namespace Sys2Proof.Machine

/-! ### Image slots and results -/

theorem fwSlot_setFwSlot (s : State) (k : Nat) (x : FwSlot) : (s.setFwSlot k x).fwSlot k = x := tget_tset_same _ _ _ _

theorem fwSlot_setFwSlot_ne (s : State) {k j : Nat} (x : FwSlot) (h : j ≠ k) : (s.setFwSlot k x).fwSlot j = s.fwSlot j := by
  unfold State.fwSlot State.setFwSlot
  rw [tget_tset, if_neg h]

/-- A posted result: the registers, the record; the rest stays. -/
theorem post_spec {s : State} (kind result slotState version : Nat) (ha : s.dev.archRun = true) :
    (s.post kind result slotState version).LastRecord 8 (natLe 1 kind ++ natLe 1 result ++ natLe 1 slotState ++ zeros 1 ++ natLe 4 version) ∧
    (∃ rf recs next, s.post kind result slotState version = { s with rf := rf, led := { s.led with recs := recs, next := next } }) ∧
    ∀ k j, (s.post kind result slotState version).reg k j = ((s.p UPD_STATUS.RESULT 0 result).p UPD_STATUS.POSTED 0 1).reg k j := by
  obtain ⟨hlast, recs, next, heq⟩ := ledger_last (s := (s.p UPD_STATUS.RESULT 0 result).p UPD_STATUS.POSTED 0 1) 8
    (natLe 1 kind ++ natLe 1 result ++ natLe 1 slotState ++ zeros 1 ++ natLe 4 version) ha
  obtain ⟨rf, hrf⟩ := regs_p (s := s) (regs_p ⟨s.rf, rfl⟩ UPD_STATUS.RESULT 0 result) UPD_STATUS.POSTED 0 1
  unfold State.post
  refine ⟨hlast, ⟨rf, recs, next, ?_⟩, fun k j => ?_⟩
  · rw [heq, hrf]
  · exact State.reg_of_rf (by rw [heq]) k j

/-- The result register of a posted result. -/
theorem posted_regs (s : State) {result : Nat} (h : result < 256) :
    ((s.p UPD_STATUS.RESULT 0 result).p UPD_STATUS.POSTED 0 1).gb UPD_STATUS.POSTED = true ∧
    ((s.p UPD_STATUS.RESULT 0 result).p UPD_STATUS.POSTED 0 1).g UPD_STATUS.RESULT = result ∧
    ((s.p UPD_STATUS.RESULT 0 result).p UPD_STATUS.POSTED 0 1).g UPD_STATUS.STATE = s.g UPD_STATUS.STATE := by
  refine ⟨State.gb_p_b2n _ _ _ true rfl (by decide), ?_, ?_⟩
  · rw [State.g_p_field _ _ _ _ _ (by decide) (by decide) (by decide) (by decide) (by decide)]
    exact State.g_p_self _ _ _ _ (by decide) (by decide) h
  · rw [State.g_p_field _ _ _ _ _ (by decide) (by decide) (by decide) (by decide) (by decide),
      State.g_p_field _ _ _ _ _ (by decide) (by decide) (by decide) (by decide) (by decide)]

/-! ### Staging -/

theorem hdrCheck_crc (s : State) {h : Bytes} (hc : le h 0x1FFC 4 ≠ crc32c (h.take 0x1FFC)) : s.hdrCheck h = 2 := if_pos hc

theorem hdrCheck_magic (s : State) {h : Bytes} (hc : le h 0x1FFC 4 = crc32c (h.take 0x1FFC)) (hm : le h 0 4 ≠ 0x5746484D) : s.hdrCheck h = 3 :=
  (if_neg (not_not.2 hc)).trans (if_pos (.inl hm))

/-- A staging that has begun with the header `h`, before its check. -/
def State.begun (s : State) (h : Bytes) : State :=
  (({ s with fw := { s.fw with hdr := h, payload := [], spoiled := false, auth := none } } : State).p UPD_STATUS.STAGED 0 0).p UPD_STATUS.DETAIL 0 0

/-- A staging that failed, in the form of the statement. -/
def State.refused (t : State) (code : Nat) : State :=
  { ((t.p UPD_STATUS.STATE 0 0).p UPD_STATUS.RESULT 0 code).p UPD_STATUS.POSTED 0 1 with fw := { t.fw with payload := [], spoiled := false } }

theorem updFail_eq (t : State) (code : Nat) : t.updFail code = t.refused code := by
  unfold State.updFail State.refused
  dsimp only
  rw [State.p_fw, State.p_fw, State.p_fw]

/-- What the check of the header `h` leads to. -/
def State.checked (s : State) (h : Bytes) : State :=
  if (s.begun h).hdrCheck h = 1 then
    { (s.begun h).p UPD_STATUS.STATE 0 1 with fw := { (s.begun h).fw with auth := if le h 6 1 = 4 then some h else none } }
  else (s.begun h).refused ((s.begun h).hdrCheck h)

theorem State.fw_same {t : State} {x : FwSt} (h : x = t.fw) : { t with fw := x } = t := by
  rw [h]

theorem checked_eq (s : State) (h : Bytes) : s.checked h =
    if (s.begun h).hdrCheck h ≠ 1 then (s.begun h).updFail ((s.begun h).hdrCheck h)
    else if le h 6 1 = 4 then { (s.begun h).p UPD_STATUS.STATE 0 1 with fw := { ((s.begun h).p UPD_STATUS.STATE 0 1).fw with auth := some h } }
    else (s.begun h).p UPD_STATUS.STATE 0 1 := by
  unfold State.checked
  rw [ite_not, updFail_eq]
  refine if_congr Iff.rfl ?_ rfl
  have hfw : ((s.begun h).p UPD_STATUS.STATE 0 1).fw = (s.begun h).fw := State.p_fw _ _ _ _
  have hauth : { (s.begun h).fw with auth := none } = (s.begun h).fw := by
    unfold State.begun
    rw [State.p_fw, State.p_fw]
  by_cases h4 : le h 6 1 = 4
  · rw [if_pos h4, if_pos h4, hfw]
  · rw [if_neg h4, if_neg h4]
    exact State.fw_same (t := (s.begun h).p UPD_STATUS.STATE 0 1) (hauth.trans hfw.symm)

theorem updBegin_eq {s : State} (h : s.g UPD_STATUS.STATE = 0) (ha : s.dev.archRun = true) : s.updBegin = s.checked (s.fw.win.read 0 0x2000) := by
  rw [checked_eq]
  unfold State.updBegin
  rw [if_neg (by rw [h, ha]; decide)]
  rfl

theorem updSound {s : State} (hs : s.fw.spoiled = false) (hsha : Config.sha384 s.fw.payload = le s.fw.hdr 0x50 48) :
    ¬ (s.fw.spoiled = true ∨ Config.sha384 s.fw.payload ≠ le s.fw.hdr 0x50 48) := by
  rw [hs]
  exact fun h => h.elim Bool.false_ne_true fun h => h hsha

/-- The chunk in the window added to the payload, and written where it is a part's. -/
def State.chunkTaken (s : State) : State :=
  let d := s.fw.win.read 0 (s.g UPD_LEN.BYTES)
  { s with
    fw := { s.fw with payload := s.fw.payload ++ d }
    nvm := if le s.fw.hdr 6 1 = 3 then s.nvm else s.nvm.write (slotBase (s.stageSlot (le s.fw.hdr 6 1)) + 0x2000 + s.fw.payload.length) d }

section
variable {s : State} (h : s.g UPD_STATUS.STATE = 1) (ha : s.dev.archRun = true) (hk : le s.fw.hdr 6 1 ≠ 4)
include h ha hk

theorem updStages : ¬ (s.g UPD_STATUS.STATE ≠ 1 ∨ le s.fw.hdr 6 1 = 4 ∨ (!s.dev.archRun) = true) := by
  rw [h, ha]
  exact fun h => h.elim (fun h => h rfl) fun h => h.elim hk (by decide)

theorem updChunk_bad (hn : s.g UPD_LEN.BYTES = 0 ∨ 524288 < s.g UPD_LEN.BYTES ∨ le s.fw.hdr 0x28 4 < s.fw.payload.length + s.g UPD_LEN.BYTES) :
    s.updChunk = s.updFail 9 := by
  unfold State.updChunk
  rw [if_neg (updStages h ha hk), if_pos hn]

theorem updChunk_good (h0 : s.g UPD_LEN.BYTES ≠ 0) (hmax : s.g UPD_LEN.BYTES ≤ 524288) (hfit : s.fw.payload.length + s.g UPD_LEN.BYTES ≤ le s.fw.hdr 0x28 4) :
    s.updChunk = (s.chunkTaken.p UPD_STATUS.STAGED 0 (s.fw.payload.length + s.g UPD_LEN.BYTES)).p UPD_STATUS.STATE 0 2 := by
  unfold State.updChunk State.chunkTaken
  rw [if_neg (updStages h ha hk), if_neg (by omega)]

theorem updFinish_bad (hbad : s.fw.spoiled = true ∨ Config.sha384 s.fw.payload ≠ le s.fw.hdr 0x50 48) : s.updFinish = s.updFail 0xB := by
  unfold State.updFinish
  rw [if_neg (updStages h ha hk), if_pos hbad]

variable (hs : s.fw.spoiled = false) (hsha : Config.sha384 s.fw.payload = le s.fw.hdr 0x50 48)
include hs hsha

theorem updFinish_record_bad {f : CopyFail} (h3 : le s.fw.hdr 6 1 = 3) (hf : copyCheck (slice s.fw.payload) s.fuses.digest = some f) :
    s.updFinish = (s.updFail 0xC).p UPD_STATUS.DETAIL 0 f.code := by
  unfold State.updFinish
  rw [if_neg (updStages h ha hk), if_neg (updSound hs hsha), if_pos h3, hf]

theorem updFinish_record (h3 : le s.fw.hdr 6 1 = 3) (hf : copyCheck (slice s.fw.payload) s.fuses.digest = none) :
    s.updFinish = (({ s with nvm := (s.nvm.write 0x10000 s.fw.payload).write 0 s.fw.payload } : State).p UPD_STATUS.STATE 0 3).post 3 1 0 (le s.fw.hdr 8 4) := by
  unfold State.updFinish
  rw [if_neg (updStages h ha hk), if_neg (updSound hs hsha), if_pos h3, hf]

theorem updFinish_image_bad (h3 : le s.fw.hdr 6 1 ≠ 3)
    (hg : (Config.aesGcmOpen Config.fwKey (slice s.fw.hdr 0x30 12) [] s.fw.payload (slice s.fw.hdr 0x40 16)).isSome ≠ true) : s.updFinish = s.updFail 0xC := by
  unfold State.updFinish
  rw [if_neg (updStages h ha hk), if_neg (updSound hs hsha), if_neg h3, if_pos (by rw [← Option.not_isSome, Bool.eq_false_of_not_eq_true hg]; rfl)]

theorem updFinish_image (h3 : le s.fw.hdr 6 1 ≠ 3)
    (hg : (Config.aesGcmOpen Config.fwKey (slice s.fw.hdr 0x30 12) [] s.fw.payload (slice s.fw.hdr 0x40 16)).isSome = true) :
    s.updFinish = ((({ s with nvm := s.nvm.write (slotBase (s.stageSlot (le s.fw.hdr 6 1))) s.fw.hdr } : State).setFwSlot (s.stageSlot (le s.fw.hdr 6 1))
      { state := 3 }).p UPD_STATUS.STATE 0 3).post (le s.fw.hdr 6 1) 1 3 (le s.fw.hdr 8 4) := by
  unfold State.updFinish
  rw [if_neg (updStages h ha hk), if_neg (updSound hs hsha), if_neg h3, if_neg (by rw [← Option.not_isSome, hg]; decide)]

end

/-- The checks of a copy are numbered from 1 to 9. -/
theorem copyCheck_code {rd : Nat → Nat → Bytes} {digest : Nat} {f : CopyFail} (h : copyCheck rd digest = some f) : f.code ≤ 9 := by
  unfold copyCheck at h
  dsimp only at h
  split_ifs at h
  case neg =>
    split at h
    · cases h
      exact le_rfl
    · cases h
  all_goals
    cases h
    decide

/-- A staging that failed with `code`. -/
theorem updFail_regs (s : State) {code : Nat} (h : code < 256) : (s.updFail code).gb UPD_STATUS.POSTED = true ∧ (s.updFail code).g UPD_STATUS.STATE = 0 ∧
    (s.updFail code).g UPD_STATUS.RESULT = code := by
  have hreg : ∀ k j, (s.updFail code).reg k j = (((s.p UPD_STATUS.STATE 0 0).p UPD_STATUS.RESULT 0 code).p UPD_STATUS.POSTED 0 1).reg k j := fun k j => by
    unfold State.updFail State.reg
    rfl
  obtain ⟨hposted, hresult, hstate⟩ := posted_regs (s.p UPD_STATUS.STATE 0 0) h
  rw [State.gb_congr (f := UPD_STATUS.POSTED) (hreg _ 0), State.g_congr (f := UPD_STATUS.STATE) (hreg _ 0), State.g_congr (f := UPD_STATUS.RESULT) (hreg _ 0)]
  exact ⟨hposted, hstate.trans (State.g_p_self _ _ _ _ (by decide) (by decide) (by decide)), hresult⟩


/-! ### Trials -/

theorem svnRise_eq (s : State) : ∃ v, s.svnRise = { s with fuses := { s.fuses with svn := v } } ∧ (s.fuses.svn ≤ 64 → s.fuses.svn ≤ v) := by
  unfold State.svnRise
  split
  · split_ifs
    · exact ⟨_, rfl, fun h => le_min h (le_max_left _ _)⟩
    · exact ⟨_, rfl, fun _ => le_rfl⟩
  · exact ⟨_, rfl, fun _ => le_rfl⟩

/-- Slot `k` confirmed; an active slot `o` beside it becomes valid. -/
def State.confirmSlots (s : State) (k o : Nat) : State :=
  if (s.fwSlot o).state = 2 then (s.setFwSlot k { state := 2 }).setFwSlot o { state := 1 } else s.setFwSlot k { state := 2 }

theorem confirmSlots_spec (s : State) {k o : Nat} (h : o ≠ k) :
    (∃ slots, s.confirmSlots k o = { s with fw := { s.fw with slots := slots } }) ∧ ((s.confirmSlots k o).fwSlot k).state = 2 ∧
      ((s.confirmSlots k o).fwSlot o).state = if (s.fwSlot o).state = 2 then 1 else (s.fwSlot o).state := by
  unfold State.confirmSlots
  split_ifs
  · refine ⟨⟨_, rfl⟩, ?_, ?_⟩
    · rw [fwSlot_setFwSlot_ne _ _ h.symm, fwSlot_setFwSlot]
    · rw [fwSlot_setFwSlot]
  · refine ⟨⟨_, rfl⟩, ?_, ?_⟩
    · rw [fwSlot_setFwSlot]
    · rw [fwSlot_setFwSlot_ne _ _ h]

theorem slotHdr_congr {s t : State} (h : t.nvm = s.nvm) (k : Nat) : t.slotHdr k = s.slotHdr k := by
  unfold State.slotHdr
  rw [h]

/-- The trial of slot `k` confirmed, before its result is posted. -/
def State.confirmed (s : State) (k : Nat) : State :=
  (({ s.confirmSlots k (if k % 2 = 0 then k + 1 else k - 1) with
    fw := { (s.confirmSlots k (if k % 2 = 0 then k + 1 else k - 1)).fw with trial := none } } : State).tally fun t => { t with updates := t.updates + 1 }).svnRise

theorem other_ne (k : Nat) : (if k % 2 = 0 then k + 1 else k - 1) ≠ k := by
  split_ifs <;> omega

theorem confirmed_spec (s : State) (k : Nat) :
    (∃ slots v, s.confirmed k = { s with
      fw := { s.fw with slots := slots, trial := none }, led := { s.led with cur := { s.led.cur with updates := s.led.cur.updates + 1 } },
      fuses := { s.fuses with svn := v } } ∧ (s.fuses.svn ≤ 64 → s.fuses.svn ≤ v)) ∧
    ((s.confirmed k).fwSlot k).state = 2 ∧
    ((s.confirmed k).fwSlot (if k % 2 = 0 then k + 1 else k - 1)).state =
      if (s.fwSlot (if k % 2 = 0 then k + 1 else k - 1)).state = 2 then 1 else (s.fwSlot (if k % 2 = 0 then k + 1 else k - 1)).state := by
  obtain ⟨⟨slots, heq⟩, hk, ho⟩ := confirmSlots_spec s (other_ne k)
  obtain ⟨v, hv, hle⟩ := svnRise_eq (({ s.confirmSlots k (if k % 2 = 0 then k + 1 else k - 1) with
    fw := { (s.confirmSlots k (if k % 2 = 0 then k + 1 else k - 1)).fw with trial := none } } : State).tally fun t => { t with updates := t.updates + 1 })
  unfold State.confirmed
  rw [hv]
  rw [heq] at hk ho hle ⊢
  exact ⟨⟨slots, v, rfl, hle⟩, hk, ho⟩

theorem trialConfirm_eq {s : State} {k : Nat} (hk : s.fw.trial = some k) (ha : s.dev.archRun = true) (ht : s.time < s.fw.trialEnd)
    (hd : k < 2 ∨ s.dev.deskRun = true) :
    s.trialConfirm = (s.confirmed k).post (if k < 2 then 1 else 2) 1 2 (le (s.slotHdr k) 8 4) := by
  have hgo : ¬ (s.fw.trialEnd ≤ s.time ∨ (!s.dev.archRun) = true ∨ 2 ≤ k ∧ (!s.dev.deskRun) = true) := by
    rw [ha]
    rintro (h | h | ⟨h2, h⟩)
    · omega
    · exact absurd h (by decide)
    · obtain hd | hd := hd
      · omega
      · rw [hd] at h
        exact absurd h (by decide)
  have hhdr : (s.confirmed k).slotHdr k = s.slotHdr k := by
    obtain ⟨⟨slots, v, heq, -⟩, -, -⟩ := confirmed_spec s k
    exact slotHdr_congr (by rw [heq]) k
  rw [← hhdr]
  unfold State.trialConfirm State.confirmed State.confirmSlots
  rw [hk]
  dsimp only
  rw [if_neg hgo, fwSlot_setFwSlot_ne _ _ (other_ne k)]

/-- The trial of slot `k` failed, before its result is posted. -/
def State.failed (s : State) (k : Nat) : State :=
  { s.setFwSlot k { state := 5 } with fw := { (s.setFwSlot k { state := 5 }).fw with trial := none } }

theorem trialFail_eq {s : State} {k : Nat} (hk : s.fw.trial = some k) :
    s.trialFail k = (s.failed k).freeVal.2.post (if k < 2 then 1 else 2) ((s.failed k).freeVal.1 % 256) 5 (le ((s.failed k).slotHdr k) 8 4) := by
  unfold State.trialFail State.failed State.setFwSlot
  dsimp only
  rw [if_pos hk]

/-- A failed trial: the slot `FAILED`, no trial, a posted result. -/
theorem trialFail_spec {s : State} {k : Nat} (hk : s.fw.trial = some k) (ha : s.dev.archRun = true) :
    (∃ rf slots recs next free, s.trialFail k = { s with
      rf := rf, fw := { s.fw with slots := slots, trial := none }, led := { s.led with recs := recs, next := next }, free := free }) ∧
    ((s.trialFail k).fwSlot k).state = 5 ∧ (s.trialFail k).gb UPD_STATUS.POSTED = true ∧
    ∀ k' j, k' ≠ .UPD_STATUS → (s.trialFail k).reg k' j = s.reg k' j := by
  have hfail : (s.failed k).freeVal.2 = { s with fw := { s.fw with slots := tset (fun _ => {}) s.fw.slots k { state := 5 }, trial := none }, free := s.free + 1 } := rfl
  rw [trialFail_eq hk, hfail]
  generalize (s.failed k).freeVal.1 % 256 = v
  generalize le ((s.failed k).slotHdr k) 8 4 = ver
  obtain ⟨-, ⟨rf, recs, next, heq⟩, hreg⟩ := post_spec
    (s := { s with fw := { s.fw with slots := tset (fun _ => {}) s.fw.slots k { state := 5 }, trial := none }, free := s.free + 1 })
    (if k < 2 then 1 else 2) v 5 ver ha
  refine ⟨⟨rf, tset (fun _ => {}) s.fw.slots k { state := 5 }, recs, next, s.free + 1, heq⟩, ?_, ?_, fun k' j hne => ?_⟩
  · unfold State.fwSlot
    rw [heq]
    exact congrArg FwSlot.state (tget_tset_same (fun _ => {}) s.fw.slots k { state := 5 })
  · rw [State.gb_congr (f := UPD_STATUS.POSTED) (hreg _ 0)]
    exact State.gb_p_b2n _ UPD_STATUS.POSTED 0 true rfl (by decide)
  · rw [hreg, State.reg_p_other _ _ _ _ _ _ hne, State.reg_p_other _ _ _ _ _ _ hne]
    exact State.reg_of_rf rfl k' j

theorem trialTimeout_eq {s : State} {k : Nat} (hk : s.fw.trial = some k) (ha : s.dev.archRun = true) (ht : s.fw.trialEnd ≤ s.time) :
    s.trialTimeout = if k < 2 then s.trialFail k else (s.trialFail k).mgmtReset 2 := by
  unfold State.trialTimeout
  rw [hk]
  dsimp only
  rw [if_neg (by rw [ha]; exact fun h => h.elim (fun h => by omega) (by decide))]

/-- A MANAGEMENT reset for another cause than the watchdog. -/
theorem mgmtReset_goes {s : State} {cause : Nat} (hc : cause ≠ 1) (hs : s.inService = true) (hb : s.gb RESET_CTL.BUSY = false) (ha : s.dev.archRun = true)
    (hd : s.flt.deskHeld = false) : ∃ flt, s.mgmtReset cause = (({ s with
      flt := flt, dev := { s.dev with deskRun := false, intakePause := true }, fw := { s.fw with deskMem := [], refused := [] } } : State).p
        RESET_CTL.BUSY 0 1).tallyReset 3 := by
  have hhold : decide (cause = 1 ∧ 4 ≤ ((s.flt.deskTimes.filter fun t => decide (s.time < t + 93750000000)) ++ (if cause = 1 then [s.time] else [])).length) = false :=
    decide_eq_false fun h => hc h.1
  unfold State.mgmtReset
  rw [if_neg (by rw [hs, hb, ha, hd]; decide)]
  dsimp only
  rw [hhold, if_neg Bool.false_ne_true]
  exact ⟨_, rfl⟩

/-! ### The library -/

/-- Block `b` of the desk's library in the clear. -/
def State.libBlock (s : State) (k b : Nat) : Bytes :=
  Config.ctrOpen Config.fwKey (slice (s.slotHdr k) 0x30 12) (le (s.slotHdr k) 0x2C 4 + 65536 * b)
    (((s.slotPayload k).drop (le (s.slotHdr k) 0x2C 4 + 65536 * b)).take 65536)

theorem libRequest_eq {s : State} {k : Nat} (b a : Nat) (hk : s.fw.desk = some k) (hd : s.dev.deskRun = true) (ha : s.dev.archRun = true) :
    s.libRequest b a = if s.fw.libDig[b]? = some (Config.sha384 (s.libBlock k b)) then
        if a + (s.libBlock k b).length ≤ 2 ^ 24 then { s with fw := { s.fw with deskMem := s.fw.deskMem.write a (s.libBlock k b) } } else s
      else ({ s with fw := { s.fw with refused := s.fw.refused ++ [b] } } : State).raise { source := srcId 11 3 1, sev := some 1 } := by
  unfold State.libRequest State.libBlock
  rw [hk]
  dsimp only
  rw [if_neg (by rw [hd, ha]; decide)]

/-! ### What stays -/

theorem State.CalmTo.setFw {s t : State} (h : s.CalmTo t) (x : FwSt) : s.CalmTo { t with fw := x } := h.trans ⟨rfl, rfl, rfl, rfl⟩

theorem updFail_calm {s t : State} (h : s.CalmTo t) (code : Nat) : s.CalmTo (t.updFail code) := (((h.p _ _ _).p _ _ _).p _ _ _).setFw _

theorem checked_bad {s : State} {h : Bytes} (hne : (s.begun h).hdrCheck h ≠ 1) : s.checked h = (s.begun h).refused ((s.begun h).hdrCheck h) := if_neg hne

theorem begun_calm (s : State) (h : Bytes) : s.CalmTo (s.begun h) := ((State.CalmTo.setFw (.refl s) _).p _ _ _).p _ _ _

theorem checked_calm (s : State) (h : Bytes) : s.CalmTo (s.checked h) := by
  unfold State.checked
  by_cases hc : (s.begun h).hdrCheck h = 1
  · rw [if_pos hc]
    exact ((begun_calm s h).p _ _ _).setFw _
  · rw [if_neg hc]
    rw [← updFail_eq]
    exact updFail_calm (begun_calm s h) _

/-- The registers after a posted result. -/
theorem post_regs {s : State} (kind : Nat) {result : Nat} (slotState version : Nat) (ha : s.dev.archRun = true) (h : result < 256) :
    (s.post kind result slotState version).gb UPD_STATUS.POSTED = true ∧ (s.post kind result slotState version).g UPD_STATUS.RESULT = result ∧
    (s.post kind result slotState version).g UPD_STATUS.STATE = s.g UPD_STATUS.STATE := by
  obtain ⟨-, -, hreg⟩ := post_spec (s := s) kind result slotState version ha
  rw [State.gb_congr (f := UPD_STATUS.POSTED) (hreg _ 0), State.g_congr (f := UPD_STATUS.STATE) (hreg _ 0), State.g_congr (f := UPD_STATUS.RESULT) (hreg _ 0)]
  exact posted_regs s h

/-- A staged image `PENDING`, before its result is posted. -/
def State.pended (s : State) (k : Nat) : State :=
  (({ s with nvm := s.nvm.write (slotBase k) s.fw.hdr } : State).setFwSlot k { state := 3 }).p UPD_STATUS.STATE 0 3

/-- What `UPD_FINISH` leaves of a sound image for slot `k`. -/
theorem pended_post {s : State} (k : Nat) (ha : s.dev.archRun = true) :
    let t := (s.pended k).post (le s.fw.hdr 6 1) 1 3 (le s.fw.hdr 8 4)
    s.CalmTo t ∧ t.gb UPD_STATUS.POSTED = true ∧ t.g UPD_STATUS.STATE = 3 ∧ t.g UPD_STATUS.RESULT = 1 ∧ t.fwSlot k = { state := 3 } ∧
      t.nvm = s.nvm.write (slotBase k) s.fw.hdr ∧ (∀ j, j ≠ k → t.fwSlot j = s.fwSlot j) ∧
      t.LastRecord 8 (natLe 1 (le s.fw.hdr 6 1) ++ natLe 1 1 ++ natLe 1 3 ++ zeros 1 ++ natLe 4 (le s.fw.hdr 8 4)) := by
  obtain ⟨hposted, hresult, hstate⟩ := post_regs (s := s.pended k) (le s.fw.hdr 6 1) (result := 1) 3 (le s.fw.hdr 8 4) ha (by decide)
  obtain ⟨hlast, ⟨rf, recs, next, heq⟩, -⟩ := post_spec (s := s.pended k) (le s.fw.hdr 6 1) 1 3 (le s.fw.hdr 8 4) ha
  dsimp only
  have hslots : ((s.pended k).post (le s.fw.hdr 6 1) 1 3 (le s.fw.hdr 8 4)).fw.slots = tset (fun _ => {}) s.fw.slots k { state := 3 } := by rw [heq]; rfl
  refine ⟨by rw [heq]; exact ⟨rfl, rfl, rfl, rfl⟩, hposted, hstate.trans (State.g_p_self _ _ _ _ (by decide) (by decide) (by decide)), hresult, ?_, by rw [heq]; rfl,
    fun j hj => ?_, hlast⟩
  · unfold State.fwSlot
    rw [hslots]
    exact tget_tset_same _ _ _ _
  · unfold State.fwSlot
    rw [hslots, tget_tset, if_neg hj]

/-- Both copies of the record written, before the result is posted. -/
def State.copied (s : State) : State := ({ s with nvm := (s.nvm.write 0x10000 s.fw.payload).write 0 s.fw.payload } : State).p UPD_STATUS.STATE 0 3

/-- What `UPD_FINISH` leaves of a sound record. -/
theorem copied_post {s : State} (ver : Nat) (ha : s.dev.archRun = true) :
    let t := s.copied.post 3 1 0 ver
    s.CalmTo t ∧ t.gb UPD_STATUS.POSTED = true ∧ t.g UPD_STATUS.STATE = 3 ∧ t.g UPD_STATUS.RESULT = 1 ∧ t.fw = s.fw ∧
      t.nvm = (s.nvm.write 0x10000 s.fw.payload).write 0 s.fw.payload ∧ t.arec = s.arec := by
  obtain ⟨hposted, hresult, hstate⟩ := post_regs (s := s.copied) 3 (result := 1) 0 ver ha (by decide)
  obtain ⟨-, ⟨rf, recs, next, heq⟩, -⟩ := post_spec (s := s.copied) 3 1 0 ver ha
  dsimp only
  refine ⟨by rw [heq]; exact ⟨rfl, rfl, rfl, rfl⟩, hposted, hstate.trans (State.g_p_self _ _ _ _ (by decide) (by decide) (by decide)), hresult, ?_, ?_, ?_⟩
  · rw [heq]
    rfl
  · rw [heq]
    rfl
  · rw [heq]
    rfl

/-- What `UPD_FINISH` leaves of a record that check `code` refuses. -/
theorem recordFail_regs (s : State) {code : Nat} (h : code ≤ 9) :
    ((s.updFail 0xC).p UPD_STATUS.DETAIL 0 code).gb UPD_STATUS.POSTED = true ∧ ((s.updFail 0xC).p UPD_STATUS.DETAIL 0 code).g UPD_STATUS.STATE = 0 ∧
    ((s.updFail 0xC).p UPD_STATUS.DETAIL 0 code).g UPD_STATUS.RESULT = 0xC ∧ ((s.updFail 0xC).p UPD_STATUS.DETAIL 0 code).g UPD_STATUS.DETAIL = code := by
  obtain ⟨hposted, hstate, hresult⟩ := updFail_regs s (code := 0xC) (by decide)
  refine ⟨?_, ?_, ?_, State.g_p_self _ _ _ _ (by decide) (by decide) (lt_of_le_of_lt h (by decide))⟩
  · rw [State.gb_p_field _ _ _ _ _ (by decide) (by decide) (by decide) (by decide) (by decide)]
    exact hposted
  · rw [State.g_p_field _ _ _ _ _ (by decide) (by decide) (by decide) (by decide) (by decide)]
    exact hstate
  · rw [State.g_p_field _ _ _ _ _ (by decide) (by decide) (by decide) (by decide) (by decide)]
    exact hresult

/-- What `TRIAL_CONFIRM` leaves. -/
theorem confirmed_post {s : State} (k : Nat) (ha : s.dev.archRun = true) :
    let o := if k % 2 = 0 then k + 1 else k - 1
    let part := if k < 2 then 1 else 2
    let t := (s.confirmed k).post part 1 2 (le (s.slotHdr k) 8 4)
    s.CalmTo t ∧ (t.fwSlot k).state = 2 ∧ (t.fwSlot o).state = (if (s.fwSlot o).state = 2 then 1 else (s.fwSlot o).state) ∧ t.fw.trial = none ∧
      t.g UPD_STATUS.RESULT = 1 ∧ t.gb UPD_STATUS.POSTED = true ∧ t.led.cur.updates = s.led.cur.updates + 1 ∧ (s.fuses.svn ≤ 64 → s.fuses.svn ≤ t.fuses.svn) ∧
      t.nvm = s.nvm ∧ t.LastRecord 8 (natLe 1 part ++ natLe 1 1 ++ natLe 1 2 ++ zeros 1 ++ natLe 4 (le (s.slotHdr k) 8 4)) := by
  intro o part
  obtain ⟨⟨slots, v, heq, hsvn⟩, hslot, hother⟩ := confirmed_spec s k
  generalize le (s.slotHdr k) 8 4 = ver
  have ha' : (s.confirmed k).dev.archRun = true := by
    rw [heq]
    exact ha
  obtain ⟨hposted, hresult, -⟩ := post_regs (s := s.confirmed k) part (result := 1) 2 ver ha' (by decide)
  obtain ⟨hlast, ⟨rf, recs, next, hpost⟩, -⟩ := post_spec (s := s.confirmed k) part 1 2 ver ha'
  have hfw : ((s.confirmed k).post part 1 2 ver).fw = (s.confirmed k).fw := by rw [hpost]
  dsimp only
  refine ⟨?_, ?_, ?_, ?_, hresult, hposted, ?_, ?_, ?_, hlast⟩
  · rw [hpost, heq]
    exact ⟨rfl, rfl, rfl, rfl⟩
  · unfold State.fwSlot
    rw [hfw]
    exact hslot
  · unfold State.fwSlot
    rw [hfw]
    exact hother
  · rw [hfw, heq]
  · rw [hpost, heq]
  · rw [hpost, heq]
    exact hsvn
  · rw [hpost, heq]

/-- Settles O57: the window, the slots and the posted results of each row. -/
theorem updatesAndTrials : Obligations.UpdatesAndTrials := by
  intro s hp hq x kind size fails
  have hcalm : ∀ t : State, t.evq = s.evq → t.dev = s.dev → t.pending = s.pending → s.CalmTo t := fun t h1 h2 h3 => ⟨h1, by rw [h2], by rw [h2], h3⟩
  refine ⟨fun hm => ⟨fun hst ha => ?_, fun hst ha hkind => ?_, fun hst => ?_, fun hst => ?_, fun hpend hserv hbusy ha hheld => ?_⟩, fun hst => ?_,
    fun k hk htrial ha => ?_, fun k b a hk hd ha => ?_⟩
  · intro h begun
    have hrun : s.updBegin = s.checked h := updBegin_eq hst ha
    clear_value h
    have hkeep := checked_calm s h
    have hbad : ∀ code, (s.begun h).hdrCheck h = code → code ≠ 1 → exec .updBegin s = .next ((s.begun h).refused code).lines := by
      rintro code rfl hne
      exact host_calm (f := (·.updBegin)) rfl hp hm (hrun.trans (checked_bad hne)) (by rw [← checked_bad hne]; exact hkeep) hq
    refine ⟨fun hcrc => hbad 2 (hdrCheck_crc (s.begun h) hcrc) (by decide), fun hcrc hmagic => hbad 3 (hdrCheck_magic (s.begun h) hcrc hmagic) (by decide),
      fun hne => hbad _ rfl hne, ?_⟩
    exact host_calm (f := (·.updBegin)) rfl hp hm hrun hkeep hq
  · intro n o d p
    refine ⟨fun hn => ?_, fun h0 hmax hfit => ?_, fun hsp => ?_, fun h12 hsp => ?_, fun h3 hsp => ?_⟩
    · exact host_calm (f := (·.updChunk)) rfl hp hm (updChunk_bad hst ha hkind hn) (updFail_calm (.refl s) _) hq
    · exact host_calm (f := (·.updChunk)) rfl hp hm (updChunk_good hst ha hkind h0 hmax hfit)
        (State.CalmTo.p (State.CalmTo.p (hcalm s.chunkTaken rfl rfl rfl) _ _ _) _ _ _) hq
    · exact host_calm (f := (·.updFinish)) rfl hp hm (updFinish_bad hst ha hkind (.inl hsp)) (updFail_calm (.refl s) _) hq
    · intro k ok
      have h3 : kind ≠ 3 := by omega
      by_cases hsha : Config.sha384 p = le x.hdr 0x50 48
      · by_cases hg : (Config.aesGcmOpen Config.fwKey (slice x.hdr 0x30 12) [] p (slice x.hdr 0x40 16)).isSome = true
        · obtain ⟨hkeep, hposted, hstate, hresult, hslot, hnvm, hother, hlast⟩ := pended_post (s := s) k ha
          refine ⟨_, host_calm (f := (·.updFinish)) rfl hp hm (updFinish_image hst ha hkind hsp hsha h3 hg) hkeep hq, ?_, fun _ => ?_, fun hno => absurd ⟨hsha, hg⟩ hno⟩
          · rw [State.lines_gb']
            exact hposted
          · rw [State.lines_g', State.lines_g', State.lines_nvm]
            refine ⟨hstate, hresult, ?_, hnvm, fun j hj => ?_, hlast.lines⟩
            · unfold State.fwSlot
              rw [State.lines_fw]
              exact hslot
            · unfold State.fwSlot
              rw [State.lines_fw]
              exact hother j hj
        · obtain ⟨hposted, hstate, hresult⟩ := updFail_regs s (code := 0xC) (by decide)
          refine ⟨_, host_calm (f := (·.updFinish)) rfl hp hm (updFinish_image_bad hst ha hkind hsp hsha h3 hg) (updFail_calm (.refl s) _) hq, ?_,
            fun hok => absurd hok.2 hg, fun _ => ?_⟩
          · rw [State.lines_gb']
            exact hposted
          · rw [State.lines_g', State.lines_g', State.lines_nvm, State.lines_fw, if_pos hsha]
            exact ⟨hstate, hresult, rfl, rfl, rfl⟩
      · obtain ⟨hposted, hstate, hresult⟩ := updFail_regs s (code := 0xB) (by decide)
        refine ⟨_, host_calm (f := (·.updFinish)) rfl hp hm (updFinish_bad hst ha hkind (.inr hsha)) (updFail_calm (.refl s) _) hq, ?_,
          fun hok => absurd hok.1 hsha, fun _ => ?_⟩
        · rw [State.lines_gb']
          exact hposted
        · rw [State.lines_g', State.lines_g', State.lines_nvm, State.lines_fw, if_neg hsha]
          exact ⟨hstate, hresult, rfl, rfl, rfl⟩
    · intro ok bad
      by_cases hsha : Config.sha384 p = le x.hdr 0x50 48
      · cases hbad : copyCheck (slice p) s.fuses.digest with
        | none =>
          obtain ⟨hkeep, hposted, hstate, hresult, hfw, hnvm, harec⟩ := copied_post (s := s) (le x.hdr 8 4) ha
          refine ⟨_, host_calm (f := (·.updFinish)) rfl hp hm (updFinish_record hst ha hkind hsp hsha h3 hbad) hkeep hq, ?_, ?_, fun _ _ => ?_, fun f _ hf => ?_,
            fun hno => absurd hsha hno⟩
          · rw [State.lines_gb']
            exact hposted
          · rw [State.lines_fw]
            exact congrArg FwSt.slots hfw
          · rw [State.lines_g', State.lines_g', State.lines_nvm, State.lines_arec]
            exact ⟨hstate, hresult, hnvm, harec⟩
          · exact absurd (hbad.symm.trans hf) (by simp)
        | some f =>
          obtain ⟨hposted, hstate, hresult, hdetail⟩ := recordFail_regs s (copyCheck_code hbad)
          refine ⟨_, host_calm (f := (·.updFinish)) rfl hp hm (updFinish_record_bad hst ha hkind hsp hsha h3 hbad) ((updFail_calm (.refl s) _).p _ _ _) hq, ?_, ?_,
            fun _ hf => absurd (hbad.symm.trans hf) (by simp), fun f' _ hf => ?_, fun hno => absurd hsha hno⟩
          · rw [State.lines_gb']
            exact hposted
          · rw [State.lines_fw, State.p_fw]
            rfl
          · obtain rfl : f = f' := Option.some.inj (hbad.symm.trans hf)
            rw [State.lines_g', State.lines_g', State.lines_g', State.lines_nvm, State.p_nvm]
            exact ⟨hstate, hresult, hdetail, rfl⟩
      · obtain ⟨hposted, hstate, hresult⟩ := updFail_regs s (code := 0xB) (by decide)
        refine ⟨_, host_calm (f := (·.updFinish)) rfl hp hm (updFinish_bad hst ha hkind (.inr hsha)) (updFail_calm (.refl s) _) hq, ?_, ?_,
          fun hok => absurd hok hsha, fun _ hok => absurd hok hsha, fun _ => ?_⟩
        · rw [State.lines_gb']
          exact hposted
        · rw [State.lines_fw]
          rfl
        · rw [State.lines_g', State.lines_g', State.lines_nvm]
          exact ⟨hstate, hresult, rfl⟩
  · have hrun : s.updAbort = ({ s with fw := { s.fw with auth := none } } : State).updFail 0xE := if_pos hst
    exact host_calm (f := (·.updAbort)) rfl hp hm hrun (updFail_calm (State.CalmTo.setFw (.refl s) _) _) hq
  · have hrun : s.updAbort = s.p UPD_STATUS.STATE 0 0 := if_neg (by rw [hst]; decide)
    exact host_calm (f := (·.updAbort)) rfl hp hm hrun (State.CalmTo.p (.refl s) _ _ _) hq
  · obtain ⟨flt, hreset⟩ := mgmtReset_goes (cause := 2) (by decide) hserv hbusy ha hheld
    have hrun : s.updActivate = s.mgmtReset 2 := if_pos hpend
    refine ⟨_, host_calm (f := (·.updActivate)) rfl hp hm (hrun.trans hreset) ⟨rfl, rfl, rfl, rfl⟩ hq, ?_⟩
    rw [State.lines_gb', State.lines_dev, State.lines_fw, State.lines_slots, State.lines_car]
    exact ⟨State.gb_p_b2n _ RESET_CTL.BUSY 0 true rfl (by decide), rfl, rfl, rfl, rfl, rfl, rfl⟩
  · have hrun : s.updChunkDone = s.p UPD_STATUS.STATE 0 1 := if_pos hst
    exact act_calm (f := (·.updChunkDone)) rfl hp hrun (State.CalmTo.p (.refl s) _ _ _) hq
  · intro o ver part
    refine ⟨fun htime hdesk => ?_, fun htime hk2 => ?_, fun htime hk2 hserv hbusy hheld => ?_⟩
    · obtain ⟨hkeep, hslot, hother, hrest⟩ := confirmed_post (s := s) k ha
      refine ⟨_, act_calm (f := (·.trialConfirm)) rfl hp (trialConfirm_eq htrial ha htime hdesk) hkeep hq, ?_, ?_, ?_⟩
      · unfold State.fwSlot
        rw [State.lines_fw]
        exact hslot
      · unfold State.fwSlot
        rw [State.lines_fw]
        exact hother
      · obtain ⟨htrial', hresult, hposted, hupd, hsvn, hnvm, hlast⟩ := hrest
        rw [State.lines_fw, State.lines_g', State.lines_gb', State.lines_led, State.lines_fuses, State.lines_nvm]
        exact ⟨htrial', hresult, hposted, hupd, hsvn, hnvm, hlast.lines⟩
    · obtain ⟨⟨rf, slots, recs, next, free, heq⟩, hslot, hposted, -⟩ := trialFail_spec htrial ha
      have hrun : s.trialTimeout = s.trialFail k := (trialTimeout_eq htrial ha htime).trans (if_pos hk2)
      refine ⟨_, act_calm (f := (·.trialTimeout)) rfl hp hrun (by rw [heq]; exact ⟨rfl, rfl, rfl, rfl⟩) hq, ?_, ?_, ?_, ?_, ?_⟩
      · unfold State.fwSlot
        rw [State.lines_fw]
        exact hslot
      · rw [State.lines_fw, heq]
      · rw [State.lines_gb']
        exact hposted
      · rw [State.lines_dev, heq]
      · rw [State.lines_fw, heq]
    · obtain ⟨⟨rf, slots, recs, next, free, heq⟩, hslot, -, hreg⟩ := trialFail_spec htrial ha
      have hserv' : (s.trialFail k).inService = true := by
        rw [← hserv]
        unfold State.inService
        rw [State.g_congr (f := DEV_STATUS.STATE) (hreg .DEV_STATUS 0 (by decide))]
      have hbusy' : (s.trialFail k).gb RESET_CTL.BUSY = false := by
        rw [State.gb_congr (f := RESET_CTL.BUSY) (hreg .RESET_CTL 0 (by decide)), hbusy]
      obtain ⟨flt, hreset⟩ := mgmtReset_goes (s := s.trialFail k) (cause := 2) (by decide) hserv' hbusy' (by rw [heq]; exact ha) (by rw [heq]; exact hheld)
      have hrun : s.trialTimeout = (s.trialFail k).mgmtReset 2 := (trialTimeout_eq htrial ha htime).trans (if_neg (by omega))
      have hkeep : s.CalmTo (s.trialFail k) := by
        rw [heq]
        exact ⟨rfl, rfl, rfl, rfl⟩
      refine ⟨_, act_calm (f := (·.trialTimeout)) rfl hp (hrun.trans hreset) (hkeep.trans ⟨rfl, rfl, rfl, rfl⟩) hq, ?_, ?_, ?_, ?_⟩
      · unfold State.fwSlot
        rw [State.lines_fw]
        exact hslot
      · rw [State.lines_fw]
        exact congrArg FwSt.trial (congrArg State.fw heq)
      · rw [State.lines_gb']
        exact State.gb_p_b2n _ RESET_CTL.BUSY 0 true rfl (by decide)
      · rw [State.lines_dev]
        exact ⟨rfl, rfl⟩
  · intro h o d
    have hrun := libRequest_eq b a hk hd ha
    refine ⟨fun hdig hfit => ?_, fun hout hrec => ?_⟩
    · exact act_calm (f := (·.libRequest b a)) rfl hp (hrun.trans ((if_pos hdig).trans (if_pos hfit))) (State.CalmTo.setFw (.refl s) _) hq
    · have hno : s.fw.libDig[b]? ≠ some (Config.sha384 (s.libBlock k b)) := by
        rw [List.getElem?_eq_none hout]
        exact Option.some_ne_none _ ∘ Eq.symm
      have hkeep : s.CalmTo { s with fw := { s.fw with refused := s.fw.refused ++ [b] } } := State.CalmTo.setFw (.refl s) _
      exact act_raiseUc (f := (·.libRequest b a)) rfl hp (hrun.trans (if_neg hno)) (hkeep.quiet hq) (State.recordedUc_congr hrec fun _ _ _ => rfl)

end Sys2Proof.Machine
end

section
/-!
# Channel map-out (08 R312 to R315)
-/
namespace Sys2Proof.Machine

/-! ### What the map-out reads -/

theorem colOfChan_congr {s t : State} (h : ∀ e, t.reg .CMAP e = s.reg .CMAP e) (q : Nat) : t.colOfChan q = s.colOfChan q := by
  have hg : ∀ f e, f.reg = .CMAP → t.g f e = s.g f e := fun f e hf => State.g_congr (by rw [hf, h])
  unfold State.colOfChan
  simp only [hg CMAP.CHANNEL _ rfl, hg CMAP.STATE _ rfl]

theorem mapoutRoom_congr {s t : State} (h : ∀ e, t.reg .CMAP e = s.reg .CMAP e) (hm : t.dmem.mapped = s.dmem.mapped) (st : Nat) :
    t.mapoutRoom st = s.mapoutRoom st := by
  have hg : ∀ f e, f.reg = .CMAP → t.g f e = s.g f e := fun f e hf => State.g_congr (by rw [hf, h])
  unfold State.mapoutRoom State.outOf
  simp only [hg CMAP.CHANNEL _ rfl, hg CMAP.STATE _ rfl, hm]

theorem cuts_congr {s t : State} (h : ∀ p, t.reg .MEM_PART p = s.reg .MEM_PART p) (hcap : t.dmem.cap = s.dmem.cap) (harec : t.arec = s.arec) :
    t.cuts = s.cuts := by
  have hg : ∀ p, t.g MEM_PART.TOTAL p = s.g MEM_PART.TOTAL p := fun p => State.g_congr (h p)
  unfold State.cuts State.spareFrames State.partCount
  simp only [hg, hcap, harec]

theorem cutFits_congr {s t : State} (h : ∀ p, t.reg .MEM_PART p = s.reg .MEM_PART p) (ho : t.dmem.owner = s.dmem.owner) : t.cutFits = s.cutFits := by
  have hg : ∀ f p, f.reg = .MEM_PART → t.g f p = s.g f p := fun f p hf => State.g_congr (by rw [hf, h])
  unfold State.cutFits State.framesUsed
  simp only [hg MEM_PART.TOTAL _ rfl, hg MEM_PART.CUT _ rfl, ho]

theorem colOfChan_lt {s : State} {q col : Nat} (h : s.colOfChan q = some col) : col < 384 :=
  List.mem_range.1 (List.mem_of_find?_eq_some h)

/-! ### The cut -/

theorem le_foldl_add (f : Nat → Nat) (l : List Nat) (a : Nat) : a ≤ l.foldl (fun a p => a + f p) a := by
  induction l generalizing a with
  | nil => exact le_rfl
  | cons x xs ih => exact (Nat.le_add_right a (f x)).trans (ih (a + f x))

theorem mem_le_foldl_add (f : Nat → Nat) {l : List Nat} {x : Nat} (hx : x ∈ l) (a : Nat) : f x ≤ l.foldl (fun a p => a + f p) a := by
  induction l generalizing a with
  | nil => cases hx
  | cons y ys ih =>
    obtain rfl | hx := List.mem_cons.1 hx
    · exact (Nat.le_add_left (f x) a).trans (le_foldl_add f ys (a + f x))
    · exact ih hx (a + f y)

/-- A share's part of a cut fits into its register. -/
theorem cuts_lt (s : State) {p : Nat} (hp : p < 8) : s.cuts.getD p 0 < 4096 := by
  have hget : ∀ g : Nat → Nat, ((List.range 8).map g).getD p 0 = g p := fun g => by
    rw [List.getD_eq_getElem _ _ (by rw [List.length_map, List.length_range]; exact hp), List.getElem_map, List.getElem_range]
  unfold State.cuts
  rw [hget, hget]
  generalize htot : (List.range 8).foldl (fun a p => a + s.g MEM_PART.TOTAL p) 0 = tot
  generalize hrest : 1024 - min 1024 s.spareFrames = rest
  generalize (List.map _ (List.range 8)).foldl (· + ·) 0 = b
  have hr : rest ≤ 1024 := by omega
  have hle : s.g MEM_PART.TOTAL p ≤ tot := by
    rw [← htot]
    exact mem_le_foldl_add (fun p => s.g MEM_PART.TOTAL p) (List.mem_range.2 hp) 0
  have hbase : (if tot = 0 then 0 else rest * s.g MEM_PART.TOTAL p / tot) ≤ rest := by
    split_ifs
    · exact Nat.zero_le _
    · exact Nat.div_le_of_le_mul (by rw [Nat.mul_comm tot]; exact Nat.mul_le_mul_left rest hle)
  have hshare : (if p < max 1 s.partCount then (rest - b) / max 1 s.partCount + (if p < (rest - b) % max 1 s.partCount then 1 else 0) else 0) ≤ rest + 1 := by
    have hdiv : (rest - b) / max 1 s.partCount ≤ rest := (Nat.div_le_self _ _).trans (Nat.sub_le _ _)
    split_ifs <;> omega
  omega

/-- A write of one field leaves the other fields of its register kind, of every index below 65,536. -/
theorem State.g_p_apart (s : State) {f f' : Fld} {i j : Nat} (v : Nat) (hi : i < 65536) (hj : j < 65536) (hr : f'.reg = f.reg) (h : f.lo ≤ f.hi) (h6 : f.hi < 64)
    (hd : f.hi < f'.lo ∨ f'.hi < f.lo) (h' : f'.lo ≤ f'.hi) : (s.p f i v).g f' j = s.g f' j := by
  by_cases hij : j = i
  · subst hij
    exact State.g_p_field s f f' j v hr h h6 hd h'
  · exact State.g_congr (State.reg_p_ne _ _ _ _ _ _ (.inr (by omega)))

/-- The parts of a cut set down for the shares, nothing yet copied. -/
def State.cutSet (s : State) (cs : List Nat) : State :=
  (List.range 8).foldl (fun s p => s.p MEM_PART.CUT p (cs.getD p 0)) (s.p MEM_MAPOUT.PROGRESS 0 0)

theorem cutSet_spec (s : State) (cs : List Nat) (hcs : ∀ p < 8, cs.getD p 0 < 4096) :
    (∃ r, s.cutSet cs = { s with rf := r }) ∧ (∀ k j, k ≠ .MEM_PART → k ≠ .MEM_MAPOUT → (s.cutSet cs).reg k j = s.reg k j) ∧
    (s.cutSet cs).g MEM_MAPOUT.PROGRESS = 0 ∧
    ∀ p < 8, (s.cutSet cs).g MEM_PART.CUT p = cs.getD p 0 ∧ (s.cutSet cs).g MEM_PART.TOTAL p = s.g MEM_PART.TOTAL p := by
  obtain ⟨-, hreg, hcut⟩ := foldl_p (s.p MEM_MAPOUT.PROGRESS 0 0) MEM_PART.CUT (by decide) (by decide) (fun p => cs.getD p 0) 8 (by decide)
  have htotal : ∀ p < 8, (s.cutSet cs).g MEM_PART.TOTAL p = s.g MEM_PART.TOTAL p := fun p hp => by
    refine foldl_keeps (fun t : State => t.g MEM_PART.TOTAL p = s.g MEM_PART.TOTAL p) _ _ _ (State.g_p_other _ _ _ _ _ _ (by decide)) fun t x hx ht => ?_
    have hx := List.mem_range.1 hx
    show (t.p MEM_PART.CUT x (cs.getD x 0)).g MEM_PART.TOTAL p = s.g MEM_PART.TOTAL p
    rw [State.g_p_apart t _ (by omega) (by omega) (by decide) (by decide) (by decide) (by decide) (by decide), ht]
  refine ⟨?_, fun k j h1 h2 => (hreg k j h1).trans (State.reg_p_other _ _ _ _ _ _ h2), ?_, fun p hp => ⟨?_, htotal p hp⟩⟩
  · exact foldl_keeps (fun t : State => ∃ r, t = { s with rf := r }) _ _ _ (regs_p ⟨s.rf, rfl⟩ _ _ _) fun t x _ ht => regs_p ht _ _ _
  · have hsame : (s.cutSet cs).g MEM_MAPOUT.PROGRESS = (s.p MEM_MAPOUT.PROGRESS 0 0).g MEM_MAPOUT.PROGRESS := State.g_congr (hreg .MEM_MAPOUT 0 (by decide))
    rw [hsame]
    exact State.g_p_self _ _ _ _ (by decide) (by decide) (by decide)
  · have hwidth : 2 ^ (MEM_PART.CUT.hi + 1 - MEM_PART.CUT.lo) = 4096 := by decide
    have hcut := hcut p hp
    rw [hwidth, Nat.mod_eq_of_lt (hcs p hp)] at hcut
    exact hcut

/-- The shares that lose their part of the cut. -/
def State.sharesCut (s : State) (n : Nat) : State :=
  (List.range n).foldl (fun s p => (s.p MEM_PART.TOTAL p (s.g MEM_PART.TOTAL p - s.g MEM_PART.CUT p)).p MEM_PART.CUT p 0) s

theorem sharesCut_spec (s : State) (n : Nat) (hn : n ≤ 65536) :
    (∃ r, s.sharesCut n = { s with rf := r }) ∧ (∀ k j, k ≠ .MEM_PART → (s.sharesCut n).reg k j = s.reg k j) ∧
    (∀ j < 65536, n ≤ j → (s.sharesCut n).reg .MEM_PART j = s.reg .MEM_PART j) ∧
    ∀ p < n, (s.sharesCut n).g MEM_PART.TOTAL p = s.g MEM_PART.TOTAL p - s.g MEM_PART.CUT p ∧ (s.sharesCut n).g MEM_PART.CUT p = 0 := by
  induction n with
  | zero => exact ⟨⟨_, rfl⟩, fun _ _ _ => rfl, fun _ _ _ => rfl, fun p hp => absurd hp (Nat.not_lt_zero p)⟩
  | succ n ih =>
    obtain ⟨hr, hreg, hrest, hcut⟩ := ih (by omega)
    have hstep : s.sharesCut (n + 1) = ((s.sharesCut n).p MEM_PART.TOTAL n ((s.sharesCut n).g MEM_PART.TOTAL n - (s.sharesCut n).g MEM_PART.CUT n)).p MEM_PART.CUT n 0 := by
      unfold State.sharesCut
      rw [List.range_succ, List.foldl_append]
      rfl
    rw [hstep]
    generalize s.sharesCut n = u at *
    have hother : ∀ k j, k ≠ .MEM_PART ∨ j % 65536 ≠ n % 65536 → ((u.p MEM_PART.TOTAL n (u.g MEM_PART.TOTAL n - u.g MEM_PART.CUT n)).p MEM_PART.CUT n 0).reg k j = u.reg k j :=
      fun k j h => (State.reg_p_ne _ _ _ _ _ _ h).trans (State.reg_p_ne _ _ _ _ _ _ h)
    refine ⟨regs_p (regs_p hr _ _ _) _ _ _, fun k j hk => (hother k j (.inl hk)).trans (hreg k j hk),
      fun j hj hnj => (hother _ _ (.inr (by omega))).trans (hrest j hj (by omega)), fun p hp => ?_⟩
    by_cases hpn : p = n
    · subst hpn
      have hsame := hrest p (by omega) le_rfl
      refine ⟨?_, State.g_p_self _ _ _ _ (by decide) (by decide) (by decide)⟩
      rw [State.g_p_field _ _ _ _ _ (by decide) (by decide) (by decide) (by decide) (by decide),
        State.g_p_self _ _ _ _ (by decide) (by decide) (lt_of_le_of_lt (Nat.sub_le _ _) (State.g_lt u MEM_PART.TOTAL p)),
        State.g_congr (f := MEM_PART.TOTAL) hsame, State.g_congr (f := MEM_PART.CUT) hsame]
    · have hsame := hother .MEM_PART p (.inr (by omega))
      rw [State.g_congr (f := MEM_PART.TOTAL) hsame, State.g_congr (f := MEM_PART.CUT) hsame]
      exact hcut p (by omega)

theorem State.CalmTo.setDmem {s t : State} (h : s.CalmTo t) (x : MemSt) : s.CalmTo { t with dmem := x } := h.trans ⟨rfl, rfl, rfl, rfl⟩

/-! ### The rows -/

section
variable {s : State} {v : Nat} (hv : v % 512 < 384)
include hv

/-- The answer of `MEM_MAPOUT`. -/
def State.mapoutAns (s : State) (q r : Nat) : State := (s.p MEM_MAPOUT.CHANNEL 0 q).p MEM_MAPOUT.RESULT 0 r

omit hv in
theorem asked_col (s : State) (q q' : Nat) : (s.p MEM_MAPOUT.CHANNEL 0 q).colOfChan q' = s.colOfChan q' :=
  colOfChan_congr (fun _ => State.reg_p_other _ _ _ _ _ _ (by decide)) q'

omit hv in
theorem asked_room (s : State) (q st : Nat) : (s.p MEM_MAPOUT.CHANNEL 0 q).mapoutRoom st = s.mapoutRoom st :=
  mapoutRoom_congr (fun _ => State.reg_p_other _ _ _ _ _ _ (by decide)) (congrArg MemSt.mapped (State.p_dmem _ _ _ _)) st

theorem mapoutGo_busy (h : s.dmem.mapout ≠ none) : s.mapoutGo v = s.mapoutAns (v % 512) 3 := by
  unfold State.mapoutGo
  rw [if_neg (not_le.2 hv)]
  dsimp only
  rw [State.p_dmem, if_pos h]
  rfl

theorem mapoutGo_none (h : s.dmem.mapout = none) (hc : s.colOfChan (v % 512) = none) : s.mapoutGo v = s.mapoutAns (v % 512) 2 := by
  unfold State.mapoutGo
  rw [if_neg (not_le.2 hv)]
  dsimp only
  rw [State.p_dmem, asked_col, if_neg (not_not.2 h), hc, if_pos Option.isNone_none]
  rfl

theorem mapoutGo_full (h : s.dmem.mapout = none) (hc : s.colOfChan (v % 512) ≠ none) (hr : s.mapoutRoom (v % 512 / 32) = false) :
    s.mapoutGo v = s.mapoutAns (v % 512) 1 := by
  unfold State.mapoutGo
  rw [if_neg (not_le.2 hv)]
  dsimp only
  rw [State.p_dmem, asked_col, asked_room, if_neg (not_not.2 h), if_neg (by rwa [Option.isNone_iff_eq_none]), hr, if_pos Bool.not_false]
  rfl

theorem mapoutGo_taken (h : s.dmem.mapout = none) (hc : s.colOfChan (v % 512) ≠ none) (hr : s.mapoutRoom (v % 512 / 32) = true)
    (hno : (v % 512 + 512) ∉ s.dmem.cand) :
    s.mapoutGo v = { s.mapoutAns (v % 512) 0 with dmem := { s.dmem with cand := s.dmem.cand ++ [v % 512 + 512] } } := by
  unfold State.mapoutGo State.mapoutAns
  rw [if_neg (not_le.2 hv)]
  dsimp only
  rw [State.p_dmem, asked_col, asked_room, if_neg (not_not.2 h), if_neg (by rwa [Option.isNone_iff_eq_none]), hr, if_neg (by decide), if_neg hno]
  rfl

end

/-- The column taken, before its cut: the candidate leaves the list. -/
def State.colTaken (s : State) (col q : Nat) (rest : List Nat) : State :=
  let t := (({ s with dmem := { s.dmem with cand := rest } } : State).p CMAP.STATE col 1).ledger 6 (natLe 2 col ++ natLe 2 q ++ natLe 4 (s.dmem.cap - 1024))
  { t with dmem := { t.dmem with mapout := some col } }

theorem colTaken_spec {s : State} (col q : Nat) (rest : List Nat) (ha : s.dev.archRun = true) :
    (∃ rf led, s.colTaken col q rest = { s with rf := rf, led := led, dmem := { s.dmem with cand := rest, mapout := some col } }) ∧
    (∀ k j, (s.colTaken col q rest).reg k j = (s.p CMAP.STATE col 1).reg k j) := by
  obtain ⟨-, recs, next, heq⟩ := ledger_last (s := ({ s with dmem := { s.dmem with cand := rest } } : State).p CMAP.STATE col 1) 6
    (natLe 2 col ++ natLe 2 q ++ natLe 4 (s.dmem.cap - 1024)) ha
  unfold State.colTaken
  rw [heq]
  exact ⟨⟨_, _, rfl⟩, fun k j => State.reg_of_rf rfl k j⟩

/-- What `MAPOUT_START` leaves of a share's cut. -/
def State.cutMarked (x : State) (c : Nat) : State :=
  if x.cutFits then x.p MEM_MAPOUT.STATE 0 2
  else (x.p MEM_MAPOUT.STATE 0 1).setCol c { x.col c with intPend := (x.col c).intPend ||| 1 }

theorem State.CalmTo.setCol {s t : State} (h : s.CalmTo t) (n : Nat) (x : ColSt) : s.CalmTo (t.setCol n x) := h.trans ⟨rfl, rfl, rfl, rfl⟩

theorem cutMarked_spec (x : State) (c : Nat) : x.CalmTo (x.cutMarked c) ∧ (x.cutMarked c).dmem = x.dmem ∧
    (x.cutMarked c).g MEM_MAPOUT.STATE = (if x.cutFits then 2 else 1) ∧ (x.cutMarked c).g MEM_MAPOUT.PROGRESS = x.g MEM_MAPOUT.PROGRESS ∧
    ∀ k j, k ≠ .MEM_MAPOUT → (x.cutMarked c).reg k j = x.reg k j := by
  unfold State.cutMarked
  have hreg : ∀ (t : State) (y : ColSt) k j, (t.setCol c y).reg k j = t.reg k j := fun t y k j => by
    unfold State.reg State.setCol
    rfl
  have hcol : ∀ (t : State) (y : ColSt) f j, (t.setCol c y).g f j = t.g f j := fun t y f j => by
    unfold State.g State.reg State.setCol
    rfl
  split_ifs
  · exact ⟨State.CalmTo.p (.refl x) _ _ _, State.p_dmem _ _ _ _, State.g_p_self _ _ _ _ (by decide) (by decide) (by decide),
      State.g_p_field _ _ _ _ _ (by decide) (by decide) (by decide) (by decide) (by decide), fun k j h => State.reg_p_other _ _ _ _ _ _ h⟩
  · refine ⟨(State.CalmTo.p (.refl x) MEM_MAPOUT.STATE 0 1).setCol _ _, ?_, ?_, ?_, fun k j h => ?_⟩
    · rw [State.setCol_dmem, State.p_dmem]
    · rw [hcol]
      exact State.g_p_self _ _ _ _ (by decide) (by decide) (by decide)
    · rw [hcol]
      exact State.g_p_field _ _ _ _ _ (by decide) (by decide) (by decide) (by decide) (by decide)
    · rw [hreg]
      exact State.reg_p_other _ _ _ _ _ _ h

/-- `MAPOUT_START` of a candidate that may go. -/
theorem mapoutStart_eq {s : State} {c col : Nat} {rest : List Nat} (hcand : s.dmem.cand = c :: rest) (hno : s.dmem.mapout = none)
    (ha : s.dev.archRun = true) (hsafe : s.gb DEV_STATUS.SAFE = false) (hcol : s.colOfChan (c % 512) = some col) (hroom : s.mapoutRoom (c % 512 / 32) = true) :
    s.mapoutStart = ((s.colTaken col (c % 512) rest).cutSet s.cuts).cutMarked (8 + c % 512 / 32) := by
  obtain ⟨⟨rf, led, heq⟩, hreg⟩ := colTaken_spec col (c % 512) rest ha
  have hcuts : (s.colTaken col (c % 512) rest).cuts = s.cuts := by
    refine cuts_congr (fun p => (hreg _ _).trans (State.reg_p_other _ _ _ _ _ _ (by decide))) ?_ ?_
    · rw [heq]
    · rw [heq]
  have hcol' : ({ s with dmem := { s.dmem with cand := rest } } : State).colOfChan (c % 512) = some col := hcol
  have hroom' : ({ s with dmem := { s.dmem with cand := rest } } : State).mapoutRoom (c % 512 / 32) = true := hroom
  rw [← hcuts]
  unfold State.mapoutStart
  rw [hcand]
  dsimp only
  rw [if_neg (by rw [hno, ha, hsafe]; decide), hcol']
  dsimp only
  rw [hroom', if_neg (by decide)]
  rfl

/-- A clearing that finds no frame in use. -/
theorem mapoutCleared_none {s : State} (h2 : s.g MEM_MAPOUT.STATE = 2) (hb : s.framesBusy (s.dmem.cap - 1024) s.dmem.cap = false)
    (ho : ∀ e ∈ s.dmem.owner, e.1 < s.dmem.cap - 1024) : s.mapoutCleared = ((s.sharesCut 8).setCap (s.dmem.cap - 1024)).p MEM_MAPOUT.STATE 0 3 := by
  have hused : (s.dmem.owner.filter fun e => decide (s.dmem.cap - 1024 ≤ e.1)) = [] :=
    List.filter_eq_nil_iff.2 fun e he h => absurd (of_decide_eq_true h) (not_le.2 (ho e he))
  unfold State.mapoutCleared
  dsimp only
  rw [hused, h2, hb, List.map_nil]
  refine if_neg ?_
  rintro (h | h | h)
  · exact h rfl
  · exact Bool.false_ne_true h
  · rw [List.any_eq_true] at h
    obtain ⟨p, -, h⟩ := h
    exact Bool.false_ne_true h

/-- The evacuation of channel `q`, column `col`, is over: the column is out, its bytes lie at the capacity's end. -/
def State.colOut (s : State) (col q : Nat) : State :=
  let t := s.charge 0xF (q / 32) (4 * (s.dmem.cap * 8192 / 384))
  let k := 384 + s.dmem.mapped
  let u := (((t.p CMAP.STATE col 2).p CMAP.VALID k 1).p CMAP.BASE_FRAME k s.dmem.cap).p CMAP.CHANNEL k col
  let w : State := { u with dmem := { t.dmem with mapout := none, mapped := s.dmem.mapped + 1, down := s.dmem.down.filter fun x => decide (x ≠ q) } }
  ((w.p MEM_MAPOUT.STATE 0 0).p MEM_MAPOUT.PROGRESS 0 s.dmem.cap).tally fun t => { t with mapouts := t.mapouts + 1 }

theorem mapoutDone_eq {s : State} {col : Nat} (hcol : s.dmem.mapout = some col) (h3 : s.g MEM_MAPOUT.STATE = 3) (hdown : s.g CMAP.CHANNEL col ∉ s.dmem.down)
    (hwcb : s.dmem.wcb = []) : s.mapoutDone = (s.colOut col (s.g CMAP.CHANNEL col)).raise
      { source := srcId 4 (s.g CMAP.CHANNEL col / 32) (s.g CMAP.CHANNEL col % 32), info0 := col } := by
  have hfence : s.wcbFence (fun _ => true) = s := by
    unfold State.wcbFence
    rw [hwcb]
    rfl
  unfold State.mapoutDone
  rw [hcol]
  dsimp only
  have hkeep : ∀ n, (s.charge 0xF (s.g CMAP.CHANNEL col / 32) n).dmem.down = s.dmem.down ∧ (s.charge 0xF (s.g CMAP.CHANNEL col / 32) n).dmem.mapped = s.dmem.mapped ∧
      (s.charge 0xF (s.g CMAP.CHANNEL col / 32) n).dmem.cap = s.dmem.cap := fun n => ⟨rfl, rfl, rfl⟩
  rw [if_neg (not_not.2 h3), hfence]
  unfold State.colOut
  simp only [State.p_dmem, hkeep, decide_eq_false hdown, Bool.false_eq_true, if_false]

theorem State.tally_reg (s : State) (f : Totals → Totals) (k : RegKind) (j : Nat) : (s.tally f).reg k j = s.reg k j := State.reg_of_rf rfl k j

theorem State.tally_g (s : State) (f : Totals → Totals) (x : Fld) (j : Nat) : (s.tally f).g x j = s.g x j := State.g_congr (State.tally_reg s f _ j)

theorem State.CalmTo.tally {s t : State} (h : s.CalmTo t) (f : Totals → Totals) : s.CalmTo (t.tally f) := h.trans ⟨rfl, rfl, rfl, rfl⟩

theorem colOut_keeps (s : State) (col q : Nat) : s.CalmTo (s.colOut col q) := by
  have hcharge : s.CalmTo (s.charge 0xF (q / 32) (4 * (s.dmem.cap * 8192 / 384))) := ⟨rfl, rfl, rfl, rfl⟩
  unfold State.colOut
  exact (((State.CalmTo.setDmem ((((hcharge.p _ _ _).p _ _ _).p _ _ _).p _ _ _) _).p _ _ _).p _ _ _).tally _

theorem colOut_dmem (s : State) (col q : Nat) : (s.colOut col q).dmem = { (s.charge 0xF (q / 32) (4 * (s.dmem.cap * 8192 / 384))).dmem with
    mapout := none, mapped := s.dmem.mapped + 1, down := s.dmem.down.filter fun x => decide (x ≠ q) } := by
  have htally : ∀ (t : State) (f : Totals → Totals), (t.tally f).dmem = t.dmem := fun _ _ => rfl
  unfold State.colOut
  rw [htally, State.p_dmem, State.p_dmem]

/-- What the end of an evacuation leaves. -/
theorem colOut_spec (s : State) {col : Nat} (q : Nat) (hcol : col < 384) (hm : s.dmem.mapped < 24) (hcap : s.dmem.cap < 2 ^ 19) :
    (s.colOut col q).g CMAP.STATE col = 2 ∧ (s.colOut col q).g CMAP.VALID (384 + s.dmem.mapped) = 1 ∧
    (s.colOut col q).g CMAP.BASE_FRAME (384 + s.dmem.mapped) = s.dmem.cap ∧ (s.colOut col q).g CMAP.CHANNEL (384 + s.dmem.mapped) = col ∧
    (s.colOut col q).g MEM_MAPOUT.STATE = 0 ∧ (s.colOut col q).g MEM_MAPOUT.PROGRESS = s.dmem.cap ∧
    ∀ k j, k ≠ .CMAP → k ≠ .MEM_MAPOUT → (s.colOut col q).reg k j = s.reg k j := by
  unfold State.colOut
  dsimp only
  generalize ht : s.charge 0xF (q / 32) (4 * (s.dmem.cap * 8192 / 384)) = t
  have hreg0 : ∀ k j, t.reg k j = s.reg k j := fun k j => by
    rw [← ht]
    exact State.reg_of_rf rfl k j
  generalize hk : 384 + s.dmem.mapped = k
  generalize hu : (((t.p CMAP.STATE col 2).p CMAP.VALID k 1).p CMAP.BASE_FRAME k s.dmem.cap).p CMAP.CHANNEL k col = u
  have hk' : k < 65536 := by omega
  have hw : 2 ^ 19 = 2 ^ (CMAP.BASE_FRAME.hi + 1 - CMAP.BASE_FRAME.lo) := by decide
  have hcmap : u.g CMAP.STATE col = 2 ∧ u.g CMAP.VALID k = 1 ∧ u.g CMAP.BASE_FRAME k = s.dmem.cap ∧ u.g CMAP.CHANNEL k = col := by
    rw [← hu]
    refine ⟨?_, ?_, ?_, State.g_p_self _ _ _ _ (by decide) (by decide) (lt_of_lt_of_le hcol (by decide))⟩
    · rw [State.g_p_apart _ _ hk' (by omega) (by decide) (by decide) (by decide) (by decide) (by decide),
        State.g_p_apart _ _ hk' (by omega) (by decide) (by decide) (by decide) (by decide) (by decide),
        State.g_p_apart _ _ hk' (by omega) (by decide) (by decide) (by decide) (by decide) (by decide)]
      exact State.g_p_self _ _ _ _ (by decide) (by decide) (by decide)
    · rw [State.g_p_apart _ _ hk' hk' (by decide) (by decide) (by decide) (by decide) (by decide),
        State.g_p_apart _ _ hk' hk' (by decide) (by decide) (by decide) (by decide) (by decide)]
      exact State.g_p_self _ _ _ _ (by decide) (by decide) (by decide)
    · rw [State.g_p_apart _ _ hk' hk' (by decide) (by decide) (by decide) (by decide) (by decide)]
      exact State.g_p_self _ _ _ _ (by decide) (by decide) (by rw [← hw]; exact hcap)
  have hother : ∀ k' j, k' ≠ .CMAP → u.reg k' j = s.reg k' j := fun k' j h => by
    rw [← hu, State.reg_p_other _ _ _ _ _ _ h, State.reg_p_other _ _ _ _ _ _ h, State.reg_p_other _ _ _ _ _ _ h, State.reg_p_other _ _ _ _ _ _ h, hreg0]
  generalize hd : { t.dmem with mapout := none, mapped := s.dmem.mapped + 1, down := s.dmem.down.filter fun x => decide (x ≠ q) } = d
  clear ht hd hu
  obtain ⟨hst, hvalid, hbase, hchan⟩ := hcmap
  have hin : ∀ k' j, ({ u with dmem := d } : State).reg k' j = u.reg k' j := fun k' j => by
    unfold State.reg
    rfl
  have hg : ∀ f j, f.reg ≠ .MEM_MAPOUT → (((({ u with dmem := d } : State).p MEM_MAPOUT.STATE 0 0).p MEM_MAPOUT.PROGRESS 0 s.dmem.cap).tally
      fun t => { t with mapouts := t.mapouts + 1 }).g f j = u.g f j := fun f j h => by
    rw [State.tally_g, State.g_p_other _ _ _ _ _ _ h, State.g_p_other _ _ _ _ _ _ h, State.g_congr (hin f.reg j)]
  refine ⟨(hg _ _ (by decide)).trans hst, (hg _ _ (by decide)).trans hvalid, (hg _ _ (by decide)).trans hbase, (hg _ _ (by decide)).trans hchan, ?_, ?_,
    fun k' j h1 h2 => ?_⟩
  · rw [State.tally_g, State.g_p_field _ _ _ _ _ (by decide) (by decide) (by decide) (by decide) (by decide)]
    exact State.g_p_self _ _ _ _ (by decide) (by decide) (by decide)
  · rw [State.tally_g]
    have hw' : 2 ^ 19 = 2 ^ (MEM_MAPOUT.PROGRESS.hi + 1 - MEM_MAPOUT.PROGRESS.lo) := by decide
    exact State.g_p_self _ _ _ _ (by decide) (by decide) (by rw [← hw']; exact hcap)
  · rw [State.tally_reg, State.reg_p_other _ _ _ _ _ _ h2, State.reg_p_other _ _ _ _ _ _ h2, hin, hother k' j h1]

/-- Settles O47: the request's answers, a column taken, its share cut, its frames cleared and copied. -/
theorem mapOut : Obligations.MapOut := by
  intro s hp hq
  refine ⟨?_, fun c rest col hcand hno ha hsafe hcol hroom => ?_, fun h1 hfit => ?_, fun h2 hb ho => ?_, ?_⟩
  · intro v q hv hm ans
    refine ⟨fun h => ?_, fun h hc => ?_, fun h hc hr => ?_, fun h hc hr hno => ?_⟩
    · exact host_calm (f := (·.mapoutGo v)) rfl hp hm (mapoutGo_busy hv h) ((State.CalmTo.p (.refl s) _ _ _).p _ _ _) hq
    · exact host_calm (f := (·.mapoutGo v)) rfl hp hm (mapoutGo_none hv h hc) ((State.CalmTo.p (.refl s) _ _ _).p _ _ _) hq
    · exact host_calm (f := (·.mapoutGo v)) rfl hp hm (mapoutGo_full hv h hc hr) ((State.CalmTo.p (.refl s) _ _ _).p _ _ _) hq
    · exact host_calm (f := (·.mapoutGo v)) rfl hp hm (mapoutGo_taken hv h hc hr hno) (State.CalmTo.setDmem ((State.CalmTo.p (.refl s) _ _ _).p _ _ _) _) hq
  · obtain ⟨⟨rf, led, htaken⟩, htreg⟩ := colTaken_spec col (c % 512) rest ha
    obtain ⟨⟨rf', hset⟩, hsreg, hprog, hshare⟩ := cutSet_spec (s.colTaken col (c % 512) rest) s.cuts fun p hp => cuts_lt s hp
    have hfields : ∀ x, (s.colTaken col (c % 512) rest).cutSet s.cuts = x → x.g CMAP.STATE col = 1 ∧ x.dmem = { s.dmem with cand := rest, mapout := some col } ∧
        x.g MEM_MAPOUT.PROGRESS = 0 ∧ (∀ p < 8, x.g MEM_PART.CUT p = s.cuts.getD p 0 ∧ x.g MEM_PART.TOTAL p = s.g MEM_PART.TOTAL p) ∧ s.CalmTo x := by
      rintro x rfl
      refine ⟨?_, by rw [hset, htaken], hprog, fun p hp => ⟨(hshare p hp).1, ?_⟩, by rw [hset, htaken]; exact ⟨rfl, rfl, rfl, rfl⟩⟩
      · rw [State.g_congr (hsreg _ _ (by decide) (by decide)), State.g_congr (htreg _ _)]
        exact State.g_p_self _ _ _ _ (by decide) (by decide) (by decide)
      · rw [(hshare p hp).2, State.g_congr (htreg _ _)]
        exact State.g_p_other _ _ _ _ _ _ (by decide)
    have hrun := mapoutStart_eq hcand hno ha hsafe hcol hroom
    generalize (s.colTaken col (c % 512) rest).cutSet s.cuts = x at hfields hrun
    obtain ⟨hst, hdmem, hprog, hshare, hkeep⟩ := hfields x rfl
    obtain ⟨hkeep', hdmem', hstate, hprog', hreg⟩ := cutMarked_spec x (8 + c % 512 / 32)
    have hfits : (x.cutMarked (8 + c % 512 / 32)).lines.cutFits = x.cutFits :=
      cutFits_congr (fun p => by rw [State.lines_reg', hreg _ _ (by decide)]) (by rw [State.lines_dmem, hdmem'])
    refine ⟨_, act_calm (f := (·.mapoutStart)) rfl hp hrun (hkeep.trans hkeep') hq, ?_, ?_, ?_, ?_, fun p hp => ?_, ?_, ?_, ?_⟩
    · rw [State.lines_g', State.g_congr (hreg _ _ (by decide)), hst]
    · rw [State.lines_dmem, hdmem', hdmem]
    · rw [State.lines_dmem, hdmem', hdmem]
    · rw [State.lines_g', hprog', hprog]
    · rw [State.lines_g', State.lines_g', State.g_congr (hreg _ _ (by decide)), State.g_congr (f := MEM_PART.TOTAL) (hreg _ _ (by decide))]
      exact hshare p hp
    · rw [State.lines_g', hstate, hfits]
    · rw [State.lines_dmem, hdmem', hdmem]
    · rw [State.lines_dmem, hdmem', hdmem]
  · exact act_calm (f := (·.mapoutRoomReady)) rfl hp (if_pos ⟨h1, hfit⟩) (State.CalmTo.p (.refl s) _ _ _) hq
  · obtain ⟨⟨r, hr⟩, hreg, -, hshare⟩ := sharesCut_spec s 8 (by decide)
    have hkeep : s.CalmTo (((s.sharesCut 8).setCap (s.dmem.cap - 1024)).p MEM_MAPOUT.STATE 0 3) := by
      rw [hr]
      exact ⟨rfl, rfl, rfl, rfl⟩
    have hcap : ∀ k j, ((s.sharesCut 8).setCap (s.dmem.cap - 1024)).reg k j = (s.sharesCut 8).reg k j := fun k j => by
      unfold State.reg State.setCap
      rfl
    have hpart : ∀ f p, f.reg = .MEM_PART → (((s.sharesCut 8).setCap (s.dmem.cap - 1024)).p MEM_MAPOUT.STATE 0 3).g f p = (s.sharesCut 8).g f p := fun f p hf => by
      rw [State.g_p_other _ _ _ _ _ _ (by rw [hf]; decide)]
      exact State.g_congr (hcap f.reg p)
    refine ⟨_, act_calm (f := (·.mapoutCleared)) rfl hp (mapoutCleared_none h2 hb ho) hkeep hq, ?_, ?_, fun p hp => ?_, ?_, ?_⟩
    · rw [State.lines_dmem, State.p_dmem, hr]
      rfl
    · rw [State.lines_g']
      exact State.g_p_self _ _ _ _ (by decide) (by decide) (by decide)
    · rw [State.lines_g', State.lines_g', hpart _ _ rfl, hpart _ _ rfl]
      exact hshare p hp
    · rw [State.lines_slots, State.p_slots, hr]
      rfl
    · rw [State.lines_net, State.p_net, hr]
      rfl
  · intro col q ev hcol h3 hlt hmap hcap hdown hwcb hrec
    obtain ⟨hst, hvalid, hbase, hchan, hstate, hprog, hreg⟩ := colOut_spec s q hlt hmap hcap
    have hrun : s.mapoutDone = (s.colOut col q).raise ev := mapoutDone_eq hcol h3 hdown hwcb
    have hrec' : (s.colOut col q).Recorded ev := State.recorded_congr hrec fun k j hk => hreg k j (by rintro rfl; exact absurd hk (by decide)) (by rintro rfl; exact absurd hk (by decide))
    have hkeep := colOut_keeps s col q
    have hkeepg : ∀ f j, f.reg ∉ recordRegs → ((s.colOut col q).record ev 0 false 0).lines.g f j = (s.colOut col q).g f j := fun f j hf => by
      rw [State.lines_g', State.g_congr (State.record_reg _ _ _ _ _ _ hf _)]
    obtain ⟨r, cols, heq⟩ := State.record_eq (s.colOut col q) ev 0 false 0
    have hdmem : ((s.colOut col q).record ev 0 false 0).lines.dmem = (s.colOut col q).dmem := by rw [State.lines_dmem, heq]
    refine ⟨_, act_raise (f := (·.mapoutDone)) rfl hp hrun (hkeep.quiet hq) hrec' hkeep.2.2.2 hkeep.2.2.1, (hkeepg _ _ (by decide)).trans hst, (hkeepg _ _ (by decide)).trans hvalid,
      (hkeepg _ _ (by decide)).trans hbase, (hkeepg _ _ (by decide)).trans hchan, ?_, ?_, (hkeepg _ _ (by decide)).trans hstate, (hkeepg _ _ (by decide)).trans hprog, ?_⟩
    · rw [hdmem, colOut_dmem]
    · rw [hdmem, colOut_dmem]
    · rw [hdmem, colOut_dmem]
      rfl

end Sys2Proof.Machine
end

section
/-!
# Back-off, reservation and wing caches (07 R265, R266, R277, R280)
-/
namespace Sys2Proof.Machine

/-! ### Rest -/

/-- What the homes' rest reads. -/
theorem State.HomesRest.of {s t : State} (h : s.HomesRest) (hcoh : t.coh = s.coh) (hlend : t.lend = s.lend) (hq : t.q = s.q) (hfns : t.fns = s.fns)
    (hnic : t.nic = s.nic) (hcas : t.cas = s.cas) (hcs : t.cs = s.cs) (hlink : t.link = s.link) (hreg : ∀ j, t.reg .CS_CTL j = s.reg .CS_CTL j) : t.HomesRest := by
  have hmode : ∀ j, t.g CS_CTL.MODE j = s.g CS_CTL.MODE j := fun j => State.g_congr (hreg j)
  unfold State.HomesRest State.NothingOwed State.lendOf State.queue State.qpOf State.csOf at *
  rw [hcoh, hlend, hq, hfns, hnic, hcas, hcs, hlink]
  simp only [hmode]
  exact h

theorem State.HomesRest.p {s : State} (h : s.HomesRest) (f : Fld) (i v : Nat) (hf : f.reg ≠ .CS_CTL) : (s.p f i v).HomesRest :=
  h.of rfl rfl rfl rfl rfl rfl rfl rfl fun _ => State.reg_p_other _ _ _ _ _ _ hf.symm

theorem State.HomesRest.setWing {s : State} (h : s.HomesRest) (w : Nat) (x : WingSt) : (s.setWing w x).HomesRest :=
  h.of rfl rfl rfl rfl rfl rfl rfl rfl fun _ => rfl

theorem State.HomesRest.unsend {s : State} (h : s.HomesRest) (o src dst n ca : Nat) : (s.unsend o src dst n ca).HomesRest :=
  h.of rfl rfl rfl rfl rfl rfl rfl rfl fun _ => rfl

/-- A wing without transfers pumps nothing. -/
theorem pumpWing_rests {s : State} {w : Nat} (h : s.WingRests w) : s.pumpWing w = s := by
  have hnone : (s.car.filter fun e => decide (e.1 / 144 = w) && e.2.xfers.any fun x => decide (x.todo ≠ [])) = [] := by
    refine List.filter_eq_nil_iff.2 fun e he hc => ?_
    rw [Bool.and_eq_true, decide_eq_true_eq] at hc
    rw [h e he hc.1] at hc
    exact Bool.false_ne_true hc.2
  unfold State.pumpWing State.pumpAll
  rw [hnone]
  rfl

/-- A cache without lines has nothing to walk. -/
theorem walkWing_empty {s : State} {w : Nat} (h : (s.wing w).lines = []) : s.walkWing w = s := by
  unfold State.walkWing
  rw [h]
  rfl

/-! ### Retries -/

section
variable {s : State} {m : Msg} {t : Txn} (h : s.txnOf m = some t)
include h

theorem nackIn_eq (hp : t.prefetch = false) : s.nackIn { m with opc := 0x85 } = (s.took 0x85 m).putTxn { t with nacks := t.nacks + 1, phase := 1 } := by
  have h' : (s.taken { m with opc := 0x85 }).txnOf { m with opc := 0x85 } = some t := h
  unfold State.nackIn
  dsimp only
  rw [h']
  dsimp only
  rw [hp]
  rfl

theorem nackResIn_eq : s.nackResIn { m with opc := 0x86 } =
    if t.phase = 3 then (s.took 0x86 m).resend t else (s.took 0x86 m).putTxn { t with phase := 2 } := by
  have h' : (s.taken { m with opc := 0x86 }).txnOf { m with opc := 0x86 } = some t := h
  unfold State.nackResIn
  dsimp only
  rw [h']
  rfl

theorem goIn_eq : s.goIn { m with opc := 0x87 } =
    if t.phase = 2 then (s.took 0x87 m).resend t else (s.took 0x87 m).putTxn { t with phase := 3 } := by
  have h' : (s.taken { m with opc := 0x87 }).txnOf { m with opc := 0x87 } = some t := h
  unfold State.goIn
  dsimp only
  rw [h']
  rfl

end

/-- An acknowledged write-back leaves the buffer; a wing at rest goes on with nothing. -/
theorem wbAckIn_eq {s : State} {m : Msg} {b : EbEnt} (h : s.ebOf m.dst m.ca = some b) (hsent : b.sent = true) (hw : m.dst < 32)
    (hst : s.g WING_CACHE_STATUS.STATE m.dst ≠ 3) (hrst : (s.wing m.dst).rst = 0) (hwing : s.WingRests m.dst) (hrest : s.HomesRest) :
    s.wbAckIn { m with opc := 0x88 } = (s.took 0x88 m).ebDrop m.dst m.ca := by
  have h' : (s.taken { m with opc := 0x88 }).ebOf m.dst m.ca = some b := h
  have hrst' : (((s.taken { m with opc := 0x88 }).ebDrop m.dst m.ca).wing m.dst).rst = 0 := by
    unfold State.ebDrop
    rw [State.wing_setWing]
    exact hrst
  have hgo : ((s.took 0x88 m).ebDrop m.dst m.ca).goOn = (s.took 0x88 m).ebDrop m.dst m.ca :=
    State.goOn_homesRest _ ((hrest.unsend 0x88 m.src m.dst m.txn m.ca).setWing m.dst _)
  unfold State.wbAckIn
  dsimp only
  rw [h']
  dsimp only
  rw [if_pos ⟨hsent, hw⟩, if_neg (fun hc => hc.elim hst fun hc => hc hrst')]
  show (((s.took 0x88 m).ebDrop m.dst m.ca).goOn).pumpWing m.dst = _
  rw [hgo]
  exact pumpWing_rests hwing

/-! ### Caches switched off and on -/

theorem cacheHeld_false {s : State} {w : Nat} (hw : w < 32) (hr : (s.wing w).rst = 0) (hf : s.g WING_STATUS.STATE w ≠ 3)
    (h0 : s.g WING_CACHE_STATUS.STATE w ≠ 0) (h5 : s.g WING_CACHE_STATUS.STATE w ≠ 5) : s.cacheHeld w = false := by
  unfold State.cacheHeld
  rw [decide_eq_false (not_le.2 hw), decide_eq_false (not_not.2 hr), decide_eq_false hf, decide_eq_false h0, decide_eq_false h5]
  rfl

theorem cacheHeld_true {s : State} {w : Nat} (h : (s.wing w).rst ≠ 0 ∨ s.g WING_STATUS.STATE w = 3 ∨ s.g WING_CACHE_STATUS.STATE w = 0 ∨ s.g WING_CACHE_STATUS.STATE w = 5) :
    s.cacheHeld w = true := by
  unfold State.cacheHeld
  simp only [Bool.or_eq_true, decide_eq_true_eq]
  omega

/-- Another wing of the die walks. -/
theorem walkStart_waits {s : State} {w : Nat} (h : ¬ ∀ k < 4, w / 4 * 4 + k ≠ w → s.g WING_CACHE_STATUS.STATE (w / 4 * 4 + k) ≠ 3) :
    s.walkStart w = s.p WING_CACHE_STATUS.STATE w 2 := by
  push Not at h
  obtain ⟨k, hk, hne, h3⟩ := h
  refine if_pos (List.any_eq_true.2 ⟨k, List.mem_range.2 hk, ?_⟩)
  rw [decide_eq_true hne, decide_eq_true h3]
  rfl

/-- No other wing of the die walks, and the cache holds no line. -/
theorem walkStart_alone {s : State} {w : Nat} (h : ∀ k < 4, w / 4 * 4 + k ≠ w → s.g WING_CACHE_STATUS.STATE (w / 4 * 4 + k) ≠ 3) (hl : (s.wing w).lines = [])
    (hrest : s.HomesRest) : s.walkStart w = s.p WING_CACHE_STATUS.STATE w 3 := by
  have hnone : ((List.range 4).any fun k => decide (w / 4 * 4 + k ≠ w) && decide (s.g WING_CACHE_STATUS.STATE (w / 4 * 4 + k) = 3)) = false := by
    refine List.any_eq_false.2 fun k hk hc => ?_
    rw [Bool.and_eq_true, decide_eq_true_eq, decide_eq_true_eq] at hc
    exact h k (List.mem_range.1 hk) hc.1 hc.2
  have hwalk : (s.p WING_CACHE_STATUS.STATE w 3).walkWing w = s.p WING_CACHE_STATUS.STATE w 3 := walkWing_empty hl
  unfold State.walkStart
  dsimp only
  rw [hnone, if_neg Bool.false_ne_true, hwalk, State.settle_rests _ (hrest.p _ _ _ (by decide))]

section
variable {s : State} {w : Nat} (hheld : s.cacheHeld w = false)
include hheld

theorem cacheOff_on (h1 : s.g WING_CACHE_STATUS.STATE w = 1) : s.cacheOff w = (s.p WING_CACHE_CTL.ENABLE w 0).walkStart w := by
  unfold State.cacheOff
  rw [hheld, if_neg Bool.false_ne_true, if_pos h1]

theorem cacheOff_walking (h1 : s.g WING_CACHE_STATUS.STATE w ≠ 1) :
    s.cacheOff w = (s.p WING_CACHE_CTL.ENABLE w 0).setWing w { s.wing w with reEnable := false } := by
  unfold State.cacheOff
  rw [hheld, if_neg Bool.false_ne_true, if_neg h1]
  rfl

theorem cacheOn_off (h4 : s.g WING_CACHE_STATUS.STATE w = 4) :
    s.cacheOn w = ((s.p WING_CACHE_CTL.ENABLE w 1).p WING_CACHE_STATUS.STATE w 1).pumpWing w := by
  unfold State.cacheOn
  rw [hheld, if_neg Bool.false_ne_true, h4]
  rfl

theorem cacheOn_walking (h3 : s.g WING_CACHE_STATUS.STATE w = 3) :
    s.cacheOn w = (s.p WING_CACHE_CTL.ENABLE w 1).setWing w { s.wing w with reEnable := true } := by
  unfold State.cacheOn
  rw [hheld, if_neg Bool.false_ne_true, h3]
  rfl

theorem cacheOn_waiting (h2 : s.g WING_CACHE_STATUS.STATE w = 2) : s.cacheOn w = (s.p WING_CACHE_CTL.ENABLE w 1).p WING_CACHE_STATUS.STATE w 1 := by
  unfold State.cacheOn
  rw [hheld, if_neg Bool.false_ne_true, h2]
  rfl

end

/-- The walk of an empty cache ends; no other wing of the die waits for its own. -/
theorem walkEnd_eq {s : State} {w : Nat} (hw : w < 32) (h3 : s.g WING_CACHE_STATUS.STATE w = 3) (he : s.wingEmpty w = true) (hr : (s.wing w).rst = 0)
    (hwing : s.WingRests w) (hf : s.g WING_STATUS.STATE w ≠ 3) (hno : ∀ k < 4, s.g WING_CACHE_STATUS.STATE (w / 4 * 4 + k) ≠ 2) (hrest : s.HomesRest) :
    s.walkEnd w = (s.setWing w { s.wing w with reEnable := false, plru := [] }).p WING_CACHE_STATUS.STATE w (if (s.wing w).reEnable then 1 else 4) := by
  have hlines : (s.wing w).lines = [] := by
    unfold State.wingEmpty at he
    rw [Bool.and_eq_true, Bool.and_eq_true, decide_eq_true_eq] at he
    exact he.1.1
  generalize ht : (s.setWing w { s.wing w with reEnable := false, plru := [] }).p WING_CACHE_STATUS.STATE w (if (s.wing w).reEnable then 1 else 4) = t
  have hpump : t.pumpWing w = t := by
    rw [← ht]
    exact pumpWing_rests hwing
  have hstate : ∀ k < 4, t.g WING_CACHE_STATUS.STATE (w / 4 * 4 + k) ≠ 2 := fun k hk => by
    rw [← ht]
    by_cases hkw : w / 4 * 4 + k = w
    · rw [hkw, State.g_p_self _ _ _ _ (by decide) (by decide) (by split_ifs <;> decide)]
      split_ifs <;> decide
    · have hsame : ((s.setWing w { s.wing w with reEnable := false, plru := [] }).p WING_CACHE_STATUS.STATE w (if (s.wing w).reEnable then 1 else 4)).reg
          .WING_CACHE_STATUS (w / 4 * 4 + k) = s.reg .WING_CACHE_STATUS (w / 4 * 4 + k) := State.reg_p_ne _ _ _ _ _ _ (.inr (by omega))
      rw [State.g_congr (f := WING_CACHE_STATUS.STATE) hsame]
      exact hno k hk
  have hnext : t.nextWalk w = t := by
    have hnone : ((List.range 4).find? fun k => decide (t.g WING_CACHE_STATUS.STATE (w / 4 * 4 + k) = 2)) = none :=
      List.find?_eq_none.2 fun k hk hc => hstate k (List.mem_range.1 hk) (of_decide_eq_true hc)
    unfold State.nextWalk
    rw [hnone]
  unfold State.walkEnd
  rw [if_neg (by omega), walkWing_empty hlines, State.settle_rests s hrest]
  dsimp only
  rw [he, if_neg (by decide), if_neg (not_not.2 hr), if_neg hf, ht, hpump, hnext]

/-- Settles O45: retries stay with their request; a wing cache goes off and on by its states. -/
theorem retriesAndWingCaches : Obligations.RetriesAndWingCaches := by
  intro s m hp hq hrest
  have hnet : ∀ (o : Nat) (t : Txn), s.CalmTo ((s.took o m).putTxn t) := fun _ _ => ⟨rfl, rfl, rfl, rfl⟩
  have hagain : ∀ (u : State) (t : Txn), s.CalmTo u → s.CalmTo (u.resend t) := fun _ _ h => h.trans ⟨rfl, rfl, rfl, rfl⟩
  refine ⟨?_, fun b hb hsent hw hst hrst hwing => ?_, ?_⟩
  · intro t ht again
    refine ⟨fun hno => ?_, ?_, ?_, fun a n hfind => ?_⟩
    · exact act_calm (f := (·.nackIn { m with opc := 0x85 })) rfl hp (nackIn_eq ht hno) (hnet _ _) hq
    · refine act_calm (f := (·.nackResIn { m with opc := 0x86 })) rfl hp (nackResIn_eq ht) ?_ hq
      split_ifs
      · exact hagain _ _ ⟨rfl, rfl, rfl, rfl⟩
      · exact hnet _ _
    · refine act_calm (f := (·.goIn { m with opc := 0x87 })) rfl hp (goIn_eq ht) ?_ hq
      split_ifs
      · exact hagain _ _ ⟨rfl, rfl, rfl, rfl⟩
      · exact hnet _ _
    · have hrun : s.backoffEnd a n = s.resend t := by
        unfold State.backoffEnd
        rw [hfind]
      exact act_calm (f := (·.backoffEnd a n)) rfl hp hrun (hagain _ _ (.refl s)) hq
  · exact act_calm (f := (·.wbAckIn { m with opc := 0x88 })) rfl hp (wbAckIn_eq hb hsent hw hst hrst hwing hrest) ⟨rfl, rfl, rfl, rfl⟩ hq
  · intro w hw st g alone off on
    have hkeepoff : s.CalmTo off := State.CalmTo.p (.refl s) WING_CACHE_CTL.ENABLE w 0
    have hkeepon : s.CalmTo on := State.CalmTo.p (.refl s) WING_CACHE_CTL.ENABLE w 1
    have hset : ∀ (u : State) (x : WingSt), s.CalmTo u → s.CalmTo (u.setWing w x) := fun _ _ h => h.trans ⟨rfl, rfl, rfl, rfl⟩
    have hoffst : ∀ k, off.g WING_CACHE_STATUS.STATE k = s.g WING_CACHE_STATUS.STATE k := fun k => State.g_p_other _ _ _ _ _ _ (by decide)
    have hoffrest : off.HomesRest := hrest.p _ _ _ (by decide)
    refine ⟨fun hm hheld row hrow => ?_, fun hm hr hf => ⟨fun h1 hl ha => ?_, fun h1 ha => ?_, fun h234 => ?_, fun h4 hwing => ?_, fun h3 => ?_, fun h2 => ?_⟩,
      fun h3 he hr hwing hf hno => ?_⟩
    · have hheld := cacheHeld_true hheld
      have hoffrun : s.cacheOff w = s := if_pos hheld
      have honrun : s.cacheOn w = s := if_pos hheld
      simp only [List.mem_cons, List.not_mem_nil, or_false] at hrow
      obtain rfl | rfl := hrow
      · exact host_calm (f := (·.cacheOff w)) rfl hp hm hoffrun (.refl s) hq
      · exact host_calm (f := (·.cacheOn w)) rfl hp hm honrun (.refl s) hq
    · have hheld : s.cacheHeld w = false := cacheHeld_false hw hr hf (ne_of_eq_of_ne h1 (by decide)) (ne_of_eq_of_ne h1 (by decide))
      have hwalk : off.walkStart w = off.p WING_CACHE_STATUS.STATE w 3 :=
        walkStart_alone (fun k hk hne => by rw [hoffst]; exact ha k hk hne) hl hoffrest
      exact host_calm (f := (·.cacheOff w)) rfl hp hm ((cacheOff_on hheld h1).trans hwalk) (hkeepoff.p _ _ _) hq
    · have hheld : s.cacheHeld w = false := cacheHeld_false hw hr hf (ne_of_eq_of_ne h1 (by decide)) (ne_of_eq_of_ne h1 (by decide))
      have hwalk : off.walkStart w = off.p WING_CACHE_STATUS.STATE w 2 := walkStart_waits fun hc => ha fun k hk hne => by rw [← hoffst]; exact hc k hk hne
      exact host_calm (f := (·.cacheOff w)) rfl hp hm ((cacheOff_on hheld h1).trans hwalk) (hkeepoff.p _ _ _) hq
    · have hst : s.g WING_CACHE_STATUS.STATE w = 2 ∨ s.g WING_CACHE_STATUS.STATE w = 3 ∨ s.g WING_CACHE_STATUS.STATE w = 4 := by
        simpa only [List.mem_cons, List.not_mem_nil, or_false] using h234
      have hheld : s.cacheHeld w = false := cacheHeld_false hw hr hf (by omega) (by omega)
      exact host_calm (f := (·.cacheOff w)) rfl hp hm (cacheOff_walking hheld (by omega)) (hset _ _ hkeepoff) hq
    · have hheld : s.cacheHeld w = false := cacheHeld_false hw hr hf (ne_of_eq_of_ne h4 (by decide)) (ne_of_eq_of_ne h4 (by decide))
      have hpump : (on.p WING_CACHE_STATUS.STATE w 1).pumpWing w = on.p WING_CACHE_STATUS.STATE w 1 := pumpWing_rests hwing
      exact host_calm (f := (·.cacheOn w)) rfl hp hm ((cacheOn_off hheld h4).trans hpump) (hkeepon.p _ _ _) hq
    · have hheld : s.cacheHeld w = false := cacheHeld_false hw hr hf (ne_of_eq_of_ne h3 (by decide)) (ne_of_eq_of_ne h3 (by decide))
      exact host_calm (f := (·.cacheOn w)) rfl hp hm (cacheOn_walking hheld h3) (hset _ _ hkeepon) hq
    · have hheld : s.cacheHeld w = false := cacheHeld_false hw hr hf (ne_of_eq_of_ne h2 (by decide)) (ne_of_eq_of_ne h2 (by decide))
      exact host_calm (f := (·.cacheOn w)) rfl hp hm (cacheOn_waiting hheld h2) (hkeepon.p _ _ _) hq
    · exact act_calm (f := (·.walkEnd w)) rfl hp (walkEnd_eq hw h3 he hr hwing hf hno hrest) ((hset _ _ (.refl s)).p _ _ _) hq

end Sys2Proof.Machine
end

section
/-!
# Ploli links, members and group messages (10 R375 to R382, 04 R158)
-/
namespace Sys2Proof.Machine

/-! ### Links -/

/-- Link `l` neither conflicts nor reaches anyone but by `reach`. -/
def State.linkFar (s : State) (l reach : Nat) : State :=
  { s with cas := { s.cas with confl := setBit s.cas.confl l false, reach := tset (fun _ => 0) s.cas.reach l reach } }

/-- Link `l` no longer reaches anyone. -/
def State.linkGone (s : State) (l : Nat) : State := { s.p PLOLI_LINK.STATE l 0 with cas := { s.cas with reach := tset (fun _ => 0) s.cas.reach l 0 } }

theorem State.linkGone_calm (s : State) (l : Nat) : s.CalmTo (s.linkGone l) := ⟨rfl, rfl, rfl, rfl⟩

section
variable {s : State} {l : Nat} {x : PloliPeer} (hl : l < 4) (hin : s.inService = true) (hpow : (s.cage (8 + l)).powered = true) (hser : s.port.serdesLost = false)
  (hbad : l ∉ s.cas.bad)
include hl hin hpow hser hbad

/-- A link on a powered cage in service, with its reference, that has passed calibration. -/
theorem ploliTrain_trains : ¬ (4 ≤ l ∨ (!s.inService) = true ∨ (!(s.cage (8 + l)).powered) = true ∨ s.port.serdesLost = true ∨ l ∈ s.cas.bad) := by
  rw [hin, hpow, hser]
  simp only [Bool.not_true, Bool.false_eq_true, false_or, not_or]
  exact ⟨not_le.2 hl, hbad⟩

theorem ploliTrain_alone (hrole : s.arec.role = 0) : s.ploliTrain l x = s.p PLOLI_LINK.STATE l 0 := by
  unfold State.ploliTrain
  dsimp only
  rw [if_neg (ploliTrain_trains hl hin hpow hser hbad), if_pos hrole]

variable (hrole : s.arec.role ≠ 0)
include hrole

theorem ploliTrain_unused (hfar : farMember s.arec.topo s.arec.count s.arec.member l = none) : s.ploliTrain l x = s.p PLOLI_LINK.STATE l 5 := by
  unfold State.ploliTrain
  dsimp only
  rw [if_neg (ploliTrain_trains hl hin hpow hser hbad), if_neg hrole, hfar]

variable {m : Nat} (hfar : farMember s.arec.topo s.arec.count s.arec.member l = some m) (hup : x.up = true)
include hfar hup

/-- Firmware of a major version further off than one. -/
theorem ploliTrain_major (hmaj : s.ploliMajor + 1 < x.major ∨ x.major + 1 < s.ploliMajor) : s.ploliTrain l x =
    (((((s.linkFar l 0).p PLOLI_LINK.PEER_MAJOR l x.major).p PLOLI_LINK.STATE l 3).raise { source := srcId 7 l 5 }).groupEval).noteReach s.reached := by
  unfold State.ploliTrain
  dsimp only
  rw [if_neg (ploliTrain_trains hl hin hpow hser hbad), if_neg hrole, hfar]
  dsimp only
  rw [hup, if_neg (by decide), if_pos hmaj]
  rfl

variable (hmaj : ¬ (s.ploliMajor + 1 < x.major ∨ x.major + 1 < s.ploliMajor))
include hmaj

/-- The far end belongs to another group of the same name. -/
theorem ploliTrain_conflict (hgroup : x.group = s.arec.groupId) (hmaster : x.master ≠ s.arec.master) : s.ploliTrain l x =
    (((({ (s.linkFar l 0).p PLOLI_LINK.PEER_MAJOR l x.major with
        cas := { (s.linkFar l 0).cas with confl := setBit (s.linkFar l 0).cas.confl l true } } : State).p PLOLI_LINK.STATE l 0).raise
          { source := srcId 7 l 3 }).groupEval).noteReach s.reached := by
  unfold State.ploliTrain
  dsimp only
  rw [if_neg (ploliTrain_trains hl hin hpow hser hbad), if_neg hrole, hfar]
  dsimp only
  rw [hup, if_neg (by decide), if_neg hmaj, if_pos (.inl ⟨hgroup, .inl hmaster⟩)]
  rfl

/-- The far end is the member that the topology names. -/
theorem ploliTrain_up (hgroup : x.group = s.arec.groupId) (hmember : x.member = m) (hother : x.member ≠ s.arec.member) (hmaster : x.master = s.arec.master)
    (hcount : x.count = s.arec.count) (htopo : x.topo = s.arec.topo) (hkind : x.kind = s.arec.kind) : s.ploliTrain l x =
    ((((s.linkFar l (x.reach ||| 2 ^ m)).p PLOLI_LINK.PEER_MAJOR l x.major).p PLOLI_LINK.STATE l 1).groupEval).noteReach s.reached := by
  have hagree : ¬ ((x.group = s.arec.groupId ∧ (x.master ≠ s.arec.master ∨ x.count ≠ s.arec.count ∨ x.topo ≠ s.arec.topo ∨ x.kind ≠ s.arec.kind)) ∨
      x.member = s.arec.member) := by
    simp only [hmaster, hcount, htopo, hkind, ne_eq, not_true, or_self, and_false, false_or]
    exact hother
  unfold State.ploliTrain
  dsimp only
  rw [if_neg (ploliTrain_trains hl hin hpow hser hbad), if_neg hrole, hfar]
  dsimp only
  rw [hup, if_neg (by decide), if_neg hmaj, if_neg hagree, if_neg (fun hc => hc.elim (· hgroup) (· hmember))]
  change State.noteReach (State.groupEval (State.p { (s.linkFar l 0).p PLOLI_LINK.PEER_MAJOR l x.major with
    cas := { (s.linkFar l 0).cas with reach := tset (fun _ => 0) (tset (fun _ => 0) s.cas.reach l 0) l (x.reach ||| 2 ^ m) } } _ _ _)) _ = _
  rw [tset_tset]
  rfl

end

/-! ### What the reach of the links leaves -/

theorem noteReach_calm (s : State) (old : Nat) : s.CalmTo (s.noteReach old) := by
  unfold State.noteReach
  refine List.foldlRecOn _ _ (motive := fun t => s.CalmTo t) (.refl s) fun t h m _ => ?_
  split_ifs
  · exact h
  · exact h.trans ⟨rfl, rfl, rfl, rfl⟩

theorem noteReach_rf (s : State) (old : Nat) : (s.noteReach old).rf = s.rf := by
  unfold State.noteReach
  refine List.foldlRecOn _ _ (motive := fun t : State => t.rf = s.rf) rfl fun t h m _ => ?_
  split_ifs <;> exact h

/-- An event that waits does not change when the last way to a member went. -/
theorem noteReach_raise (s : State) (e : Event) (old : Nat) : (s.raise e).noteReach old = (s.noteReach old).raise e := by
  unfold State.noteReach
  generalize setBitsOf 8 old = ms
  induction ms generalizing s with
  | nil => rfl
  | cons m ms ih =>
    rw [List.foldl_cons, List.foldl_cons, ← ih]
    congr 1
    show (if bit s.reached m = true then _ else _) = _
    split_ifs <;> rfl

section
variable {s : State} {l : Nat} (hl : l < 4) (hrole : s.arec.role ≠ 0) (hused : s.g PLOLI_LINK.STATE l ≠ 5)
include hl hrole hused

theorem ploliDown_up (h : s.g PLOLI_LINK.STATE l = 1) : s.ploliDown l = ((s.linkGone l).noteReach s.reached).raise { source := srcId 7 l 2 } := by
  unfold State.ploliDown
  dsimp only
  rw [if_pos ⟨hl, hused, hrole⟩, if_pos h, ← noteReach_raise]
  rfl

theorem ploliDown_notUp (h : s.g PLOLI_LINK.STATE l ≠ 1) : s.ploliDown l = (s.linkGone l).noteReach s.reached := by
  unfold State.ploliDown
  dsimp only
  rw [if_pos ⟨hl, hused, hrole⟩, if_neg h]
  rfl

end

/-! ### Members -/

/-- Member `m` is no longer present. -/
def State.without (s : State) (m : Nat) : State := s.p CAS_STATUS.PRESENT 0 (setBit (s.g CAS_STATUS.PRESENT) m false)

theorem p_raise (s : State) (e : Event) (f : Fld) (i v : Nat) : (s.raise e).p f i v = (s.p f i v).raise e := rfl

theorem inPlan_congr {s t : State} (h : t.arec = s.arec) : t.inPlan = s.inPlan := by
  funext i
  unfold State.inPlan
  rw [h]

theorem ddFree_raise (s : State) (e : Event) (p : Nat → Bool) : (s.raise e).ddFree p = (s.ddFree p).raise e := rfl

theorem ddFree_calm (s : State) (p : Nat → Bool) : s.CalmTo (s.ddFree p) := ⟨rfl, rfl, rfl, rfl⟩

theorem ddFree_rf (s : State) (p : Nat → Bool) : (s.ddFree p).rf = s.rf := rfl

section
variable {s : State} {m : Nat} (hcount : m < s.arec.count) (hother : m ≠ s.arec.member) (hreach : bit s.reached m = false)
  (hpres : bit (s.g CAS_STATUS.PRESENT) m = true) (htime : tget (fun _ => 0) s.cas.gone m + 15625 ≤ s.time)
include hcount hother hreach hpres htime

/-- No route has reached the member for 100 µs. -/
theorem memberLost_goes (hrole : s.arec.role ≠ 0) : ¬ (s.arec.role = 0 ∨ s.arec.count ≤ m ∨ m = s.arec.member ∨ bit s.reached m = true ∨
    (!bit (s.g CAS_STATUS.PRESENT) m) = true ∨ s.time < tget (fun _ => 0) s.cas.gone m + us100) := by
  rw [hreach, hpres]
  simp only [Bool.not_true, Bool.false_eq_true, false_or, not_or]
  exact ⟨hrole, not_le.2 hcount, hother, not_lt.2 htime⟩

theorem memberLost_other (hrole : s.arec.role ≠ 0) (hm : s.arec.role ≠ 2 ∨ m ≠ s.arec.master) :
    s.memberLost m = (s.without m).raise { source := srcId 7 4 4, info0 := m } := by
  unfold State.memberLost
  rw [if_neg (memberLost_goes hcount hother hreach hpres htime hrole)]
  dsimp only
  rw [State.raise_arec, State.p_arec, if_neg fun hc => hm.elim (· hc.1) (· hc.2)]
  rfl

theorem memberLost_master (hrole : s.arec.role = 2) (hm : m = s.arec.master) (hil : s.cas.il = []) :
    s.memberLost m = (((s.without m).p CAS_STATUS.STATE 0 4).ddFree (s.without m).inPlan).raise { source := srcId 7 4 4, info0 := m } := by
  have hnone : ∀ t : State, t.cas.il = [] → t.ilAbort (fun _ => true) = t := fun t ht => by
    unfold State.ilAbort
    rw [ht]
    rfl
  unfold State.memberLost
  rw [if_neg (memberLost_goes hcount hother hreach hpres htime (by rw [hrole]; decide))]
  dsimp only
  rw [State.raise_arec, State.p_arec, if_pos ⟨hrole, hm⟩]
  have hwithout : s.without m = s.p CAS_STATUS.PRESENT 0 (setBit (s.g CAS_STATUS.PRESENT) m false) := rfl
  have hil' : (s.without m).cas.il = [] := (congrArg CasSt.il (State.p_cas s _ _ _)).trans hil
  rw [← hwithout]
  generalize s.without m = u at hil' ⊢
  rw [p_raise, ddFree_raise, inPlan_congr (State.raise_arec _ _), inPlan_congr (State.p_arec u _ _ _)]
  exact hnone _ hil'

end

/-! ### The plan -/

section
variable {s : State} {i stamp spec period : Nat} {commit : Bool} (hrole : s.arec.role = 2) (hgrp : s.grouped = true)
include hrole hgrp

theorem planReceive_member : ¬ (s.arec.role ≠ 2 ∨ (!s.grouped) = true) := by
  rw [hgrp]
  simp [hrole]

theorem planReceive_free (hin : s.inPlan i = true) : s.planReceive i false stamp spec period = s.setDd i {} := by
  unfold State.planReceive
  rw [if_neg (planReceive_member hrole hgrp), hin]
  rfl

theorem planReceive_arm (hin : s.inPlan i = true) : s.planReceive i true stamp spec period = s.ddArm i stamp spec period := by
  unfold State.planReceive
  rw [if_neg (planReceive_member hrole hgrp), hin]
  rfl

theorem planReceive_outside (hout : s.inPlan i = false) : s.planReceive i commit stamp spec period = s.raise { source := srcId 7 4 3 } := by
  unfold State.planReceive
  rw [if_neg (planReceive_member hrole hgrp), hout]
  rfl

end

/-! ### Group barriers on the master -/

/-- The members that take part in barrier `b` of slot `n`. -/
def State.partsOf (s : State) (n b : Nat) : List (Nat × Nat × Nat) := s.cas.takes.filter fun x => decide (x.2 = (n, b))

/-- The arrival `e` has come. -/
def State.hasCome (s : State) (e : Nat × Nat × Nat) : State := { s with cas := { s.cas with came := s.cas.came ++ [e] } }

/-- The release of a barrier that the master does not take part in goes to the members `parts`, for a time that does not depend on what was sent before. -/
def State.sendRelease (s : State) (parts : List (Nat × Nat × Nat)) (n b : Nat) : State :=
  parts.foldl (fun s x => s.emit (.grpRelease x.1 n b ((s.now + s.g STAMP_CTL.GROUP_LEAD) % 2 ^ 64))) s

theorem State.sendRelease_calm (s : State) (parts : List (Nat × Nat × Nat)) (n b : Nat) : s.CalmTo (s.sendRelease parts n b) :=
  List.foldlRecOn _ _ (motive := fun u => s.CalmTo u) (.refl s) fun _ h _ _ => h.trans ⟨rfl, rfl, rfl, rfl⟩

theorem State.sendRelease_eq (s : State) (parts : List (Nat × Nat × Nat)) (n b t : Nat) (ht : t = (s.now + s.g STAMP_CTL.GROUP_LEAD) % 2 ^ 64) :
    parts.foldl (fun s x => s.emit (.grpRelease x.1 n b t)) s = s.sendRelease parts n b := by
  induction parts generalizing s with
  | nil => rfl
  | cons x xs ih =>
    have hs := ih (s.emit (.grpRelease x.1 n b t)) ht
    rw [List.foldl_cons, hs, ht]
    rfl

section
variable {s : State} {n b : Nat}

/-- A member that takes part has not arrived or is not present. -/
theorem combine_held (h : ∃ x ∈ s.partsOf n b, x ∉ s.cas.came ∨ bit (s.g CAS_STATUS.PRESENT) x.1 = false) : s.combine n b = s := by
  obtain ⟨x, hx, hno⟩ := h
  have hall : ((s.cas.takes.filter fun e => decide (e.2 = (n, b))).all fun e => decide (e ∈ s.cas.came) && bit (s.g CAS_STATUS.PRESENT) e.1) = false := by
    refine List.all_eq_false.2 ⟨x, hx, fun hc => ?_⟩
    rw [Bool.and_eq_true, decide_eq_true_eq] at hc
    exact hno.elim (· hc.1) fun h => Bool.false_ne_true (h.symm.trans hc.2)
  unfold State.combine
  dsimp only
  rw [hall, if_neg (fun hc => Bool.false_ne_true hc.2.2)]

theorem combine_goes (hown : s.takesPart n b = false) (hne : s.partsOf n b ≠ []) (h : ∀ x ∈ s.partsOf n b, x ∈ s.cas.came ∧ bit (s.g CAS_STATUS.PRESENT) x.1 = true) :
    s.combine n b = ({ s with cas := { s.cas with came := s.cas.came.filter fun x => decide (x.2 ≠ (n, b)) } } : State).sendRelease (s.partsOf n b) n b := by
  have hall : ((s.cas.takes.filter fun e => decide (e.2 = (n, b))).all fun e => decide (e ∈ s.cas.came) && bit (s.g CAS_STATUS.PRESENT) e.1) = true := by
    refine List.all_eq_true.2 fun x hx => ?_
    rw [Bool.and_eq_true, decide_eq_true_eq]
    exact h x hx
  unfold State.combine
  dsimp only
  rw [if_pos ⟨.inl hne, .inl (by rw [hown]; rfl), hall⟩, hown, if_neg Bool.false_ne_true]
  exact State.sendRelease_eq _ _ _ _ _ rfl

end

section
variable {s : State} {m n b : Nat} (hrole : s.arec.role = 1)
include hrole

theorem groupArrival_eq (hgrp : s.grouped = true) (htakes : (m, n, b) ∈ s.cas.takes) (hcame : (m, n, b) ∉ s.cas.came) :
    s.groupArrival m n b = if s.groupGoes = true then (s.hasCome (m, n, b)).combine n b else s.hasCome (m, n, b) := by
  unfold State.groupArrival
  rw [hgrp, if_neg (by simp [hrole, htakes, hcame])]
  rfl

variable (hcount : m < s.arec.count) (hother : m ≠ s.arec.member)
include hcount hother

theorem groupPart_member : ¬ (s.arec.role ≠ 1 ∨ s.arec.count ≤ m ∨ m = s.arec.member) := by
  simp only [ne_eq, hrole, not_true, false_or, not_or]
  exact ⟨not_le.2 hcount, hother⟩

theorem groupPart_takes : s.groupPart m n b true =
    { s with cas := { s.cas with takes := (s.cas.takes.filter fun x => decide (x ≠ (m, n, b))) ++ [(m, n, b)] } } := by
  unfold State.groupPart
  rw [if_neg (groupPart_member hrole hcount hother)]
  exact if_neg fun hc => Bool.false_ne_true hc.2

theorem groupPart_leaves (hgoes : s.groupGoes = false) : s.groupPart m n b false =
    { s with cas := { s.cas with takes := s.cas.takes.filter fun x => decide (x ≠ (m, n, b)), came := s.cas.came.filter fun x => decide (x ≠ (m, n, b)) } } := by
  unfold State.groupPart
  rw [if_neg (groupPart_member hrole hcount hother)]
  exact if_neg fun hc => Bool.false_ne_true (hgoes.symm.trans hc.1)

end

/-- A command with the supply on closes what it did. -/
theorem act_closes {s t : State} {row : Instr} {f : State → State} (hr : exec row s = act s f) (hp : s.Powered) (hf : f s = t) : exec row s = .next (t.closes s) := by
  rw [hr, act_powered s f hp, hf]
  rfl

/-- Settles O52: what trains a link decides its state; members and group messages follow the record. -/
theorem linksAndMembers : Obligations.LinksAndMembers := by
  intro s hp hq r
  refine ⟨fun l x hl hin hpow hser hbad => ?_, fun l hl hst hrec => ?_, fun l hl hrole => ?_, ?_, fun e hrole hgrp => ?_, fun m n b hrole => ?_⟩
  · refine ⟨fun hrole => ?_, fun hrole hfar => ?_, fun m hrole hfar hup => ⟨fun hmaj => ?_, fun h1 h2 hg hm ho hma hc ht hk => ?_, fun h1 h2 hg hma => ?_⟩⟩
    · exact act_calm (f := (·.ploliTrain l x)) rfl hp (ploliTrain_alone hl hin hpow hser hbad hrole) (.p (.refl s) _ _ _) hq
    · exact act_calm (f := (·.ploliTrain l x)) rfl hp (ploliTrain_unused hl hin hpow hser hbad hrole hfar) (.p (.refl s) _ _ _) hq
    · exact act_closes (f := (·.ploliTrain l x)) rfl hp (ploliTrain_major hl hin hpow hser hbad hrole hfar hup hmaj)
    · have hmaj : ¬ (s.ploliMajor + 1 < x.major ∨ x.major + 1 < s.ploliMajor) := not_or.2 ⟨not_lt.2 h1, not_lt.2 h2⟩
      exact act_closes (f := (·.ploliTrain l x)) rfl hp (ploliTrain_up hl hin hpow hser hbad hrole hfar hup hmaj hg hm ho hma hc ht hk)
    · have hmaj : ¬ (s.ploliMajor + 1 < x.major ∨ x.major + 1 < s.ploliMajor) := not_or.2 ⟨not_lt.2 h1, not_lt.2 h2⟩
      exact act_closes (f := (·.ploliTrain l x)) rfl hp (ploliTrain_conflict hl hin hpow hser hbad hrole hfar hup hmaj hg hma)
  · have hrun : s.ploliRetrain l = ((s.bump PLOLI_LINK.RETRAINS l).tally fun t => { t with retrains := t.retrains + 1 }).raise { source := srcId 7 l 1 } :=
      if_pos ⟨hl, hst⟩
    exact act_raise (f := (·.ploliRetrain l)) rfl hp hrun hq
      (State.recorded_congr hrec fun k j hk => State.reg_p_ne _ _ _ _ _ _ (.inl (by rintro rfl; exact absurd hk (by decide))))
  · have hcalm : s.CalmTo ((s.linkGone l).noteReach s.reached) := (s.linkGone_calm l).trans (noteReach_calm _ _)
    refine ⟨fun hst hrec => ?_, fun h1 h5 => ?_⟩
    · refine act_raiseUc (f := (·.ploliDown l)) rfl hp (ploliDown_up hl hrole (ne_of_eq_of_ne hst (by decide)) hst) (hcalm.quiet hq)
        (State.recordedUc_congr hrec fun k j hk => ?_) hcalm.2.2.2 hcalm.2.2.1
      exact (State.reg_of_rf (noteReach_rf (s.linkGone l) s.reached) k j).trans (State.reg_p_ne _ _ _ _ _ _ (.inl (by rintro rfl; exact absurd hk (by decide))))
    · exact act_calm (f := (·.ploliDown l)) rfl hp (ploliDown_notUp hl hrole h5 h1) hcalm hq
  · intro m e t hcount hother hreach hpres htime hrec
    have hgone : s.CalmTo (s.without m) := (State.CalmTo.refl s).p CAS_STATUS.PRESENT 0 _
    refine ⟨fun hrole hm => ?_, fun hrole hm hil => ?_⟩
    · exact act_raiseUc (f := (·.memberLost m)) rfl hp (memberLost_other hcount hother hreach hpres htime hrole hm) (hgone.quiet hq)
        (State.recordedUc_congr hrec fun k j hk => State.reg_p_ne _ _ _ _ _ _ (.inl (by rintro rfl; exact absurd hk (by decide)))) hgone.2.2.2 hgone.2.2.1
    · have hfree : s.CalmTo (((s.without m).p CAS_STATUS.STATE 0 4).ddFree (s.without m).inPlan) := (hgone.p _ _ _).trans (ddFree_calm _ _)
      refine act_raiseUc (f := (·.memberLost m)) rfl hp (memberLost_master hcount hother hreach hpres htime hrole hm hil) (hfree.quiet hq)
        (State.recordedUc_congr hrec fun k j hk => ?_) hfree.2.2.2 hfree.2.2.1
      exact (State.reg_of_rf (ddFree_rf _ _) k j).trans ((State.reg_p_ne (s.without m) _ _ _ _ _ (.inl (by rintro rfl; exact absurd hk (by decide)))).trans
        (State.reg_p_ne _ _ _ _ _ _ (.inl (by rintro rfl; exact absurd hk (by decide)))))
  · obtain ⟨i, commit, stamp, spec, period⟩ := e
    refine ⟨?_, ?_, fun hout => ?_⟩
    · rintro hin rfl
      exact act_calm (f := (·.planReceive i false stamp spec period)) rfl hp (planReceive_free hrole hgrp hin) ⟨rfl, rfl, rfl, rfl⟩ hq
    · rintro hin rfl
      exact act_closes (f := (·.planReceive i true stamp spec period)) rfl hp (planReceive_arm hrole hgrp hin)
    · exact act_closes (f := (·.planReceive i commit stamp spec period)) rfl hp (planReceive_outside hrole hgrp hout)
  · intro e
    refine ⟨fun hgrp htakes hcame => ?_, fun hcount hother => ?_⟩
    · intro came parts
      have harr := groupArrival_eq hrole hgrp htakes hcame
      have hcalm : s.CalmTo (s.hasCome e) := ⟨rfl, rfl, rfl, rfl⟩
      refine ⟨fun hno => ?_, fun hgo _ hheld => ?_, fun hgo hown hall => ?_⟩
      · rw [hno, if_neg Bool.false_ne_true] at harr
        exact act_calm (f := (·.groupArrival m n b)) rfl hp harr hcalm hq
      · rw [hgo, if_pos rfl, combine_held (s := s.hasCome (m, n, b)) hheld] at harr
        exact act_calm (f := (·.groupArrival m n b)) rfl hp harr hcalm hq
      · have hne : (s.hasCome (m, n, b)).partsOf n b ≠ [] := List.ne_nil_of_mem (List.mem_filter.2 ⟨htakes, decide_eq_true rfl⟩)
        rw [hgo, if_pos rfl, combine_goes (s := s.hasCome (m, n, b)) hown hne hall] at harr
        have hclear : s.CalmTo ({ s with cas := { s.cas with came := came.filter fun x => decide (x.2 ≠ (n, b)) } } : State) := ⟨rfl, rfl, rfl, rfl⟩
        exact act_calm (f := (·.groupArrival m n b)) rfl hp harr (hclear.trans (State.sendRelease_calm _ parts n b)) hq
    · intro others
      refine ⟨?_, fun hno => ?_⟩
      · exact act_calm (f := (·.groupPart m n b true)) rfl hp (groupPart_takes hrole hcount hother) ⟨rfl, rfl, rfl, rfl⟩ hq
      · exact act_calm (f := (·.groupPart m n b false)) rfl hp (groupPart_leaves hrole hcount hother hno) ⟨rfl, rfl, rfl, rfl⟩ hq

end Sys2Proof.Machine
end

section
/-!
# Completions and timeouts of reads of host memory (06 R235 to R239)
-/
namespace Sys2Proof.Machine

/-- The reads under tag `tag` are quarantined until `t`. -/
def State.quarantined (s : State) (tag t : Nat) : State :=
  { s with link := { s.link with reqs := s.link.reqs.map fun (x : HReq) => if x.tag = tag then { x with quar := some t } else x } }

/-- A partition function counts a completion of its own. -/
def State.cplCounted (s : State) (fl : Fld) (f : Nat) : State := if f = 0 then s else s.bump fl (f - 1)

/-- A masked error of function `f` that is advisory: its status bits alone. -/
def State.advisory (s : State) (f b : Nat) : State :=
  s.setFn f { s.fn f with aerUnc := setBit (s.fn f).aerUnc b true, aerCor := setBit (s.fn f).aerCor 13 true }

/-- Of the registers, only `PART_CPL` and `Q_STATUS` may differ. -/
def State.SameButCounts (s t : State) : Prop := ∀ k j, k ≠ .PART_CPL → k ≠ .Q_STATUS → t.reg k j = s.reg k j

theorem State.SameButCounts.refl (s : State) : s.SameButCounts s := fun _ _ _ _ => rfl

theorem State.SameButCounts.p {s t : State} (h : s.SameButCounts t) (f : Fld) (i v : Nat) (hf : f.reg = .PART_CPL ∨ f.reg = .Q_STATUS) : s.SameButCounts (t.p f i v) :=
  fun k j h1 h2 => (State.reg_p_other _ _ _ _ _ _ (by rcases hf with hf | hf <;> rw [hf] <;> assumption)).trans (h k j h1 h2)

theorem State.SameButCounts.of_rf {s t u : State} (h : s.SameButCounts t) (hrf : u.rf = t.rf) : s.SameButCounts u :=
  fun k j h1 h2 => (State.reg_of_rf hrf k j).trans (h k j h1 h2)

theorem cplCounted_calm (s : State) (fl : Fld) (f : Nat) : s.CalmTo (s.cplCounted fl f) := by
  unfold State.cplCounted
  split_ifs
  · exact .refl s
  · exact .p (.refl s) _ _ _

theorem cplCounted_regs (s : State) (fl : Fld) (f : Nat) (hf : fl.reg = .PART_CPL) : s.SameButCounts (s.cplCounted fl f) := by
  unfold State.cplCounted
  split_ifs
  · exact .refl s
  · exact .p (.refl s) _ _ _ (.inl hf)

theorem cplCounted_g (s : State) (fl : Fld) (f : Nat) (h : Fld) (j : Nat) (hne : h.reg ≠ fl.reg) : (s.cplCounted fl f).g h j = s.g h j := by
  unfold State.cplCounted
  split_ifs
  · rfl
  · exact State.g_p_other _ _ _ _ _ _ hne

theorem cplCounted_fn (s : State) (fl : Fld) (f j : Nat) : (s.cplCounted fl f).fn j = s.fn j := by
  unfold State.cplCounted
  split_ifs <;> rfl

theorem cplCounted_queue (s : State) (fl : Fld) (f j : Nat) : (s.cplCounted fl f).queue j = s.queue j := by
  unfold State.cplCounted
  split_ifs <;> rfl

theorem cplCounted_arec (s : State) (fl : Fld) (f : Nat) : (s.cplCounted fl f).arec = s.arec := by
  unfold State.cplCounted
  split_ifs
  · rfl
  · exact State.p_arec _ _ _ _

theorem advisory_calm (s : State) (f b : Nat) : s.CalmTo (s.advisory f b) := ⟨rfl, rfl, rfl, rfl⟩

theorem advisory_rf (s : State) (f b : Nat) : (s.advisory f b).rf = s.rf := rfl

/-- A function that reports its errors by no interrupt is only counted. -/
theorem cplCount_silent {s : State} {f : Nat} (fl : Fld) (hfl : fl.reg = .PART_CPL) (h : f = 0 ∨ s.gb PART_CONTROL.ERR_IRQ (f - 1) = false) :
    s.cplCount fl f = s.cplCounted fl f := by
  unfold State.cplCount State.cplCounted
  split_ifs with hf
  · rfl
  · have hirq : (s.bump fl (f - 1)).gb PART_CONTROL.ERR_IRQ (f - 1) = false :=
      (State.gb_congr (State.reg_p_other _ _ _ _ _ _ (by rw [hfl]; decide))).trans (h.resolve_left hf)
    unfold State.fnError
    rw [hirq]
    rfl

/-- A masked error sends no message. -/
theorem aer_masked {s : State} {f b : Nat} (hsev : bit (s.fn f).aerUncSev b = false) (hmask : bit (s.fn f).aerUncMask b = true) : s.aer f b = s.advisory f b := by
  unfold State.aer
  dsimp only
  rw [hsev, hmask, if_neg Bool.false_ne_true]
  simp only [Bool.not_true, Bool.and_false, Bool.false_and, Bool.false_eq_true, if_false]
  rfl

/-- A ring whose read has failed, where the queue reports its errors by no interrupt. -/
theorem ringFault_quiet {s : State} {q : Nat} (h : 64 ≤ q ∨ s.gb Q_CFG.ERR_IRQ q = false) : s.ringFault q =
    if s.g Q_STATUS.STATE q = 0 then s
    else if s.g Q_STATUS.STATE q = 3 then ((s.setQueue q { s.queue q with hold := none, owed := [] }).giveUpRing q).p Q_STATUS.ERROR q 4
    else (((s.setQueue q { s.queue q with cur := none, stale := 0, pre := none }).giveUpRing q).p Q_STATUS.STATE q 2).p Q_STATUS.ERROR q 4 := by
  have hhalt : s.haltQueue q 4 =
      (((s.setQueue q { s.queue q with cur := none, stale := 0, pre := none }).giveUpRing q).p Q_STATUS.STATE q 2).p Q_STATUS.ERROR q 4 := by
    rcases h with h | h
    · unfold State.haltQueue
      exact if_neg fun hc => absurd hc.1 (Nat.not_lt.2 h)
    · exact haltQueue_quiet 4 (.inr h)
  unfold State.ringFault
  dsimp only
  rw [hhalt]

theorem giveUpRing_calm (s : State) (q : Nat) : s.CalmTo (s.giveUpRing q) := ⟨rfl, rfl, rfl, rfl⟩

theorem giveUpRing_rf (s : State) (q : Nat) : (s.giveUpRing q).rf = s.rf := rfl

theorem setQueue_rf (s : State) (q : Nat) (x : QSt) : (s.setQueue q x).rf = s.rf := rfl

theorem partOf_congr {s t : State} (h : t.arec = s.arec) (q : Nat) : t.partOf q = s.partOf q := by
  unfold State.partOf State.slotsOf State.partCount State.part
  rw [h]

/-- What a failed ring read leaves alone. -/
theorem ringFault_keeps {s : State} {q : Nat} (h : 64 ≤ q ∨ s.gb Q_CFG.ERR_IRQ q = false) :
    s.CalmTo (s.ringFault q) ∧ s.SameButCounts (s.ringFault q) := by
  rw [ringFault_quiet h]
  split_ifs
  · exact ⟨.refl s, .refl s⟩
  · exact ⟨(((State.CalmTo.refl s).setQueue q _).trans (giveUpRing_calm _ _)).p _ _ _,
      (((State.SameButCounts.refl s).of_rf (setQueue_rf _ _ _)).of_rf (giveUpRing_rf _ _)).p _ _ _ (.inr rfl)⟩
  · exact ⟨((((State.CalmTo.refl s).setQueue q _).trans (giveUpRing_calm _ _)).p _ _ _).p _ _ _,
      ((((State.SameButCounts.refl s).of_rf (setQueue_rf _ _ _)).of_rf (giveUpRing_rf _ _)).p _ _ _ (.inr rfl)).p _ _ _ (.inr rfl)⟩

section
variable {s : State} {tag : Nat} {r : HReq}

/-- The read of a ring times out. -/
theorem cplTimeout_ring (hfind : s.link.reqs.find? (fun x => decide (x.tag = tag) && !x.orphan && x.quar.isNone) = some r) {q : Nat}
    (howner : r.owner = .ring q) (htime : r.issued + s.timeoutOf r.fn r.io ≤ s.time) {t : State}
    (ht : ((s.quarantined tag (s.time + 2 * s.timeoutOf r.fn r.io)).cplCount PART_CPL.TIMEOUTS r.fn).aer r.fn 14 = t) (hsafe : t.gb DEV_STATUS.SAFE = false)
    (harec : t.arec = s.arec) : s.cplTimeout tag = (t.ringFault q).raise { source := srcId 5 4 2, part := (s.partOf q).getD 0xF } := by
  have hfail : t.readFails r = (t.ringFault q).raise { source := srcId 5 4 2, part := (s.partOf q).getD 0xF } := by
    unfold State.readFails
    rw [hsafe, if_neg Bool.false_ne_true, howner, ← partOf_congr harec]
  unfold State.cplTimeout
  rw [hfind]
  dsimp only
  rw [if_neg (not_lt.2 htime)]
  exact (congrArg (State.readFails · r) ht).trans hfail

theorem lateCpl_eq (hfind : s.link.reqs.find? (fun x => decide (x.tag = tag) && !x.orphan && x.quar.isSome) = some r) :
    s.lateCpl tag = ((s.cplCount PART_CPL.LATE_CPL r.fn).aer r.fn 16).raise { source := srcId 5 4 3, part := if r.fn = 0 then 0xF else r.fn - 1 } := by
  unfold State.lateCpl
  rw [hfind]

theorem orphanCpl_eq (hfind : s.link.reqs.find? (fun x => decide (x.tag = tag) && decide (x.fn = r.fn) && x.orphan) = some r) :
    s.orphanCpl r.fn tag = (s.cplCount PART_CPL.ORPHANED r.fn).dropReq tag := by
  unfold State.orphanCpl
  rw [hfind]

section
variable (hfind : s.link.reqs.find? (fun x => decide (x.tag = tag)) = some r)
include hfind

theorem quarEnd_over {t : Nat} (hquar : r.quar = some t) (htime : t ≤ s.time) : s.quarEnd tag = s.dropReq tag := by
  unfold State.quarEnd
  rw [hfind, Option.bind_some, hquar]
  exact if_neg (not_lt.2 htime)

/-- The data of a ring read that is still wanted is the fetched entry. -/
theorem hostReadDone_ring {q : Nat} {data : Bytes} (howner : r.owner = .ring q) (hio : r.io = true) (horphan : r.orphan = false) (hquar : r.quar = none)
    (hmay : s.mayFetch q = true) (hcur : (s.queue q).cur = none) : s.hostReadDone tag data = s.fetched q data := by
  unfold State.hostReadDone
  rw [hfind]
  dsimp only
  rw [hio, horphan, hquar]
  show s.hostGave r data = _
  unfold State.hostGave
  rw [howner]
  dsimp only
  split_ifs with hstale
  · unfold State.descFetch
    rw [if_pos ⟨hcur, hstale⟩, if_pos hmay]
  · unfold State.descRefetch
    rw [if_pos ⟨hcur, hstale⟩, if_pos hmay]

end

end

/-- Settles O40: a read that times out is quarantined and fails its ring; late and orphaned completions are counted. -/
theorem readsOfHostMemory : Obligations.ReadsOfHostMemory := by
  intro s tag r hp hq quar given unasked count advisory silent
  have hcalm : ∀ (u : State) (fl : Fld) (b : Nat), s.CalmTo u → s.CalmTo ((u.cplCounted fl r.fn).advisory r.fn b) := fun u fl b hu =>
    (hu.trans (cplCounted_calm u fl r.fn)).trans (advisory_calm _ _ _)
  have hcount : ∀ (u : State) (fl : Fld) (b : Nat), fl.reg = .PART_CPL → u.rf = s.rf → u.fns = s.fns → silent → bit (s.fn r.fn).aerUncSev b = false →
      bit (s.fn r.fn).aerUncMask b = true → (u.cplCount fl r.fn).aer r.fn b = (u.cplCounted fl r.fn).advisory r.fn b := by
    intro u fl b hfl hrf hfns hsil hsev hmask
    have hfn : (u.cplCounted fl r.fn).fn r.fn = s.fn r.fn := (cplCounted_fn _ _ _ _).trans (congrArg (tget (fun _ => ({} : FnSt)) · r.fn) hfns)
    rw [cplCount_silent fl hfl (hsil.imp_right ((State.gb_congr (State.reg_of_rf hrf _ _)).trans ·))]
    exact aer_masked (by rw [hfn]; exact hsev) (by rw [hfn]; exact hmask)
  have hregs : ∀ (u : State) (fl : Fld) (b : Nat), fl.reg = .PART_CPL → u.rf = s.rf → s.SameButCounts ((u.cplCounted fl r.fn).advisory r.fn b) :=
    fun u fl b hfl hrf k j h1 h2 => ((State.reg_of_rf (advisory_rf _ _ _) k j).trans (cplCounted_regs u fl r.fn hfl k j h1 h2)).trans (State.reg_of_rf hrf k j)
  refine ⟨fun hfind q e howner htime hsil hsev hmask hquiet hsafe he hrec => ?_, fun hfind e hsil hsev hmask he hrec => ?_, fun hfind hsil => ?_,
    fun hfind t hquar htime => ?_, fun hfind q data b howner hio horphan hquar hmay hcur hread hstable hplain hload hgen hlist => ?_⟩
  · intro t
    have hkeep : s.CalmTo t := hcalm (s.quarantined tag _) PART_CPL.TIMEOUTS 14 ⟨rfl, rfl, rfl, rfl⟩
    have hsame : s.SameButCounts t := hregs (s.quarantined tag _) PART_CPL.TIMEOUTS 14 rfl rfl
    have harec : t.arec = s.arec := cplCounted_arec (s.quarantined tag _) PART_CPL.TIMEOUTS r.fn
    have hqueue : t.queue q = s.queue q := cplCounted_queue (s.quarantined tag _) PART_CPL.TIMEOUTS r.fn q
    have ht : ((s.quarantined tag (s.time + 2 * s.timeoutOf r.fn r.io)).cplCount PART_CPL.TIMEOUTS r.fn).aer r.fn 14 = t :=
      hcount (s.quarantined tag _) PART_CPL.TIMEOUTS 14 rfl rfl rfl hsil hsev hmask
    have hst : t.g Q_STATUS.STATE q = s.g Q_STATUS.STATE q := cplCounted_g (s.quarantined tag _) PART_CPL.TIMEOUTS r.fn Q_STATUS.STATE q (by decide)
    clear_value t
    have hquiet' : 64 ≤ q ∨ t.gb Q_CFG.ERR_IRQ q = false := hquiet.imp_right ((State.gb_congr (hsame _ _ (by decide) (by decide))).trans ·)
    obtain ⟨hfcalm, hfsame⟩ := ringFault_keeps hquiet'
    have hrun := cplTimeout_ring hfind howner htime ht ((State.gb_congr (hsame _ _ (by decide) (by decide))).trans hsafe) harec
    have hgive : ∀ x, (t.setQueue q x).giveUpRing q = unasked q (t.setQueue q x) := fun x => by
      rw [giveUpRing_eq]
      unfold State.unclaimed
      rw [show (t.setQueue q x).g SLOT_CFG.PASID q = s.g SLOT_CFG.PASID q from State.g_congr (hsame _ _ (by decide) (by decide))]
    rw [← hqueue, ← hst, ← hgive, ← hgive, ← ringFault_quiet hquiet']
    exact act_raiseUc (f := (·.cplTimeout tag)) rfl hp (he ▸ hrun) ((hkeep.trans hfcalm).quiet hq)
      (State.recordedUc_congr hrec fun k j hk => (hfsame k j (by rintro rfl; exact absurd hk (by decide)) (by rintro rfl; exact absurd hk (by decide))).trans
        (hsame k j (by rintro rfl; exact absurd hk (by decide)) (by rintro rfl; exact absurd hk (by decide)))) (hkeep.trans hfcalm).2.2.2 (hkeep.trans hfcalm).2.2.1
  · have hkeep : s.CalmTo ((s.cplCounted PART_CPL.LATE_CPL r.fn).advisory r.fn 16) := hcalm s PART_CPL.LATE_CPL 16 (.refl s)
    have hrun := lateCpl_eq hfind
    rw [hcount s PART_CPL.LATE_CPL 16 rfl rfl rfl hsil hsev hmask, ← he] at hrun
    exact act_raise (f := (·.lateCpl tag)) rfl hp hrun (hkeep.quiet hq) (State.recorded_congr hrec fun k j hk =>
      hregs s PART_CPL.LATE_CPL 16 rfl rfl k j (by rintro rfl; exact absurd hk (by decide)) (by rintro rfl; exact absurd hk (by decide))) hkeep.2.2.2 hkeep.2.2.1
  · have hrun := orphanCpl_eq hfind
    rw [cplCount_silent _ rfl hsil] at hrun
    exact act_calm (f := (·.orphanCpl r.fn tag)) rfl hp hrun ((cplCounted_calm s _ _).trans ⟨rfl, rfl, rfl, rfl⟩) hq
  · exact act_calm (f := (·.quarEnd tag)) rfl hp (quarEnd_over hfind hquar htime) ⟨rfl, rfl, rfl, rfl⟩ hq
  · refine act_calm (f := (·.hostReadDone tag data)) rfl hp ?_ ⟨rfl, rfl, rfl, rfl⟩ hq
    have hgo := fetched_eq hread hstable hload
    rw [if_pos hgen] at hgo
    refine (hostReadDone_ring hfind howner hio horphan hquar hmay hcur).trans (hgo.trans ?_)
    exact queueGo_fetched (by unfold State.PlainQueue; rw [State.queue_setQueue]; exact hplain) (by rw [State.queue_setQueue]) hlist

end Sys2Proof.Machine
end

section
/-!
# Windows in the safe state (12 R440)
-/
namespace Sys2Proof.Machine

set_option Elab.async false

/-- The device is in the safe state. -/
def safeDev : State := Tests.dev.p DEV_STATUS.SAFE 0 1

/-- A request to window 0, which is off. -/
def offRequest : IlReq := { member := 0, tag := 0, window := 0, off := 0 }

/-- The refusal of the request. -/
def offRefused (r : IlReq) : State :=
  ((safeDev.winRefuse r.window r.off (safeDev.g WIN_CFG.PASID r.window) true).ilAnswer r.member r.tag 1 [] r.windowed).closes safeDev

/-- In the safe state a request to a window is not looked at: its refusal is not counted. -/
theorem safeDev_refused : ∀ t, exec (.interloanWriteReceive offRequest) safeDev = .next t → t.g WIN_STATUS.REFUSED 0 = 0 := by
  intro t ht
  obtain rfl : Tests.after (exec (.interloanWriteReceive offRequest) safeDev) = t := congrArg Tests.after ht
  decide +kernel

theorem offRefused_counts : (offRefused offRequest).g WIN_STATUS.REFUSED 0 ≠ 0 := by decide +kernel

/-- Refutes O53: it asks for the refusal of a window that is off whatever the state, but in the safe state (`safeDev`) an interloan request does nothing
(12 R440), and the refusal is not counted. -/
theorem not_interloanAndWindows : ¬ Obligations.InterloanAndWindows := by
  intro h
  obtain ⟨hreq, -⟩ := h safeDev (by unfold State.Powered; decide +kernel) (by unfold State.Quiet; decide +kernel)
  obtain ⟨hoff, -⟩ := hreq offRequest
  obtain ⟨hwrite, -⟩ := hoff (by decide +kernel)
  exact offRefused_counts (safeDev_refused (offRefused offRequest) hwrite)

end Sys2Proof.Machine
end

section
/-!
# Writes of the network frame that flush a write-combining entry (08 R298, R301)
-/
namespace Sys2Proof.Machine

set_option Elab.async false

/-- The line after the first memory-region entry. -/
def besideMr : Nat := (2 ^ 52 + 0x80000) / 64 + 1

/-- The write-combining buffer of a controller is full, and a word of its oldest entry reads uncorrected; the reserve is off. -/
def fullBuffer : State :=
  { Tests.dev.p RES_STATUS.STATE 0 0 with
    dmem := { Tests.dev.dmem with wcb := List.replicate 64 ⟨besideMr, [], 0, 0, 0⟩, bad := [dpaOf besideMr / 8] } }

/-- A command collects the events that it raises. -/
theorem fullBuffer_quiet : ∀ t, exec .mrInvalidate fullBuffer = .next t → t.evq = [] := by
  intro t ht
  obtain rfl : Tests.after (exec .mrInvalidate fullBuffer) = t := congrArg Tests.after ht
  decide +kernel

/-- The write of a memory-region entry flushes the oldest entry, which raises an event. -/
theorem fullBuffer_raises : (((fullBuffer.netWrite (mrOff (fullBuffer.g MR_INDEX.INDEX)) (zeros 32)).p MR_RESULT.RESULT 0 0).lines).evq ≠ [] := by decide +kernel

/-- Refutes O49: it asks that MR_INVALIDATE ends without collecting events. In `fullBuffer` the write of the entry flushes another, a word of which reads
uncorrected, and that is an event (08 R298) that the command collects. -/
theorem not_portsAndContexts : ¬ Obligations.PortsAndContexts := by
  intro h
  obtain ⟨-, -, -, -, hmr⟩ := h fullBuffer 0 (by unfold State.Powered; decide +kernel) (by unfold State.Quiet; decide +kernel)
  obtain ⟨-, -, -, hinvalidate, -⟩ := hmr (by decide +kernel)
  exact fullBuffer_raises (fullBuffer_quiet _ hinvalidate)

end Sys2Proof.Machine
end

section
/-!
# A change of rate that flushes a write-combining entry (08 R298, R301)
-/
namespace Sys2Proof.Machine

set_option Elab.async false

/-- The last line of the granule of the first queue-pair context. -/
def besideCtx : Nat := 2 ^ 52 / 64 + 3

/-- Queue pair 0 is READY and its rate may rise; the write-combining buffer of its context's controller is full, and a word of the oldest entry reads
uncorrected; the reserve is off. -/
def fullRate : State :=
  { Tests.dev.p RES_STATUS.STATE 0 0 with
    time := 1000000000,
    dmem := { Tests.dev.dmem with dram := [(0, 1)], wcb := List.replicate 64 ⟨besideCtx, [], 0, 0, 0⟩, bad := [dpaOf besideCtx / 8] } }

/-- A command collects the events that it raises. -/
theorem fullRate_quiet : ∀ t, exec (.ccRecover 0) fullRate = .next t → t.evq = [] := by
  intro t ht
  obtain rfl : Tests.after (exec (.ccRecover 0) fullRate) = t := congrArg Tests.after ht
  decide +kernel

/-- A write that misses both buffers, of a controller whose buffer is full, flushes the oldest entry; a word of it that reads uncorrected is an event. -/
theorem wcbWrite_raises {s : State} {line : Nat} {e : WcbEnt} {es : List WcbEnt} (mask : Nat) (data : Bytes)
    (hmiss : (s.dmem.wcb.any fun e => decide (e.line = line)) = false)
    (hmine : (s.dmem.wcb.filter fun e => decide (s.stackOf (dpaOf e.line) = s.stackOf (dpaOf line))) = e :: es) (hfull : 64 ≤ (e :: es).length)
    (hflush : (s.wcbFlush e).evq ≠ []) : (s.wcbWrite line mask data).evq ≠ [] := by
  unfold State.wcbWrite
  dsimp only
  rw [hmiss, if_neg Bool.false_ne_true, hmine]
  show (if 64 ≤ (e :: es).length then s.wcbFlush e else s).evq ≠ []
  rw [if_pos hfull]
  exact hflush

/-- The rate of the context is shown by a write that flushes the oldest entry, whatever the queue pair becomes and whatever its rate. -/
theorem fullRate_raises (y : QpSt) (v : Nat) : (((fullRate.setQp 0 y).ctxPut 0 0x60 4 v).lines).evq ≠ [] := by
  have hbytes : linesOf (2 ^ 52 + (128 * 0 + 0x60)) (natLe 4 v).length = [(2 ^ 52 / 64 + 1, 32, 4)] := by
    rw [show (natLe 4 v).length = 4 from rfl]
    decide +kernel
  have hway : ((fullRate.setQp 0 y).resLine (2 ^ 52 / 64 + 1)).way = 0 := by
    show (fullRate.resLine _).way = 0
    decide +kernel
  have huses : (fullRate.setQp 0 y).resUses (some 3) = none := by
    have hoff : fullRate.g RES_STATUS.STATE ≠ 1 := by decide +kernel
    exact if_neg fun hc => hoff hc.1
  have hflush : ((fullRate.setQp 0 y).wcbFlush ⟨besideCtx, [], 0, 0, 0⟩).evq ≠ [] := by
    show (fullRate.wcbFlush ⟨besideCtx, [], 0, 0, 0⟩).evq ≠ []
    decide +kernel
  have hwrite : ∀ mask data, ((fullRate.setQp 0 y).memWrite (2 ^ 52 / 64 + 1) mask data (some 3)).evq ≠ [] := fun mask data => by
    unfold State.memWrite
    dsimp only
    rw [if_neg (not_not.2 hway), huses]
    refine wcbWrite_raises (es := List.replicate 63 ⟨besideCtx, [], 0, 0, 0⟩) mask data ?_ ?_ ?_ hflush
    · show (fullRate.dmem.wcb.any _) = false
      decide +kernel
    · show (fullRate.dmem.wcb.filter fun e => decide (fullRate.stackOf (dpaOf e.line) = fullRate.stackOf (dpaOf (2 ^ 52 / 64 + 1)))) = _
      decide +kernel
    · decide
  rw [State.lines_evq]
  unfold State.ctxPut State.netWrite
  rw [hbytes]
  exact hwrite _ _

/-- Refutes O50: it asks that CC_RECOVER ends without collecting events. In `fullRate` the write of the context flushes another entry, a word of which reads
uncorrected, and that is an event (08 R298) that the command collects. -/
theorem not_sendingQueuePairs : ¬ Obligations.SendingQueuePairs := by
  intro h
  obtain ⟨-, -, -, -, -, -, hrate⟩ := h fullRate 0 (by unfold State.Powered; decide +kernel) (by unfold State.Quiet; decide +kernel) (by decide +kernel)
  obtain ⟨-, hrise⟩ := hrate
  obtain ⟨y, -, hrun, -⟩ := hrise (by decide +kernel)
  exact fullRate_raises y _ (fullRate_quiet _ hrun)

end Sys2Proof.Machine
end

section
/-!
# Writes of device memory that flush a write-combining entry (08 R298, R301)
-/
namespace Sys2Proof.Machine

set_option Elab.async false

/-- The first device line, and the one after it. -/
def firstLine : Nat := 2 ^ 46

/-- The write-combining buffer of the first line's controller is full, and a word of its oldest entry reads uncorrected; the reserve is off. -/
def fullLine : State :=
  { Tests.dev.p RES_STATUS.STATE 0 2 with
    dmem := { Tests.dev.dmem with wcb := List.replicate 64 ⟨firstLine + 1, [], 0, 0, 0⟩, bad := [dpaOf (firstLine + 1) / 8] } }

/-- Nothing waits in it. -/
theorem fullLine_rests : fullLine.HomesRest := by
  unfold State.HomesRest State.NothingOwed
  decide +kernel

/-! ### Requests at the home -/

/-- A write of the first line by wing 0. -/
def lineWritten : Msg := { opc := 4, src := 0, dst := 0, ca := firstLine }

/-- A command collects the events that it raises. -/
theorem fullLine_written_quiet : ∀ t, exec (.wrNa lineWritten) fullLine = .next t → t.evq = [] := by
  intro t ht
  obtain rfl : Tests.after (exec (.wrNa lineWritten) fullLine) = t := congrArg Tests.after ht
  decide +kernel

/-- The state that the statement asks for after the write `m`. -/
def lineStored (m : Msg) : State :=
  ((((fullLine.took 4 m).memWrite m.ca fullMask (slice m.data 0 64) (fullLine.slotClass (fullLine.slotOfMsg m))).freeEnt m.ca).homeSend m.ca 0x84 m.src
    m.txn).lines

theorem lineStored_raises : (lineStored lineWritten).evq ≠ [] := by decide +kernel

/-- Refutes O42: it asks that WR_NA ends without collecting events. In `fullLine` the write flushes another entry, a word of which reads uncorrected, and that
is an event (08 R298) that the command collects. -/
theorem not_requestsAtTheHome : ¬ Obligations.RequestsAtTheHome := by
  intro h
  obtain ⟨-, -, hwrite, -⟩ := h fullLine lineWritten (by unfold State.Powered; decide +kernel) (by unfold State.Quiet; decide +kernel) fullLine_rests
    (by decide +kernel) (by decide +kernel) (by decide +kernel)
  have hrow := hwrite (.wrNa lineWritten) 4 fullMask List.mem_cons_self
  exact lineStored_raises (fullLine_written_quiet (lineStored lineWritten) hrow)

/-! ### Answers at the home -/

/-- Wing 0 writes the first line back from its eviction buffer. -/
def evicting : State := { fullLine with wings := [(0, { eb := [⟨firstLine, 4, [], false, 0⟩] })] }

/-- The write-back. -/
def lineEvicted : Msg := { opc := 8, src := 0, dst := 0, ca := firstLine }

theorem evicting_quiet : ∀ t, exec (.wbDirty lineEvicted) evicting = .next t → t.evq = [] := by
  intro t ht
  obtain rfl : Tests.after (exec (.wbDirty lineEvicted) evicting) = t := congrArg Tests.after ht
  decide +kernel

/-- The state that the statement asks for after the write-back `m` of `b`. -/
def evicted (m : Msg) (b : EbEnt) : State :=
  let e := evicting.ent m.ca
  let g := evicting.wing m.src
  let t := (evicting.took 8 m).setWing m.src { g with eb := g.eb.map fun (x : EbEnt) => if x.line = m.ca then { x with sent := true } else x }
  (((if b.st = 2 then t else t.memWrite m.ca fullMask b.data none).setEnt m.ca
    { e with owned := e.owned && !(e.owned && decide (e.owner = m.src / 4)) }).homeSend m.ca 0x88 m.src 0).lines

theorem evicted_raises : (evicted lineEvicted ⟨firstLine, 4, [], false, 0⟩).evq ≠ [] := by decide +kernel

/-- Refutes O43: it asks that WB_DIRTY ends without collecting events. In `evicting` the write-back flushes another entry, a word of which reads uncorrected,
and that is an event (08 R298) that the command collects. -/
theorem not_answersAtTheHome : ¬ Obligations.AnswersAtTheHome := by
  intro h
  obtain ⟨hback, -⟩ := h evicting lineEvicted (by unfold State.Powered; decide +kernel) (by unfold State.Quiet; decide +kernel)
  have hrow := hback (.wbDirty lineEvicted) 8 ⟨firstLine, 4, [], false, 0⟩ List.mem_cons_self (by unfold State.HomesRest State.NothingOwed; decide +kernel)
    (by decide +kernel) (by decide +kernel) (by decide +kernel) rfl (by decide)
  exact evicted_raises (evicting_quiet (evicted lineEvicted ⟨firstLine, 4, [], false, 0⟩) hrow)

/-! ### The reserve -/

/-- The reserve holds a dirty copy of the first line and is being disabled. -/
def walking : State := { fullLine with dmem := { fullLine.dmem with res := [(firstLine, { way := 1, data := [], dirty := true })] } }

theorem walking_quiet : ∀ t, exec .reserveWalkEnd walking = .next t → t.evq = [] := by
  intro t ht
  obtain rfl : Tests.after (exec .reserveWalkEnd walking) = t := congrArg Tests.after ht
  decide +kernel

/-- The state that the statement asks for at the end of the walk. -/
def walked (r : ResLine) : State :=
  ((({ walking with dmem := { walking.dmem with res := [] } } : State).wcbWrite firstLine fullMask r.data).p RES_STATUS.STATE 0 3).lines

theorem walked_raises : (walked { way := 1, data := [], dirty := true }).evq ≠ [] := by decide +kernel

/-- Refutes O46: it asks that RESERVE_WALK_END ends without collecting events. In `walking` the line that leaves the reserve flushes an entry of the
write-combining buffer, a word of which reads uncorrected, and that is an event (08 R298) that the command collects. -/
theorem not_memoryControllers : ¬ Obligations.MemoryControllers := by
  intro h
  obtain ⟨-, -, -, -, -, hres, -⟩ := h walking (by unfold State.Powered; decide +kernel) (by unfold State.Quiet; decide +kernel)
  obtain ⟨hend, -⟩ := hres firstLine { way := 1, data := [], dirty := true } rfl (by decide) rfl
  exact walked_raises (walking_quiet (walked { way := 1, data := [], dirty := true }) (hend (by decide +kernel)))

end Sys2Proof.Machine
end

section
/-!
# Carrels listed twice: errors, and the request for TEST
-/
namespace Sys2Proof.Machine

set_option Elab.async false

/-! ### Errors -/

/-- A failure of the hub bridge of die 0 reported in `twiceListed`: carrel 0 reads as stopped after it. -/
theorem twiceListed_stops : ∀ t, exec (.hardwareErrorEvent (srcId 2 0 0x41) 0) twiceListed = .next t → (t.carrel 0).run = .stopped := by
  intro t ht
  obtain rfl : Tests.after (exec (.hardwareErrorEvent (srcId 2 0 0x41) 0) twiceListed) = t := congrArg Tests.after ht
  decide +kernel

/-- Refutes O58: it asks of a FATAL event that a carrel that reads as idle stays so, and that fails where the table of carrels is not in canonical form. In
`twiceListed` carrel 0 is idle; the entry into the safe state rewrites the table, and carrel 0 then reads as stopped. -/
theorem not_errorsAndRepairs : ¬ Obligations.ErrorsAndRepairs := by
  intro h
  obtain ⟨⟨hp, hq⟩, ⟨hs, -⟩, -, hr⟩ := bridgeFatal_hyps
  obtain ⟨hev, -⟩ := h twiceListed hp hq
  obtain ⟨-, -, hfatal⟩ := hev (srcId 2 0 0x41) 0 (by decide +kernel) (by decide +kernel) (by decide +kernel)
  obtain ⟨t, ht, hent, -⟩ := hfatal (by decide +kernel) hs hr
  obtain ⟨-, -, -, -, -, -, -, -, hruns, -⟩ := hent
  have hrun := (hruns 0).2
  rw [twiceListed_stops t ht, twiceListed_run.1] at hrun
  exact absurd hrun (by decide)

/-! ### The request for TEST -/

/-- A device in SERVICE and its life cycle 4 whose table of carrels lists carrel 0 twice, idle and then active: it reads as idle. -/
def twiceServing : State :=
  { Tests.inSt 4 with dev := { archRun := true, deskRun := true, lifecycle := 4 }, car := [(0, {}), (0, { run := .active })] }

/-- The request stops every carrel: the first value of carrel 0 is dropped, and the second shows. -/
theorem twiceServing_stops : ∀ t, exec .testReq twiceServing = .next t → (t.carrel 0).run = .stopped := by
  intro t ht
  obtain rfl : Tests.after (exec .testReq twiceServing) = t := congrArg Tests.after ht
  decide +kernel

theorem twiceServing_idle : (twiceServing.carrel 0).run = .idle := by decide +kernel

/-- Refutes O60: it asks of TEST_REQ that a carrel that reads as idle stays so, and that fails where the table of carrels is not in canonical form
(`twiceServing`). -/
theorem not_startsAndLifeCycles : ¬ Obligations.StartsAndLifeCycles := by
  intro h
  obtain ⟨-, -, -, hrows⟩ := h twiceServing
  obtain ⟨-, -, -, -, -, -, -, -, htest, -⟩ := hrows (by unfold State.Powered; decide +kernel) (by unfold State.Quiet; decide +kernel)
  obtain ⟨-, hreq⟩ := htest (by decide +kernel)
  obtain ⟨t, ht, -, -, -, hruns, -⟩ := hreq (by decide +kernel) (by decide +kernel) (by decide +kernel) (by decide +kernel)
  have hrun := (hruns 0).2
  rw [twiceServing_stops t ht, twiceServing_idle] at hrun
  exact absurd hrun (by decide)

end Sys2Proof.Machine
end

section
/-!
# A carrel listed twice: the withdrawal of translations
-/
namespace Sys2Proof.Machine

set_option Elab.async false

/-- A device whose table of carrels lists carrel 0 twice: without translations, and with one. It reads as without. -/
def twiceTranslated : State := { Tests.dev with car := [(0, {}), (0, { xlat := [⟨1, 4096, 12, 0, 0, true, true, false, 0, 1⟩] })] }

/-- A withdrawal of other pages rewrites the table: the first value of carrel 0 is dropped, and the second shows. -/
theorem twiceTranslated_shows : ∀ t, exec (.atsInvalidateRequest 1 0 false 0 0 4096) twiceTranslated = .next t → (t.carrel 0).xlat ≠ [] := by
  intro t ht
  obtain rfl : Tests.after (exec (.atsInvalidateRequest 1 0 false 0 0 4096) twiceTranslated) = t := congrArg Tests.after ht
  decide +kernel

theorem twiceTranslated_reads : (twiceTranslated.carrel 0).xlat = [] := by decide +kernel

/-- Refutes O48: it asks that ATS_INVALIDATE_REQUEST leaves every carrel the translations that it read as holding and that are not withdrawn. That fails where
the table of carrels is not in canonical form: in `twiceTranslated` carrel 0 reads as without translations, and as with one after the command. -/
theorem not_translation : ¬ Obligations.Translation := by
  intro h
  obtain ⟨-, -, -, hinv, -⟩ := h twiceTranslated 0 (by unfold State.Powered; decide +kernel) (by unfold State.Quiet; decide +kernel) (by decide +kernel)
    (by decide)
  obtain ⟨hreq, -⟩ := hinv (by decide +kernel) (by unfold State.PartRests State.NoTries State.NoFetch; decide +kernel) (by decide +kernel) (by decide +kernel)
  obtain ⟨t, ht, -, -, -, hxlat, -⟩ := hreq 0 false 0 0 4096 (by decide +kernel) (by decide +kernel) (by decide +kernel)
  have hread := hxlat 0
  rw [twiceTranslated_reads] at hread
  exact twiceTranslated_shows t ht hread

end Sys2Proof.Machine
end

section
/-!
# A queue pair that receives (10 R371 to R373)
-/
namespace Sys2Proof.Machine

section
variable {s u v : State} {n : Nat} {p : RocePkt} {rq : Bytes}

/-- How far the packet's PSN lies ahead of the expected one. -/
def State.psnAhead (s : State) (p : RocePkt) : Nat := psnFrom (s.ctxF p.qp 0x10 4) p.psn

/-! ### The place in the sequence -/

theorem psnCheck_expected (hd : u.psnAhead p = 0) : u.psnCheck p.qp p = (true, u) := if_pos hd

theorem psnCheck_duplicate (hd : 2 ^ 23 ≤ u.psnAhead p) : u.psnCheck p.qp p = (false, u.roceReply p.qp p.psn 0) := by
  unfold State.psnAhead at hd
  unfold State.psnCheck
  dsimp only
  rw [if_neg (by omega), if_neg (not_lt.2 hd)]

theorem psnCheck_ahead (h0 : 0 < u.psnAhead p) (hd : u.psnAhead p < 2 ^ 23) : u.psnCheck p.qp p =
    if (u.qpOf p.qp).gap = true then (false, u)
    else (false, (u.setQp p.qp { u.qpOf p.qp with gap := true }).roceReply p.qp (u.ctxF p.qp 0x10 4) 2) := by
  unfold State.psnAhead at h0 hd
  unfold State.psnCheck
  dsimp only
  rw [if_neg (Nat.ne_of_gt h0), if_pos hd]

/-! ### SEND -/

section
variable (hin : s.roceIn n p = (true, u)) (hop : p.op ≤ 5)
include hin hop

/-- A packet of a SEND out of its place. -/
theorem roceSend_out {w : State} (hpsn : u.psnCheck p.qp p = (false, w)) : s.roceSend n p rq = w := by
  rw [State.roceSend, hin]
  refine Eq.trans (if_neg (not_lt.2 hop)) ?_
  rw [hpsn]

/-- A packet of a SEND in its place that fits in the receive request in use and is placed. -/
theorem roceSend_placed {r : RecvWr} (hd : u.psnAhead p = 0) (hrecv : (u.qpOf p.qp).recv = some r) (hfit : r.got + p.data.length ≤ r.len)
    (hplace : u.placeVa (p.data.length / 4096 + 3) { source := 3, carrel := p.qp } (u.qpPart p.qp) (u.ctxF p.qp 4 4) (r.va + r.got) p.data = (.ok 0, v))
    {r' : RecvWr} (hr' : r' = { r with got := r.got + p.data.length }) {t : State} (ht : t = v.setQp p.qp { v.qpOf p.qp with recv := some r' }) :
    s.roceSend n p rq = ((if p.op = 2 ∨ p.op = 4 then t.recvDone p.qp r' r'.got 0x10 0 0
      else if p.op = 3 ∨ p.op = 5 then t.recvDone p.qp r' r'.got 0x11 p.imm 0 else t).psnOn p.qp 1).roceReply p.qp p.psn 0 := by
  have hget : u.recvGet p.qp p.psn rq = (some r, u) := by
    unfold State.recvGet
    dsimp only
    rw [hrecv]
  rw [State.roceSend, hin]
  refine Eq.trans (if_neg (not_lt.2 hop)) ?_
  rw [psnCheck_expected hd]
  dsimp only
  rw [hget]
  refine Eq.trans (if_neg (not_lt.2 hfit)) ?_
  rw [hplace, ht, hr']

end

/-! ### RDMA WRITE -/

/-- A middle packet of an RDMA WRITE, placed. -/
theorem roceWrite_middle (hin : s.roceIn n p = (true, u)) {i va left total : Nat} (hd : u.psnAhead p = 0) (hop : p.op = 7)
    (hwr : (u.qpOf p.qp).wr = some (i, va, left, total)) (hfit : p.data.length ≤ left) (hplace : u.mrPlace p.qp i va p.data = (.ok 0, v)) :
    s.roceWrite n p rq =
      ((v.setQp p.qp { v.qpOf p.qp with wr := some (i, va + p.data.length, left - p.data.length, total) }).psnOn p.qp 1).roceReply p.qp p.psn 0 := by
  have hfirst : decide (p.op = 6 ∨ p.op = 10 ∨ p.op = 11) = false := decide_eq_false (by omega)
  have himm : decide (p.op = 9 ∨ p.op = 11) = false := decide_eq_false (by omega)
  have hlast : decide (p.op = 8 ∨ p.op = 9 ∨ p.op = 10 ∨ p.op = 11) = false := decide_eq_false (by omega)
  rw [State.roceWrite, hin]
  refine Eq.trans (if_neg (by omega)) ?_
  rw [psnCheck_expected hd]
  dsimp only
  rw [hfirst, himm, hlast]
  simp only [Bool.false_eq_true, if_false, hwr, false_and]
  refine Eq.trans (if_neg (not_lt.2 hfit)) ?_
  rw [hplace]

/-- The first or only packet of an RDMA WRITE without immediate data, admitted by its region and placed. -/
theorem roceWrite_first (hin : s.roceIn n p = (true, u)) {i : Nat} {w : State} (hd : u.psnAhead p = 0) (hop : p.op = 6 ∨ p.op = 10)
    (hread : u.netRead n (mrOff (p.rkey / 2 ^ 18)) 32 = (false, w)) (hcheck : w.mrCheck p.qp p.rkey p.va p.len true = some i)
    (hfit : p.data.length ≤ p.len) (hplace : w.mrPlace p.qp i p.va p.data = (.ok 0, v)) :
    s.roceWrite n p rq = ((v.setQp p.qp { v.qpOf p.qp with
      wr := if p.op = 10 then none else some (i, p.va + p.data.length, p.len - p.data.length, p.len) }).psnOn p.qp 1).roceReply p.qp p.psn 0 := by
  have hfirst : decide (p.op = 6 ∨ p.op = 10 ∨ p.op = 11) = true := decide_eq_true (by omega)
  have himm : decide (p.op = 9 ∨ p.op = 11) = false := decide_eq_false (by omega)
  have hlast : decide (p.op = 8 ∨ p.op = 9 ∨ p.op = 10 ∨ p.op = 11) = decide (p.op = 10) := decide_eq_decide.2 (by omega)
  rw [State.roceWrite, hin]
  refine Eq.trans (if_neg (by omega)) ?_
  rw [psnCheck_expected hd]
  dsimp only
  rw [hfirst, himm, hlast, if_pos rfl, if_pos rfl, hread]
  simp only [Bool.false_eq_true, if_false, hcheck, Option.map_some, false_and, decide_eq_true_eq]
  refine Eq.trans (if_neg (not_lt.2 hfit)) ?_
  rw [hplace]

/-! ### RDMA READ -/

/-- The answer to an RDMA READ of the data `g`: `k` packets from the PSN on. -/
def State.readAnswer (s : State) (q psn mtu k : Nat) (g : Bytes) : State :=
  (List.range k).foldl (fun (s : State) j =>
    s.qpSend q { qp := 0, psn := (psn + j) % 2 ^ 24, data := (g.drop (j * mtu)).take mtu,
                 op := if k = 1 then 0x10 else if j = 0 then 0xD else if j + 1 < k then 0xE else 0xF }) s

/-- A request in its place that its region admits. -/
theorem roceReadReq_served (hin : s.roceIn n p = (true, u)) {host g : Bytes} {i ca : Nat} {w : State}
    (hread : u.netRead n (mrOff (p.rkey / 2 ^ 18)) 32 = (false, w)) (hmay : w.mayRequest (w.qpFn p.qp) = true) (hd : u.psnAhead p = 0)
    (hcheck : w.mrCheck p.qp p.rkey p.va p.len false = some i)
    (hload : w.payloadVa (w.qpPart p.qp) (bits (w.mrF i 0x18 4) 19 0) p.va p.len { source := 3, carrel := p.qp } host = (.ok ca, g, false, v)) :
    s.roceReadReq n p host = (v.psnOn p.qp (max 1 ((p.len + u.qpMtu p.qp - 1) / u.qpMtu p.qp))).readAnswer p.qp p.psn (u.qpMtu p.qp)
      (max 1 ((p.len + u.qpMtu p.qp - 1) / u.qpMtu p.qp)) g := by
  have hd' : psnFrom (u.ctxF p.qp 0x10 4) p.psn = 0 := hd
  rw [State.roceReadReq, hin]
  dsimp only
  rw [hread]
  refine Eq.trans (if_neg (by simp [hmay])) ?_
  rw [hd', if_neg (by decide), hcheck]
  dsimp only
  rw [hload]
  rfl

end

/-- Settles O51: each packet by its place in the sequence. -/
theorem receivingQueuePairs : Obligations.ReceivingQueuePairs := by
  intro s u n p hp hq hin q y d
  refine ⟨fun rq hop => ⟨fun hd r v hrecv hfit hplace => ?_, fun hd => ?_, fun h0 hd hgap => ?_, fun h0 hd hgap => ?_⟩, fun rq v hd => ⟨?_, ?_⟩, ?_⟩
  · intro r' t
    have hrun := roceSend_placed (rq := rq) hin hop hd hrecv hfit hplace (r' := r') rfl (t := t) rfl
    refine ⟨fun h1 => ?_, fun h24 => ?_, fun h35 => ?_⟩
    · rw [if_neg (by omega), if_neg (by omega)] at hrun
      exact act_closes (f := (·.roceSend n p rq)) rfl hp hrun
    · rw [if_pos h24] at hrun
      exact act_closes (f := (·.roceSend n p rq)) rfl hp hrun
    · rw [if_neg (by omega), if_pos h35] at hrun
      exact act_closes (f := (·.roceSend n p rq)) rfl hp hrun
  · exact act_closes (f := (·.roceSend n p rq)) rfl hp (roceSend_out hin hop (psnCheck_duplicate hd))
  · have hpsn := psnCheck_ahead h0 hd
    rw [show (u.qpOf p.qp).gap = false from hgap, if_neg Bool.false_ne_true] at hpsn
    exact act_closes (f := (·.roceSend n p rq)) rfl hp (roceSend_out hin hop hpsn)
  · have hpsn := psnCheck_ahead h0 hd
    rw [show (u.qpOf p.qp).gap = true from hgap, if_pos rfl] at hpsn
    exact act_closes (f := (·.roceSend n p rq)) rfl hp (roceSend_out hin hop hpsn)
  · intro i va left total hop hwr hfit hplace
    exact act_closes (f := (·.roceWrite n p rq)) rfl hp (roceWrite_middle hin hd hop hwr hfit hplace)
  · intro i w hop hread hcheck hfit hplace
    exact act_closes (f := (·.roceWrite n p rq)) rfl hp (roceWrite_first hin hd hop hread hcheck hfit hplace)
  · intro host i w v ca g hread hmay hd hcheck hload
    exact act_closes (f := (·.roceReadReq n p host)) rfl hp (roceReadReq_served hin hread hmay hd hcheck hload)

end Sys2Proof.Machine
end

section
/-!
# Snoops and grants at a wing (07 R256 to R258, R260, R267, R283)
-/
namespace Sys2Proof.Machine

/-! ### The homes keep resting -/

theorem State.HomesRest.dropTxn {s : State} (h : s.HomesRest) (t : Txn) : (s.dropTxn t).HomesRest := h

theorem State.HomesRest.putTxn {s : State} (h : s.HomesRest) (t : Txn) : (s.putTxn t).HomesRest := h

theorem State.HomesRest.send {s : State} (h : s.HomesRest) (m : Msg) : (s.send m).HomesRest :=
  h.of rfl rfl rfl rfl rfl rfl rfl rfl fun _ => rfl

theorem State.HomesRest.unwait {s : State} (h : s.HomesRest) (w l : Nat) : (s.unwait w l).HomesRest :=
  h.of rfl rfl rfl rfl rfl rfl rfl rfl fun _ => rfl

theorem State.HomesRest.setWline {s : State} (h : s.HomesRest) (w l : Nat) (x : WLine) : (s.setWline w l x).HomesRest := h.setWing w _

theorem State.HomesRest.wInstall {s : State} (h : s.HomesRest) (w l st way : Nat) (data : Bytes) (f : Nat) :
    (s.wInstall w l st way data f).HomesRest := (h.setWline w l _).setWing w _

/-- A pair that stops reading its slip keeps its slip line. -/
theorem State.HomesRest.stopReading {s : State} (h : s.HomesRest) (n : Nat) : (s.setCs n { s.csOf n with reading := false }).HomesRest := by
  obtain ⟨h1, h2, h3, h4, h5, hl, hq, hf, hn, ha, hc, hh, hk⟩ := h
  refine ⟨h1, h2, h3, h4, h5, hl, hq, hf, hn, ha, fun e he hm => ?_, hh, hk⟩
  have hold : ∀ e ∈ s.cs, s.g CS_CTL.MODE e.1 = 1 → ((s.setCs n { s.csOf n with reading := false }).csOf e.1).slipLine ≠ none := fun e he hm => by
    by_cases hen : e.1 = n
    · rw [hen, State.csOf_setCs]
      exact hen ▸ hc e he hm
    · exact ne_of_eq_of_ne (congrArg CsSt.slipLine (tget_tset_ne _ _ _ _ _ hen)) (hc e he hm)
  have hkeys : e ∈ s.cs ∨ (s.csOf n ≠ {} ∧ e.1 = n) := by
    have he : e ∈ tset (fun _ => ({} : CsSt)) s.cs n { s.csOf n with reading := false } := he
    unfold tset at he
    rw [List.mem_append, List.mem_append] at he
    obtain (he | he) | he := he
    · exact .inl (List.mem_of_mem_filter he)
    · split_ifs at he with hd
      · exact absurd he List.not_mem_nil
      · exact .inr ⟨fun hc => hd (by rw [hc]), by rw [List.mem_singleton.1 he]⟩
    · exact .inl (List.mem_of_mem_filter he)
  obtain he | ⟨hne, hen⟩ := hkeys
  · exact hold e he hm
  · obtain ⟨x, hx, hxn⟩ : ∃ x ∈ s.cs, x.1 = n := by
      by_contra hno
      push Not at hno
      exact hne (tget_none _ _ _ hno)
    rw [hen] at hm ⊢
    rw [← hxn] at hm ⊢
    exact hxn ▸ hold x hx hm

theorem State.WingRests.unwait {s : State} {w : Nat} (h : s.WingRests w) (v l : Nat) : (s.unwait v l).WingRests w := by
  unfold State.unwait State.onXfers State.WingRests tmap
  intro e he hw
  obtain ⟨x, hx, rfl⟩ := List.mem_map.1 (List.mem_of_mem_filter he)
  have hnone : x.2.xfers = [] := h x hx hw
  dsimp only
  split_ifs
  · rw [hnone]
    rfl
  · exact hnone

/-! ### Snoops of a die -/

/-- Wing `w` has been asked about line `l`, which it now holds as `x`. -/
def State.snooped (s : State) (w l : Nat) (x : WLine) : State := (s.wrap WING_CACHE_SNOOPS.COUNT w).setWline w l x

/-- What a wing keeps of a line that it held as `x`, in the state `st`. -/
def keptLine (x : WLine) (l st : Nat) : WLine := if st = 0 then noWLine l else { x with st := st }

section
variable {s : State} {w v l k : Nat} {x : WLine}

theorem State.wline_setWline : (s.setWline w l x).wline w l = x := by
  unfold State.setWline State.wline
  rw [State.wing_setWing, tget_tset_same]

theorem State.wline_setWline_ne (h : v ≠ w ∨ k ≠ l) : (s.setWline w l x).wline v k = s.wline v k := by
  unfold State.setWline State.wline
  by_cases hv : v = w
  · rw [hv, State.wing_setWing, tget_tset_ne _ _ _ _ _ (h.resolve_left (not_not.2 hv))]
  · rw [State.wing_setWing_ne _ _ _ _ hv]

theorem State.wline_snooped : (s.snooped w l x).wline w l = x := State.wline_setWline

theorem State.wline_snooped_ne (h : v ≠ w ∨ k ≠ l) : (s.snooped w l x).wline v k = s.wline v k := State.wline_setWline_ne h

theorem State.ebOf_snooped : (s.snooped w l x).ebOf v k = s.ebOf v k := by
  unfold State.snooped State.setWline State.ebOf
  by_cases hv : v = w
  · rw [hv, State.wing_setWing]
    rfl
  · rw [State.wing_setWing_ne _ _ _ _ hv]
    rfl

theorem State.cacheState_snooped : (s.snooped w l x).g WING_CACHE_STATUS.STATE v = s.g WING_CACHE_STATUS.STATE v :=
  State.g_p_other _ _ _ _ _ _ (by decide)

/-- A cache that is in service and has the line in its lines alone answers by the rule. -/
theorem snoopWing_eq {opc : Nat} (hs : s.g WING_CACHE_STATUS.STATE w ≠ 5) (hb : s.ebOf w l = none) :
    s.snoopWing w l opc = ((snoopRule opc (s.wline w l).st (s.wline w l).data).1,
      s.snooped w l (keptLine (s.wline w l) l (snoopRule opc (s.wline w l).st (s.wline w l).data).2)) := by
  have hb' : (s.wrap WING_CACHE_SNOOPS.COUNT w).ebOf w l = none := hb
  have hl : (s.wrap WING_CACHE_SNOOPS.COUNT w).wline w l = s.wline w l := rfl
  unfold State.snoopWing
  rw [if_neg hs]
  dsimp only
  rw [hb']
  dsimp only
  rw [hl]
  generalize snoopRule opc (s.wline w l).st (s.wline w l).data = r
  obtain ⟨r, st⟩ := r
  cases st with
  | zero => rfl
  | succ n => rfl

end

/-- The wings `ks` of die `d` have been asked, and keep what `y` says. -/
def State.dieSnooped (s : State) (d l : Nat) (y : Nat → WLine) (ks : List Nat) : State := ks.foldl (fun s k => s.snooped (4 * d + k) l (y k)) s

section
variable {d l opc : Nat} {y : Nat → WLine} {r : Nat → SnRsp}

theorem snoopWings_eq (ks : List Nat) (hn : ks.Nodup) : ∀ (s : State) (a : SnRsp),
    (∀ k ∈ ks, s.g WING_CACHE_STATUS.STATE (4 * d + k) ≠ 5 ∧ s.ebOf (4 * d + k) l = none ∧
      (snoopRule opc (s.wline (4 * d + k) l).st (s.wline (4 * d + k) l).data).1 = r k ∧
      keptLine (s.wline (4 * d + k) l) l (snoopRule opc (s.wline (4 * d + k) l).st (s.wline (4 * d + k) l).data).2 = y k) →
    ks.foldl (fun a k => (SnRsp.max a.1 (a.2.snoopWing (4 * d + k) l opc).1, (a.2.snoopWing (4 * d + k) l opc).2)) (a, s) =
      (ks.foldl (fun a k => SnRsp.max a (r k)) a, s.dieSnooped d l y ks) := by
  induction ks with
  | nil => intros; rfl
  | cons k ks ih =>
    intro s a h
    obtain ⟨hk, hn⟩ := List.nodup_cons.1 hn
    obtain ⟨h5, heb, hr, hy⟩ := h k List.mem_cons_self
    rw [List.foldl_cons, snoopWing_eq h5 heb, hr, hy, ih hn]
    · rfl
    · intro j hj
      have hne : 4 * d + j ≠ 4 * d + k := fun hc => hk (by rw [← Nat.add_left_cancel hc]; exact hj)
      rw [State.cacheState_snooped, State.ebOf_snooped, State.wline_snooped_ne (.inl hne)]
      exact h j (List.mem_cons_of_mem k hj)

theorem dieSnooped_calm (ks : List Nat) : ∀ s : State, s.CalmTo (s.dieSnooped d l y ks) := by
  induction ks with
  | nil => exact .refl
  | cons k ks ih => exact fun s => State.CalmTo.trans ⟨rfl, rfl, rfl, rfl⟩ (ih _)

theorem dieSnooped_rests (ks : List Nat) : ∀ s : State, s.HomesRest → (s.dieSnooped d l y ks).HomesRest := by
  induction ks with
  | nil => exact fun _ h => h
  | cons k ks ih => exact fun s h => ih _ ((h.p _ _ _ (by decide)).setWline _ _ _)

theorem dieSnooped_net (ks : List Nat) : ∀ s : State, (s.dieSnooped d l y ks).net = s.net := by
  induction ks with
  | nil => exact fun _ => rfl
  | cons k ks ih => exact fun s => ih _

theorem dieSnooped_other {w m : Nat} (h : w / 4 ≠ d ∨ m ≠ l) (ks : List Nat) (hks : ∀ k ∈ ks, k < 4) :
    ∀ s : State, (s.dieSnooped d l y ks).wline w m = s.wline w m := by
  induction ks with
  | nil => exact fun _ => rfl
  | cons k ks ih =>
    intro s
    have hk := hks k List.mem_cons_self
    exact (ih (fun j hj => hks j (List.mem_cons_of_mem k hj)) _).trans (State.wline_snooped_ne (h.imp (fun h hc => h (by omega)) id))

theorem dieSnooped_skip {j : Nat} (ks : List Nat) : ∀ s : State, j ∉ ks → (s.dieSnooped d l y ks).wline (4 * d + j) l = s.wline (4 * d + j) l := by
  induction ks with
  | nil => exact fun _ _ => rfl
  | cons k ks ih =>
    intro s hn
    have hne : j ≠ k := fun hc => hn (hc ▸ List.mem_cons_self)
    exact (ih _ fun hc => hn (List.mem_cons_of_mem k hc)).trans (State.wline_snooped_ne (.inl fun hc => hne (Nat.add_left_cancel hc)))

theorem dieSnooped_own {j : Nat} (ks : List Nat) : ∀ s : State, j ∈ ks → (s.dieSnooped d l y ks).wline (4 * d + j) l = y j := by
  induction ks with
  | nil => exact fun _ h => absurd h List.not_mem_nil
  | cons k ks ih =>
    intro s hj
    by_cases hin : j ∈ ks
    · exact ih _ hin
    · obtain rfl : j = k := (List.mem_cons.1 hj).resolve_right hin
      exact (dieSnooped_skip ks _ hin).trans State.wline_snooped

end

/-- The answers of a die of which one wing, `j`, holds the line in M. -/
theorem snoopDie_eq {s : State} {d l j opc st : Nat} {R : SnRsp} (hj : j < 4) (hm : (s.wline (4 * d + j) l).st = 4)
    (hrule : snoopRule opc 4 (s.wline (4 * d + j) l).data = (R, st)) (hR : R.kind = 2)
    (hon : ∀ k < 4, s.g WING_CACHE_STATUS.STATE (4 * d + k) ≠ 5)
    (hno : ∀ k < 4, s.ebOf (4 * d + k) l = none ∧ (k ≠ j → (s.wline (4 * d + k) l).st = 0)) :
    s.snoopDie d l opc 0 = (R, s.dieSnooped d l (fun k => keptLine (s.wline (4 * d + k) l) l (if k = j then st else 0)) (List.range 4)) := by
  have hks : ((List.range 4).filter fun k => decide (4 * d + k + 1 ≠ 0)) = List.range 4 :=
    List.filter_eq_self.2 fun _ _ => rfl
  unfold State.snoopDie
  rw [hks, snoopWings_eq (r := fun k => if k = j then R else {}) (List.range 4) List.nodup_range]
  · refine congrArg₂ Prod.mk ?_ rfl
    have hmax : SnRsp.max {} R = R := if_pos (by rw [hR]; decide)
    have hkeep : SnRsp.max R {} = R := if_neg (by rw [hR]; decide)
    have hnone : SnRsp.max {} ({} : SnRsp) = {} := rfl
    interval_cases j <;> simp [List.range_succ, hmax, hkeep, hnone]
  · intro k hk
    obtain ⟨heb, hst⟩ := hno k (List.mem_range.1 hk)
    refine ⟨hon k (List.mem_range.1 hk), heb, ?_⟩
    by_cases hkj : k = j
    · rw [if_pos hkj, if_pos hkj, hkj, hm, hrule]
      exact ⟨rfl, rfl⟩
    · rw [if_neg hkj, if_neg hkj, hst hkj]
      exact ⟨rfl, rfl⟩

/-- The answer that the die's bridge sends on. -/
theorem snoopIn_eq {s : State} {m : Msg} {d o : Nat} {R : SnRsp} {u : State} (hd : m.dst = 0x80 + d) (hd8 : d < 8) (hw : m.wing = 0)
    (hdie : (s.took o m).snoopDie d m.ca o 0 = (R, u)) (hrest : (u.snoopReply { m with opc := o } R).HomesRest) :
    s.snoopIn { m with opc := o } = u.snoopReply { m with opc := o } R := by
  have hdie' : (s.taken { m with opc := o }).snoopDie (m.dst - 0x80) m.ca o m.wing = (R, u) := by
    have hsub : m.dst - 0x80 = d := by omega
    rw [hw, hsub]
    exact hdie
  unfold State.snoopIn
  dsimp only
  rw [if_neg (by omega), if_pos (by omega), hdie']
  exact State.goOn_homesRest _ hrest

/-- The messages of an answer with dirty data (R256). -/
def answers (m : Msg) (toHome : Bool) (data : Bytes) (keep : Nat) : List Msg :=
  [{ opc := if toHome then 0xC2 else 0xC1, src := m.dst, dst := if toHome then 0x40 + homeOf m.ca else m.dataTo, txn := m.txn, ca := m.ca, dirty := true,
     data := data },
   { opc := 0x8C, src := m.dst, dst := 0x40 + homeOf m.ca, txn := m.txn, ca := m.ca, st := keep }]

/-- A snoop of a die of which wing `j` alone holds the line, in M. -/
theorem snoopIn_modified {s : State} {m : Msg} {d j o st keep : Nat} {toHome : Bool} (hrest : s.HomesRest) (hd : m.dst = 0x80 + d) (hd8 : d < 8)
    (hj : j < 4) (hw : m.wing = 0) (hm : (s.wline (4 * d + j) m.ca).st = 4)
    (hon : ∀ k < 4, s.g WING_CACHE_STATUS.STATE (4 * d + k) ≠ 5)
    (hno : ∀ k < 4, s.ebOf (4 * d + k) m.ca = none ∧ (k ≠ j → (s.wline (4 * d + k) m.ca).st = 0))
    (hrule : snoopRule o 4 (s.wline (4 * d + j) m.ca).data =
      ({ kind := 2, st := keep, data := (s.wline (4 * d + j) m.ca).data, dirty := true }, st))
    (hto : (decide (o = 0x41 ∨ o = 0x44) || decide (o = 0x42 ∧ 0x40 ≤ m.dataTo)) = toHome) :
    ∃ t, s.snoopIn { m with opc := o } = t ∧ s.CalmTo t ∧
      t.wline (4 * d + j) m.ca = keptLine (s.wline (4 * d + j) m.ca) m.ca st ∧
      (∀ w k, w / 4 ≠ d ∨ k ≠ m.ca → t.wline w k = s.wline w k) ∧
      t.net = (s.took o m).net ++ answers m toHome (s.wline (4 * d + j) m.ca).data keep := by
  have hdie := snoopDie_eq (s := s.took o m) hj hm hrule rfl hon hno
  generalize hy : (fun k => keptLine ((s.took o m).wline (4 * d + k) m.ca) m.ca (if k = j then st else 0)) = y at hdie
  generalize hu : (s.took o m).dieSnooped d m.ca y (List.range 4) = u at hdie
  have hreply : ∀ R : SnRsp, R = { kind := 2, st := keep, data := (s.wline (4 * d + j) m.ca).data, dirty := true } →
      u.snoopReply { m with opc := o } R = { u with net := u.net ++ answers m toHome (s.wline (4 * d + j) m.ca).data keep } := by
    rintro R rfl
    unfold State.snoopReply
    dsimp only
    rw [hto]
    unfold State.send answers
    rw [List.append_assoc]
    rfl
  have hurest : u.HomesRest := hu ▸ dieSnooped_rests _ _ (hrest.unsend _ _ _ _ _)
  have hcalm : (s.took o m).CalmTo u := hu ▸ dieSnooped_calm _ _
  refine ⟨_, rfl, ?_⟩
  rw [snoopIn_eq hd hd8 hw hdie (by rw [hreply _ rfl]; exact hurest.of rfl rfl rfl rfl rfl rfl rfl rfl fun _ => rfl), hreply _ rfl]
  refine ⟨State.CalmTo.trans hcalm ⟨rfl, rfl, rfl, rfl⟩, ?_, fun w k h => ?_, ?_⟩
  · refine (congrArg (fun v : State => v.wline (4 * d + j) m.ca) hu.symm).trans ((dieSnooped_own _ _ (List.mem_range.2 hj)).trans ?_)
    rw [← hy]
    dsimp only
    rw [if_pos rfl]
    rfl
  · exact (congrArg (fun v : State => v.wline w k) hu.symm).trans (dieSnooped_other h _ (fun k hk => List.mem_range.1 hk) _)
  · show u.net ++ _ = _
    rw [← hu, dieSnooped_net]

/-! ### Grants and data -/

section
variable {s : State} {m : Msg} {t : Txn} {o : Nat} (h : s.txnOf m = some t)
include h

theorem txnOf_line : t.line = m.ca := by
  have := List.find?_some h
  simp only [Bool.and_eq_true, decide_eq_true_eq] at this
  exact this.2

theorem txnOf_agent : t.agent = m.dst := by
  have := List.find?_some h
  simp only [Bool.and_eq_true, decide_eq_true_eq] at this
  exact this.1.1

theorem txnOf_txn : t.txn = m.txn := by
  have := List.find?_some h
  simp only [Bool.and_eq_true, decide_eq_true_eq] at this
  exact this.1.2

theorem granted_eq : (s.took o m).granted { m with opc := o } = (s.took o m).readStep { t with grant := some o } := by
  have h' : (s.took o m).txnOf { m with opc := o } = some t := h
  unfold State.granted
  rw [h']

theorem dataCame_eq : (s.took o m).dataCame { m with opc := o } =
    (s.took o m).readStep { t with data := some (slice m.data 0 64), err := m.err, dirty := m.dirty } := by
  have h' : (s.took o m).txnOf { m with opc := o } = some t := h
  unfold State.dataCame
  rw [h']

end

/-- The state in which a wing has taken the line of a read that has its grant and its data. -/
def State.filled (s : State) (t : Txn) (st : Nat) (data : Bytes) : State :=
  (((s.dropTxn t).send { opc := 0x89, src := t.agent, dst := 0x40 + homeOf t.line, txn := t.txn, ca := t.line }).wInstall t.agent t.line st t.way data
    (s.fnOf t.slot)).unwait t.agent t.line

/-- The state that a grant's opcode gives a line. -/
def grantSt (code : Nat) : Nat := match code with | 0x80 => 1 | 0x81 => 2 | _ => 4

theorem readDone_fills {s : State} {t : Txn} {code : Nat} {data : Bytes} (hw : t.agent < 32) (hwho : t.who = none) (herr : t.err = false)
    (h3 : s.g WING_CACHE_STATUS.STATE t.agent ≠ 3) (h5 : s.g WING_CACHE_STATUS.STATE t.agent ≠ 5) :
    s.readDone t code data = s.filled t (grantSt code) data := by
  unfold State.readDone
  dsimp only
  rw [if_neg (by omega), if_neg (by omega), hwho]
  dsimp only
  rw [herr, if_neg Bool.false_ne_true]
  exact (if_neg h5).trans (if_neg h3)

theorem goes_on {s : State} {w : Nat} (hrest : s.HomesRest) (hwing : s.WingRests w) : s.goOn.agentGo w = s := by
  rw [State.goOn_homesRest s hrest]
  unfold State.agentGo
  split_ifs
  · exact pumpWing_rests hwing
  · rfl

/-- What a wing has after a read of its own is done. -/
theorem filled_spec {s : State} {t : Txn} {st : Nat} {data : Bytes} :
    (s.filled t st data).wline t.agent t.line = ⟨st, t.way, data, s.fnOf t.slot⟩ ∧
      (∀ w k, w ≠ t.agent ∨ k ≠ t.line → (s.filled t st data).wline w k = s.wline w k) ∧
      (s.filled t st data).net = s.net ++ [{ opc := 0x89, src := t.agent, dst := 0x40 + homeOf t.line, txn := t.txn, ca := t.line }] ∧
      (s.filled t st data).coh = (s.dropTxn t).coh ∧ (s.filled t st data).store = s.store := by
  have htouch : ∀ (u : State) (w l k v j : Nat), (u.wTouch w l k).wline v j = u.wline v j := fun u w l k v j => by
    unfold State.wTouch State.wline
    by_cases hv : v = w
    · rw [hv, State.wing_setWing]
    · rw [State.wing_setWing_ne _ _ _ _ hv]
  refine ⟨?_, fun w k h => ?_, rfl, rfl, rfl⟩
  · exact (htouch _ _ _ _ _ _).trans State.wline_setWline
  · exact (htouch _ _ _ _ _ _).trans (State.wline_setWline_ne h)

theorem filled_rests {s : State} {t : Txn} {st : Nat} {data : Bytes} (h : s.HomesRest) : (s.filled t st data).HomesRest :=
  ((((h.dropTxn t).send _).wInstall _ _ _ _ _ _).unwait _ _)

theorem filled_calm {s : State} {t : Txn} {st : Nat} {data : Bytes} : s.CalmTo (s.filled t st data) := by
  have hset : ∀ (u : State) (w : Nat) (x : WingSt), s.CalmTo u → s.CalmTo (u.setWing w x) := fun _ _ _ h => h.trans ⟨rfl, rfl, rfl, rfl⟩
  have hfree : ∀ (u : State) (w l : Nat), s.CalmTo u → s.CalmTo (u.unwait w l) := fun _ _ _ h => h.trans ⟨rfl, rfl, rfl, rfl⟩
  have hsend : ∀ m : Msg, s.CalmTo ((s.dropTxn t).send m) := fun _ => ⟨rfl, rfl, rfl, rfl⟩
  exact hfree _ _ _ (hset _ _ _ (hset _ _ _ (hsend _)))

theorem took_calm {s : State} {m : Msg} {o : Nat} : s.CalmTo (s.took o m) := ⟨rfl, rfl, rfl, rfl⟩

theorem filled_wing {s : State} {t : Txn} {st w : Nat} {data : Bytes} (h : s.WingRests w) : (s.filled t st data).WingRests w :=
  State.WingRests.unwait (s := ((s.dropTxn t).send _).wInstall _ _ _ _ _ _) h _ _

section
variable {s : State} {m : Msg} {t : Txn} {o : Nat} (h : s.txnOf m = some t) (hrest : s.HomesRest) (hwing : s.WingRests m.dst)
include h hrest hwing

/-- A grant whose data has not come waits. -/
theorem grantIn_waits (hd : t.data = none) : s.grantIn { m with opc := o } = (s.took o m).putTxn { t with grant := some o } := by
  have hstep : (s.took o m).readStep { t with grant := some o } = (s.took o m).putTxn { t with grant := some o } := by
    unfold State.readStep
    dsimp only
    rw [hd]
  exact (congrArg (fun u : State => u.goOn.agentGo m.dst) ((granted_eq h).trans hstep)).trans
    (goes_on ((hrest.unsend o m.src m.dst m.txn m.ca).putTxn _) hwing)

/-- Data whose grant has not come waits. -/
theorem dataIn_waits (hg : t.grant = none) : s.dataIn { m with opc := o } =
    (s.took o m).putTxn { t with data := some (slice m.data 0 64), err := m.err, dirty := m.dirty } := by
  have hstep : (s.took o m).readStep { t with data := some (slice m.data 0 64), err := m.err, dirty := m.dirty } =
      (s.took o m).putTxn { t with data := some (slice m.data 0 64), err := m.err, dirty := m.dirty } := by
    unfold State.readStep
    dsimp only
    rw [hg]
  exact (congrArg (fun u : State => u.goOn.agentGo m.dst) ((dataCame_eq h).trans hstep)).trans
    (goes_on ((hrest.unsend o m.src m.dst m.txn m.ca).putTxn _) hwing)

variable (hw : m.dst < 32) (hwho : t.who = none) (h3 : s.g WING_CACHE_STATUS.STATE m.dst ≠ 3) (h5 : s.g WING_CACHE_STATUS.STATE m.dst ≠ 5)
include hw hwho h3 h5

/-- The grant is the second of the two. -/
theorem grantIn_fills {data : Bytes} (hd : t.data = some data) (herr : t.err = false) :
    s.grantIn { m with opc := o } = (s.took o m).filled { t with grant := some o } (grantSt o) data := by
  have ha := txnOf_agent h
  have hstep : (s.took o m).readStep { t with grant := some o } = (s.took o m).readDone { t with grant := some o } o data := by
    unfold State.readStep
    dsimp only
    rw [hd]
  have hdone : (s.took o m).readDone { t with grant := some o } o data = (s.took o m).filled { t with grant := some o } (grantSt o) data :=
    readDone_fills (t := { t with grant := some o }) (ha ▸ hw) hwho herr (ha ▸ h3) (ha ▸ h5)
  exact (congrArg (fun u : State => u.goOn.agentGo m.dst) ((granted_eq h).trans (hstep.trans hdone))).trans
    (goes_on (filled_rests (hrest.unsend o m.src m.dst m.txn m.ca)) (filled_wing hwing))

/-- The data is the second of the two. -/
theorem dataIn_fills {code : Nat} (hg : t.grant = some code) (herr : m.err = false) : s.dataIn { m with opc := o } =
    (s.took o m).filled { t with data := some (slice m.data 0 64), err := m.err, dirty := m.dirty } (grantSt code) (slice m.data 0 64) := by
  have ha := txnOf_agent h
  generalize ht : ({ t with data := some (slice m.data 0 64), err := m.err, dirty := m.dirty } : Txn) = t'
  have hagent : t'.agent = m.dst := by rw [← ht]; exact ha
  have hwho' : t'.who = none := by rw [← ht]; exact hwho
  have herr' : t'.err = false := by rw [← ht]; exact herr
  have hstep : (s.took o m).readStep t' = (s.took o m).readDone t' code (slice m.data 0 64) := by
    rw [← ht]
    unfold State.readStep
    dsimp only
    rw [hg]
  have hdone : (s.took o m).readDone t' code (slice m.data 0 64) = (s.took o m).filled t' (grantSt code) (slice m.data 0 64) :=
    readDone_fills (hagent ▸ hw) hwho' herr' (hagent ▸ h3) (hagent ▸ h5)
  exact (congrArg (fun u : State => u.goOn.agentGo m.dst) ((dataCame_eq h).trans ((congrArg _ ht).trans (hstep.trans hdone)))).trans
    (goes_on (filled_rests (hrest.unsend o m.src m.dst m.txn m.ca)) (filled_wing hwing))

end

/-! ### Writes, losses and stashes -/

/-- The wing's own copy after `CMP_W` of the write `t` (R275). -/
def State.ownCopy (s : State) (m : Msg) (t : Txn) : State :=
  if t.opc = 6 ∧ (s.wline m.dst m.ca).st ≠ 0 then ((s.took 0x84 m).dropTxn t).setWline m.dst m.ca
    { s.wline m.dst m.ca with st := 1, data := maskMerge t.mask (s.wline m.dst m.ca).data t.bytes }
  else (s.took 0x84 m).dropTxn t

theorem writtenIn_eq {s : State} {m : Msg} {t : Txn} (h : s.txnOf m = some t) (hrest : s.HomesRest) (hwing : s.WingRests m.dst) (hw : m.dst < 32)
    (hwho : t.who = none) : s.writtenIn { m with opc := 0x84 } = s.ownCopy m t := by
  have ha := txnOf_agent h
  have hl := txnOf_line h
  have h' : (s.took 0x84 m).txnOf { m with opc := 0x84 } = some t := h
  have hwritten : (s.took 0x84 m).written { m with opc := 0x84 } = s.ownCopy m t := by
    unfold State.written
    rw [h']
    dsimp only
    rw [if_neg (by omega), hwho, ha, hl]
    rfl
  have hdrop : ((s.took 0x84 m).dropTxn t).HomesRest := (hrest.unsend _ _ _ _ _).dropTxn t
  have hcopy : (s.ownCopy m t).HomesRest ∧ (s.ownCopy m t).WingRests m.dst ∧ (s.ownCopy m t).nic = s.nic := by
    unfold State.ownCopy
    split_ifs
    · exact ⟨hdrop.setWline _ _ _, hwing, rfl⟩
    · exact ⟨hdrop, hwing, rfl⟩
  obtain ⟨hr, hwr, hnic⟩ := hcopy
  have hacks : (s.ownCopy m t).acksGo = s.ownCopy m t := by
    obtain ⟨-, -, -, -, -, -, -, -, hn, ha, -⟩ := hr
    exact State.acksGo_rests _ hn ha
  exact (congrArg (fun u : State => (u.goOn.agentGo m.dst).acksGo) hwritten).trans ((congrArg State.acksGo (goes_on hr hwr)).trans hacks)

/-- A slip whose line is lost (05 R165): its pair is in error. -/
theorem lostIn_slip {s : State} {m : Msg} {t : Txn} (h : s.txnOf m = some t) (hrest : s.HomesRest) (hdst : m.dst = 0x21) (hopc : t.opc = 1)
    (hslot : t.slot < 64) (horph : t.orphan = false) : s.lostIn { m with opc := 0x8D } =
      (((s.took 0x8D m).dropTxn t).setCs t.slot { s.csOf t.slot with reading := false }).p CS_STATUS.STATE t.slot 4 := by
  have ha := txnOf_agent h
  have h' : (s.took 0x8D m).txnOf { m with opc := 0x8D } = some t := h
  generalize hu : (((s.took 0x8D m).dropTxn t).setCs t.slot { s.csOf t.slot with reading := false }).p CS_STATUS.STATE t.slot 4 = u
  have hlost : (s.took 0x8D m).lostData { m with opc := 0x8D } = u := by
    unfold State.lostData
    rw [h']
    dsimp only
    rw [if_pos (ha.trans hdst)]
    unfold State.engGot
    dsimp only
    rw [horph, if_neg Bool.false_ne_true, if_pos hopc, if_neg (by omega)]
    exact hu
  have hurest : u.HomesRest := hu ▸ (((hrest.unsend 0x8D m.src m.dst m.txn m.ca).dropTxn t).stopReading t.slot).p _ _ _ (by decide)
  have hgo : u.goOn.agentGo m.dst = u := by
    rw [State.goOn_homesRest u hurest]
    exact if_neg (by omega)
  exact (congrArg (fun u : State => u.goOn.agentGo m.dst) hlost).trans hgo

/-- The function under which a stashed line is installed: that of its transaction at the home. -/
def State.stashFn (s : State) (l : Nat) : Nat :=
  match s.coh.homes.find? (fun h => decide (h.line = l) && h.stash) with | some h => s.hFn h | none => 0

/-- The bytes of a read that charges no partition's reserve. -/
theorem memRead_data (s : State) (l : Nat) : (s.memRead l none).1 =
    if (s.resLine l).way ≠ 0 then (s.resLine l).data else
      maskMerge (((s.dmem.wcb.find? fun e => decide (e.line = l)).map (·.mask)).getD 0) (s.stackRead l)
        (((s.dmem.wcb.find? fun e => decide (e.line = l)).map (·.data)).getD []) := by
  unfold State.memRead
  dsimp only
  split_ifs
  · rfl
  · split <;> rfl
  · split <;> rfl

theorem hFn_took {s : State} {m : Msg} {o : Nat} (h : HTxn) : (s.took o m).hFn h = s.hFn h := by
  have hpart : (s.took o m).qpPart (h.slot - 64) = s.qpPart (h.slot - 64) := by
    unfold State.qpPart
    rw [memRead_data, memRead_data]
    rfl
  unfold State.hFn
  rw [hpart]
  rfl

theorem stashFn_took {s : State} {m : Msg} {o l : Nat} : (s.took o m).stashFn l = s.stashFn l := by
  unfold State.stashFn
  rw [show (s.took o m).coh = s.coh from rfl]
  cases s.coh.homes.find? fun h => decide (h.line = l) && h.stash with
  | none => rfl
  | some h => exact hFn_took h

theorem stashIn_installs {s : State} {m : Msg} {k : Nat} (hw : m.dst < 32) (hpol : s.policyOf m.ca = 0) (hon : s.g WING_CACHE_STATUS.STATE m.dst = 1)
    (hway : s.pickWay m.dst m.ca = some (k, none)) : s.stashIn { m with opc := 0xC3 } =
      ((s.took 0xC3 m).wInstall m.dst m.ca 4 k (slice m.data 0 64) (s.stashFn m.ca)).send
        { opc := 0x8A, src := m.dst, dst := 0x40 + homeOf m.ca, txn := m.txn, ca := m.ca } := by
  have hway' : (s.taken { m with opc := 0xC3 }).pickWay m.dst m.ca = some (k, none) := hway
  have hgate : ¬ ((s.taken { m with opc := 0xC3 }).policyOf m.ca ≠ 0 ∨ (s.taken { m with opc := 0xC3 }).g WING_CACHE_STATUS.STATE m.dst ≠ 1) := fun hc =>
    hc.elim (fun hc => hc hpol) fun hc => hc hon
  unfold State.stashIn
  dsimp only
  rw [if_neg (by omega), if_neg hgate, hway']
  dsimp only
  rw [← stashFn_took (o := 0xC3) (m := m)]
  rfl

theorem State.lines_wline (s : State) (w k : Nat) : s.lines.wline w k = s.wline w k := by
  unfold State.wline
  rw [State.lines_wing']

section
variable {s : State} {m : Msg} {t : Txn} {row : Instr} {o st : Nat}

theorem exec_grant (h : (row, o) ∈ [(Instr.cmpS m, 0x80), (.cmpE m, 0x81), (.cmpM m, 0x82), (.cmpI m, 0x83)]) :
    exec row s = act s (·.grantIn { m with opc := o }) := by
  simp only [List.mem_cons, List.not_mem_nil, or_false, Prod.mk.injEq] at h
  obtain ⟨rfl, rfl⟩ | ⟨rfl, rfl⟩ | ⟨rfl, rfl⟩ | ⟨rfl, rfl⟩ := h <;> rfl

theorem exec_data (h : (row, o) ∈ [(Instr.datMem m, 0xC0), (.datFwd m, 0xC1)]) : exec row s = act s (·.dataIn { m with opc := o }) := by
  simp only [List.mem_cons, List.not_mem_nil, or_false, Prod.mk.injEq] at h
  obtain ⟨rfl, rfl⟩ | ⟨rfl, rfl⟩ := h <;> rfl

theorem exec_snoop {keep : Nat} {toHome : Bool} (h : (row, o, st, keep, toHome) ∈ [(Instr.snShare m, 0x40, 3, 2, false), (.snClean m, 0x41, 1, 1, true),
    (.snInv m, 0x42, 0, 0, decide (0x40 ≤ m.dataTo)), (.snOnce m, 0x43, 4, 3, false), (.snBack m, 0x44, 0, 0, true)]) (data : Bytes) :
    snoopRule o 4 data = ({ kind := 2, st := keep, data := data, dirty := true }, st) ∧
      (decide (o = 0x41 ∨ o = 0x44) || decide (o = 0x42 ∧ 0x40 ≤ m.dataTo)) = toHome ∧ exec row s = act s (·.snoopIn { m with opc := o }) := by
  simp only [List.mem_cons, List.not_mem_nil, or_false, Prod.mk.injEq] at h
  obtain ⟨rfl, rfl, rfl, rfl, rfl⟩ | ⟨rfl, rfl, rfl, rfl, rfl⟩ | ⟨rfl, rfl, rfl, rfl, rfl⟩ | ⟨rfl, rfl, rfl, rfl, rfl⟩ | ⟨rfl, rfl, rfl, rfl, rfl⟩ :=
    h <;> exact ⟨rfl, by simp, rfl⟩

variable (ht : s.txnOf m = some t) (hrest : s.HomesRest) (hwing : s.WingRests m.dst) (hp : s.Powered) (hq : s.Quiet)
include ht hrest hwing hp hq

/-- A read that has both parts ends with its line in the wing, and `CMP_ACK` to the home. -/
theorem read_fills {dat : Bytes} (hw : m.dst < 32) (hwho : t.who = none) (h3 : s.g WING_CACHE_STATUS.STATE m.dst ≠ 3)
    (h5 : s.g WING_CACHE_STATUS.STATE m.dst ≠ 5)
    (hcase : ((row, o, st) ∈ [(Instr.cmpS m, 0x80, 1), (.cmpE m, 0x81, 2), (.cmpM m, 0x82, 4)] ∧ t.data = some dat ∧ t.err = false) ∨
      ((row, o, st) ∈ [(Instr.datMem m, 0xC0, 4), (.datFwd m, 0xC1, 4)] ∧ t.grant = some 0x82 ∧ dat = slice m.data 0 64 ∧ m.err = false)) :
    ∃ t' : Txn, exec row s = .next ((s.took o m).filled t' st dat).lines ∧ t'.agent = m.dst ∧ t'.line = m.ca ∧ t'.txn = m.txn ∧
      t'.way = t.way ∧ t'.slot = t.slot := by
  have ha := txnOf_agent ht
  have hl := txnOf_line ht
  have hn := txnOf_txn ht
  obtain ⟨hrow, hd, herr⟩ | ⟨hrow, hg, rfl, herr⟩ := hcase
  · have hrow' : (row, o) ∈ [(Instr.cmpS m, 0x80), (.cmpE m, 0x81), (.cmpM m, 0x82), (.cmpI m, 0x83)] ∧ grantSt o = st := by
      simp only [List.mem_cons, List.not_mem_nil, or_false, Prod.mk.injEq] at hrow ⊢
      obtain ⟨rfl, rfl, rfl⟩ | ⟨rfl, rfl, rfl⟩ | ⟨rfl, rfl, rfl⟩ := hrow <;> exact ⟨by simp, rfl⟩
    obtain ⟨hmem, rfl⟩ := hrow'
    exact ⟨{ t with grant := some o }, act_calm (exec_grant hmem) hp (grantIn_fills ht hrest hwing hw hwho h3 h5 hd herr) (took_calm.trans filled_calm) hq,
      ha, hl, hn, rfl, rfl⟩
  · have hrow' : (row, o) ∈ [(Instr.datMem m, 0xC0), (.datFwd m, 0xC1)] ∧ grantSt 0x82 = st := by
      simp only [List.mem_cons, List.not_mem_nil, or_false, Prod.mk.injEq] at hrow ⊢
      obtain ⟨rfl, rfl, rfl⟩ | ⟨rfl, rfl, rfl⟩ := hrow <;> exact ⟨by simp, rfl⟩
    obtain ⟨hmem, rfl⟩ := hrow'
    exact ⟨{ t with data := some (slice m.data 0 64), err := m.err, dirty := m.dirty },
      act_calm (exec_data hmem) hp (dataIn_fills ht hrest hwing hw hwho h3 h5 hg herr) (took_calm.trans filled_calm) hq, ha, hl, hn, rfl, rfl⟩

end

/-- Settles O44: a die answers for the one wing that holds the line; of grant and data the second installs it. -/
theorem snoopsAndGrants : Obligations.SnoopsAndGrants := by
  intro s m hp hq l home
  refine ⟨?_, fun hrest => ⟨?_, fun t ht hw hwing => ⟨?_, ?_, ?_, fun hwho hqp => ?_⟩, fun t ht hdst hopc hslot horph => ?_⟩⟩
  · intro k hw hpol hon hway f
    exact act_calm (f := (·.stashIn { m with opc := 0xC3 })) rfl hp (stashIn_installs hw hpol hon hway) ⟨rfl, rfl, rfl, rfl⟩ hq
  · intro row o st keep toHome hrow d j hd hd8 hj hwing hm hon hno
    obtain ⟨hrule, hto, hexec⟩ := exec_snoop (s := s) hrow (s.wline (4 * d + j) m.ca).data
    obtain ⟨t, heq, hcalm, hown, hother, hnet⟩ := snoopIn_modified hrest hd hd8 hj hwing hm hon hno hrule hto
    refine ⟨_, act_calm (f := (·.snoopIn { m with opc := o })) hexec hp heq hcalm hq, ?_⟩
    simp only [State.lines_net, State.lines_wline]
    exact ⟨hown, hother, hnet⟩
  · exact fun hd row o hrow => act_calm (exec_grant hrow) hp (grantIn_waits ht hrest hwing hd) ⟨rfl, rfl, rfl, rfl⟩ hq
  · exact fun hg row o hrow => act_calm (exec_data hrow) hp (dataIn_waits ht hrest hwing hg) ⟨rfl, rfl, rfl, rfl⟩ hq
  · intro row o st dat hcase hwho h3 h5
    obtain ⟨t', hexec, ha, hl, hn, hway, hslot⟩ := read_fills ht hrest hwing hp hq hw hwho h3 h5 hcase
    obtain ⟨hown, hother, hnet, hcoh, hstore⟩ := filled_spec (s := s.took o m) (t := t') (st := st) (data := dat)
    rw [ha, hl] at hown hother
    rw [ha, hl, hn] at hnet
    rw [hway, hslot] at hown
    have hdrop : ((s.took o m).dropTxn t').coh = (s.dropTxn t).coh := by
      unfold State.dropTxn
      rw [ha, hn, txnOf_agent ht, txnOf_txn ht]
      rfl
    refine ⟨_, hexec, ?_⟩
    simp only [State.lines_net, State.lines_coh, State.lines_store, State.lines_wline]
    rw [hcoh, hdrop]
    exact ⟨hown, hother, hnet, rfl, rfl, hstore⟩
  · have hcalm : s.CalmTo (s.ownCopy m t) := by
      unfold State.ownCopy
      split_ifs <;> exact ⟨rfl, rfl, rfl, rfl⟩
    exact act_calm (f := (·.writtenIn { m with opc := 0x84 })) rfl hp (writtenIn_eq ht hrest hwing hw hwho) hcalm hq
  · exact act_calm (f := (·.lostIn { m with opc := 0x8D })) rfl hp (lostIn_slip ht hrest hdst hopc hslot horph) ⟨rfl, rfl, rfl, rfl⟩ hq

end Sys2Proof.Machine
end

section
/-!
# A register listed twice: the end of a function level reset
-/
namespace Sys2Proof.Machine

set_option Elab.async false

/-- A device whose register file lists `DEV_STATUS` twice: with its reset value, and with the state SERVICE. It reads as out of SERVICE; an FLR of
function 1 is under way. -/
def twiceStated : State :=
  { Tests.dev with fns := [(1, { flr := true })], rf := (regKey .DEV_STATUS 0, regDefault (regKey .DEV_STATUS 0)) :: Tests.dev.rf }

theorem twiceStated_reads : twiceStated.inService = false := by decide +kernel

/-- The FLR's end rewrites the register file: the first value of `DEV_STATUS` is dropped, and the second shows. -/
theorem twiceStated_shows : ∀ t, exec (.flrComplete 1) twiceStated = .next t → t.gb PART_STATUS.READY 0 = true := by
  intro t ht
  obtain rfl : Tests.after (exec (.flrComplete 1) twiceStated) = t := congrArg Tests.after ht
  decide +kernel

/-- Refutes O38: it asks that FLR_COMPLETE leaves `PART_STATUS.READY` as the device is in SERVICE before the command. That fails where the register file is
not in canonical form: `twiceStated` reads as out of SERVICE, and as in SERVICE once the partition's registers have been restored. -/
theorem not_functionsAndConfiguration : ¬ Obligations.FunctionsAndConfiguration := by
  intro h
  obtain ⟨-, -, -, hdone, -⟩ := h twiceStated 1 (by unfold State.Powered; decide +kernel) (by unfold State.Quiet; decide +kernel)
  obtain ⟨t, ht, -, -, -, -, hready, -⟩ := hdone (by decide) (by decide +kernel) (by decide +kernel) (by decide +kernel) (by decide +kernel)
    (by decide +kernel) (by decide +kernel) (by decide +kernel) (by decide +kernel) (by decide +kernel)
  exact Bool.false_ne_true (twiceStated_reads.symm.trans (hready.symm.trans (twiceStated_shows t ht)))

end Sys2Proof.Machine
end

section
/-!
# A queue listed twice: the return of a held granule
-/
namespace Sys2Proof.Machine

set_option Elab.async false

/-- The granule at address 0, held. -/
def heldGranule : LendEnt := { vpn := 0, pasid := 0, state := 3, frame := 1, r := true, w := true, bucket := 0 }

/-- A RETURN of the granule at address 0. -/
def returnOne : Desc := { bytes := Tests.dsc 9 0 0 0 (zeros 8 ++ natLe 4 1 ++ natLe 1 0 ++ natLe 1 0) }

/-- A device whose queue 0 is about to return a held granule, and whose table of queues lists the management lending queue, 64, twice: without work, and with a copy of the present
epoch under way. Queue 64 reads as without work. -/
def twiceQueued : State :=
  { Tests.full0 { accs := [returnOne] } with
      lend := [(0, [heldGranule])],
      q := (Tests.full0 { accs := [returnOne] }).q ++ [(64, {}), (64, { lend := { phase := 3 }, accs := [returnOne] })] }

/-- The drop of the granule waits for the copy that the second value of queue 64 shows. -/
theorem twiceQueued_waits : ∀ t, exec (.returnLent 0) twiceQueued = .next t → t.lendOf 0 ≠ [] := by
  intro t ht
  obtain rfl : Tests.after (exec (.returnLent 0) twiceQueued) = t := congrArg Tests.after ht
  decide +kernel

theorem twiceQueued_rests : twiceQueued.Powered ∧ twiceQueued.Quiet ∧ twiceQueued.LendRests 0 0 := by
  unfold State.Powered State.Quiet State.LendRests State.PartRests State.NoTries State.NoFetch
  decide +kernel

theorem twiceQueued_front : (twiceQueued.queue 0).accs = [returnOne] ∧ (twiceQueued.queue 0).lend = { pos := 0, changed := 0, phase := 0 } ∧
    (twiceQueued.queue 0).hold = none ∧ twiceQueued.descRunning 0 = false ∧ twiceQueued.g Q_STATUS.STATE 0 ≠ 0 ∧ twiceQueued.inService = true ∧
    twiceQueued.mayRequest 1 = true ∧ twiceQueued.lendFind 0 0 0 = some heldGranule := by decide +kernel

/-- Refutes O36: it asks that a RETURN of a held granule drops it at once where no other queue lends. That fails where the table of queues is not in canonical
form: in `twiceQueued` every other queue reads as without work, but a copy in a value that is not read holds the drop back. -/
theorem not_lendingOfGranules : ¬ Obligations.LendingOfGranules := by
  intro h
  obtain ⟨hp, hq, hrest⟩ := twiceQueued_rests
  obtain ⟨haccs, hlend, hhold, hrun, hstate, hsvc, hmay, hfind⟩ := twiceQueued_front
  obtain ⟨hmeets, -, -⟩ := h twiceQueued 0 0 0 returnOne [] hp hq haccs (by decide +kernel) hrest hmay (by decide +kernel)
  obtain ⟨-, hlent, -⟩ := hmeets 0 (.inl rfl) hlend rfl hrun hstate hhold hsvc
  obtain ⟨hreturn, -⟩ := hlent heldGranule hfind
  obtain ⟨t, ht, htable, -⟩ := hreturn (by decide +kernel) (.inl rfl)
    ⟨by decide +kernel, by unfold State.RingFull; decide +kernel, by unfold reports; decide +kernel⟩ (by decide +kernel)
  exact twiceQueued_waits t ht (htable.trans (by decide +kernel))

end Sys2Proof.Machine
end
